-- ==== Sys2Proof/Word.lean ====
section
/-! DEFINITION. The plain word types of the Utlar V9 and nothing else. Lane values are 64-bit words (R26, R30),
instruction and constant words are 32-bit (R41), memory is bytes (R3). -/

namespace Sys2Proof

/-- A latch, lane register or payload: 64 bits (R26, R30). -/
abbrev Word := BitVec 64
/-- An instruction, header or constant word: 32 bits (R41). -/
abbrev IWord := BitVec 32
/-- A byte of memory. -/
abbrev Byte := BitVec 8

end Sys2Proof
end

