-- ==== Sys2Proof/Types.lean ====
section
/-! DEFINITION. The data the V9's agents hand each other: tags (R147), tokens (R15, R426), domain-unit requests
(R152), host packets (R434), gang control messages (R442), remote memory messages (R425, R439) and link frames
(R431); and the instruction-word fields that appear in them (R43). Plain data, no behaviour beyond packing. -/

namespace Sys2Proof

/-- Scope codes of R43. -/
inductive Scope where
  | core | die | pkg | gang
  deriving DecidableEq, Repr, Inhabited

/-- The 40-bit tag of R147. -/
structure Tag where
  ctx  : BitVec 10
  dom  : BitVec 6
  home : BitVec 8
  act  : BitVec 6
  idx  : BitVec 10
  deriving DecidableEq, Repr, Inhabited

/-- The bits of a tag, CTX highest (R147). -/
def Tag.toBits (t : Tag) : BitVec 40 := t.ctx ++ t.dom ++ t.home ++ t.act ++ t.idx

/-- A tag read from its 40 bits (R147). -/
def Tag.ofBits (b : BitVec 40) : Tag :=
  { ctx := b.extractLsb' 30 10, dom := b.extractLsb' 24 6, home := b.extractLsb' 16 8,
    act := b.extractLsb' 10 6, idx := b.extractLsb' 0 10 }

/-- A value in a latch or a lane register: 64 bits and the void mark of R143. -/
structure Val where
  bits : Word
  void : Bool := false
  deriving DecidableEq, Repr, Inhabited

/-- What a handler firing is for (R389, R396): the record's number and, for an EMULATE record, the trapping word, its index,
its A, B and C latches and its P, as captured. -/
structure Handles where
  record : Nat
  trap   : Option (IWord × Nat × Val × Val × Val × Bool)
  deriving DecidableEq, Repr, Inhabited

/-- A token (R15) with the fields its message carries (R426). `rel` is the release it carries (R132). -/
structure Token where
  block   : Nat
  slot    : Nat
  tag     : Tag
  epoch   : BitVec 22
  payload : Word
  void    : Bool
  rel     : Option Scope
  hpkg    : Nat
  /-- what a handler token is for (R389); no program can set it -/
  hrec    : Option Handles := none
  /-- package and core whose engine command the token completes (R405); no program can set it -/
  eng     : Option (Nat × Nat) := none
  deriving DecidableEq, Repr, Inhabited

/-- How a domain-unit request forms its tag (R152, R154). -/
inductive GrantMode where
  /-- NEXT of R154. -/
  | next
  /-- ENTER of R154: the destination's domain. -/
  | enter (dom : Nat)
  /-- ENTERM of R154 with its 64-bit mask: the destination's domain. -/
  | enterm (dom : Nat) (mask : Word)
  /-- EXPLICIT with a non-zero DOM (R154). -/
  | explicit
  /-- A token to a continuation whose TAG has a non-zero DOM (R137): `tm` 0 SAME, 1 NEXT, 4 LEAVE. -/
  | cont (tm : Nat)
  deriving DecidableEq, Repr, Inhabited

/-- A request of the release queue (R152). -/
inductive ReleaseKind where
  | close
  | leave (final : Bool)
  | dkill (h : Nat)
  deriving DecidableEq, Repr, Inhabited

/-- A request to a domain unit (R152). `tok` is the token it carries (its tag is formed by the unit), `tag` and
`epoch` the sender's tag and epoch (or, for EXPLICIT and continuations, the operand's), `place` the core the sender
stands on for HOME placement (R180) and `opkg` its package, `tick` the device tick at which it entered the unit (R172).
`closes` marks a NEXT with CLOSE whose close has still to be served, which is done first (R156). `fid` is the firing it came
from, `owes` the package and number under which another package will say that the release it carries is performed (R204), and
`asks` the number under which its package learns that it has entered its queue (R152). -/
structure UnitReq where
  ctx    : Nat
  mode   : GrantMode ⊕ ReleaseKind
  tag    : Tag
  epoch  : BitVec 22
  tok    : Option Token
  origin : Nat
  hpkg   : Nat
  fid    : Nat
  tick   : Nat
  waited : Bool := false
  opkg   : Nat := 0
  closes : Bool := false
  owes   : Option (Nat × Nat) := none
  asks   : Option Nat := none
  deriving DecidableEq, Repr

/-- What a remote memory request does at the owning package (R425, R439). -/
inductive RemoteOp where
  | read (size : Nat)
  | write (bytes : List Byte) (mask : List Bool)
  /-- an atomic: `op` is 0–8 of R276, 9 CAS (R277), 16–19 the fatom operations of R278 -/
  | atomic (op : Nat) (w64 : Bool) (b c : Word)
  /-- an ordered-reduction arrival (R259): key, LAST, addend -/
  | ordered (key : Nat) (last : Bool) (x : BitVec 32)
  deriving DecidableEq, Repr

/-- MEMREQ (R425): `id` names the request at its sender, of which `score` is the core. -/
structure MemReq where
  id   : Nat
  spkg : Nat
  score : Nat := 255
  dpkg : Nat
  addr : Nat
  op   : RemoteOp
  deriving DecidableEq, Repr

/-- MEMRSP (R425): a fault code of the owning package (R439) or the data. -/
structure MemRsp where
  id    : Nat
  dpkg  : Nat
  dcore : Nat := 255
  spkg  : Nat := 0
  fault : Option Nat
  data  : List Byte
  deriving DecidableEq, Repr

/-- CONTROL messages of a gang (R442): drovers, aligned groups, completion rounds, loss and missed ticks. -/
inductive GangMsg where
  /-- a member reports that it holds the drover of component `comp` (R442, Drovers) -/
  | drover (rank comp : Nat)
  /-- rank 0 announces the drover of a component -/
  | droverAll (comp : Nat)
  /-- a member reports whether every live instance of the component waits in an aligned group (R190) -/
  | aligned (rank comp : Nat) (yes : Bool)
  /-- rank 0 announces whether it is so in every member -/
  | alignedAll (comp : Nat) (yes : Bool)
  /-- a member's report of one completion round: tree, tokens sent and received between members -/
  | report (rank : Nat) (tree sent received : Nat)
  /-- rank 0 announces that the gang is complete -/
  | complete
  /-- a peer drained: its package and code (GANG_LOST) -/
  | lost (pkg code : Nat)
  /-- a member missed its tick (GANG_TICK): its package and tick -/
  | missed (pkg tick : Nat)
  /-- a kill notice of an activation of package `hpkg` (R161), and a member's acknowledgement of it -/
  | kill (hpkg home dom act h : Nat)
  | killAck (hpkg home dom act : Nat)
  /-- an activation is freed: its kill filters are withdrawn (R157) -/
  | withdraw (hpkg home dom act : Nat)
  /-- a member tells the physical cores of its pasture (R179, R442) -/
  | pasture (pkg : Nat) (cores : List Nat)
  /-- the question whether an iteration is BASE of an activation, for the token with an arrival stamp at a core, and the
  answer (R168) -/
  | eldestAsk (pkg core stamp home dom act l : Nat)
  | eldestSay (core stamp : Nat) (yes : Bool)
  /-- the question which of the 32 iterations from one on never come, and the answer (R190) -/
  | groupAsk (pkg home dom act l : Nat)
  | groupSay (hpkg home dom act l : Nat) (never : BitVec 32)
  /-- the request of the receiver that goes by a number has entered its unit's queue (R152) -/
  | entered (id : Nat)
  /-- the release that a request to a unit of the receiver carries has been performed (R204) -/
  | released (pkg id : Nat)
  deriving DecidableEq, Repr

/-- A host packet of R434 on its way to the device: its 16-byte header and its body. -/
structure HostPkt where
  header : BitVec 128
  body   : List Byte
  deriving DecidableEq, Repr

/-- A host packet of R434 on its way to the host. -/
structure HostOut where
  port   : Nat
  type   : Nat
  cookie : BitVec 32
  arg    : Word
  body   : List Byte
  deriving DecidableEq, Repr

/-- A message on a link (R425): a class with its contents. Tokens name the destination core and the source. -/
inductive LinkMsg where
  /-- TOKEN: destination package and core, gang number and token; `src` numbers the sending agent in its package, for the order
  of R429 -/
  | token (dpkg dcore spkg src gang : Nat) (t : Token)
  /-- GRANT or RELEASE: a request to a domain unit -/
  | request (dpkg dcore gang : Nat) (r : UnitReq)
  | memReq (q : MemReq)
  | memRsp (q : MemRsp)
  /-- CONTROL of a gang -/
  | control (dpkg spkg gang : Nat) (m : GangMsg)
  /-- CONTROL: a time message carrying the root's tick and package (R443) -/
  | time (root : Nat) (tick : Word)
  | host (p : HostPkt)
  /-- HOST, on its way to the host -/
  | toHost (p : HostOut)
  deriving DecidableEq, Repr

/-- A Rallamel frame (R431): 16-bit sequence number, acknowledgement, whether its 32-bit CRC checks, and the messages
whose last flit it carries, in order. -/
structure LinkFrame where
  seq   : BitVec 16
  ack   : BitVec 16
  crcOk : Bool
  msgs  : List LinkMsg
  /-- when its port last sent it (the model's own) -/
  since : Nat := 0
  deriving DecidableEq, Repr

end Sys2Proof
end

