-- ==== Sys2Proof/Syntax.lean ====
section
/-! DEFINITION. Instructions: the fields of a Vexik word (R41–R57) as closed types, and ONE inductive `Instr`
with a constructor for every row of the opcode table: the 152 encoded words, then the 103 steps of the part's other
agents, which no word encodes. A step's arguments say which agent or which waiting item takes it. -/

namespace Sys2Proof

/-- PM of R28; 0b11 is not a value. -/
inductive Pm where
  | always | ifTrue | ifFalse
  deriving DecidableEq, Repr, Inhabited

/-- The latches of R25. -/
inductive Latch where
  | a | b | c | p | o
  deriving DecidableEq, Repr, Inhabited

/-- A target (R25): nothing, a latch of a later instruction, or a lane register. -/
inductive Target where
  | none
  | latch (l : Latch) (i : BitVec 6)
  | reg (x : BitVec 6)
  deriving DecidableEq, Repr, Inhabited

/-- Integer type code ITY of R49. -/
inductive Ity where
  | i8 | i16 | i32 | i64 | n8 | n16 | n32 | n64 | i4 | n4
  deriving DecidableEq, Repr, Inhabited

/-- Width code W of R49. -/
inductive Width where
  | w8 | w16 | w32 | w64
  deriving DecidableEq, Repr, Inhabited

/-- Floating-point type TY of R50. -/
inductive FTy where
  | f32 | f16 | bf16
  deriving DecidableEq, Repr, Inhabited

/-- Rounding modes of R101 that a word can name (R50). -/
inductive Rnd where
  | rne | rz | rdn | rup
  deriving DecidableEq, Repr, Inhabited

/-- Conditions of `cmp` and `cmpi` (R83). -/
inductive Cond where
  | eq | lt | le | ltu | leu
  deriving DecidableEq, Repr, Inhabited

/-- Conditions of `fcmp` (R115). -/
inductive FCond where
  | eq | lt | le | un
  deriving DecidableEq, Repr, Inhabited

/-- Halves of `pack2` and `unpk` (R86). -/
inductive Half where
  | h16 | h32
  deriving DecidableEq, Repr, Inhabited

/-- Operations of `scan` and `redl` (R212). -/
inductive RedOp where
  | addI64 | addF32 | minI64 | maxI64 | and | or
  deriving DecidableEq, Repr, Inhabited

/-- Widths of `ld` and `st` (R141). -/
inductive MemTy where
  | n8 | n16 | n32 | n64 | elem
  deriving DecidableEq, Repr, Inhabited

/-- Operations of `atom` (R276). -/
inductive AtomOp where
  | add | min | max | minu | maxu | and | or | xor | exch
  deriving DecidableEq, Repr, Inhabited

/-- Operations of `fatom` (R278). -/
inductive FatomOp where
  | addF32 | minF32 | maxF32 | addBf16x2
  deriving DecidableEq, Repr, Inhabited

/-- ORDER of R42. -/
inductive Order where
  | relaxed | acq | rel | ar
  deriving DecidableEq, Repr, Inhabited

/-- Forms of `pref` (R282). -/
inductive PrefLevel where
  | l1 | l2
  deriving DecidableEq, Repr, Inhabited

/-- A dimension 0–4. -/
inductive Dim where
  | d0 | d1 | d2 | d3 | d4
  deriving DecidableEq, Repr, Inhabited

/-- SUB of `curs` (R268): single form on a dimension, or pair form on d and d + 1. -/
inductive CursDim where
  | single (d : Dim)
  | pair0 | pair1 | pair2 | pair3
  deriving DecidableEq, Repr, Inhabited

/-- SUB of `hqry` (R283). -/
inductive HqryItem where
  | ext (d : Dim)
  | rank | fmt | gen | res
  deriving DecidableEq, Repr, Inhabited

/-- Element types of the matrix and trough words (R55). -/
inductive MxTy where
  | bf16 | f16 | b8p3 | b8p4 | b8p5 | e2m1 | i8 | i4
  deriving DecidableEq, Repr, Inhabited

/-- Destination types of `acvt` (R55). -/
inductive AcvtTy where
  | f32 | f16 | bf16 | b8p4 | b8p5
  deriving DecidableEq, Repr, Inhabited

/-- Operations of `cpyr` (R55). -/
inductive CpyrOp where
  | addF32 | addBf16 | maxF32 | minF32
  deriving DecidableEq, Repr, Inhabited

/-- Element types of `dot4` (R123). -/
inductive Dot4Ty where
  | i8 | n8 | b8p3 | b8p4 | b8p5
  deriving DecidableEq, Repr, Inhabited

/-- Tag modes of R47 that a `send`, `sendv`, `steer` or `cont` word can name. -/
inductive Tm where
  | same | next | enter | leave | expl
  deriving DecidableEq, Repr, Inhabited

/-- Special registers of `gets` (R52). -/
inductive SpecialReg where
  | ctx | dom | home | act | idx | liter | lane | fsize | core | die | pkg | pasture | tick | seed | prio
  | detmode | frec | eword | ea | eb | ec | ep
  deriving DecidableEq, Repr, Inhabited

/-- System registers of `rdsr` and `wrsr` (R398). -/
inductive SysReg where
  | fcount | sickfree | killed | stray | fctl | ecclog
  deriving DecidableEq, Repr, Inhabited

/-- The precision P of a binary8 format (R87). -/
inductive B8P where
  | p1 | p2 | p3 | p4 | p5 | p6 | p7
  deriving DecidableEq, Repr, Inhabited

/-- Element formats of R87. `b8 unsig inf p`: the binary8 formats, unsigned or not, infinity variant or not. -/
inductive Fmt where
  | int (t : Ity)
  | f32 | f16 | bf16 | e2m1 | e8m0
  | b8 (unsig inf : Bool) (p : B8P)
  deriving DecidableEq, Repr, Inhabited

/-- Every row of the opcode table. The first 152 constructors are words (R51–R57), the others are events and steps. -/
inductive Instr where
  /-- R68: Delivers the frame payload of slot n. -/
  | ldf (pm : Pm) (n : BitVec 4) (t0 : Target) (t1 : Target)
  /-- R68: Delivers 1 if the token of slot n was void, and 0 otherwise. -/
  | ldfv (pm : Pm) (n : BitVec 4) (t0 : Target) (t1 : Target)
  /-- R69: Delivers constant word n, zero-extended. -/
  | ldk (pm : Pm) (n : BitVec 4) (t0 : Target) (t1 : Target)
  /-- R70: Delivers lane register xk, with reads ordered by instruction index. -/
  | getx (pm : Pm) (t0 : Target) (x : BitVec 6)
  /-- R71: Delivers a special register. -/
  | gets (pm : Pm) (sr : SpecialReg) (t0 : Target)
  /-- R72: Delivers IMM13, sign-extended. -/
  | movi (pm : Pm) (t0 : Target) (imm : BitVec 13)
  /-- R72: Delivers A times 2^13 plus IMM13. -/
  | movhi (pm : Pm) (t0 : Target) (imm : BitVec 13)
  /-- R73: Delivers A unchanged, and joins order edges. -/
  | nop (pm : Pm) (t0 : Target) (t1 : Target)
  /-- R130: Emits one valued token to BLOCK and SLOT under SAME or EXPLICIT. -/
  | send (pm : Pm) (tm : Tm) (slot : BitVec 3) (blk : BitVec 12) (rel : Option Scope) (close : Bool)
  /-- R130: Emits one valued token to the continuation held in B. -/
  | sendx (pm : Pm) (rel : Option Scope) (close : Bool)
  /-- R130: Emits one void token to BLOCK and SLOT. -/
  | sendv (pm : Pm) (tm : Tm) (slot : BitVec 3) (blk : BitVec 12) (rel : Option Scope) (close : Bool)
  /-- R134: Chooses an arm by P: the named block, or the continuation in B, optionally with a void token to the other arm. -/
  | steer (tm : Tm) (slot : BitVec 3) (blk : BitVec 12) (rel : Option Scope) (void : Bool)
  /-- R136: Writes a continuation built from its fields and the instance's tag into register x0-x15. -/
  | cont (pm : Pm) (tm : Tm) (slot : BitVec 3) (blk : BitVec 12) (x : BitVec 4)
  /-- R201: Requests a new activation and sends a token to its iteration 0. -/
  | enter (pm : Pm) (slot : BitVec 3) (blk : BitVec 12) (rel : Option Scope) (close : Bool)
  /-- R205: Opens one iteration of a new activation for each set bit of B AND C. -/
  | entermAnd (pm : Pm) (slot : BitVec 3) (blk : BitVec 12) (rel : Option Scope) (close : Bool)
  /-- R205: Opens one iteration of a new activation for each set bit of B OR C. -/
  | entermOr (pm : Pm) (slot : BitVec 3) (blk : BitVec 12) (rel : Option Scope) (close : Bool)
  /-- R201: Requests iteration L + 1 of the sender's activation. -/
  | next (pm : Pm) (slot : BitVec 3) (blk : BitVec 12) (rel : Option Scope) (close : Bool)
  /-- R201: Sends a token to the parent tag held in the sender's activation. -/
  | leave (pm : Pm) (slot : BitVec 3) (blk : BitVec 12) (rel : Option Scope) (close : Bool)
  /-- R208: Requests that the kill horizon H of the sender's activation be lowered to A[31:0]. -/
  | dkill (pm : Pm) (t0 : Target) (t1 : Target)
  /-- R218: Reads a spawn record and submits a new launch at the end of the firing. -/
  | spawn (pm : Pm) (t0 : Target) (t1 : Target)
  /-- R74: Wrapping integer add. -/
  | add (pm : Pm) (ty : Ity) (t0 : Target) (t1 : Target)
  /-- R74: Saturating integer add. -/
  | addSat (pm : Pm) (ty : Ity) (t0 : Target) (t1 : Target)
  /-- R74: Wrapping integer subtract. -/
  | sub (pm : Pm) (ty : Ity) (t0 : Target) (t1 : Target)
  /-- R74: Saturating integer subtract. -/
  | subSat (pm : Pm) (ty : Ity) (t0 : Target) (t1 : Target)
  /-- R75: Adds a sign-extended 13-bit immediate to A on 64 bits. -/
  | addi (pm : Pm) (t0 : Target) (imm : BitVec 13)
  /-- R74: Integer multiply, low w bits. -/
  | mul (pm : Pm) (ty : Ity) (t0 : Target) (t1 : Target)
  /-- R74: Integer multiply, high w bits. -/
  | mulh (pm : Pm) (ty : Ity) (t0 : Target) (t1 : Target)
  /-- R74: Integer multiply-add a × b + c. -/
  | madd (pm : Pm) (ty : Ity) (t0 : Target) (t1 : Target)
  /-- R76: Integer divide, giving the quotient on T0 and the remainder on T1. -/
  | div (pm : Pm) (ty : Ity) (t0 : Target) (t1 : Target)
  /-- R76: Integer remainder. -/
  | rem (pm : Pm) (ty : Ity) (t0 : Target) (t1 : Target)
  /-- R74: Integer minimum. -/
  | min (pm : Pm) (ty : Ity) (t0 : Target) (t1 : Target)
  /-- R74: Integer maximum. -/
  | max (pm : Pm) (ty : Ity) (t0 : Target) (t1 : Target)
  /-- R74: Signed absolute value. -/
  | abs (pm : Pm) (ty : Ity) (t0 : Target) (t1 : Target)
  /-- R74: Integer negation. -/
  | neg (pm : Pm) (ty : Ity) (t0 : Target) (t1 : Target)
  /-- R77: Bitwise AND on 64 bits. -/
  | and (pm : Pm) (t0 : Target) (t1 : Target)
  /-- R77: Bitwise OR on 64 bits. -/
  | or (pm : Pm) (t0 : Target) (t1 : Target)
  /-- R77: Bitwise XOR on 64 bits. -/
  | xor (pm : Pm) (t0 : Target) (t1 : Target)
  /-- R77: A AND NOT B. -/
  | andn (pm : Pm) (t0 : Target) (t1 : Target)
  /-- R77: Bitwise NOT of A. -/
  | not (pm : Pm) (t0 : Target) (t1 : Target)
  /-- R78: Variable shift left. -/
  | shl (pm : Pm) (w : Width) (t0 : Target) (t1 : Target)
  /-- R78: Variable logical shift right. -/
  | shr (pm : Pm) (w : Width) (t0 : Target) (t1 : Target)
  /-- R78: Variable arithmetic shift right. -/
  | sar (pm : Pm) (w : Width) (t0 : Target) (t1 : Target)
  /-- R78: Variable rotate left. -/
  | rotl (pm : Pm) (w : Width) (t0 : Target) (t1 : Target)
  /-- R79: Immediate shift left. -/
  | shli (pm : Pm) (t0 : Target) (w : Width) (amt : BitVec 6)
  /-- R79: Immediate logical shift right. -/
  | shri (pm : Pm) (t0 : Target) (w : Width) (amt : BitVec 6)
  /-- R79: Immediate arithmetic shift right. -/
  | sari (pm : Pm) (t0 : Target) (w : Width) (amt : BitVec 6)
  /-- R79: Immediate rotate left. -/
  | rotli (pm : Pm) (t0 : Target) (w : Width) (amt : BitVec 6)
  /-- R80: Counts leading zeros. -/
  | clz (pm : Pm) (w : Width) (t0 : Target) (t1 : Target)
  /-- R80: Counts trailing zeros. -/
  | ctz (pm : Pm) (w : Width) (t0 : Target) (t1 : Target)
  /-- R80: Counts set bits. -/
  | popc (pm : Pm) (w : Width) (t0 : Target) (t1 : Target)
  /-- R80: Reverses the bits of the width. -/
  | brev (pm : Pm) (w : Width) (t0 : Target) (t1 : Target)
  /-- R80: Reverses the bytes of the width. -/
  | bswap (pm : Pm) (w : Width) (t0 : Target) (t1 : Target)
  /-- R81: Extracts a bit field of A, signed or unsigned. -/
  | bfx (pm : Pm) (sg : Bool) (t0 : Target) (t1 : Target)
  /-- R81: Inserts the low bits of B into a field of A. -/
  | bfi (pm : Pm) (t0 : Target) (t1 : Target)
  /-- R82: Sign-extends from the source width. -/
  | sext (pm : Pm) (w : Width) (t0 : Target) (t1 : Target)
  /-- R82: Zero-extends from the source width. -/
  | zext (pm : Pm) (w : Width) (t0 : Target) (t1 : Target)
  /-- R83: Compares A and B on 64 bits; the condition goes to T0 and its complement to T1. -/
  | cmp (pm : Pm) (c : Cond) (t0 : Target) (t1 : Target)
  /-- R83: Compares A with a 10-bit immediate. -/
  | cmpi (pm : Pm) (t0 : Target) (c : Cond) (imm : BitVec 10)
  /-- R84: Delivers A if P is true, and B otherwise. -/
  | sel (pm : Pm) (t0 : Target) (t1 : Target)
  /-- R85: A[0] AND B[0]. -/
  | pand (pm : Pm) (t0 : Target) (t1 : Target)
  /-- R85: A[0] OR B[0]. -/
  | por (pm : Pm) (t0 : Target) (t1 : Target)
  /-- R85: A[0] XOR B[0]. -/
  | pxor (pm : Pm) (t0 : Target) (t1 : Target)
  /-- R85: NOT A[0]. -/
  | pnot (pm : Pm) (t0 : Target) (t1 : Target)
  /-- R86: Packs the low halves of A and B. -/
  | pack2 (pm : Pm) (h : Half) (t0 : Target) (t1 : Target)
  /-- R86: Splits A into its low half on T0 and its high half on T1. -/
  | unpk (pm : Pm) (h : Half) (t0 : Target) (t1 : Target)
  /-- R111: Floating-point add, rounded once. -/
  | fadd (pm : Pm) (rm : Rnd) (ty : FTy) (t0 : Target) (t1 : Target)
  /-- R111: Floating-point subtract. -/
  | fsub (pm : Pm) (rm : Rnd) (ty : FTy) (t0 : Target) (t1 : Target)
  /-- R111: Floating-point multiply. -/
  | fmul (pm : Pm) (rm : Rnd) (ty : FTy) (t0 : Target) (t1 : Target)
  /-- R111: Fused multiply-add with one rounding. -/
  | ffma (pm : Pm) (rm : Rnd) (ty : FTy) (t0 : Target) (t1 : Target)
  /-- R113: Floating-point minimum that skips a single NaN. -/
  | fmin (pm : Pm) (ty : FTy) (t0 : Target) (t1 : Target)
  /-- R113: Floating-point maximum that skips a single NaN. -/
  | fmax (pm : Pm) (ty : FTy) (t0 : Target) (t1 : Target)
  /-- R114: Clears the sign bit. -/
  | fabs (pm : Pm) (ty : FTy) (t0 : Target) (t1 : Target)
  /-- R114: Inverts the sign bit. -/
  | fneg (pm : Pm) (ty : FTy) (t0 : Target) (t1 : Target)
  /-- R115: Floating-point compare under eq, lt, le or un. -/
  | fcmp (pm : Pm) (c : FCond) (ty : FTy) (t0 : Target) (t1 : Target)
  /-- R116: Delivers a one-hot class mask of A. -/
  | fclass (pm : Pm) (ty : FTy) (t0 : Target) (t1 : Target)
  /-- R111: Floating-point divide. -/
  | fdiv (pm : Pm) (rm : Rnd) (ty : FTy) (t0 : Target) (t1 : Target)
  /-- R111: Floating-point square root. -/
  | fsqrt (pm : Pm) (rm : Rnd) (ty : FTy) (t0 : Target) (t1 : Target)
  /-- R118: Table-based FP32 reciprocal estimate. -/
  | frcpe (pm : Pm) (t0 : Target) (t1 : Target)
  /-- R119: Table-based FP32 reciprocal square-root estimate. -/
  | frsqe (pm : Pm) (t0 : Target) (t1 : Target)
  /-- R120: FP32 base-2 exponential. -/
  | fexp2 (pm : Pm) (t0 : Target) (t1 : Target)
  /-- R120: FP32 base-2 logarithm. -/
  | flog2 (pm : Pm) (t0 : Target) (t1 : Target)
  /-- R120: FP32 sine. -/
  | fsin (pm : Pm) (t0 : Target) (t1 : Target)
  /-- R120: FP32 cosine. -/
  | fcos (pm : Pm) (t0 : Target) (t1 : Target)
  /-- R120: FP32 hyperbolic tangent. -/
  | ftanh (pm : Pm) (t0 : Target) (t1 : Target)
  /-- R117: Rounds to an integral value in the given direction. -/
  | fround (pm : Pm) (rm : Rnd) (ty : FTy) (t0 : Target) (t1 : Target)
  /-- R126: Converts between format codes under the rounding of the opcode and SAT. -/
  | cvt (rm : Rnd) (pm : Pm) (sat : Bool) (dst : Fmt) (src : Fmt) (t0 : Target)
  /-- R127: Converts with stochastic rounding drawn from SrBits. -/
  | cvtsr (pm : Pm) (sat : Bool) (dst : Fmt) (src : Fmt) (t0 : Target)
  /-- R122: Packed-pair add. -/
  | hadd2 (pm : Pm) (rm : Rnd) (ty : FTy) (t0 : Target) (t1 : Target)
  /-- R122: Packed-pair multiply. -/
  | hmul2 (pm : Pm) (rm : Rnd) (ty : FTy) (t0 : Target) (t1 : Target)
  /-- R122: Packed-pair fused multiply-add. -/
  | hfma2 (pm : Pm) (rm : Rnd) (ty : FTy) (t0 : Target) (t1 : Target)
  /-- R122: Packed-pair maximum. -/
  | hmax2 (pm : Pm) (ty : FTy) (t0 : Target) (t1 : Target)
  /-- R123: Four-element 8-bit dot product plus C. -/
  | dot4 (pm : Pm) (ty : Dot4Ty) (t0 : Target) (t1 : Target)
  /-- R213: Delivers the A of lane B[4:0]. -/
  | shfl (pm : Pm) (t0 : Target) (t1 : Target)
  /-- R213: Delivers the A of lane i XOR B[4:0]. -/
  | shfx (pm : Pm) (t0 : Target) (t1 : Target)
  /-- R213: Delivers the A of lane i − B. -/
  | shup (pm : Pm) (t0 : Target) (t1 : Target)
  /-- R213: Delivers the A of lane i + B. -/
  | shdn (pm : Pm) (t0 : Target) (t1 : Target)
  /-- R214: Delivers the mask of active lanes whose A[0] is 1. -/
  | ballot (pm : Pm) (t0 : Target) (t1 : Target)
  /-- R214: 1 if some active lane has A[0] = 1. -/
  | vany (pm : Pm) (t0 : Target) (t1 : Target)
  /-- R214: 1 if every active lane has A[0] = 1. -/
  | vall (pm : Pm) (t0 : Target) (t1 : Target)
  /-- R215: Inclusive and exclusive prefix over the active lanes. -/
  | scan (pm : Pm) (op : RedOp) (t0 : Target) (t1 : Target)
  /-- R215: Reduction over the active lanes. -/
  | redl (pm : Pm) (op : RedOp) (t0 : Target) (t1 : Target)
  /-- R214: Delivers the A of the lowest active lane. -/
  | bcast (pm : Pm) (t0 : Target) (t1 : Target)
  /-- R270: Steps one or two coordinates of a cursor, setting OOS when out of shape. -/
  | curs (pm : Pm) (d : CursDim) (t0 : Target) (t1 : Target)
  /-- R269: Steps one coordinate of a cursor by an immediate. -/
  | cursi (pm : Pm) (t0 : Target) (d : Dim) (imm : BitVec 10)
  /-- R141: Loads through a cursor, after translation. -/
  | ld (pm : Pm) (w : MemTy) (t0 : Target) (t1 : Target)
  /-- R141: Stores through a cursor, after translation. -/
  | st (pm : Pm) (w : MemTy) (t0 : Target) (t1 : Target)
  /-- R271: Loads from the context's scratchpad region. -/
  | ldsp (pm : Pm) (w : Width) (t0 : Target) (t1 : Target)
  /-- R271: Stores to the context's scratchpad region. -/
  | stsp (pm : Pm) (w : Width) (t0 : Target) (t1 : Target)
  /-- R271: Loads from the context's accumulator region. -/
  | lda (pm : Pm) (w : Width) (t0 : Target) (t1 : Target)
  /-- R271: Stores to the context's accumulator region. -/
  | sta (pm : Pm) (w : Width) (t0 : Target) (t1 : Target)
  /-- R276: Indivisible read-modify-write that returns the old value. -/
  | atom (pm : Pm) (op : AtomOp) (t0 : Target) (w64 : Bool) (ord : Order) (sc : Scope)
  /-- R277: Compare-and-swap. -/
  | cas (pm : Pm) (t0 : Target) (w64 : Bool) (ord : Order) (sc : Scope)
  /-- R278: Floating-point atomic on 32 bits; under DET its add acts as redo. -/
  | fatom (pm : Pm) (op : FatomOp) (t0 : Target) (ord : Order) (sc : Scope)
  /-- R279: Sends a keyed arrival to the ordered-reduction unit. -/
  | redo (pm : Pm) (t0 : Target) (relOrd : Bool) (sc : Scope)
  /-- R281: Waits until earlier accesses are performed at the scope, then delivers 0. -/
  | fence (pm : Pm) (sc : Scope) (t0 : Target) (t1 : Target)
  /-- R282: Prefetches a line into the L1 or the L2, without fault. -/
  | pref (pm : Pm) (lv : PrefLevel) (t0 : Target) (t1 : Target)
  /-- R283: Delivers a field of the record, or the residency of a granule. -/
  | hqry (pm : Pm) (q : HqryItem) (t0 : Target) (t1 : Target)
  /-- R288: Package-scope release, then an arrival of count n at a barrier word. -/
  | arrive (pm : Pm) (t0 : Target) (t1 : Target)
  /-- R289: Registers a waiter for phase p with a continuation. -/
  | waitb (pm : Pm) (t0 : Target) (t1 : Target)
  /-- R284: Requests that the granule under the cursor be made resident. -/
  | hresFetch (pm : Pm) (t0 : Target) (t1 : Target)
  /-- R284: Advises the host that a granule may be released. -/
  | hresRelease (pm : Pm) (t0 : Target) (t1 : Target)
  /-- R306: Submits a matrix multiply command to the MXU queue. -/
  | mma (pm : Pm) (ty : MxTy) (t0 : Target) (t1 : Target)
  /-- R306: Submits a block-scaled matrix multiply command. -/
  | mmas (pm : Pm) (ty : MxTy) (t0 : Target) (t1 : Target)
  /-- R306: Submits a weight-bank load command. -/
  | wld (pm : Pm) (ty : MxTy) (t0 : Target) (t1 : Target)
  /-- R306: Submits an accumulator clear command. -/
  | aclr (pm : Pm) (t0 : Target) (t1 : Target)
  /-- R306: Submits an accumulator conversion command. -/
  | acvt (pm : Pm) (ty : AcvtTy) (t0 : Target) (t1 : Target)
  /-- R306: Submits an accumulator tile add command. -/
  | aadd (pm : Pm) (t0 : Target) (t1 : Target)
  /-- R321: Submits a copy command. -/
  | cpy (pm : Pm) (t0 : Target) (t1 : Target)
  /-- R321: Submits a gather command. -/
  | cpyg (pm : Pm) (t0 : Target) (t1 : Target)
  /-- R321: Submits a scatter command. -/
  | cpys (pm : Pm) (t0 : Target) (t1 : Target)
  /-- R321: Submits a reduce-into-memory command. -/
  | cpyr (pm : Pm) (op : CpyrOp) (t0 : Target) (t1 : Target)
  /-- R321: Submits a transposition into bit planes. -/
  | cpybsToplanes (pm : Pm) (t0 : Target) (t1 : Target)
  /-- R321: Submits a transposition from bit planes. -/
  | cpybsFromplanes (pm : Pm) (t0 : Target) (t1 : Target)
  /-- R321: Submits a table-load stream into a wiring context slot. -/
  | cpyt (pm : Pm) (t0 : Target) (t1 : Target)
  /-- R321: Submits a copy to a host window. -/
  | cpyhTohost (pm : Pm) (t0 : Target) (t1 : Target)
  /-- R321: Submits a copy from a host window. -/
  | cpyhFromhost (pm : Pm) (t0 : Target) (t1 : Target)
  /-- R321: Submits a fill command. -/
  | cpyf (pm : Pm) (t0 : Target) (t1 : Target)
  /-- R343: Submits a claim or a release of a wiring context slot. -/
  | lkctx (pm : Pm) (sl : BitVec 2) (t0 : Target) (t1 : Target)
  /-- R347: Submits a lookup-fabric run of a slot. -/
  | lkrun (pm : Pm) (sl : BitVec 2) (t0 : Target) (t1 : Target)
  /-- R350: Writes one cell record into a held slot. -/
  | lkst (pm : Pm) (t0 : Target) (t1 : Target)
  /-- R355: Submits a trough vector load command. -/
  | tvec (pm : Pm) (t0 : Target) (t1 : Target)
  /-- R355: Submits a trough matrix-vector command. -/
  | tgemv (pm : Pm) (ty : MxTy) (t0 : Target) (t1 : Target)
  /-- R355: Submits a scaled trough matrix-vector command. -/
  | tgemvs (pm : Pm) (ty : MxTy) (t0 : Target) (t1 : Target)
  /-- R355: Submits a trough reduction of partial vectors. -/
  | tred (pm : Pm) (t0 : Target) (t1 : Target)
  /-- R395: Traps the lane with TRAP. -/
  | trap (pm : Pm) (code : BitVec 13) (t0 : Target)
  /-- R395: Traps the lane with BREAK and stops the context's pens. -/
  | brk (pm : Pm) (code : BitVec 13) (t0 : Target)
  /-- R398: Reads a system register of the context. -/
  | rdsr (pm : Pm) (sr : SysReg) (t0 : Target)
  /-- R398: Writes a system register of the context. -/
  | wrsr (pm : Pm) (sr : SysReg) (t0 : Target)
  /-- R390: Reserves a pending record for resumption. -/
  | resume (pm : Pm) (t0 : Target)
  /-- R390: Reserves a pending record for re-firing. -/
  | retry (pm : Pm) (t0 : Target)
  /-- R393: Drains the context. -/
  | abort (pm : Pm) (t0 : Target)
  /-- R57: Emulation-class word that traps per lane with EMULATE. -/
  | emx (k : BitVec 4) (pm : Pm) (sub : BitVec 4) (t0 : Target) (t1 : Target)
  /-- Step, R177: A launch record arrives at the yard and is accepted into its queue or refused. -/
  | launch (port : Nat)
  /-- Step, R164: A token reaches a core's fold and fills a slot or starts an entry. -/
  | tokenArrival (k : Nat)
  /-- Step, R189: The age of a pen's oldest instance reaches its timer class and the pen becomes due. -/
  | penTimerExpiry (core : Nat) (pen : Nat)
  /-- Step, R192: A due pen or group releases a flock into a free resident slot. -/
  | flockRelease (core : Nat)
  /-- Step, R194: After 4,096 cycles without service, a pen or flock gains one priority level. -/
  | priorityAging (core : Nat)
  /-- Step, R33: A memory access is performed and delivers its value or its completion. -/
  | memAccessPerformed (k : Nat)
  /-- Step, R132: A token held for its release is delivered once the release is performed. -/
  | releaseTokenDelivery (k : Nat)
  /-- Step, R221: A spawned launch is submitted to the yard after a package-scope release. -/
  | spawnSubmission (k : Nat)
  /-- Step, R222: The yard sends the spawn answer token after the spawned launch ends or is refused. -/
  | spawnAnswer (k : Nat)
  /-- Step, R154: A domain unit serves a NEXT request: it grants, waits or counts KILLED. -/
  | nextGrant (core : Nat)
  /-- Step, R154: A domain unit allocates an activation and emits iteration 0. -/
  | enterGrant (core : Nat)
  /-- Step, R205: A domain unit allocates an activation and emits one token per mask bit. -/
  | entermGrant (core : Nat)
  /-- Step, R154: A domain unit forms a non-root EXPLICIT tag and delivers it or counts it STRAY. -/
  | explicitGrant (core : Nat)
  /-- Step, R137: A domain unit forms the token of a continuation send with a non-zero DOM. -/
  | contTokenGrant (core : Nat)
  /-- Step, R157: A domain unit translates a LEAVE, and for a final LEAVE sets LEFT and lowers H. -/
  | leaveServe (core : Nat)
  /-- Step, R156: A domain unit closes an iteration and advances BASE. -/
  | closeServe (core : Nat)
  /-- Step, R160: A domain unit lowers H and sends kill notices. -/
  | dkillServe (core : Nat)
  /-- Step, R161: A core discards the instances of the killed iterations and installs a filter. -/
  | killNotice (k : Nat)
  /-- Step, R161: A core's acknowledgement of a kill notice reaches the unit. -/
  | killNoticeAck (k : Nat)
  /-- Step, R168: A home unit answers whether a token is eldest. -/
  | eldestQuery (core : Nat) (k : Nat)
  /-- Step, R168: The answer reaches the fold, which takes a reserve frame or spills the token. -/
  | eldestAnswer (core : Nat) (k : Nat)
  /-- Step, R169: Freed frame units take re-presented spilled tokens and entries. -/
  | spillRepresent (core : Nat) (ctx : Nat)
  /-- Step, R399: After 2^20 still cycles, the detector raises a context fault. -/
  | quiescenceDetect (ctx : Nat)
  /-- Step, R197: A component with no live instance forwards its drover along its outgoing edges. -/
  | droverForward (ctx : Nat) (comp : Nat)
  /-- Step, R198: Every sink holds its drover and the tree reads zero; regions and the CTX are freed and COMPLETE is sent. -/
  | launchComplete (ctx : Nat)
  /-- Step, R259: The ordered-reduction unit buffers, applies, stalls or refuses a keyed arrival. -/
  | orderedArrival (k : Nat)
  /-- Step, R259: A stalled arrival is accepted once room frees. -/
  | orderedArrivalUnstall (k : Nat)
  /-- Step, R260: The barrier unit adds a count and advances the phase. -/
  | barrierArrival (k : Nat)
  /-- Step, R289: The barrier unit registers a waiter, or releases it at once. -/
  | barrierRegistration (k : Nat)
  /-- Step, R238: A write to OTPOOL, ignored with BADW while any context is live. -/
  | otpoolWrite (v : Word)
  /-- Step, R240: A core acknowledges a SHOOT once its accesses and write-backs are done. -/
  | shootAck (core : Nat)
  /-- Step, R241: The die walker fetches a record on an ORC miss. -/
  | walk (k : Nat)
  /-- Step, R286: RESANS ANSWER: the device rereads the map code and answers the fetch. -/
  | answer (v : Word)
  /-- Step, R301: The MXU loads a weight bank, or reuses it. -/
  | wldExec (core : Nat)
  /-- Step, R314: The MXU checks the bank, reloads it if needed, and streams the rows. -/
  | mmaExec (core : Nat)
  /-- Step, R314: The MXU runs a scaled multiply. -/
  | mmasExec (core : Nat)
  /-- Step, R317: The MXU clears accumulator words. -/
  | aclrExec (core : Nat)
  /-- Step, R316: The MXU converts accumulators and writes them out. -/
  | acvtExec (core : Nat)
  /-- Step, R317: The MXU adds one accumulator tile into another. -/
  | aaddExec (core : Nat)
  /-- Step, R308: An MXU command ends and sends its completion token. -/
  | mxuCompletion (core : Nat)
  /-- Step, R325: The copy engine copies and converts a tile. -/
  | cpyExec (core : Nat)
  /-- Step, R327: The copy engine runs a gather by index list. -/
  | cpygExec (core : Nat)
  /-- Step, R327: The copy engine runs a scatter by index list. -/
  | cpysExec (core : Nat)
  /-- Step, R328: The copy engine reduces elements into memory. -/
  | cpyrExec (core : Nat)
  /-- Step, R329: The copy engine transposes to or from bit planes. -/
  | cpybsExec (core : Nat)
  /-- Step, R330: The copy engine streams records into a wiring context slot. -/
  | cpytExec (core : Nat)
  /-- Step, R331: The copy engine copies to or from a host window. -/
  | cpyhExec (core : Nat)
  /-- Step, R332: The copy engine fills a tile with VALUE. -/
  | cpyfExec (core : Nat)
  /-- Step, R333: A copy command ends and sends its completion token. -/
  | copyCompletion (core : Nat)
  /-- Step, R344: The fabric serves a slot claim: grants it, confirms it or queues it. -/
  | lkfClaim (core : Nat)
  /-- Step, R344: The fabric serves a slot release and marks the slot releasing. -/
  | lkfRelease (core : Nat)
  /-- Step, R344: A releasing slot is freed once its counted runs end, and it goes to a waiting claim. -/
  | lkfSlotFree (core : Nat) (slot : Nat)
  /-- Step, R348: The fabric checks the records and evaluates the network over the groups. -/
  | lkrunExec (core : Nat)
  /-- Step, R349: A fabric run ends and sends its completion token. -/
  | lkrunCompletion (core : Nat)
  /-- Step, R358: A vector is converted and broadcast into trough buffers. -/
  | tvecExec (core : Nat)
  /-- Step, R361: The troughs check their buffers and form row dot products. -/
  | tgemvExec (core : Nat)
  /-- Step, R361: The troughs form scaled row dot products. -/
  | tgemvsExec (core : Nat)
  /-- Step, R362: The base die sums partial vectors. -/
  | tredExec (core : Nat)
  /-- Step, R356: A trough command ends and sends its completion token. -/
  | troughCompletion (core : Nat)
  /-- Step, R384: After the flock has run on, the handler instance for the record is made ready. -/
  | handlerDispatch (ctx : Nat) (r : Nat)
  /-- Step, R390: A reserved response takes effect when its firing ends: resume, retry or re-arm. -/
  | responseTakesEffect (k : Nat)
  /-- Step, R401: The occupancy tree reads zero, and the context is released with a FAULT packet. -/
  | drainComplete (ctx : Nat)
  /-- Step, R405: The yard pre-empts a context on a core: its pens stop and its tokens are diverted. -/
  | preemption (ctx : Nat) (core : Nat)
  /-- Step, R405: After the flocks and engines end, the core dumps the victim's state and releases it. -/
  | preemptDump (ctx : Nat) (core : Nat)
  /-- Step, R413: A pre-empted context is restored and its tokens are re-presented by stamp. -/
  | restore (ctx : Nat) (core : Nat)
  /-- Step, R412: A pinfold slot frees and the held tokens flow in order. -/
  | pinfoldSlotFree (ctx : Nat)
  /-- Step, R412: A driver write of a PINEXT register adds a pinfold extent. -/
  | pinextWrite (ctx : Nat) (k : Nat) (v : Word)
  /-- Step, R417: A core idle for 256 cycles clock-gates. -/
  | clockGate (core : Nat)
  /-- Step, R454: The shepherd power-gates a core that has been clock-gated for 1 ms. -/
  | powerGate (core : Nat)
  /-- Step, R418: An arrival at a gated core ungates it or starts a wake. -/
  | powerWake (core : Nat)
  /-- Step, R418: A wake ends and the buffered tokens enter the fold. -/
  | wakeComplete (core : Nat)
  /-- Step, R253: A write of ILV to SHEDCTL, pending until the change. -/
  | shedctlWrite (core : Nat) (v : Word)
  /-- Step, R254: A core stops, drains its bank ports, rewrites the shed and applies the new mapping. -/
  | shedReconfiguration (core : Nat)
  /-- Step, R430: A hot core's queue falls below 64, and it re-presents its spilled slots. -/
  | coreCool (core : Nat)
  /-- Step, R431: A Rallamel frame is received, checked and acknowledged. -/
  | linkFrame (port : Nat) (f : LinkFrame)
  /-- Step, R431: With no acknowledgement in 2 µs, frames are resent. -/
  | resendTimeout (port : Nat)
  /-- Step, R432: A port goes down and its queued messages are dealt with. -/
  | portDown (port : Nat)
  /-- Step, R435: A host read of a physical address or an object, answered with WDATA. -/
  | wread (port : Nat)
  /-- Step, R435: A host write of a physical address or an object, answered with WDONE. -/
  | wwrite (port : Nat)
  /-- Step, R439: A remote memory request is checked and performed at the owning package. -/
  | memreq (port : Nat)
  /-- Step, R425: The response to a memory request reaches its requester. -/
  | memrsp (port : Nat)
  /-- Step, R6: A write to a device register that has no row of its own. -/
  | registerWrite (addr : Nat) (v : Word)
  /-- Step, R442: A member's tick reaches TICK, and it injects its entry tokens or the gang drains. -/
  | gangStart (ctx : Nat)
  /-- Step, R442: A gang CONTROL message about drovers, completion or loss is taken. -/
  | gangControl (port : Nat)
  /-- Step, R443: A time message every 10 µs slews the device tick toward the root. -/
  | timeExchange (port : Nat)
  /-- Step, R453: Every 1 ms the shepherd measures and writes the stack budgets. -/
  | powerArbiter (dieW : Nat) (stackW : Nat) (budgets : List Nat)
  /-- Step, R453: At each millisecond window a stack reloads its count from STKBUD. -/
  | budgetWindow (stack : Nat)
  /-- Step, R452: An over-current rail halves issue and sets ALARM. -/
  | currentAlarm (die : Nat)
  /-- Step, R455: A layer's temperature crosses a boundary and its refresh interval changes. -/
  | refreshTemperature (stack : Nat) (layer : Nat) (temp : Nat)
  /-- Step, R432: A down or retraining port finishes shepherd retraining and comes up, and the host packets held for it are sent. -/
  | portRetrained (port : Nat)
  /-- Step, R452: A die's core-rail current has stayed below 7,500 A / 4 for 100 µs, and full issue resumes. -/
  | railAlarmClear (die : Nat)
  /-- Step, R402: The shepherd clears an entry of a home L2's lasting-error list, so accesses to that 64-byte block stop faulting ECC_LASTING. -/
  | lastingListClear (addr : Nat)
  /-- Step, R186: An admissible queue head is admitted, checked, installed and its entry tokens are injected. -/
  | launchAdmission
  /-- Step, R238: OTCMD SHOOT: every agent removes its copies of a record. -/
  | shoot
  /-- Step, R238: OTCMD PUBLISH: parked translations walk the record again. -/
  | publish
  /-- Step, R238: OTCMD SHOOTRES: cached residency of one granule is removed. -/
  | shootres
  /-- Step, R345: The yard breaks a cycle of waiting claims by refusing the latest-admitted claim. -/
  | claimCycle
  /-- Step, R438: FWCMD TOPO sets the package number, routes and peer window. -/
  | topo
  /-- Step, R458: FWCMD VERIFY checks an image and writes it to the idle slot. -/
  | verify
  /-- Step, R458: FWCMD ACTIVATE restarts the shepherd from the other slot. -/
  | activate
  /-- Step, R458: FWCMD ATTEST writes a signed identity statement. -/
  | attest
  /-- Step, R443: With no exchange for 1 ms, the package becomes unsynchronised. -/
  | syncLoss
  /-- Step, R456: The package ramps, verifies, trains and opens the launch port. -/
  | reset
  deriving DecidableEq, Repr

end Sys2Proof
end

