-- ==== Sys2Proof/Config.lean ====
section
/-! DEFINITION. What one part fixes (R1, R2, R248, R250) and the values the spec leaves open. An open value is an
`opaque` constant without a body that can be evaluated: no proof can see what it is, so a claim is true whatever it
is. Each is applied to the operands it depends on, or to a counter of State that the step advances. -/

namespace Sys2Proof.Config

/-- Cores of the package, four dies of 64 (R2). -/
def numCores : Nat := 256
/-- Issue pipelines of a core and resident flocks of a pipeline (R2, R192). -/
def numPipes : Nat := 4
def slotsPerPipe : Nat := 8
/-- Ports (R431). -/
def numPorts : Nat := 20
/-- Stacks (R2) and troughs (R354). -/
def numStacks : Nat := 16
def numTroughs : Nat := 512

/-- HBM is below this address (R248); its upper half is the troughs' (R235). -/
def hbmTop : Nat := 0xC000000000
def hbmUpper : Nat := 0x6000000000
/-- The host windows (R248). -/
def hostLow : Nat := 0x0D0000000000
def hostTop : Nat := 0x0E0000000000
/-- The device registers (R248). -/
def regLow : Nat := 0x0E0000000000
def regTop : Nat := 0x0F0000000000
/-- The core windows (R248, R250). -/
def winLow : Nat := 0x0F0000000000
def winStride : Nat := 0x400000
def winTop : Nat := 0x0F0040000000
def shedBytes : Nat := 0x180000
def accumOffset : Nat := 0x200000
def accumBytes : Nat := 0x80000
/-- An L1: 1,024 KiB in 64-byte lines of two sectors (R2, R255). -/
def l1Bytes : Nat := 0x100000
def l1Lines : Nat := l1Bytes / 64
/-- A core's instruction cache and a die's L2 (R2). Both are transparent: loaded code is immutable (R59) and the L2 is
memory-side (R258), so that what they hold changes no value. -/
def icacheBytes : Nat := 0x40000
def l2Bytes : Nat := 0x8000000

/-- FREE VALUE: what an unwritten lane register reads (R30): a function of the core, of how often the context has drawn such
values there, and of the place of this one in the draw, so that nothing of another context enters it. -/
opaque regWord : Nat → Nat → Nat → Word
/-- FREE VALUE: what `bcast` delivers where no lane of the flock is active (R211, R214): a function of the group's lanes, each
with its number and A (R217). -/
opaque noBroadcast : List (Nat × Word × Bool) → Word
/-- FREE VALUE: which enabled happening the part takes next when nothing outside forces one. -/
opaque choice : Nat → Nat
/-- FREE VALUES: the bits of `fexp2`, `flog2`, `fsin`, `fcos`, `ftanh` for arguments whose result R120 does not name; R120 bounds them
(R121). -/
opaque exp2Bits : BitVec 32 → BitVec 32
opaque log2Bits : BitVec 32 → BitVec 32
opaque sinBits : BitVec 32 → BitVec 32
opaque cosBits : BitVec 32 → BitVec 32
opaque tanhBits : BitVec 32 → BitVec 32
/-- FREE VALUE: the fold's fixed hash of CTX, block and tag onto 2,048 sets (R162). -/
opaque foldHash : Nat → Nat → BitVec 40 → Nat
/-- FREE VALUE: the number of the mesh port of a core by which what comes from an agent reaches it (R164, R428). -/
opaque meshPort : Nat → Nat → Nat
/-- FREE VALUE: the flits of a message, less one, by its class and the bytes it carries, where R425 and R426 do not give them. -/
opaque flits : Nat → Nat → Nat
/-- FREE VALUE: DCORE of a message for an L2 slice, by its address, or for the yard, which R425 does not give. -/
opaque homeCore : Nat → Nat
/-- FREE VALUE: the order in which troughs come to their parts of a command, which run concurrently (R365): a key of the command and the
trough. -/
opaque troughKey : Nat → Nat → Nat
/-- FREE VALUE: the object record cache's set of (CTX, handle) (R240). -/
opaque orcHash : Nat → Nat → Nat
/-- FREE VALUES: the number by which the model knows a firmware image, of the staged bytes of one, and of those that stand in slots A and B
at reset (R457); of an image its security version, the bytes of its digest, and what checking its form and its two signatures comes
to: modulo 4, 0 where they hold, 1 and 2 where the ECDSA or the LMS signature fails, 3 where the form is bad. -/
opaque stagedImage : List Byte → Nat
opaque slotImage : Nat → Nat
opaque imageVersion : Nat → BitVec 16
opaque digestByte : Nat → Nat → Byte
opaque imageCheck : Nat → Nat
/-- FREE VALUES: the security version fused into the package, and the bytes of the base-die image's digest (R457, R458). -/
opaque fusedVersion : BitVec 16
opaque baseDigestByte : Nat → Byte
/-- FREE VALUE: a signature byte of an attestation statement (R458): how many have been made, byte offset. -/
opaque attestByte : Nat → Nat → Byte

/-- FREE VALUE: the DETAIL item that names the use in a PERM record (R244), by the permissions the use needs. -/
opaque useCode : Nat → Word
/-- FREE VALUE: the "doubleword 0 read" of a BAD_HANDLE record for a handle beyond the table (R237, R244), which no
walk has read. -/
opaque noDoubleword : Nat → Word

/-- FREE VALUE: the DETAIL of an ECC_LASTING record that names a memory other than HBM (R402): 0 a dirty L1 byte, 1 the
shed, 2 the accumulators. -/
opaque memoryName : Nat → Word

/-- FREE VALUE: where object 0 of a context lies when the save pool has no room for it (R139). -/
opaque objectZero : Nat

/-- FREE VALUE: whether a byte of a host window is reached by port 10, not by port 0 (R331, R431). -/
opaque windowPort : Nat → Bool

/-- FREE VALUE: the plane that a cell reads whose record was made to name none while a run was under way (R340, R353). -/
opaque latePlane : Nat → Nat → Nat

/-- FREE VALUE: where the firmware staging buffer lies (R456): first address and bytes. -/
opaque stagingBuffer : Nat × Nat

end Sys2Proof.Config
end

