-- ==== Sys2Proof/WellFormed.lean ====
section
/-! DEFINITION. What makes a Vexik word legal beyond the codes of its fields: the checks of R44, R45, R48 and R49–R55
that look at one word alone. A check that needs the block or the image (the range of a latch target, SLOT and BLOCK,
INPUTS, K, the domain of a destination, IDEM, ALIGNED) is the loader's (R59), in Machine/Loader.lean. -/

namespace Sys2Proof

/-- R45: T0 and T1 never name the same latch or the same lane register. -/
def targetsDiffer (t0 t1 : Target) : Bool := t0 = .none || t0 ≠ t1

/-- The number of bits of a width code (R49). -/
def Width.bits : Width → Nat
  | .w8 => 8 | .w16 => 16 | .w32 => 32 | .w64 => 64

/-- The width of an integer type (R65). -/
def Ity.bits : Ity → Nat
  | .i8 | .n8 => 8 | .i16 | .n16 => 16 | .i32 | .n32 => 32 | .i64 | .n64 => 64 | .i4 | .n4 => 4

/-- Whether an integer type is signed (R65). -/
def Ity.signed : Ity → Bool
  | .i8 | .i16 | .i32 | .i64 | .i4 => true
  | .n8 | .n16 | .n32 | .n64 | .n4 => false

/-- The conversion classes of R125. -/
inductive FmtClass where
  | ieee | int | small
  deriving DecidableEq, Repr

/-- The class of a format (R125). -/
def Fmt.cls : Fmt → FmtClass
  | .f32 | .f16 | .bf16 => .ieee
  | .int _ => .int
  | .e2m1 | .e8m0 | .b8 _ _ _ => .small

/-- R125: the legal conversions. -/
def cvtLegal (dst src : Fmt) : Bool :=
  match dst.cls, src.cls with
  | .ieee, .ieee | .ieee, .int | .int, .ieee | .int, .int => true
  | .ieee, .small => dst = .f32
  | .small, .ieee => src = .f32
  | .small, .small | .small, .int | .int, .small => false

/-- The scaled element types of `mmas` and `tgemvs`, 0b0010–0b0101 (R55). -/
def MxTy.scaled : MxTy → Bool
  | .b8p3 | .b8p4 | .b8p5 | .e2m1 => true
  | .bf16 | .f16 | .i8 | .i4 => false

/-- The element types of `tgemv` (R55). -/
def MxTy.gemv : MxTy → Bool
  | .bf16 | .f16 | .b8p4 | .i8 => true
  | .b8p3 | .b8p5 | .e2m1 | .i4 => false

/-- The tag modes of `send` and `sendv` (R48). -/
def Tm.forSend : Tm → Bool
  | .same | .expl => true
  | .next | .enter | .leave => false

/-- The tag modes of `cont` (R48). -/
def Tm.forCont : Tm → Bool
  | .same | .next | .leave => true
  | .enter | .expl => false

/-- A LEGAL WORD: the checks of R44, R45 and R48–R55 on one word. A step of another agent has no word and is none. -/
def Instr.wf : Instr → Bool
  | .ldf _ n t0 t1 => n < 8#4 && targetsDiffer t0 t1
  | .ldfv _ n t0 t1 => n < 8#4 && targetsDiffer t0 t1
  | .ldk _ n t0 t1 => n < 15#4 && targetsDiffer t0 t1
  | .getx _ _ _ => true
  | .gets _ _ _ => true
  | .movi _ _ _ => true
  | .movhi _ _ _ => true
  | .nop _ t0 t1 => targetsDiffer t0 t1
  | .send _ tm _ _ _ _ => tm.forSend
  | .sendx _ _ _ => true
  | .sendv _ tm _ _ _ _ => tm.forSend
  | .steer _ _ _ _ _ => true
  | .cont _ tm _ _ _ => tm.forCont
  | .enter _ _ _ _ _ => true
  | .entermAnd _ _ _ _ _ => true
  | .entermOr _ _ _ _ _ => true
  | .next _ _ _ _ _ => true
  | .leave _ _ _ _ _ => true
  | .dkill _ t0 t1 => targetsDiffer t0 t1
  | .spawn _ t0 t1 => targetsDiffer t0 t1
  | .add _ _ t0 t1 => targetsDiffer t0 t1
  | .addSat _ _ t0 t1 => targetsDiffer t0 t1
  | .sub _ _ t0 t1 => targetsDiffer t0 t1
  | .subSat _ _ t0 t1 => targetsDiffer t0 t1
  | .addi _ _ _ => true
  | .mul _ _ t0 t1 => targetsDiffer t0 t1
  | .mulh _ _ t0 t1 => targetsDiffer t0 t1
  | .madd _ _ t0 t1 => targetsDiffer t0 t1
  | .div _ _ t0 t1 => targetsDiffer t0 t1
  | .rem _ _ t0 t1 => targetsDiffer t0 t1
  | .min _ _ t0 t1 => targetsDiffer t0 t1
  | .max _ _ t0 t1 => targetsDiffer t0 t1
  | .abs _ ty t0 t1 => ty.signed && targetsDiffer t0 t1
  | .neg _ _ t0 t1 => targetsDiffer t0 t1
  | .and _ t0 t1 => targetsDiffer t0 t1
  | .or _ t0 t1 => targetsDiffer t0 t1
  | .xor _ t0 t1 => targetsDiffer t0 t1
  | .andn _ t0 t1 => targetsDiffer t0 t1
  | .not _ t0 t1 => targetsDiffer t0 t1
  | .shl _ _ t0 t1 => targetsDiffer t0 t1
  | .shr _ _ t0 t1 => targetsDiffer t0 t1
  | .sar _ _ t0 t1 => targetsDiffer t0 t1
  | .rotl _ _ t0 t1 => targetsDiffer t0 t1
  | .shli _ _ w amt => amt.toNat < w.bits
  | .shri _ _ w amt => amt.toNat < w.bits
  | .sari _ _ w amt => amt.toNat < w.bits
  | .rotli _ _ w amt => amt.toNat < w.bits
  | .clz _ _ t0 t1 => targetsDiffer t0 t1
  | .ctz _ _ t0 t1 => targetsDiffer t0 t1
  | .popc _ _ t0 t1 => targetsDiffer t0 t1
  | .brev _ _ t0 t1 => targetsDiffer t0 t1
  | .bswap _ w t0 t1 => w ≠ .w8 && targetsDiffer t0 t1
  | .bfx _ _ t0 t1 => targetsDiffer t0 t1
  | .bfi _ t0 t1 => targetsDiffer t0 t1
  | .sext _ w t0 t1 => w ≠ .w64 && targetsDiffer t0 t1
  | .zext _ w t0 t1 => w ≠ .w64 && targetsDiffer t0 t1
  | .cmp _ _ t0 t1 => targetsDiffer t0 t1
  | .cmpi _ _ _ _ => true
  | .sel _ t0 t1 => targetsDiffer t0 t1
  | .pand _ t0 t1 => targetsDiffer t0 t1
  | .por _ t0 t1 => targetsDiffer t0 t1
  | .pxor _ t0 t1 => targetsDiffer t0 t1
  | .pnot _ t0 t1 => targetsDiffer t0 t1
  | .pack2 _ _ t0 t1 => targetsDiffer t0 t1
  | .unpk _ _ t0 t1 => targetsDiffer t0 t1
  | .fadd _ _ _ t0 t1 => targetsDiffer t0 t1
  | .fsub _ _ _ t0 t1 => targetsDiffer t0 t1
  | .fmul _ _ _ t0 t1 => targetsDiffer t0 t1
  | .ffma _ _ _ t0 t1 => targetsDiffer t0 t1
  | .fmin _ _ t0 t1 => targetsDiffer t0 t1
  | .fmax _ _ t0 t1 => targetsDiffer t0 t1
  | .fabs _ _ t0 t1 => targetsDiffer t0 t1
  | .fneg _ _ t0 t1 => targetsDiffer t0 t1
  | .fcmp _ _ _ t0 t1 => targetsDiffer t0 t1
  | .fclass _ _ t0 t1 => targetsDiffer t0 t1
  | .fdiv _ _ _ t0 t1 => targetsDiffer t0 t1
  | .fsqrt _ _ _ t0 t1 => targetsDiffer t0 t1
  | .frcpe _ t0 t1 => targetsDiffer t0 t1
  | .frsqe _ t0 t1 => targetsDiffer t0 t1
  | .fexp2 _ t0 t1 => targetsDiffer t0 t1
  | .flog2 _ t0 t1 => targetsDiffer t0 t1
  | .fsin _ t0 t1 => targetsDiffer t0 t1
  | .fcos _ t0 t1 => targetsDiffer t0 t1
  | .ftanh _ t0 t1 => targetsDiffer t0 t1
  | .fround _ _ _ t0 t1 => targetsDiffer t0 t1
  | .cvt _ _ _ dst src _ => cvtLegal dst src
  | .cvtsr _ _ dst src _ => cvtLegal dst src
  | .hadd2 _ _ ty t0 t1 => ty ≠ .f32 && targetsDiffer t0 t1
  | .hmul2 _ _ ty t0 t1 => ty ≠ .f32 && targetsDiffer t0 t1
  | .hfma2 _ _ ty t0 t1 => ty ≠ .f32 && targetsDiffer t0 t1
  | .hmax2 _ ty t0 t1 => ty ≠ .f32 && targetsDiffer t0 t1
  | .dot4 _ _ t0 t1 => targetsDiffer t0 t1
  | .shfl _ t0 t1 => targetsDiffer t0 t1
  | .shfx _ t0 t1 => targetsDiffer t0 t1
  | .shup _ t0 t1 => targetsDiffer t0 t1
  | .shdn _ t0 t1 => targetsDiffer t0 t1
  | .ballot _ t0 t1 => targetsDiffer t0 t1
  | .vany _ t0 t1 => targetsDiffer t0 t1
  | .vall _ t0 t1 => targetsDiffer t0 t1
  | .scan _ _ t0 t1 => targetsDiffer t0 t1
  | .redl _ _ t0 t1 => targetsDiffer t0 t1
  | .bcast _ t0 t1 => targetsDiffer t0 t1
  | .curs _ _ t0 t1 => targetsDiffer t0 t1
  | .cursi _ _ _ _ => true
  | .ld _ _ t0 t1 => targetsDiffer t0 t1
  | .st _ _ t0 t1 => targetsDiffer t0 t1
  | .ldsp _ _ t0 t1 => targetsDiffer t0 t1
  | .stsp _ _ t0 t1 => targetsDiffer t0 t1
  | .lda _ _ t0 t1 => targetsDiffer t0 t1
  | .sta _ _ t0 t1 => targetsDiffer t0 t1
  | .atom _ _ _ _ _ _ => true
  | .cas _ _ _ _ _ => true
  | .fatom _ _ _ _ _ => true
  | .redo _ _ _ _ => true
  | .fence _ _ t0 t1 => targetsDiffer t0 t1
  | .pref _ _ t0 t1 => targetsDiffer t0 t1
  | .hqry _ _ t0 t1 => targetsDiffer t0 t1
  | .arrive _ t0 t1 => targetsDiffer t0 t1
  | .waitb _ t0 t1 => targetsDiffer t0 t1
  | .hresFetch _ t0 t1 => targetsDiffer t0 t1
  | .hresRelease _ t0 t1 => targetsDiffer t0 t1
  | .mma _ _ t0 t1 => targetsDiffer t0 t1
  | .mmas _ ty t0 t1 => ty.scaled && targetsDiffer t0 t1
  | .wld _ _ t0 t1 => targetsDiffer t0 t1
  | .aclr _ t0 t1 => targetsDiffer t0 t1
  | .acvt _ _ t0 t1 => targetsDiffer t0 t1
  | .aadd _ t0 t1 => targetsDiffer t0 t1
  | .cpy _ t0 t1 => targetsDiffer t0 t1
  | .cpyg _ t0 t1 => targetsDiffer t0 t1
  | .cpys _ t0 t1 => targetsDiffer t0 t1
  | .cpyr _ _ t0 t1 => targetsDiffer t0 t1
  | .cpybsToplanes _ t0 t1 => targetsDiffer t0 t1
  | .cpybsFromplanes _ t0 t1 => targetsDiffer t0 t1
  | .cpyt _ t0 t1 => targetsDiffer t0 t1
  | .cpyhTohost _ t0 t1 => targetsDiffer t0 t1
  | .cpyhFromhost _ t0 t1 => targetsDiffer t0 t1
  | .cpyf _ t0 t1 => targetsDiffer t0 t1
  | .lkctx _ _ t0 t1 => targetsDiffer t0 t1
  | .lkrun _ _ t0 t1 => targetsDiffer t0 t1
  | .lkst _ t0 t1 => targetsDiffer t0 t1
  | .tvec _ t0 t1 => targetsDiffer t0 t1
  | .tgemv _ ty t0 t1 => ty.gemv && targetsDiffer t0 t1
  | .tgemvs _ ty t0 t1 => ty.scaled && targetsDiffer t0 t1
  | .tred _ t0 t1 => targetsDiffer t0 t1
  | .trap _ _ _ => true
  | .brk _ _ _ => true
  | .rdsr _ _ _ => true
  | .wrsr _ sr _ => sr = .fctl
  | .resume _ _ => true
  | .retry _ _ => true
  | .abort _ _ => true
  | .emx _ _ _ t0 t1 => targetsDiffer t0 t1
  | .launch _ => false
  | .launchAdmission => false
  | .tokenArrival _ => false
  | .penTimerExpiry _ _ => false
  | .flockRelease _ => false
  | .priorityAging _ => false
  | .memAccessPerformed _ => false
  | .releaseTokenDelivery _ => false
  | .spawnSubmission _ => false
  | .spawnAnswer _ => false
  | .nextGrant _ => false
  | .enterGrant _ => false
  | .entermGrant _ => false
  | .explicitGrant _ => false
  | .contTokenGrant _ => false
  | .leaveServe _ => false
  | .closeServe _ => false
  | .dkillServe _ => false
  | .killNotice _ => false
  | .killNoticeAck _ => false
  | .eldestQuery _ _ => false
  | .eldestAnswer _ _ => false
  | .spillRepresent _ _ => false
  | .quiescenceDetect _ => false
  | .droverForward _ _ => false
  | .launchComplete _ => false
  | .orderedArrival _ => false
  | .orderedArrivalUnstall _ => false
  | .barrierArrival _ => false
  | .barrierRegistration _ => false
  | .otpoolWrite _ => false
  | .shoot => false
  | .publish => false
  | .shootres => false
  | .shootAck _ => false
  | .walk _ => false
  | .answer _ => false
  | .wldExec _ => false
  | .mmaExec _ => false
  | .mmasExec _ => false
  | .aclrExec _ => false
  | .acvtExec _ => false
  | .aaddExec _ => false
  | .mxuCompletion _ => false
  | .cpyExec _ => false
  | .cpygExec _ => false
  | .cpysExec _ => false
  | .cpyrExec _ => false
  | .cpybsExec _ => false
  | .cpytExec _ => false
  | .cpyhExec _ => false
  | .cpyfExec _ => false
  | .copyCompletion _ => false
  | .lkfClaim _ => false
  | .lkfRelease _ => false
  | .lkfSlotFree _ _ => false
  | .claimCycle => false
  | .lkrunExec _ => false
  | .lkrunCompletion _ => false
  | .tvecExec _ => false
  | .tgemvExec _ => false
  | .tgemvsExec _ => false
  | .tredExec _ => false
  | .troughCompletion _ => false
  | .handlerDispatch _ _ => false
  | .responseTakesEffect _ => false
  | .drainComplete _ => false
  | .preemption _ _ => false
  | .preemptDump _ _ => false
  | .restore _ _ => false
  | .pinfoldSlotFree _ => false
  | .pinextWrite _ _ _ => false
  | .clockGate _ => false
  | .powerGate _ => false
  | .powerWake _ => false
  | .wakeComplete _ => false
  | .shedctlWrite _ _ => false
  | .shedReconfiguration _ => false
  | .coreCool _ => false
  | .linkFrame _ _ => false
  | .resendTimeout _ => false
  | .portDown _ => false
  | .wread _ => false
  | .wwrite _ => false
  | .memreq _ => false
  | .memrsp _ => false
  | .topo => false
  | .verify => false
  | .activate => false
  | .attest => false
  | .registerWrite _ _ => false
  | .gangStart _ => false
  | .gangControl _ => false
  | .timeExchange _ => false
  | .syncLoss => false
  | .powerArbiter _ _ _ => false
  | .budgetWindow _ => false
  | .currentAlarm _ => false
  | .refreshTemperature _ _ _ => false
  | .reset => false
  | .portRetrained _ => false
  | .railAlarmClear _ => false
  | .lastingListClear _ => false

end Sys2Proof
end

