-- ==== Sys2Proof/Decode.lean ====
section
/-! DEFINITION. Decode: the fields of a 32-bit Vexik word (R41–R57) read as an instruction, total on any word and
refusing by name; then `encode`, written from the same tables, and the lemmas that each field's code reads back.
Every numbering here is that of the encoding chapter (R8). -/

namespace Sys2Proof

/-- Why a word is no instruction (R59): its opcode (R56), its PM (R28), a format field (R44, R48, R51–R55), a target
(R25), or a check over several fields (R45, R48–R55, R125). -/
inductive DecodeError where
  | opcode | pm | field | target | illFormed
  deriving DecidableEq, Repr

/-- The code of each value (R28). -/
def Pm.toBits : Pm → BitVec 2
  | .always => 0#2
  | .ifTrue => 1#2
  | .ifFalse => 2#2

/-- The value of a code (R28); an unassigned code has none. -/
def Pm.ofBits (b : BitVec 2) : Option Pm :=
  match b.toNat with
  | 0 => some .always
  | 1 => some .ifTrue
  | 2 => some .ifFalse
  | _ => none

@[simp] theorem Pm.ofBits_toBits (t : Pm) : Pm.ofBits t.toBits = some t := by
  cases t <;> rfl

/-- The code of each value (R49). -/
def Ity.toBits : Ity → BitVec 4
  | .i8 => 0#4
  | .i16 => 1#4
  | .i32 => 2#4
  | .i64 => 3#4
  | .n8 => 4#4
  | .n16 => 5#4
  | .n32 => 6#4
  | .n64 => 7#4
  | .i4 => 8#4
  | .n4 => 9#4

/-- The value of a code (R49); an unassigned code has none. -/
def Ity.ofBits (b : BitVec 4) : Option Ity :=
  match b.toNat with
  | 0 => some .i8
  | 1 => some .i16
  | 2 => some .i32
  | 3 => some .i64
  | 4 => some .n8
  | 5 => some .n16
  | 6 => some .n32
  | 7 => some .n64
  | 8 => some .i4
  | 9 => some .n4
  | _ => none

@[simp] theorem Ity.ofBits_toBits (t : Ity) : Ity.ofBits t.toBits = some t := by
  cases t <;> rfl

/-- The code of each value (R49). -/
def Width.toBits : Width → BitVec 2
  | .w8 => 0#2
  | .w16 => 1#2
  | .w32 => 2#2
  | .w64 => 3#2

/-- The value of a code (R49); an unassigned code has none. -/
def Width.ofBits (b : BitVec 2) : Option Width :=
  match b.toNat with
  | 0 => some .w8
  | 1 => some .w16
  | 2 => some .w32
  | _ => some .w64

@[simp] theorem Width.ofBits_toBits (t : Width) : Width.ofBits t.toBits = some t := by
  cases t <;> rfl

/-- The code of each value (R50). -/
def FTy.toBits : FTy → BitVec 2
  | .f32 => 0#2
  | .f16 => 1#2
  | .bf16 => 2#2

/-- The value of a code (R50); an unassigned code has none. -/
def FTy.ofBits (b : BitVec 2) : Option FTy :=
  match b.toNat with
  | 0 => some .f32
  | 1 => some .f16
  | 2 => some .bf16
  | _ => none

@[simp] theorem FTy.ofBits_toBits (t : FTy) : FTy.ofBits t.toBits = some t := by
  cases t <;> rfl

/-- The code of each value (R50). -/
def Rnd.toBits : Rnd → BitVec 2
  | .rne => 0#2
  | .rz => 1#2
  | .rdn => 2#2
  | .rup => 3#2

/-- The value of a code (R50); an unassigned code has none. -/
def Rnd.ofBits (b : BitVec 2) : Option Rnd :=
  match b.toNat with
  | 0 => some .rne
  | 1 => some .rz
  | 2 => some .rdn
  | _ => some .rup

@[simp] theorem Rnd.ofBits_toBits (t : Rnd) : Rnd.ofBits t.toBits = some t := by
  cases t <;> rfl

/-- The code of each value (R51). -/
def Cond.toBits : Cond → BitVec 4
  | .eq => 0#4
  | .lt => 1#4
  | .le => 2#4
  | .ltu => 3#4
  | .leu => 4#4

/-- The value of a code (R51); an unassigned code has none. -/
def Cond.ofBits (b : BitVec 4) : Option Cond :=
  match b.toNat with
  | 0 => some .eq
  | 1 => some .lt
  | 2 => some .le
  | 3 => some .ltu
  | 4 => some .leu
  | _ => none

@[simp] theorem Cond.ofBits_toBits (t : Cond) : Cond.ofBits t.toBits = some t := by
  cases t <;> rfl

/-- The code of each value (R51). -/
def Cond.toBits3 : Cond → BitVec 3
  | .eq => 0#3
  | .lt => 1#3
  | .le => 2#3
  | .ltu => 3#3
  | .leu => 4#3

/-- The value of a code (R51); an unassigned code has none. -/
def Cond.ofBits3 (b : BitVec 3) : Option Cond :=
  match b.toNat with
  | 0 => some .eq
  | 1 => some .lt
  | 2 => some .le
  | 3 => some .ltu
  | 4 => some .leu
  | _ => none

@[simp] theorem Cond.ofBits3_toBits3 (t : Cond) : Cond.ofBits3 t.toBits3 = some t := by
  cases t <;> rfl

/-- The code of each value (R53). -/
def FCond.toBits : FCond → BitVec 2
  | .eq => 0#2
  | .lt => 1#2
  | .le => 2#2
  | .un => 3#2

/-- The value of a code (R53); an unassigned code has none. -/
def FCond.ofBits (b : BitVec 2) : Option FCond :=
  match b.toNat with
  | 0 => some .eq
  | 1 => some .lt
  | 2 => some .le
  | _ => some .un

@[simp] theorem FCond.ofBits_toBits (t : FCond) : FCond.ofBits t.toBits = some t := by
  cases t <;> rfl

/-- The code of each value (R86). -/
def Half.toBits : Half → BitVec 1
  | .h16 => 0#1
  | .h32 => 1#1

/-- The value of a code (R86); an unassigned code has none. -/
def Half.ofBits (b : BitVec 1) : Option Half :=
  match b.toNat with
  | 0 => some .h16
  | _ => some .h32

@[simp] theorem Half.ofBits_toBits (t : Half) : Half.ofBits t.toBits = some t := by
  cases t <;> rfl

/-- The code of each value (R212). -/
def RedOp.toBits : RedOp → BitVec 4
  | .addI64 => 0#4
  | .addF32 => 1#4
  | .minI64 => 2#4
  | .maxI64 => 3#4
  | .and => 4#4
  | .or => 5#4

/-- The value of a code (R212); an unassigned code has none. -/
def RedOp.ofBits (b : BitVec 4) : Option RedOp :=
  match b.toNat with
  | 0 => some .addI64
  | 1 => some .addF32
  | 2 => some .minI64
  | 3 => some .maxI64
  | 4 => some .and
  | 5 => some .or
  | _ => none

@[simp] theorem RedOp.ofBits_toBits (t : RedOp) : RedOp.ofBits t.toBits = some t := by
  cases t <;> rfl

/-- The code of each value (R141). -/
def MemTy.toBits : MemTy → BitVec 4
  | .n8 => 0#4
  | .n16 => 1#4
  | .n32 => 2#4
  | .n64 => 3#4
  | .elem => 8#4

/-- The value of a code (R141); an unassigned code has none. -/
def MemTy.ofBits (b : BitVec 4) : Option MemTy :=
  match b.toNat with
  | 0 => some .n8
  | 1 => some .n16
  | 2 => some .n32
  | 3 => some .n64
  | 8 => some .elem
  | _ => none

@[simp] theorem MemTy.ofBits_toBits (t : MemTy) : MemTy.ofBits t.toBits = some t := by
  cases t <;> rfl

/-- The code of each value (R276). -/
def AtomOp.toBits : AtomOp → BitVec 4
  | .add => 0#4
  | .min => 1#4
  | .max => 2#4
  | .minu => 3#4
  | .maxu => 4#4
  | .and => 5#4
  | .or => 6#4
  | .xor => 7#4
  | .exch => 8#4

/-- The value of a code (R276); an unassigned code has none. -/
def AtomOp.ofBits (b : BitVec 4) : Option AtomOp :=
  match b.toNat with
  | 0 => some .add
  | 1 => some .min
  | 2 => some .max
  | 3 => some .minu
  | 4 => some .maxu
  | 5 => some .and
  | 6 => some .or
  | 7 => some .xor
  | 8 => some .exch
  | _ => none

@[simp] theorem AtomOp.ofBits_toBits (t : AtomOp) : AtomOp.ofBits t.toBits = some t := by
  cases t <;> rfl

/-- The code of each value (R278). -/
def FatomOp.toBits : FatomOp → BitVec 4
  | .addF32 => 0#4
  | .minF32 => 1#4
  | .maxF32 => 2#4
  | .addBf16x2 => 3#4

/-- The value of a code (R278); an unassigned code has none. -/
def FatomOp.ofBits (b : BitVec 4) : Option FatomOp :=
  match b.toNat with
  | 0 => some .addF32
  | 1 => some .minF32
  | 2 => some .maxF32
  | 3 => some .addBf16x2
  | _ => none

@[simp] theorem FatomOp.ofBits_toBits (t : FatomOp) : FatomOp.ofBits t.toBits = some t := by
  cases t <;> rfl

/-- The code of each value (R42). -/
def Order.toBits : Order → BitVec 2
  | .relaxed => 0#2
  | .acq => 1#2
  | .rel => 2#2
  | .ar => 3#2

/-- The value of a code (R42); an unassigned code has none. -/
def Order.ofBits (b : BitVec 2) : Option Order :=
  match b.toNat with
  | 0 => some .relaxed
  | 1 => some .acq
  | 2 => some .rel
  | _ => some .ar

@[simp] theorem Order.ofBits_toBits (t : Order) : Order.ofBits t.toBits = some t := by
  cases t <;> rfl

/-- The code of each value (R43). -/
def Scope.toBits : Scope → BitVec 2
  | .core => 0#2
  | .die => 1#2
  | .pkg => 2#2
  | .gang => 3#2

/-- The value of a code (R43); an unassigned code has none. -/
def Scope.ofBits (b : BitVec 2) : Option Scope :=
  match b.toNat with
  | 0 => some .core
  | 1 => some .die
  | 2 => some .pkg
  | _ => some .gang

@[simp] theorem Scope.ofBits_toBits (t : Scope) : Scope.ofBits t.toBits = some t := by
  cases t <;> rfl

/-- The code of each value (R282). -/
def PrefLevel.toBits : PrefLevel → BitVec 1
  | .l1 => 0#1
  | .l2 => 1#1

/-- The value of a code (R282); an unassigned code has none. -/
def PrefLevel.ofBits (b : BitVec 1) : Option PrefLevel :=
  match b.toNat with
  | 0 => some .l1
  | _ => some .l2

@[simp] theorem PrefLevel.ofBits_toBits (t : PrefLevel) : PrefLevel.ofBits t.toBits = some t := by
  cases t <;> rfl

/-- The code of each value (R269). -/
def Dim.toBits : Dim → BitVec 3
  | .d0 => 0#3
  | .d1 => 1#3
  | .d2 => 2#3
  | .d3 => 3#3
  | .d4 => 4#3

/-- The value of a code (R269); an unassigned code has none. -/
def Dim.ofBits (b : BitVec 3) : Option Dim :=
  match b.toNat with
  | 0 => some .d0
  | 1 => some .d1
  | 2 => some .d2
  | 3 => some .d3
  | 4 => some .d4
  | _ => none

@[simp] theorem Dim.ofBits_toBits (t : Dim) : Dim.ofBits t.toBits = some t := by
  cases t <;> rfl

/-- The code of each value (R268). -/
def CursDim.toBits : CursDim → BitVec 4
  | .single .d0 => 0#4
  | .single .d1 => 1#4
  | .single .d2 => 2#4
  | .single .d3 => 3#4
  | .single .d4 => 4#4
  | .pair0 => 8#4
  | .pair1 => 9#4
  | .pair2 => 10#4
  | .pair3 => 11#4

/-- The value of a code (R268); an unassigned code has none. -/
def CursDim.ofBits (b : BitVec 4) : Option CursDim :=
  match b.toNat with
  | 0 => some (.single .d0)
  | 1 => some (.single .d1)
  | 2 => some (.single .d2)
  | 3 => some (.single .d3)
  | 4 => some (.single .d4)
  | 8 => some .pair0
  | 9 => some .pair1
  | 10 => some .pair2
  | 11 => some .pair3
  | _ => none

@[simp] theorem CursDim.ofBits_toBits (t : CursDim) : CursDim.ofBits t.toBits = some t := by
  cases t with
  | single d => cases d <;> rfl
  | pair0 | pair1 | pair2 | pair3 => rfl

/-- The code of each value (R283). -/
def HqryItem.toBits : HqryItem → BitVec 4
  | .ext .d0 => 0#4
  | .ext .d1 => 1#4
  | .ext .d2 => 2#4
  | .ext .d3 => 3#4
  | .ext .d4 => 4#4
  | .rank => 5#4
  | .fmt => 6#4
  | .gen => 7#4
  | .res => 8#4

/-- The value of a code (R283); an unassigned code has none. -/
def HqryItem.ofBits (b : BitVec 4) : Option HqryItem :=
  match b.toNat with
  | 0 => some (.ext .d0)
  | 1 => some (.ext .d1)
  | 2 => some (.ext .d2)
  | 3 => some (.ext .d3)
  | 4 => some (.ext .d4)
  | 5 => some .rank
  | 6 => some .fmt
  | 7 => some .gen
  | 8 => some .res
  | _ => none

@[simp] theorem HqryItem.ofBits_toBits (t : HqryItem) : HqryItem.ofBits t.toBits = some t := by
  cases t with
  | ext d => cases d <;> rfl
  | rank | fmt | gen | res => rfl

/-- The code of each value (R55). -/
def MxTy.toBits : MxTy → BitVec 4
  | .bf16 => 0#4
  | .f16 => 1#4
  | .b8p3 => 2#4
  | .b8p4 => 3#4
  | .b8p5 => 4#4
  | .e2m1 => 5#4
  | .i8 => 6#4
  | .i4 => 7#4

/-- The value of a code (R55); an unassigned code has none. -/
def MxTy.ofBits (b : BitVec 4) : Option MxTy :=
  match b.toNat with
  | 0 => some .bf16
  | 1 => some .f16
  | 2 => some .b8p3
  | 3 => some .b8p4
  | 4 => some .b8p5
  | 5 => some .e2m1
  | 6 => some .i8
  | 7 => some .i4
  | _ => none

@[simp] theorem MxTy.ofBits_toBits (t : MxTy) : MxTy.ofBits t.toBits = some t := by
  cases t <;> rfl

/-- The code of each value (R55). -/
def AcvtTy.toBits : AcvtTy → BitVec 4
  | .f32 => 0#4
  | .f16 => 1#4
  | .bf16 => 2#4
  | .b8p4 => 3#4
  | .b8p5 => 4#4

/-- The value of a code (R55); an unassigned code has none. -/
def AcvtTy.ofBits (b : BitVec 4) : Option AcvtTy :=
  match b.toNat with
  | 0 => some .f32
  | 1 => some .f16
  | 2 => some .bf16
  | 3 => some .b8p4
  | 4 => some .b8p5
  | _ => none

@[simp] theorem AcvtTy.ofBits_toBits (t : AcvtTy) : AcvtTy.ofBits t.toBits = some t := by
  cases t <;> rfl

/-- The code of each value (R55). -/
def CpyrOp.toBits : CpyrOp → BitVec 2
  | .addF32 => 0#2
  | .addBf16 => 1#2
  | .maxF32 => 2#2
  | .minF32 => 3#2

/-- The value of a code (R55); an unassigned code has none. -/
def CpyrOp.ofBits (b : BitVec 2) : Option CpyrOp :=
  match b.toNat with
  | 0 => some .addF32
  | 1 => some .addBf16
  | 2 => some .maxF32
  | _ => some .minF32

@[simp] theorem CpyrOp.ofBits_toBits (t : CpyrOp) : CpyrOp.ofBits t.toBits = some t := by
  cases t <;> rfl

/-- The code of each value (R123). -/
def Dot4Ty.toBits : Dot4Ty → BitVec 4
  | .i8 => 0#4
  | .n8 => 1#4
  | .b8p3 => 2#4
  | .b8p4 => 3#4
  | .b8p5 => 4#4

/-- The value of a code (R123); an unassigned code has none. -/
def Dot4Ty.ofBits (b : BitVec 4) : Option Dot4Ty :=
  match b.toNat with
  | 0 => some .i8
  | 1 => some .n8
  | 2 => some .b8p3
  | 3 => some .b8p4
  | 4 => some .b8p5
  | _ => none

@[simp] theorem Dot4Ty.ofBits_toBits (t : Dot4Ty) : Dot4Ty.ofBits t.toBits = some t := by
  cases t <;> rfl

/-- The code of each value (R47). -/
def Tm.toBits : Tm → BitVec 3
  | .same => 0#3
  | .next => 1#3
  | .enter => 2#3
  | .leave => 4#3
  | .expl => 5#3

/-- The value of a code (R47); an unassigned code has none. -/
def Tm.ofBits (b : BitVec 3) : Option Tm :=
  match b.toNat with
  | 0 => some .same
  | 1 => some .next
  | 2 => some .enter
  | 4 => some .leave
  | 5 => some .expl
  | _ => none

@[simp] theorem Tm.ofBits_toBits (t : Tm) : Tm.ofBits t.toBits = some t := by
  cases t <;> rfl

/-- The code of each value (R52). -/
def SpecialReg.toBits : SpecialReg → BitVec 13
  | .ctx => 0#13
  | .dom => 1#13
  | .home => 2#13
  | .act => 3#13
  | .idx => 4#13
  | .liter => 5#13
  | .lane => 6#13
  | .fsize => 7#13
  | .core => 8#13
  | .die => 9#13
  | .pkg => 10#13
  | .pasture => 11#13
  | .tick => 12#13
  | .seed => 13#13
  | .prio => 14#13
  | .detmode => 15#13
  | .frec => 16#13
  | .eword => 17#13
  | .ea => 18#13
  | .eb => 19#13
  | .ec => 20#13
  | .ep => 21#13

/-- The value of a code (R52); an unassigned code has none. -/
def SpecialReg.ofBits (b : BitVec 13) : Option SpecialReg :=
  match b.toNat with
  | 0 => some .ctx
  | 1 => some .dom
  | 2 => some .home
  | 3 => some .act
  | 4 => some .idx
  | 5 => some .liter
  | 6 => some .lane
  | 7 => some .fsize
  | 8 => some .core
  | 9 => some .die
  | 10 => some .pkg
  | 11 => some .pasture
  | 12 => some .tick
  | 13 => some .seed
  | 14 => some .prio
  | 15 => some .detmode
  | 16 => some .frec
  | 17 => some .eword
  | 18 => some .ea
  | 19 => some .eb
  | 20 => some .ec
  | 21 => some .ep
  | _ => none

@[simp] theorem SpecialReg.ofBits_toBits (t : SpecialReg) : SpecialReg.ofBits t.toBits = some t := by
  cases t <;> rfl

/-- The code of each value (R398). -/
def SysReg.toBits : SysReg → BitVec 13
  | .fcount => 0#13
  | .sickfree => 1#13
  | .killed => 2#13
  | .stray => 3#13
  | .fctl => 4#13
  | .ecclog => 5#13

/-- The value of a code (R398); an unassigned code has none. -/
def SysReg.ofBits (b : BitVec 13) : Option SysReg :=
  match b.toNat with
  | 0 => some .fcount
  | 1 => some .sickfree
  | 2 => some .killed
  | 3 => some .stray
  | 4 => some .fctl
  | 5 => some .ecclog
  | _ => none

@[simp] theorem SysReg.ofBits_toBits (t : SysReg) : SysReg.ofBits t.toBits = some t := by
  cases t <;> rfl

/-- The code of each value (R87). -/
def B8P.toBits : B8P → BitVec 3
  | .p1 => 0#3
  | .p2 => 1#3
  | .p3 => 2#3
  | .p4 => 3#3
  | .p5 => 4#3
  | .p6 => 5#3
  | .p7 => 6#3

/-- The value of a code (R87); an unassigned code has none. -/
def B8P.ofBits (b : BitVec 3) : Option B8P :=
  match b.toNat with
  | 0 => some .p1
  | 1 => some .p2
  | 2 => some .p3
  | 3 => some .p4
  | 4 => some .p5
  | 5 => some .p6
  | 6 => some .p7
  | _ => none

@[simp] theorem B8P.ofBits_toBits (t : B8P) : B8P.ofBits t.toBits = some t := by
  cases t <;> rfl

/-- The latch kinds of R25, 0b001–0b101. -/
def Latch.toBits : Latch → BitVec 3
  | .a => 1#3 | .b => 2#3 | .c => 3#3 | .p => 4#3 | .o => 5#3

/-- The 9 bits of a target (R25). -/
def Target.toBits : Target → BitVec 9
  | .none => 0#9
  | .latch l i => l.toBits ++ i
  | .reg x => 6#3 ++ x

/-- A target from its kind and index: kind 0b000 needs index 0, kind 0b111 is reserved (R25). -/
def Target.ofKind (k : Nat) (i : BitVec 6) : Option Target :=
  match k with
  | 0 => if i.toNat = 0 then some .none else Option.none
  | 1 => some (.latch .a i)
  | 2 => some (.latch .b i)
  | 3 => some (.latch .c i)
  | 4 => some (.latch .p i)
  | 5 => some (.latch .o i)
  | 6 => some (.reg i)
  | _ => Option.none

/-- A target from its 9 bits (R25). -/
def Target.ofBits (b : BitVec 9) : Option Target :=
  Target.ofKind (b.extractLsb' 6 3).toNat (b.extractLsb' 0 6)

theorem extract_hi {n m : Nat} (a : BitVec n) (b : BitVec m) : (a ++ b).extractLsb' m n = a := by
  rw [BitVec.extractLsb'_append_eq_left]

theorem extract_lo {n m : Nat} (a : BitVec n) (b : BitVec m) : (a ++ b).extractLsb' 0 m = b := by
  rw [BitVec.extractLsb'_append_eq_right]

@[simp] theorem Target.ofBits_toBits (t : Target) : Target.ofBits t.toBits = some t := by
  cases t with
  | none => rfl
  | latch l i =>
    show Target.ofKind ((l.toBits ++ i).extractLsb' 6 3).toNat ((l.toBits ++ i).extractLsb' 0 6) = _
    rw [extract_hi, extract_lo]
    cases l <;> rfl
  | reg x =>
    show Target.ofKind ((6#3 ++ x).extractLsb' 6 3).toNat ((6#3 ++ x).extractLsb' 0 6) = _
    rw [extract_hi, extract_lo]
    rfl

/-- REL and the release scope, bits 3:1 of an FS word: REL 0 needs scope 0 (R48). -/
def relBits : Option Scope → BitVec 3
  | none => 0#3
  | some s => 1#1 ++ s.toBits

/-- The release an FS word carries, from bits 3:1 (R48). -/
def relOf (b : BitVec 3) : Option (Option Scope) :=
  match b.toNat with
  | 0 => some none
  | 4 => some (some .core)
  | 5 => some (some .die)
  | 6 => some (some .pkg)
  | 7 => some (some .gang)
  | _ => none

@[simp] theorem relOf_relBits (r : Option Scope) : relOf (relBits r) = some r := by
  cases r with
  | none => rfl
  | some s => cases s <;> rfl

/-- One bit as a Bool. -/
def boolOf (b : BitVec 1) : Bool := b = 1#1

/-- A Bool as one bit. -/
def boolBits (b : Bool) : BitVec 1 := if b then 1#1 else 0#1

@[simp] theorem boolOf_boolBits (b : Bool) : boolOf (boolBits b) = b := by cases b <;> rfl

/-- The 6-bit format code of R87. -/
def Fmt.toBits : Fmt → BitVec 6
  | .int t => 0#2 ++ t.toBits
  | .f32 => 0x10#6
  | .f16 => 0x11#6
  | .bf16 => 0x12#6
  | .e2m1 => 0x13#6
  | .e8m0 => 0x14#6
  | .b8 u i p => 1#1 ++ boolBits u ++ boolBits i ++ p.toBits

/-- The format of a 6-bit code; the codes R88 leaves unassigned have none. -/
def Fmt.ofBits (b : BitVec 6) : Option Fmt :=
  if b.extractLsb' 5 1 = 1#1 then
    (B8P.ofBits (b.extractLsb' 0 3)).map (.b8 (boolOf (b.extractLsb' 4 1)) (boolOf (b.extractLsb' 3 1)))
  else if b.extractLsb' 4 1 = 0#1 then (Ity.ofBits (b.extractLsb' 0 4)).map .int
  else
    match b.toNat with
    | 0x10 => some .f32
    | 0x11 => some .f16
    | 0x12 => some .bf16
    | 0x13 => some .e2m1
    | 0x14 => some .e8m0
    | _ => none

@[simp] theorem Fmt.ofBits_toBits (f : Fmt) : Fmt.ofBits f.toBits = some f := by
  cases f with
  | int t => cases t <;> rfl
  | b8 u i p => cases u <;> cases i <;> cases p <;> rfl
  | f32 | f16 | bf16 | e2m1 | e8m0 => rfl

/-- PM, bits 23:22 (R41). -/
def withPm (w : IWord) (k : Pm → Except DecodeError Instr) : Except DecodeError Instr :=
  match Pm.ofBits (w.extractLsb' 22 2) with
  | some p => k p
  | none => .error .pm

/-- A field whose code may be unassigned (R44). -/
def withField {α : Type} (f : Option α) (k : α → Except DecodeError Instr) : Except DecodeError Instr :=
  match f with
  | some a => k a
  | none => .error .field

/-- A field that must be zero (R44). -/
def mustBeZero {n : Nat} (b : BitVec n) (k : Except DecodeError Instr) : Except DecodeError Instr :=
  if b = 0#n then k else .error .field

/-- A field with one code for its opcode (R53). -/
def mustBe {n : Nat} (c b : BitVec n) (k : Except DecodeError Instr) : Except DecodeError Instr :=
  if b = c then k else .error .field

/-- A target field (R25). -/
def withTarget (b : BitVec 9) (k : Target → Except DecodeError Instr) : Except DecodeError Instr :=
  match Target.ofBits b with
  | some t => k t
  | none => .error .target

/-- Words with OP 0x00–0x0F (R51, R53, R55, R56). -/
def decode0 (lo : Nat) (iw : IWord) : Except DecodeError Instr :=
  match lo with
  | 1 => withPm iw fun pm => withTarget (iw.extractLsb' 9 9) fun t0 => withTarget (iw.extractLsb' 0 9) fun t1 => .ok (.ldf pm (iw.extractLsb' 18 4) t0 t1)
  | 2 => withPm iw fun pm => withTarget (iw.extractLsb' 9 9) fun t0 => withTarget (iw.extractLsb' 0 9) fun t1 => .ok (.ldfv pm (iw.extractLsb' 18 4) t0 t1)
  | 3 => withPm iw fun pm => withTarget (iw.extractLsb' 9 9) fun t0 => withTarget (iw.extractLsb' 0 9) fun t1 => .ok (.ldk pm (iw.extractLsb' 18 4) t0 t1)
  | 4 => withPm iw fun pm => mustBeZero (iw.extractLsb' 6 7) <| withTarget (iw.extractLsb' 13 9) fun t0 => .ok (.getx pm t0 (iw.extractLsb' 0 6))
  | 5 => withPm iw fun pm => withField (SpecialReg.ofBits (iw.extractLsb' 9 13)) fun sr => withTarget (iw.extractLsb' 0 9) fun t0 => .ok (.gets pm sr t0)
  | 6 => withPm iw fun pm => withTarget (iw.extractLsb' 13 9) fun t0 => .ok (.movi pm t0 (iw.extractLsb' 0 13))
  | 7 => withPm iw fun pm => withTarget (iw.extractLsb' 13 9) fun t0 => .ok (.movhi pm t0 (iw.extractLsb' 0 13))
  | 8 => withPm iw fun pm => mustBeZero (iw.extractLsb' 18 4) <| withTarget (iw.extractLsb' 9 9) fun t0 => withTarget (iw.extractLsb' 0 9) fun t1 => .ok (.nop pm t0 t1)
  | _ => .error .opcode

/-- Words with OP 0x10–0x1F (R51, R53, R55, R56). -/
def decode1 (lo : Nat) (iw : IWord) : Except DecodeError Instr :=
  match lo with
  | 0 => withPm iw fun pm => withField (Tm.ofBits (iw.extractLsb' 19 3)) fun tm => withField (relOf (iw.extractLsb' 1 3)) fun rel => .ok (.send pm tm (iw.extractLsb' 16 3) (iw.extractLsb' 4 12) rel (boolOf (iw.extractLsb' 0 1)))
  | 1 => withPm iw fun pm => mustBeZero (iw.extractLsb' 4 18) <| withField (relOf (iw.extractLsb' 1 3)) fun rel => .ok (.sendx pm rel (boolOf (iw.extractLsb' 0 1)))
  | 2 => withPm iw fun pm => withField (Tm.ofBits (iw.extractLsb' 19 3)) fun tm => withField (relOf (iw.extractLsb' 1 3)) fun rel => .ok (.sendv pm tm (iw.extractLsb' 16 3) (iw.extractLsb' 4 12) rel (boolOf (iw.extractLsb' 0 1)))
  | 3 => mustBeZero (iw.extractLsb' 22 2) <| withField (Tm.ofBits (iw.extractLsb' 19 3)) fun tm => withField (relOf (iw.extractLsb' 1 3)) fun rel => .ok (.steer tm (iw.extractLsb' 16 3) (iw.extractLsb' 4 12) rel (boolOf (iw.extractLsb' 0 1)))
  | 4 => withPm iw fun pm => withField (Tm.ofBits (iw.extractLsb' 19 3)) fun tm => .ok (.cont pm tm (iw.extractLsb' 16 3) (iw.extractLsb' 4 12) (iw.extractLsb' 0 4))
  | 5 => withPm iw fun pm => mustBe 2#3 (iw.extractLsb' 19 3) <| withField (relOf (iw.extractLsb' 1 3)) fun rel => .ok (.enter pm (iw.extractLsb' 16 3) (iw.extractLsb' 4 12) rel (boolOf (iw.extractLsb' 0 1)))
  | 6 => withPm iw fun pm => mustBe 3#3 (iw.extractLsb' 19 3) <| withField (relOf (iw.extractLsb' 1 3)) fun rel => .ok (.entermAnd pm (iw.extractLsb' 16 3) (iw.extractLsb' 4 12) rel (boolOf (iw.extractLsb' 0 1)))
  | 7 => withPm iw fun pm => mustBe 3#3 (iw.extractLsb' 19 3) <| withField (relOf (iw.extractLsb' 1 3)) fun rel => .ok (.entermOr pm (iw.extractLsb' 16 3) (iw.extractLsb' 4 12) rel (boolOf (iw.extractLsb' 0 1)))
  | 8 => withPm iw fun pm => mustBe 1#3 (iw.extractLsb' 19 3) <| withField (relOf (iw.extractLsb' 1 3)) fun rel => .ok (.next pm (iw.extractLsb' 16 3) (iw.extractLsb' 4 12) rel (boolOf (iw.extractLsb' 0 1)))
  | 9 => withPm iw fun pm => mustBe 4#3 (iw.extractLsb' 19 3) <| withField (relOf (iw.extractLsb' 1 3)) fun rel => .ok (.leave pm (iw.extractLsb' 16 3) (iw.extractLsb' 4 12) rel (boolOf (iw.extractLsb' 0 1)))
  | 10 => withPm iw fun pm => mustBeZero (iw.extractLsb' 18 4) <| withTarget (iw.extractLsb' 9 9) fun t0 => withTarget (iw.extractLsb' 0 9) fun t1 => .ok (.dkill pm t0 t1)
  | 11 => withPm iw fun pm => mustBeZero (iw.extractLsb' 18 4) <| withTarget (iw.extractLsb' 9 9) fun t0 => withTarget (iw.extractLsb' 0 9) fun t1 => .ok (.spawn pm t0 t1)
  | _ => .error .opcode

/-- Words with OP 0x20–0x2F (R51, R53, R55, R56). -/
def decode2 (lo : Nat) (iw : IWord) : Except DecodeError Instr :=
  match lo with
  | 0 => withPm iw fun pm => withField (Ity.ofBits (iw.extractLsb' 18 4)) fun ty => withTarget (iw.extractLsb' 9 9) fun t0 => withTarget (iw.extractLsb' 0 9) fun t1 => .ok (.add pm ty t0 t1)
  | 1 => withPm iw fun pm => withField (Ity.ofBits (iw.extractLsb' 18 4)) fun ty => withTarget (iw.extractLsb' 9 9) fun t0 => withTarget (iw.extractLsb' 0 9) fun t1 => .ok (.addSat pm ty t0 t1)
  | 2 => withPm iw fun pm => withField (Ity.ofBits (iw.extractLsb' 18 4)) fun ty => withTarget (iw.extractLsb' 9 9) fun t0 => withTarget (iw.extractLsb' 0 9) fun t1 => .ok (.sub pm ty t0 t1)
  | 3 => withPm iw fun pm => withField (Ity.ofBits (iw.extractLsb' 18 4)) fun ty => withTarget (iw.extractLsb' 9 9) fun t0 => withTarget (iw.extractLsb' 0 9) fun t1 => .ok (.subSat pm ty t0 t1)
  | 4 => withPm iw fun pm => withTarget (iw.extractLsb' 13 9) fun t0 => .ok (.addi pm t0 (iw.extractLsb' 0 13))
  | 5 => withPm iw fun pm => withField (Ity.ofBits (iw.extractLsb' 18 4)) fun ty => withTarget (iw.extractLsb' 9 9) fun t0 => withTarget (iw.extractLsb' 0 9) fun t1 => .ok (.mul pm ty t0 t1)
  | 6 => withPm iw fun pm => withField (Ity.ofBits (iw.extractLsb' 18 4)) fun ty => withTarget (iw.extractLsb' 9 9) fun t0 => withTarget (iw.extractLsb' 0 9) fun t1 => .ok (.mulh pm ty t0 t1)
  | 7 => withPm iw fun pm => withField (Ity.ofBits (iw.extractLsb' 18 4)) fun ty => withTarget (iw.extractLsb' 9 9) fun t0 => withTarget (iw.extractLsb' 0 9) fun t1 => .ok (.madd pm ty t0 t1)
  | 8 => withPm iw fun pm => withField (Ity.ofBits (iw.extractLsb' 18 4)) fun ty => withTarget (iw.extractLsb' 9 9) fun t0 => withTarget (iw.extractLsb' 0 9) fun t1 => .ok (.div pm ty t0 t1)
  | 9 => withPm iw fun pm => withField (Ity.ofBits (iw.extractLsb' 18 4)) fun ty => withTarget (iw.extractLsb' 9 9) fun t0 => withTarget (iw.extractLsb' 0 9) fun t1 => .ok (.rem pm ty t0 t1)
  | 10 => withPm iw fun pm => withField (Ity.ofBits (iw.extractLsb' 18 4)) fun ty => withTarget (iw.extractLsb' 9 9) fun t0 => withTarget (iw.extractLsb' 0 9) fun t1 => .ok (.min pm ty t0 t1)
  | 11 => withPm iw fun pm => withField (Ity.ofBits (iw.extractLsb' 18 4)) fun ty => withTarget (iw.extractLsb' 9 9) fun t0 => withTarget (iw.extractLsb' 0 9) fun t1 => .ok (.max pm ty t0 t1)
  | 12 => withPm iw fun pm => withField (Ity.ofBits (iw.extractLsb' 18 4)) fun ty => withTarget (iw.extractLsb' 9 9) fun t0 => withTarget (iw.extractLsb' 0 9) fun t1 => .ok (.abs pm ty t0 t1)
  | 13 => withPm iw fun pm => withField (Ity.ofBits (iw.extractLsb' 18 4)) fun ty => withTarget (iw.extractLsb' 9 9) fun t0 => withTarget (iw.extractLsb' 0 9) fun t1 => .ok (.neg pm ty t0 t1)
  | _ => .error .opcode

/-- Words with OP 0x30–0x3F (R51, R53, R55, R56). -/
def decode3 (lo : Nat) (iw : IWord) : Except DecodeError Instr :=
  match lo with
  | 0 => withPm iw fun pm => mustBeZero (iw.extractLsb' 18 4) <| withTarget (iw.extractLsb' 9 9) fun t0 => withTarget (iw.extractLsb' 0 9) fun t1 => .ok (.and pm t0 t1)
  | 1 => withPm iw fun pm => mustBeZero (iw.extractLsb' 18 4) <| withTarget (iw.extractLsb' 9 9) fun t0 => withTarget (iw.extractLsb' 0 9) fun t1 => .ok (.or pm t0 t1)
  | 2 => withPm iw fun pm => mustBeZero (iw.extractLsb' 18 4) <| withTarget (iw.extractLsb' 9 9) fun t0 => withTarget (iw.extractLsb' 0 9) fun t1 => .ok (.xor pm t0 t1)
  | 3 => withPm iw fun pm => mustBeZero (iw.extractLsb' 18 4) <| withTarget (iw.extractLsb' 9 9) fun t0 => withTarget (iw.extractLsb' 0 9) fun t1 => .ok (.andn pm t0 t1)
  | 4 => withPm iw fun pm => mustBeZero (iw.extractLsb' 18 4) <| withTarget (iw.extractLsb' 9 9) fun t0 => withTarget (iw.extractLsb' 0 9) fun t1 => .ok (.not pm t0 t1)
  | 5 => withPm iw fun pm => mustBeZero (iw.extractLsb' 20 2) <| withField (Width.ofBits (iw.extractLsb' 18 2)) fun w => withTarget (iw.extractLsb' 9 9) fun t0 => withTarget (iw.extractLsb' 0 9) fun t1 => .ok (.shl pm w t0 t1)
  | 6 => withPm iw fun pm => mustBeZero (iw.extractLsb' 20 2) <| withField (Width.ofBits (iw.extractLsb' 18 2)) fun w => withTarget (iw.extractLsb' 9 9) fun t0 => withTarget (iw.extractLsb' 0 9) fun t1 => .ok (.shr pm w t0 t1)
  | 7 => withPm iw fun pm => mustBeZero (iw.extractLsb' 20 2) <| withField (Width.ofBits (iw.extractLsb' 18 2)) fun w => withTarget (iw.extractLsb' 9 9) fun t0 => withTarget (iw.extractLsb' 0 9) fun t1 => .ok (.sar pm w t0 t1)
  | 8 => withPm iw fun pm => mustBeZero (iw.extractLsb' 20 2) <| withField (Width.ofBits (iw.extractLsb' 18 2)) fun w => withTarget (iw.extractLsb' 9 9) fun t0 => withTarget (iw.extractLsb' 0 9) fun t1 => .ok (.rotl pm w t0 t1)
  | 9 => withPm iw fun pm => mustBeZero (iw.extractLsb' 8 5) <| withField (Width.ofBits (iw.extractLsb' 6 2)) fun w => withTarget (iw.extractLsb' 13 9) fun t0 => .ok (.shli pm t0 w (iw.extractLsb' 0 6))
  | 10 => withPm iw fun pm => mustBeZero (iw.extractLsb' 8 5) <| withField (Width.ofBits (iw.extractLsb' 6 2)) fun w => withTarget (iw.extractLsb' 13 9) fun t0 => .ok (.shri pm t0 w (iw.extractLsb' 0 6))
  | 11 => withPm iw fun pm => mustBeZero (iw.extractLsb' 8 5) <| withField (Width.ofBits (iw.extractLsb' 6 2)) fun w => withTarget (iw.extractLsb' 13 9) fun t0 => .ok (.sari pm t0 w (iw.extractLsb' 0 6))
  | 12 => withPm iw fun pm => mustBeZero (iw.extractLsb' 8 5) <| withField (Width.ofBits (iw.extractLsb' 6 2)) fun w => withTarget (iw.extractLsb' 13 9) fun t0 => .ok (.rotli pm t0 w (iw.extractLsb' 0 6))
  | 13 => withPm iw fun pm => mustBeZero (iw.extractLsb' 20 2) <| withField (Width.ofBits (iw.extractLsb' 18 2)) fun w => withTarget (iw.extractLsb' 9 9) fun t0 => withTarget (iw.extractLsb' 0 9) fun t1 => .ok (.clz pm w t0 t1)
  | 14 => withPm iw fun pm => mustBeZero (iw.extractLsb' 20 2) <| withField (Width.ofBits (iw.extractLsb' 18 2)) fun w => withTarget (iw.extractLsb' 9 9) fun t0 => withTarget (iw.extractLsb' 0 9) fun t1 => .ok (.ctz pm w t0 t1)
  | 15 => withPm iw fun pm => mustBeZero (iw.extractLsb' 20 2) <| withField (Width.ofBits (iw.extractLsb' 18 2)) fun w => withTarget (iw.extractLsb' 9 9) fun t0 => withTarget (iw.extractLsb' 0 9) fun t1 => .ok (.popc pm w t0 t1)
  | _ => .error .opcode

/-- Words with OP 0x40–0x4F (R51, R53, R55, R56). -/
def decode4 (lo : Nat) (iw : IWord) : Except DecodeError Instr :=
  match lo with
  | 0 => withPm iw fun pm => mustBeZero (iw.extractLsb' 20 2) <| withField (Width.ofBits (iw.extractLsb' 18 2)) fun w => withTarget (iw.extractLsb' 9 9) fun t0 => withTarget (iw.extractLsb' 0 9) fun t1 => .ok (.brev pm w t0 t1)
  | 1 => withPm iw fun pm => mustBeZero (iw.extractLsb' 20 2) <| withField (Width.ofBits (iw.extractLsb' 18 2)) fun w => withTarget (iw.extractLsb' 9 9) fun t0 => withTarget (iw.extractLsb' 0 9) fun t1 => .ok (.bswap pm w t0 t1)
  | 2 => withPm iw fun pm => mustBeZero (iw.extractLsb' 19 3) <| withTarget (iw.extractLsb' 9 9) fun t0 => withTarget (iw.extractLsb' 0 9) fun t1 => .ok (.bfx pm (boolOf (iw.extractLsb' 18 1)) t0 t1)
  | 3 => withPm iw fun pm => mustBeZero (iw.extractLsb' 18 4) <| withTarget (iw.extractLsb' 9 9) fun t0 => withTarget (iw.extractLsb' 0 9) fun t1 => .ok (.bfi pm t0 t1)
  | 4 => withPm iw fun pm => mustBeZero (iw.extractLsb' 20 2) <| withField (Width.ofBits (iw.extractLsb' 18 2)) fun w => withTarget (iw.extractLsb' 9 9) fun t0 => withTarget (iw.extractLsb' 0 9) fun t1 => .ok (.sext pm w t0 t1)
  | 5 => withPm iw fun pm => mustBeZero (iw.extractLsb' 20 2) <| withField (Width.ofBits (iw.extractLsb' 18 2)) fun w => withTarget (iw.extractLsb' 9 9) fun t0 => withTarget (iw.extractLsb' 0 9) fun t1 => .ok (.zext pm w t0 t1)
  | 6 => withPm iw fun pm => withField (Cond.ofBits (iw.extractLsb' 18 4)) fun c => withTarget (iw.extractLsb' 9 9) fun t0 => withTarget (iw.extractLsb' 0 9) fun t1 => .ok (.cmp pm c t0 t1)
  | 7 => withPm iw fun pm => withField (Cond.ofBits3 (iw.extractLsb' 10 3)) fun c => withTarget (iw.extractLsb' 13 9) fun t0 => .ok (.cmpi pm t0 c (iw.extractLsb' 0 10))
  | 8 => withPm iw fun pm => mustBeZero (iw.extractLsb' 18 4) <| withTarget (iw.extractLsb' 9 9) fun t0 => withTarget (iw.extractLsb' 0 9) fun t1 => .ok (.sel pm t0 t1)
  | 9 => withPm iw fun pm => mustBeZero (iw.extractLsb' 18 4) <| withTarget (iw.extractLsb' 9 9) fun t0 => withTarget (iw.extractLsb' 0 9) fun t1 => .ok (.pand pm t0 t1)
  | 10 => withPm iw fun pm => mustBeZero (iw.extractLsb' 18 4) <| withTarget (iw.extractLsb' 9 9) fun t0 => withTarget (iw.extractLsb' 0 9) fun t1 => .ok (.por pm t0 t1)
  | 11 => withPm iw fun pm => mustBeZero (iw.extractLsb' 18 4) <| withTarget (iw.extractLsb' 9 9) fun t0 => withTarget (iw.extractLsb' 0 9) fun t1 => .ok (.pxor pm t0 t1)
  | 12 => withPm iw fun pm => mustBeZero (iw.extractLsb' 18 4) <| withTarget (iw.extractLsb' 9 9) fun t0 => withTarget (iw.extractLsb' 0 9) fun t1 => .ok (.pnot pm t0 t1)
  | 13 => withPm iw fun pm => mustBeZero (iw.extractLsb' 19 3) <| withField (Half.ofBits (iw.extractLsb' 18 1)) fun h => withTarget (iw.extractLsb' 9 9) fun t0 => withTarget (iw.extractLsb' 0 9) fun t1 => .ok (.pack2 pm h t0 t1)
  | 14 => withPm iw fun pm => mustBeZero (iw.extractLsb' 19 3) <| withField (Half.ofBits (iw.extractLsb' 18 1)) fun h => withTarget (iw.extractLsb' 9 9) fun t0 => withTarget (iw.extractLsb' 0 9) fun t1 => .ok (.unpk pm h t0 t1)
  | _ => .error .opcode

/-- Words with OP 0x50–0x5F (R51, R53, R55, R56). -/
def decode5 (lo : Nat) (iw : IWord) : Except DecodeError Instr :=
  match lo with
  | 0 => withPm iw fun pm => withField (Rnd.ofBits (iw.extractLsb' 20 2)) fun rm => withField (FTy.ofBits (iw.extractLsb' 18 2)) fun ty => withTarget (iw.extractLsb' 9 9) fun t0 => withTarget (iw.extractLsb' 0 9) fun t1 => .ok (.fadd pm rm ty t0 t1)
  | 1 => withPm iw fun pm => withField (Rnd.ofBits (iw.extractLsb' 20 2)) fun rm => withField (FTy.ofBits (iw.extractLsb' 18 2)) fun ty => withTarget (iw.extractLsb' 9 9) fun t0 => withTarget (iw.extractLsb' 0 9) fun t1 => .ok (.fsub pm rm ty t0 t1)
  | 2 => withPm iw fun pm => withField (Rnd.ofBits (iw.extractLsb' 20 2)) fun rm => withField (FTy.ofBits (iw.extractLsb' 18 2)) fun ty => withTarget (iw.extractLsb' 9 9) fun t0 => withTarget (iw.extractLsb' 0 9) fun t1 => .ok (.fmul pm rm ty t0 t1)
  | 3 => withPm iw fun pm => withField (Rnd.ofBits (iw.extractLsb' 20 2)) fun rm => withField (FTy.ofBits (iw.extractLsb' 18 2)) fun ty => withTarget (iw.extractLsb' 9 9) fun t0 => withTarget (iw.extractLsb' 0 9) fun t1 => .ok (.ffma pm rm ty t0 t1)
  | 4 => withPm iw fun pm => mustBeZero (iw.extractLsb' 20 2) <| withField (FTy.ofBits (iw.extractLsb' 18 2)) fun ty => withTarget (iw.extractLsb' 9 9) fun t0 => withTarget (iw.extractLsb' 0 9) fun t1 => .ok (.fmin pm ty t0 t1)
  | 5 => withPm iw fun pm => mustBeZero (iw.extractLsb' 20 2) <| withField (FTy.ofBits (iw.extractLsb' 18 2)) fun ty => withTarget (iw.extractLsb' 9 9) fun t0 => withTarget (iw.extractLsb' 0 9) fun t1 => .ok (.fmax pm ty t0 t1)
  | 6 => withPm iw fun pm => mustBeZero (iw.extractLsb' 20 2) <| withField (FTy.ofBits (iw.extractLsb' 18 2)) fun ty => withTarget (iw.extractLsb' 9 9) fun t0 => withTarget (iw.extractLsb' 0 9) fun t1 => .ok (.fabs pm ty t0 t1)
  | 7 => withPm iw fun pm => mustBeZero (iw.extractLsb' 20 2) <| withField (FTy.ofBits (iw.extractLsb' 18 2)) fun ty => withTarget (iw.extractLsb' 9 9) fun t0 => withTarget (iw.extractLsb' 0 9) fun t1 => .ok (.fneg pm ty t0 t1)
  | 8 => withPm iw fun pm => withField (FCond.ofBits (iw.extractLsb' 20 2)) fun c => withField (FTy.ofBits (iw.extractLsb' 18 2)) fun ty => withTarget (iw.extractLsb' 9 9) fun t0 => withTarget (iw.extractLsb' 0 9) fun t1 => .ok (.fcmp pm c ty t0 t1)
  | 9 => withPm iw fun pm => mustBeZero (iw.extractLsb' 20 2) <| withField (FTy.ofBits (iw.extractLsb' 18 2)) fun ty => withTarget (iw.extractLsb' 9 9) fun t0 => withTarget (iw.extractLsb' 0 9) fun t1 => .ok (.fclass pm ty t0 t1)
  | 10 => withPm iw fun pm => withField (Rnd.ofBits (iw.extractLsb' 20 2)) fun rm => withField (FTy.ofBits (iw.extractLsb' 18 2)) fun ty => withTarget (iw.extractLsb' 9 9) fun t0 => withTarget (iw.extractLsb' 0 9) fun t1 => .ok (.fdiv pm rm ty t0 t1)
  | 11 => withPm iw fun pm => withField (Rnd.ofBits (iw.extractLsb' 20 2)) fun rm => withField (FTy.ofBits (iw.extractLsb' 18 2)) fun ty => withTarget (iw.extractLsb' 9 9) fun t0 => withTarget (iw.extractLsb' 0 9) fun t1 => .ok (.fsqrt pm rm ty t0 t1)
  | 12 => withPm iw fun pm => mustBeZero (iw.extractLsb' 18 4) <| withTarget (iw.extractLsb' 9 9) fun t0 => withTarget (iw.extractLsb' 0 9) fun t1 => .ok (.frcpe pm t0 t1)
  | 13 => withPm iw fun pm => mustBeZero (iw.extractLsb' 18 4) <| withTarget (iw.extractLsb' 9 9) fun t0 => withTarget (iw.extractLsb' 0 9) fun t1 => .ok (.frsqe pm t0 t1)
  | 14 => withPm iw fun pm => mustBeZero (iw.extractLsb' 18 4) <| withTarget (iw.extractLsb' 9 9) fun t0 => withTarget (iw.extractLsb' 0 9) fun t1 => .ok (.fexp2 pm t0 t1)
  | 15 => withPm iw fun pm => mustBeZero (iw.extractLsb' 18 4) <| withTarget (iw.extractLsb' 9 9) fun t0 => withTarget (iw.extractLsb' 0 9) fun t1 => .ok (.flog2 pm t0 t1)
  | _ => .error .opcode

/-- Words with OP 0x60–0x6F (R51, R53, R55, R56). -/
def decode6 (lo : Nat) (iw : IWord) : Except DecodeError Instr :=
  match lo with
  | 0 => withPm iw fun pm => mustBeZero (iw.extractLsb' 18 4) <| withTarget (iw.extractLsb' 9 9) fun t0 => withTarget (iw.extractLsb' 0 9) fun t1 => .ok (.fsin pm t0 t1)
  | 1 => withPm iw fun pm => mustBeZero (iw.extractLsb' 18 4) <| withTarget (iw.extractLsb' 9 9) fun t0 => withTarget (iw.extractLsb' 0 9) fun t1 => .ok (.fcos pm t0 t1)
  | 2 => withPm iw fun pm => mustBeZero (iw.extractLsb' 18 4) <| withTarget (iw.extractLsb' 9 9) fun t0 => withTarget (iw.extractLsb' 0 9) fun t1 => .ok (.ftanh pm t0 t1)
  | 3 => withPm iw fun pm => withField (Rnd.ofBits (iw.extractLsb' 20 2)) fun rm => withField (FTy.ofBits (iw.extractLsb' 18 2)) fun ty => withTarget (iw.extractLsb' 9 9) fun t0 => withTarget (iw.extractLsb' 0 9) fun t1 => .ok (.fround pm rm ty t0 t1)
  | 4 => withPm iw fun pm => withField (Rnd.ofBits (iw.extractLsb' 24 2)) fun rm => withField (Fmt.ofBits (iw.extractLsb' 15 6)) fun dst => withField (Fmt.ofBits (iw.extractLsb' 9 6)) fun src => withTarget (iw.extractLsb' 0 9) fun t0 => .ok (.cvt rm pm (boolOf (iw.extractLsb' 21 1)) dst src t0)
  | 5 => withPm iw fun pm => withField (Rnd.ofBits (iw.extractLsb' 24 2)) fun rm => withField (Fmt.ofBits (iw.extractLsb' 15 6)) fun dst => withField (Fmt.ofBits (iw.extractLsb' 9 6)) fun src => withTarget (iw.extractLsb' 0 9) fun t0 => .ok (.cvt rm pm (boolOf (iw.extractLsb' 21 1)) dst src t0)
  | 6 => withPm iw fun pm => withField (Rnd.ofBits (iw.extractLsb' 24 2)) fun rm => withField (Fmt.ofBits (iw.extractLsb' 15 6)) fun dst => withField (Fmt.ofBits (iw.extractLsb' 9 6)) fun src => withTarget (iw.extractLsb' 0 9) fun t0 => .ok (.cvt rm pm (boolOf (iw.extractLsb' 21 1)) dst src t0)
  | 7 => withPm iw fun pm => withField (Rnd.ofBits (iw.extractLsb' 24 2)) fun rm => withField (Fmt.ofBits (iw.extractLsb' 15 6)) fun dst => withField (Fmt.ofBits (iw.extractLsb' 9 6)) fun src => withTarget (iw.extractLsb' 0 9) fun t0 => .ok (.cvt rm pm (boolOf (iw.extractLsb' 21 1)) dst src t0)
  | 8 => withPm iw fun pm => withField (Fmt.ofBits (iw.extractLsb' 15 6)) fun dst => withField (Fmt.ofBits (iw.extractLsb' 9 6)) fun src => withTarget (iw.extractLsb' 0 9) fun t0 => .ok (.cvtsr pm (boolOf (iw.extractLsb' 21 1)) dst src t0)
  | 9 => withPm iw fun pm => withField (Rnd.ofBits (iw.extractLsb' 20 2)) fun rm => withField (FTy.ofBits (iw.extractLsb' 18 2)) fun ty => withTarget (iw.extractLsb' 9 9) fun t0 => withTarget (iw.extractLsb' 0 9) fun t1 => .ok (.hadd2 pm rm ty t0 t1)
  | 10 => withPm iw fun pm => withField (Rnd.ofBits (iw.extractLsb' 20 2)) fun rm => withField (FTy.ofBits (iw.extractLsb' 18 2)) fun ty => withTarget (iw.extractLsb' 9 9) fun t0 => withTarget (iw.extractLsb' 0 9) fun t1 => .ok (.hmul2 pm rm ty t0 t1)
  | 11 => withPm iw fun pm => withField (Rnd.ofBits (iw.extractLsb' 20 2)) fun rm => withField (FTy.ofBits (iw.extractLsb' 18 2)) fun ty => withTarget (iw.extractLsb' 9 9) fun t0 => withTarget (iw.extractLsb' 0 9) fun t1 => .ok (.hfma2 pm rm ty t0 t1)
  | 12 => withPm iw fun pm => mustBeZero (iw.extractLsb' 20 2) <| withField (FTy.ofBits (iw.extractLsb' 18 2)) fun ty => withTarget (iw.extractLsb' 9 9) fun t0 => withTarget (iw.extractLsb' 0 9) fun t1 => .ok (.hmax2 pm ty t0 t1)
  | 13 => withPm iw fun pm => withField (Dot4Ty.ofBits (iw.extractLsb' 18 4)) fun ty => withTarget (iw.extractLsb' 9 9) fun t0 => withTarget (iw.extractLsb' 0 9) fun t1 => .ok (.dot4 pm ty t0 t1)
  | _ => .error .opcode

/-- Words with OP 0x80–0x8F (R51, R53, R55, R56). -/
def decode8 (lo : Nat) (iw : IWord) : Except DecodeError Instr :=
  match lo with
  | 0 => withPm iw fun pm => mustBeZero (iw.extractLsb' 18 4) <| withTarget (iw.extractLsb' 9 9) fun t0 => withTarget (iw.extractLsb' 0 9) fun t1 => .ok (.shfl pm t0 t1)
  | 1 => withPm iw fun pm => mustBeZero (iw.extractLsb' 18 4) <| withTarget (iw.extractLsb' 9 9) fun t0 => withTarget (iw.extractLsb' 0 9) fun t1 => .ok (.shfx pm t0 t1)
  | 2 => withPm iw fun pm => mustBeZero (iw.extractLsb' 18 4) <| withTarget (iw.extractLsb' 9 9) fun t0 => withTarget (iw.extractLsb' 0 9) fun t1 => .ok (.shup pm t0 t1)
  | 3 => withPm iw fun pm => mustBeZero (iw.extractLsb' 18 4) <| withTarget (iw.extractLsb' 9 9) fun t0 => withTarget (iw.extractLsb' 0 9) fun t1 => .ok (.shdn pm t0 t1)
  | 4 => withPm iw fun pm => mustBeZero (iw.extractLsb' 18 4) <| withTarget (iw.extractLsb' 9 9) fun t0 => withTarget (iw.extractLsb' 0 9) fun t1 => .ok (.ballot pm t0 t1)
  | 5 => withPm iw fun pm => mustBeZero (iw.extractLsb' 18 4) <| withTarget (iw.extractLsb' 9 9) fun t0 => withTarget (iw.extractLsb' 0 9) fun t1 => .ok (.vany pm t0 t1)
  | 6 => withPm iw fun pm => mustBeZero (iw.extractLsb' 18 4) <| withTarget (iw.extractLsb' 9 9) fun t0 => withTarget (iw.extractLsb' 0 9) fun t1 => .ok (.vall pm t0 t1)
  | 7 => withPm iw fun pm => withField (RedOp.ofBits (iw.extractLsb' 18 4)) fun op => withTarget (iw.extractLsb' 9 9) fun t0 => withTarget (iw.extractLsb' 0 9) fun t1 => .ok (.scan pm op t0 t1)
  | 8 => withPm iw fun pm => withField (RedOp.ofBits (iw.extractLsb' 18 4)) fun op => withTarget (iw.extractLsb' 9 9) fun t0 => withTarget (iw.extractLsb' 0 9) fun t1 => .ok (.redl pm op t0 t1)
  | 9 => withPm iw fun pm => mustBeZero (iw.extractLsb' 18 4) <| withTarget (iw.extractLsb' 9 9) fun t0 => withTarget (iw.extractLsb' 0 9) fun t1 => .ok (.bcast pm t0 t1)
  | _ => .error .opcode

/-- Words with OP 0x90–0x9F (R51, R53, R55, R56). -/
def decode9 (lo : Nat) (iw : IWord) : Except DecodeError Instr :=
  match lo with
  | 0 => withPm iw fun pm => withField (CursDim.ofBits (iw.extractLsb' 18 4)) fun d => withTarget (iw.extractLsb' 9 9) fun t0 => withTarget (iw.extractLsb' 0 9) fun t1 => .ok (.curs pm d t0 t1)
  | 1 => withPm iw fun pm => withField (Dim.ofBits (iw.extractLsb' 10 3)) fun d => withTarget (iw.extractLsb' 13 9) fun t0 => .ok (.cursi pm t0 d (iw.extractLsb' 0 10))
  | 2 => withPm iw fun pm => withField (MemTy.ofBits (iw.extractLsb' 18 4)) fun w => withTarget (iw.extractLsb' 9 9) fun t0 => withTarget (iw.extractLsb' 0 9) fun t1 => .ok (.ld pm w t0 t1)
  | 3 => withPm iw fun pm => withField (MemTy.ofBits (iw.extractLsb' 18 4)) fun w => withTarget (iw.extractLsb' 9 9) fun t0 => withTarget (iw.extractLsb' 0 9) fun t1 => .ok (.st pm w t0 t1)
  | 4 => withPm iw fun pm => mustBeZero (iw.extractLsb' 20 2) <| withField (Width.ofBits (iw.extractLsb' 18 2)) fun w => withTarget (iw.extractLsb' 9 9) fun t0 => withTarget (iw.extractLsb' 0 9) fun t1 => .ok (.ldsp pm w t0 t1)
  | 5 => withPm iw fun pm => mustBeZero (iw.extractLsb' 20 2) <| withField (Width.ofBits (iw.extractLsb' 18 2)) fun w => withTarget (iw.extractLsb' 9 9) fun t0 => withTarget (iw.extractLsb' 0 9) fun t1 => .ok (.stsp pm w t0 t1)
  | 6 => withPm iw fun pm => mustBeZero (iw.extractLsb' 20 2) <| withField (Width.ofBits (iw.extractLsb' 18 2)) fun w => withTarget (iw.extractLsb' 9 9) fun t0 => withTarget (iw.extractLsb' 0 9) fun t1 => .ok (.lda pm w t0 t1)
  | 7 => withPm iw fun pm => mustBeZero (iw.extractLsb' 20 2) <| withField (Width.ofBits (iw.extractLsb' 18 2)) fun w => withTarget (iw.extractLsb' 9 9) fun t0 => withTarget (iw.extractLsb' 0 9) fun t1 => .ok (.sta pm w t0 t1)
  | 8 => withPm iw fun pm => mustBeZero (iw.extractLsb' 5 4) <| withField (AtomOp.ofBits (iw.extractLsb' 18 4)) fun op => withField (Order.ofBits (iw.extractLsb' 2 2)) fun ord => withField (Scope.ofBits (iw.extractLsb' 0 2)) fun sc => withTarget (iw.extractLsb' 9 9) fun t0 => .ok (.atom pm op t0 (boolOf (iw.extractLsb' 4 1)) ord sc)
  | 9 => withPm iw fun pm => mustBeZero (iw.extractLsb' 5 4) <| mustBeZero (iw.extractLsb' 18 4) <| withField (Order.ofBits (iw.extractLsb' 2 2)) fun ord => withField (Scope.ofBits (iw.extractLsb' 0 2)) fun sc => withTarget (iw.extractLsb' 9 9) fun t0 => .ok (.cas pm t0 (boolOf (iw.extractLsb' 4 1)) ord sc)
  | 10 => withPm iw fun pm => mustBeZero (iw.extractLsb' 4 5) <| withField (FatomOp.ofBits (iw.extractLsb' 18 4)) fun op => withField (Order.ofBits (iw.extractLsb' 2 2)) fun ord => withField (Scope.ofBits (iw.extractLsb' 0 2)) fun sc => withTarget (iw.extractLsb' 9 9) fun t0 => .ok (.fatom pm op t0 ord sc)
  | 11 => withPm iw fun pm => mustBeZero (iw.extractLsb' 2 1) <| mustBeZero (iw.extractLsb' 4 5) <| mustBeZero (iw.extractLsb' 18 4) <| withField (Scope.ofBits (iw.extractLsb' 0 2)) fun sc => withTarget (iw.extractLsb' 9 9) fun t0 => .ok (.redo pm t0 (boolOf (iw.extractLsb' 3 1)) sc)
  | 12 => withPm iw fun pm => mustBeZero (iw.extractLsb' 20 2) <| withField (Scope.ofBits (iw.extractLsb' 18 2)) fun sc => withTarget (iw.extractLsb' 9 9) fun t0 => withTarget (iw.extractLsb' 0 9) fun t1 => .ok (.fence pm sc t0 t1)
  | 13 => withPm iw fun pm => mustBeZero (iw.extractLsb' 19 3) <| withField (PrefLevel.ofBits (iw.extractLsb' 18 1)) fun lv => withTarget (iw.extractLsb' 9 9) fun t0 => withTarget (iw.extractLsb' 0 9) fun t1 => .ok (.pref pm lv t0 t1)
  | 14 => withPm iw fun pm => withField (HqryItem.ofBits (iw.extractLsb' 18 4)) fun q => withTarget (iw.extractLsb' 9 9) fun t0 => withTarget (iw.extractLsb' 0 9) fun t1 => .ok (.hqry pm q t0 t1)
  | 15 => withPm iw fun pm => mustBeZero (iw.extractLsb' 18 4) <| withTarget (iw.extractLsb' 9 9) fun t0 => withTarget (iw.extractLsb' 0 9) fun t1 => .ok (.arrive pm t0 t1)
  | _ => .error .opcode

/-- Words with OP 0xA0–0xAF (R51, R53, R55, R56). -/
def decodeA (lo : Nat) (iw : IWord) : Except DecodeError Instr :=
  match lo with
  | 0 => withPm iw fun pm => mustBeZero (iw.extractLsb' 18 4) <| withTarget (iw.extractLsb' 9 9) fun t0 => withTarget (iw.extractLsb' 0 9) fun t1 => .ok (.waitb pm t0 t1)
  | 1 =>
    match (iw.extractLsb' 18 4).toNat with
    | 0 => withPm iw fun pm => withTarget (iw.extractLsb' 9 9) fun t0 => withTarget (iw.extractLsb' 0 9) fun t1 => .ok (.hresFetch pm t0 t1)
    | 1 => withPm iw fun pm => withTarget (iw.extractLsb' 9 9) fun t0 => withTarget (iw.extractLsb' 0 9) fun t1 => .ok (.hresRelease pm t0 t1)
    | _ => .error .field
  | _ => .error .opcode

/-- Words with OP 0xB0–0xBF (R51, R53, R55, R56). -/
def decodeB (lo : Nat) (iw : IWord) : Except DecodeError Instr :=
  match lo with
  | 0 => withPm iw fun pm => mustBeZero (iw.extractLsb' 21 1) <| withField (MxTy.ofBits ((iw.extractLsb' 18 3).setWidth 4)) fun ty => withTarget (iw.extractLsb' 9 9) fun t0 => withTarget (iw.extractLsb' 0 9) fun t1 => .ok (.mma pm ty t0 t1)
  | 1 => withPm iw fun pm => withField (MxTy.ofBits (iw.extractLsb' 18 4)) fun ty => withTarget (iw.extractLsb' 9 9) fun t0 => withTarget (iw.extractLsb' 0 9) fun t1 => .ok (.mmas pm ty t0 t1)
  | 2 => withPm iw fun pm => mustBeZero (iw.extractLsb' 21 1) <| withField (MxTy.ofBits ((iw.extractLsb' 18 3).setWidth 4)) fun ty => withTarget (iw.extractLsb' 9 9) fun t0 => withTarget (iw.extractLsb' 0 9) fun t1 => .ok (.wld pm ty t0 t1)
  | 3 => withPm iw fun pm => mustBeZero (iw.extractLsb' 18 4) <| withTarget (iw.extractLsb' 9 9) fun t0 => withTarget (iw.extractLsb' 0 9) fun t1 => .ok (.aclr pm t0 t1)
  | 4 => withPm iw fun pm => withField (AcvtTy.ofBits (iw.extractLsb' 18 4)) fun ty => withTarget (iw.extractLsb' 9 9) fun t0 => withTarget (iw.extractLsb' 0 9) fun t1 => .ok (.acvt pm ty t0 t1)
  | 5 => withPm iw fun pm => mustBeZero (iw.extractLsb' 18 4) <| withTarget (iw.extractLsb' 9 9) fun t0 => withTarget (iw.extractLsb' 0 9) fun t1 => .ok (.aadd pm t0 t1)
  | _ => .error .opcode

/-- Words with OP 0xC0–0xCF (R51, R53, R55, R56). -/
def decodeC (lo : Nat) (iw : IWord) : Except DecodeError Instr :=
  match lo with
  | 0 => withPm iw fun pm => mustBeZero (iw.extractLsb' 18 4) <| withTarget (iw.extractLsb' 9 9) fun t0 => withTarget (iw.extractLsb' 0 9) fun t1 => .ok (.cpy pm t0 t1)
  | 1 => withPm iw fun pm => mustBeZero (iw.extractLsb' 18 4) <| withTarget (iw.extractLsb' 9 9) fun t0 => withTarget (iw.extractLsb' 0 9) fun t1 => .ok (.cpyg pm t0 t1)
  | 2 => withPm iw fun pm => mustBeZero (iw.extractLsb' 18 4) <| withTarget (iw.extractLsb' 9 9) fun t0 => withTarget (iw.extractLsb' 0 9) fun t1 => .ok (.cpys pm t0 t1)
  | 3 => withPm iw fun pm => mustBeZero (iw.extractLsb' 20 2) <| withField (CpyrOp.ofBits (iw.extractLsb' 18 2)) fun op => withTarget (iw.extractLsb' 9 9) fun t0 => withTarget (iw.extractLsb' 0 9) fun t1 => .ok (.cpyr pm op t0 t1)
  | 4 =>
    match (iw.extractLsb' 18 4).toNat with
    | 0 => withPm iw fun pm => withTarget (iw.extractLsb' 9 9) fun t0 => withTarget (iw.extractLsb' 0 9) fun t1 => .ok (.cpybsToplanes pm t0 t1)
    | 1 => withPm iw fun pm => withTarget (iw.extractLsb' 9 9) fun t0 => withTarget (iw.extractLsb' 0 9) fun t1 => .ok (.cpybsFromplanes pm t0 t1)
    | _ => .error .field
  | 5 => withPm iw fun pm => mustBeZero (iw.extractLsb' 18 4) <| withTarget (iw.extractLsb' 9 9) fun t0 => withTarget (iw.extractLsb' 0 9) fun t1 => .ok (.cpyt pm t0 t1)
  | 6 =>
    match (iw.extractLsb' 18 4).toNat with
    | 0 => withPm iw fun pm => withTarget (iw.extractLsb' 9 9) fun t0 => withTarget (iw.extractLsb' 0 9) fun t1 => .ok (.cpyhTohost pm t0 t1)
    | 1 => withPm iw fun pm => withTarget (iw.extractLsb' 9 9) fun t0 => withTarget (iw.extractLsb' 0 9) fun t1 => .ok (.cpyhFromhost pm t0 t1)
    | _ => .error .field
  | 7 => withPm iw fun pm => mustBeZero (iw.extractLsb' 18 4) <| withTarget (iw.extractLsb' 9 9) fun t0 => withTarget (iw.extractLsb' 0 9) fun t1 => .ok (.cpyf pm t0 t1)
  | _ => .error .opcode

/-- Words with OP 0xD0–0xDF (R51, R53, R55, R56). -/
def decodeD (lo : Nat) (iw : IWord) : Except DecodeError Instr :=
  match lo with
  | 0 => withPm iw fun pm => mustBeZero (iw.extractLsb' 20 2) <| withTarget (iw.extractLsb' 9 9) fun t0 => withTarget (iw.extractLsb' 0 9) fun t1 => .ok (.lkctx pm (iw.extractLsb' 18 2) t0 t1)
  | 1 => withPm iw fun pm => mustBeZero (iw.extractLsb' 20 2) <| withTarget (iw.extractLsb' 9 9) fun t0 => withTarget (iw.extractLsb' 0 9) fun t1 => .ok (.lkrun pm (iw.extractLsb' 18 2) t0 t1)
  | 2 => withPm iw fun pm => mustBeZero (iw.extractLsb' 18 4) <| withTarget (iw.extractLsb' 9 9) fun t0 => withTarget (iw.extractLsb' 0 9) fun t1 => .ok (.lkst pm t0 t1)
  | 8 => withPm iw fun pm => mustBeZero (iw.extractLsb' 18 4) <| withTarget (iw.extractLsb' 9 9) fun t0 => withTarget (iw.extractLsb' 0 9) fun t1 => .ok (.tvec pm t0 t1)
  | 9 => withPm iw fun pm => withField (MxTy.ofBits (iw.extractLsb' 18 4)) fun ty => withTarget (iw.extractLsb' 9 9) fun t0 => withTarget (iw.extractLsb' 0 9) fun t1 => .ok (.tgemv pm ty t0 t1)
  | 10 => withPm iw fun pm => withField (MxTy.ofBits (iw.extractLsb' 18 4)) fun ty => withTarget (iw.extractLsb' 9 9) fun t0 => withTarget (iw.extractLsb' 0 9) fun t1 => .ok (.tgemvs pm ty t0 t1)
  | 11 => withPm iw fun pm => mustBeZero (iw.extractLsb' 18 4) <| withTarget (iw.extractLsb' 9 9) fun t0 => withTarget (iw.extractLsb' 0 9) fun t1 => .ok (.tred pm t0 t1)
  | _ => .error .opcode

/-- Words with OP 0xE0–0xEF (R51, R53, R55, R56). -/
def decodeE (lo : Nat) (iw : IWord) : Except DecodeError Instr :=
  match lo with
  | 0 => withPm iw fun pm => withTarget (iw.extractLsb' 0 9) fun t0 => .ok (.trap pm (iw.extractLsb' 9 13) t0)
  | 1 => withPm iw fun pm => withTarget (iw.extractLsb' 0 9) fun t0 => .ok (.brk pm (iw.extractLsb' 9 13) t0)
  | 2 => withPm iw fun pm => withField (SysReg.ofBits (iw.extractLsb' 9 13)) fun sr => withTarget (iw.extractLsb' 0 9) fun t0 => .ok (.rdsr pm sr t0)
  | 3 => withPm iw fun pm => withField (SysReg.ofBits (iw.extractLsb' 9 13)) fun sr => withTarget (iw.extractLsb' 0 9) fun t0 => .ok (.wrsr pm sr t0)
  | 4 => withPm iw fun pm => mustBeZero (iw.extractLsb' 9 13) <| withTarget (iw.extractLsb' 0 9) fun t0 => .ok (.resume pm t0)
  | 5 => withPm iw fun pm => mustBeZero (iw.extractLsb' 9 13) <| withTarget (iw.extractLsb' 0 9) fun t0 => .ok (.retry pm t0)
  | 6 => withPm iw fun pm => mustBeZero (iw.extractLsb' 9 13) <| withTarget (iw.extractLsb' 0 9) fun t0 => .ok (.abort pm t0)
  | _ => .error .opcode

/-- The fields of a word, before the checks over several fields (R51–R57): OP picks the layout (R41). -/
def decodeFields (iw : IWord) : Except DecodeError Instr :=
  let lo := (iw.extractLsb' 24 4).toNat
  match (iw.extractLsb' 28 4).toNat with
  | 0 => decode0 lo iw
  | 1 => decode1 lo iw
  | 2 => decode2 lo iw
  | 3 => decode3 lo iw
  | 4 => decode4 lo iw
  | 5 => decode5 lo iw
  | 6 => decode6 lo iw
  | 8 => decode8 lo iw
  | 9 => decode9 lo iw
  | 10 => decodeA lo iw
  | 11 => decodeB lo iw
  | 12 => decodeC lo iw
  | 13 => decodeD lo iw
  | 14 => decodeE lo iw
  | 15 => withPm iw fun pm => withTarget (iw.extractLsb' 9 9) fun t0 => withTarget (iw.extractLsb' 0 9) fun t1 => .ok (.emx (iw.extractLsb' 24 4) pm (iw.extractLsb' 18 4) t0 t1)
  | _ => .error .opcode

/-- DECODE: the instruction a word stands for, or the name of its first bad part (R59 steps 2 to 5, for what one
word alone decides). -/
def decode (w : IWord) : Except DecodeError Instr :=
  match decodeFields w with
  | .ok i => if i.wf then .ok i else .error .illFormed
  | .error e => .error e

/-- The number two fields side by side stand for. -/
theorem toNat_join {n m : Nat} (a : BitVec n) (b : BitVec m) : (a ++ b).toNat = a.toNat * 2 ^ m + b.toNat := by
  rw [BitVec.toNat_append, ← Nat.shiftLeft_add_eq_or_of_lt b.isLt, Nat.shiftLeft_eq]

/-- A word of format F2 or FM (R41). -/
def mkF2 (op : BitVec 8) (pm : BitVec 2) (sub : BitVec 4) (t0 t1 : BitVec 9) : IWord := op ++ pm ++ sub ++ t0 ++ t1

/-- A word of format FI (R41). -/
def mkFI (op : BitVec 8) (pm : BitVec 2) (t0 : BitVec 9) (imm : BitVec 13) : IWord := op ++ pm ++ t0 ++ imm

/-- A word of format FS (R41). -/
def mkFS (op : BitVec 8) (pm : BitVec 2) (tm slot : BitVec 3) (blk : BitVec 12) (flags : BitVec 4) : IWord :=
  op ++ pm ++ tm ++ slot ++ blk ++ flags

/-- A word of format FX (R41). -/
def mkFX (op : BitVec 8) (pm : BitVec 2) (code : BitVec 13) (t0 : BitVec 9) : IWord := op ++ pm ++ code ++ t0

/-- The ORD field of R42. -/
def mkOrd (w64 : BitVec 1) (ord sc : BitVec 2) : BitVec 9 := 0#4 ++ w64 ++ ord ++ sc

/-- ENCODE: the word of an instruction (R41–R57). A step of another agent has no word; it gives the refused all-zero
word (R56). -/
def encode : Instr → IWord
  | .ldf pm n t0 t1 => mkF2 0x01#8 pm.toBits n t0.toBits t1.toBits
  | .ldfv pm n t0 t1 => mkF2 0x02#8 pm.toBits n t0.toBits t1.toBits
  | .ldk pm n t0 t1 => mkF2 0x03#8 pm.toBits n t0.toBits t1.toBits
  | .getx pm t0 x => mkFI 0x04#8 pm.toBits t0.toBits (0#7 ++ x)
  | .gets pm sr t0 => mkFX 0x05#8 pm.toBits sr.toBits t0.toBits
  | .movi pm t0 imm => mkFI 0x06#8 pm.toBits t0.toBits imm
  | .movhi pm t0 imm => mkFI 0x07#8 pm.toBits t0.toBits imm
  | .nop pm t0 t1 => mkF2 0x08#8 pm.toBits 0#4 t0.toBits t1.toBits
  | .send pm tm slot blk rel close => mkFS 0x10#8 pm.toBits tm.toBits slot blk ((relBits rel) ++ (boolBits close))
  | .sendx pm rel close => mkFS 0x11#8 pm.toBits 0#3 0#3 0#12 ((relBits rel) ++ (boolBits close))
  | .sendv pm tm slot blk rel close => mkFS 0x12#8 pm.toBits tm.toBits slot blk ((relBits rel) ++ (boolBits close))
  | .steer tm slot blk rel void => mkFS 0x13#8 0#2 tm.toBits slot blk ((relBits rel) ++ (boolBits void))
  | .cont pm tm slot blk x => mkFS 0x14#8 pm.toBits tm.toBits slot blk x
  | .enter pm slot blk rel close => mkFS 0x15#8 pm.toBits 2#3 slot blk ((relBits rel) ++ (boolBits close))
  | .entermAnd pm slot blk rel close => mkFS 0x16#8 pm.toBits 3#3 slot blk ((relBits rel) ++ (boolBits close))
  | .entermOr pm slot blk rel close => mkFS 0x17#8 pm.toBits 3#3 slot blk ((relBits rel) ++ (boolBits close))
  | .next pm slot blk rel close => mkFS 0x18#8 pm.toBits 1#3 slot blk ((relBits rel) ++ (boolBits close))
  | .leave pm slot blk rel close => mkFS 0x19#8 pm.toBits 4#3 slot blk ((relBits rel) ++ (boolBits close))
  | .dkill pm t0 t1 => mkF2 0x1A#8 pm.toBits 0#4 t0.toBits t1.toBits
  | .spawn pm t0 t1 => mkF2 0x1B#8 pm.toBits 0#4 t0.toBits t1.toBits
  | .add pm ty t0 t1 => mkF2 0x20#8 pm.toBits ty.toBits t0.toBits t1.toBits
  | .addSat pm ty t0 t1 => mkF2 0x21#8 pm.toBits ty.toBits t0.toBits t1.toBits
  | .sub pm ty t0 t1 => mkF2 0x22#8 pm.toBits ty.toBits t0.toBits t1.toBits
  | .subSat pm ty t0 t1 => mkF2 0x23#8 pm.toBits ty.toBits t0.toBits t1.toBits
  | .addi pm t0 imm => mkFI 0x24#8 pm.toBits t0.toBits imm
  | .mul pm ty t0 t1 => mkF2 0x25#8 pm.toBits ty.toBits t0.toBits t1.toBits
  | .mulh pm ty t0 t1 => mkF2 0x26#8 pm.toBits ty.toBits t0.toBits t1.toBits
  | .madd pm ty t0 t1 => mkF2 0x27#8 pm.toBits ty.toBits t0.toBits t1.toBits
  | .div pm ty t0 t1 => mkF2 0x28#8 pm.toBits ty.toBits t0.toBits t1.toBits
  | .rem pm ty t0 t1 => mkF2 0x29#8 pm.toBits ty.toBits t0.toBits t1.toBits
  | .min pm ty t0 t1 => mkF2 0x2A#8 pm.toBits ty.toBits t0.toBits t1.toBits
  | .max pm ty t0 t1 => mkF2 0x2B#8 pm.toBits ty.toBits t0.toBits t1.toBits
  | .abs pm ty t0 t1 => mkF2 0x2C#8 pm.toBits ty.toBits t0.toBits t1.toBits
  | .neg pm ty t0 t1 => mkF2 0x2D#8 pm.toBits ty.toBits t0.toBits t1.toBits
  | .and pm t0 t1 => mkF2 0x30#8 pm.toBits 0#4 t0.toBits t1.toBits
  | .or pm t0 t1 => mkF2 0x31#8 pm.toBits 0#4 t0.toBits t1.toBits
  | .xor pm t0 t1 => mkF2 0x32#8 pm.toBits 0#4 t0.toBits t1.toBits
  | .andn pm t0 t1 => mkF2 0x33#8 pm.toBits 0#4 t0.toBits t1.toBits
  | .not pm t0 t1 => mkF2 0x34#8 pm.toBits 0#4 t0.toBits t1.toBits
  | .shl pm w t0 t1 => mkF2 0x35#8 pm.toBits (0#2 ++ w.toBits) t0.toBits t1.toBits
  | .shr pm w t0 t1 => mkF2 0x36#8 pm.toBits (0#2 ++ w.toBits) t0.toBits t1.toBits
  | .sar pm w t0 t1 => mkF2 0x37#8 pm.toBits (0#2 ++ w.toBits) t0.toBits t1.toBits
  | .rotl pm w t0 t1 => mkF2 0x38#8 pm.toBits (0#2 ++ w.toBits) t0.toBits t1.toBits
  | .shli pm t0 w amt => mkFI 0x39#8 pm.toBits t0.toBits (0#5 ++ (w.toBits ++ amt))
  | .shri pm t0 w amt => mkFI 0x3A#8 pm.toBits t0.toBits (0#5 ++ (w.toBits ++ amt))
  | .sari pm t0 w amt => mkFI 0x3B#8 pm.toBits t0.toBits (0#5 ++ (w.toBits ++ amt))
  | .rotli pm t0 w amt => mkFI 0x3C#8 pm.toBits t0.toBits (0#5 ++ (w.toBits ++ amt))
  | .clz pm w t0 t1 => mkF2 0x3D#8 pm.toBits (0#2 ++ w.toBits) t0.toBits t1.toBits
  | .ctz pm w t0 t1 => mkF2 0x3E#8 pm.toBits (0#2 ++ w.toBits) t0.toBits t1.toBits
  | .popc pm w t0 t1 => mkF2 0x3F#8 pm.toBits (0#2 ++ w.toBits) t0.toBits t1.toBits
  | .brev pm w t0 t1 => mkF2 0x40#8 pm.toBits (0#2 ++ w.toBits) t0.toBits t1.toBits
  | .bswap pm w t0 t1 => mkF2 0x41#8 pm.toBits (0#2 ++ w.toBits) t0.toBits t1.toBits
  | .bfx pm sg t0 t1 => mkF2 0x42#8 pm.toBits (0#3 ++ (boolBits sg)) t0.toBits t1.toBits
  | .bfi pm t0 t1 => mkF2 0x43#8 pm.toBits 0#4 t0.toBits t1.toBits
  | .sext pm w t0 t1 => mkF2 0x44#8 pm.toBits (0#2 ++ w.toBits) t0.toBits t1.toBits
  | .zext pm w t0 t1 => mkF2 0x45#8 pm.toBits (0#2 ++ w.toBits) t0.toBits t1.toBits
  | .cmp pm c t0 t1 => mkF2 0x46#8 pm.toBits c.toBits t0.toBits t1.toBits
  | .cmpi pm t0 c imm => mkFI 0x47#8 pm.toBits t0.toBits (c.toBits3 ++ imm)
  | .sel pm t0 t1 => mkF2 0x48#8 pm.toBits 0#4 t0.toBits t1.toBits
  | .pand pm t0 t1 => mkF2 0x49#8 pm.toBits 0#4 t0.toBits t1.toBits
  | .por pm t0 t1 => mkF2 0x4A#8 pm.toBits 0#4 t0.toBits t1.toBits
  | .pxor pm t0 t1 => mkF2 0x4B#8 pm.toBits 0#4 t0.toBits t1.toBits
  | .pnot pm t0 t1 => mkF2 0x4C#8 pm.toBits 0#4 t0.toBits t1.toBits
  | .pack2 pm h t0 t1 => mkF2 0x4D#8 pm.toBits (0#3 ++ h.toBits) t0.toBits t1.toBits
  | .unpk pm h t0 t1 => mkF2 0x4E#8 pm.toBits (0#3 ++ h.toBits) t0.toBits t1.toBits
  | .fadd pm rm ty t0 t1 => mkF2 0x50#8 pm.toBits (rm.toBits ++ ty.toBits) t0.toBits t1.toBits
  | .fsub pm rm ty t0 t1 => mkF2 0x51#8 pm.toBits (rm.toBits ++ ty.toBits) t0.toBits t1.toBits
  | .fmul pm rm ty t0 t1 => mkF2 0x52#8 pm.toBits (rm.toBits ++ ty.toBits) t0.toBits t1.toBits
  | .ffma pm rm ty t0 t1 => mkF2 0x53#8 pm.toBits (rm.toBits ++ ty.toBits) t0.toBits t1.toBits
  | .fmin pm ty t0 t1 => mkF2 0x54#8 pm.toBits (0#2 ++ ty.toBits) t0.toBits t1.toBits
  | .fmax pm ty t0 t1 => mkF2 0x55#8 pm.toBits (0#2 ++ ty.toBits) t0.toBits t1.toBits
  | .fabs pm ty t0 t1 => mkF2 0x56#8 pm.toBits (0#2 ++ ty.toBits) t0.toBits t1.toBits
  | .fneg pm ty t0 t1 => mkF2 0x57#8 pm.toBits (0#2 ++ ty.toBits) t0.toBits t1.toBits
  | .fcmp pm c ty t0 t1 => mkF2 0x58#8 pm.toBits (c.toBits ++ ty.toBits) t0.toBits t1.toBits
  | .fclass pm ty t0 t1 => mkF2 0x59#8 pm.toBits (0#2 ++ ty.toBits) t0.toBits t1.toBits
  | .fdiv pm rm ty t0 t1 => mkF2 0x5A#8 pm.toBits (rm.toBits ++ ty.toBits) t0.toBits t1.toBits
  | .fsqrt pm rm ty t0 t1 => mkF2 0x5B#8 pm.toBits (rm.toBits ++ ty.toBits) t0.toBits t1.toBits
  | .frcpe pm t0 t1 => mkF2 0x5C#8 pm.toBits 0#4 t0.toBits t1.toBits
  | .frsqe pm t0 t1 => mkF2 0x5D#8 pm.toBits 0#4 t0.toBits t1.toBits
  | .fexp2 pm t0 t1 => mkF2 0x5E#8 pm.toBits 0#4 t0.toBits t1.toBits
  | .flog2 pm t0 t1 => mkF2 0x5F#8 pm.toBits 0#4 t0.toBits t1.toBits
  | .fsin pm t0 t1 => mkF2 0x60#8 pm.toBits 0#4 t0.toBits t1.toBits
  | .fcos pm t0 t1 => mkF2 0x61#8 pm.toBits 0#4 t0.toBits t1.toBits
  | .ftanh pm t0 t1 => mkF2 0x62#8 pm.toBits 0#4 t0.toBits t1.toBits
  | .fround pm rm ty t0 t1 => mkF2 0x63#8 pm.toBits (rm.toBits ++ ty.toBits) t0.toBits t1.toBits
  | .cvt rm pm sat dst src t0 => mkFX (25#6 ++ rm.toBits) pm.toBits ((boolBits sat) ++ (dst.toBits ++ src.toBits)) t0.toBits
  | .cvtsr pm sat dst src t0 => mkFX 0x68#8 pm.toBits ((boolBits sat) ++ (dst.toBits ++ src.toBits)) t0.toBits
  | .hadd2 pm rm ty t0 t1 => mkF2 0x69#8 pm.toBits (rm.toBits ++ ty.toBits) t0.toBits t1.toBits
  | .hmul2 pm rm ty t0 t1 => mkF2 0x6A#8 pm.toBits (rm.toBits ++ ty.toBits) t0.toBits t1.toBits
  | .hfma2 pm rm ty t0 t1 => mkF2 0x6B#8 pm.toBits (rm.toBits ++ ty.toBits) t0.toBits t1.toBits
  | .hmax2 pm ty t0 t1 => mkF2 0x6C#8 pm.toBits (0#2 ++ ty.toBits) t0.toBits t1.toBits
  | .dot4 pm ty t0 t1 => mkF2 0x6D#8 pm.toBits ty.toBits t0.toBits t1.toBits
  | .shfl pm t0 t1 => mkF2 0x80#8 pm.toBits 0#4 t0.toBits t1.toBits
  | .shfx pm t0 t1 => mkF2 0x81#8 pm.toBits 0#4 t0.toBits t1.toBits
  | .shup pm t0 t1 => mkF2 0x82#8 pm.toBits 0#4 t0.toBits t1.toBits
  | .shdn pm t0 t1 => mkF2 0x83#8 pm.toBits 0#4 t0.toBits t1.toBits
  | .ballot pm t0 t1 => mkF2 0x84#8 pm.toBits 0#4 t0.toBits t1.toBits
  | .vany pm t0 t1 => mkF2 0x85#8 pm.toBits 0#4 t0.toBits t1.toBits
  | .vall pm t0 t1 => mkF2 0x86#8 pm.toBits 0#4 t0.toBits t1.toBits
  | .scan pm op t0 t1 => mkF2 0x87#8 pm.toBits op.toBits t0.toBits t1.toBits
  | .redl pm op t0 t1 => mkF2 0x88#8 pm.toBits op.toBits t0.toBits t1.toBits
  | .bcast pm t0 t1 => mkF2 0x89#8 pm.toBits 0#4 t0.toBits t1.toBits
  | .curs pm d t0 t1 => mkF2 0x90#8 pm.toBits d.toBits t0.toBits t1.toBits
  | .cursi pm t0 d imm => mkFI 0x91#8 pm.toBits t0.toBits (d.toBits ++ imm)
  | .ld pm w t0 t1 => mkF2 0x92#8 pm.toBits w.toBits t0.toBits t1.toBits
  | .st pm w t0 t1 => mkF2 0x93#8 pm.toBits w.toBits t0.toBits t1.toBits
  | .ldsp pm w t0 t1 => mkF2 0x94#8 pm.toBits (0#2 ++ w.toBits) t0.toBits t1.toBits
  | .stsp pm w t0 t1 => mkF2 0x95#8 pm.toBits (0#2 ++ w.toBits) t0.toBits t1.toBits
  | .lda pm w t0 t1 => mkF2 0x96#8 pm.toBits (0#2 ++ w.toBits) t0.toBits t1.toBits
  | .sta pm w t0 t1 => mkF2 0x97#8 pm.toBits (0#2 ++ w.toBits) t0.toBits t1.toBits
  | .atom pm op t0 w64 ord sc => mkF2 0x98#8 pm.toBits op.toBits t0.toBits (mkOrd (boolBits w64) ord.toBits sc.toBits)
  | .cas pm t0 w64 ord sc => mkF2 0x99#8 pm.toBits 0#4 t0.toBits (mkOrd (boolBits w64) ord.toBits sc.toBits)
  | .fatom pm op t0 ord sc => mkF2 0x9A#8 pm.toBits op.toBits t0.toBits (mkOrd 0#1 ord.toBits sc.toBits)
  | .redo pm t0 relOrd sc => mkF2 0x9B#8 pm.toBits 0#4 t0.toBits (mkOrd 0#1 (boolBits relOrd ++ 0#1) sc.toBits)
  | .fence pm sc t0 t1 => mkF2 0x9C#8 pm.toBits (0#2 ++ sc.toBits) t0.toBits t1.toBits
  | .pref pm lv t0 t1 => mkF2 0x9D#8 pm.toBits (0#3 ++ lv.toBits) t0.toBits t1.toBits
  | .hqry pm q t0 t1 => mkF2 0x9E#8 pm.toBits q.toBits t0.toBits t1.toBits
  | .arrive pm t0 t1 => mkF2 0x9F#8 pm.toBits 0#4 t0.toBits t1.toBits
  | .waitb pm t0 t1 => mkF2 0xA0#8 pm.toBits 0#4 t0.toBits t1.toBits
  | .hresFetch pm t0 t1 => mkF2 0xA1#8 pm.toBits 0#4 t0.toBits t1.toBits
  | .hresRelease pm t0 t1 => mkF2 0xA1#8 pm.toBits 1#4 t0.toBits t1.toBits
  | .mma pm ty t0 t1 => mkF2 0xB0#8 pm.toBits (0#1 ++ (ty.toBits.setWidth 3)) t0.toBits t1.toBits
  | .mmas pm ty t0 t1 => mkF2 0xB1#8 pm.toBits ty.toBits t0.toBits t1.toBits
  | .wld pm ty t0 t1 => mkF2 0xB2#8 pm.toBits (0#1 ++ (ty.toBits.setWidth 3)) t0.toBits t1.toBits
  | .aclr pm t0 t1 => mkF2 0xB3#8 pm.toBits 0#4 t0.toBits t1.toBits
  | .acvt pm ty t0 t1 => mkF2 0xB4#8 pm.toBits ty.toBits t0.toBits t1.toBits
  | .aadd pm t0 t1 => mkF2 0xB5#8 pm.toBits 0#4 t0.toBits t1.toBits
  | .cpy pm t0 t1 => mkF2 0xC0#8 pm.toBits 0#4 t0.toBits t1.toBits
  | .cpyg pm t0 t1 => mkF2 0xC1#8 pm.toBits 0#4 t0.toBits t1.toBits
  | .cpys pm t0 t1 => mkF2 0xC2#8 pm.toBits 0#4 t0.toBits t1.toBits
  | .cpyr pm op t0 t1 => mkF2 0xC3#8 pm.toBits (0#2 ++ op.toBits) t0.toBits t1.toBits
  | .cpybsToplanes pm t0 t1 => mkF2 0xC4#8 pm.toBits 0#4 t0.toBits t1.toBits
  | .cpybsFromplanes pm t0 t1 => mkF2 0xC4#8 pm.toBits 1#4 t0.toBits t1.toBits
  | .cpyt pm t0 t1 => mkF2 0xC5#8 pm.toBits 0#4 t0.toBits t1.toBits
  | .cpyhTohost pm t0 t1 => mkF2 0xC6#8 pm.toBits 0#4 t0.toBits t1.toBits
  | .cpyhFromhost pm t0 t1 => mkF2 0xC6#8 pm.toBits 1#4 t0.toBits t1.toBits
  | .cpyf pm t0 t1 => mkF2 0xC7#8 pm.toBits 0#4 t0.toBits t1.toBits
  | .lkctx pm sl t0 t1 => mkF2 0xD0#8 pm.toBits (0#2 ++ sl) t0.toBits t1.toBits
  | .lkrun pm sl t0 t1 => mkF2 0xD1#8 pm.toBits (0#2 ++ sl) t0.toBits t1.toBits
  | .lkst pm t0 t1 => mkF2 0xD2#8 pm.toBits 0#4 t0.toBits t1.toBits
  | .tvec pm t0 t1 => mkF2 0xD8#8 pm.toBits 0#4 t0.toBits t1.toBits
  | .tgemv pm ty t0 t1 => mkF2 0xD9#8 pm.toBits ty.toBits t0.toBits t1.toBits
  | .tgemvs pm ty t0 t1 => mkF2 0xDA#8 pm.toBits ty.toBits t0.toBits t1.toBits
  | .tred pm t0 t1 => mkF2 0xDB#8 pm.toBits 0#4 t0.toBits t1.toBits
  | .trap pm code t0 => mkFX 0xE0#8 pm.toBits code t0.toBits
  | .brk pm code t0 => mkFX 0xE1#8 pm.toBits code t0.toBits
  | .rdsr pm sr t0 => mkFX 0xE2#8 pm.toBits sr.toBits t0.toBits
  | .wrsr pm sr t0 => mkFX 0xE3#8 pm.toBits sr.toBits t0.toBits
  | .resume pm t0 => mkFX 0xE4#8 pm.toBits 0#13 t0.toBits
  | .retry pm t0 => mkFX 0xE5#8 pm.toBits 0#13 t0.toBits
  | .abort pm t0 => mkFX 0xE6#8 pm.toBits 0#13 t0.toBits
  | .emx k pm sub t0 t1 => mkF2 (15#4 ++ k) pm.toBits sub t0.toBits t1.toBits
  | .launch _ => 0#32
  | .launchAdmission => 0#32
  | .tokenArrival _ => 0#32
  | .penTimerExpiry _ _ => 0#32
  | .flockRelease _ => 0#32
  | .priorityAging _ => 0#32
  | .memAccessPerformed _ => 0#32
  | .releaseTokenDelivery _ => 0#32
  | .spawnSubmission _ => 0#32
  | .spawnAnswer _ => 0#32
  | .nextGrant _ => 0#32
  | .enterGrant _ => 0#32
  | .entermGrant _ => 0#32
  | .explicitGrant _ => 0#32
  | .contTokenGrant _ => 0#32
  | .leaveServe _ => 0#32
  | .closeServe _ => 0#32
  | .dkillServe _ => 0#32
  | .killNotice _ => 0#32
  | .killNoticeAck _ => 0#32
  | .eldestQuery _ _ => 0#32
  | .eldestAnswer _ _ => 0#32
  | .spillRepresent _ _ => 0#32
  | .quiescenceDetect _ => 0#32
  | .droverForward _ _ => 0#32
  | .launchComplete _ => 0#32
  | .orderedArrival _ => 0#32
  | .orderedArrivalUnstall _ => 0#32
  | .barrierArrival _ => 0#32
  | .barrierRegistration _ => 0#32
  | .otpoolWrite _ => 0#32
  | .shoot => 0#32
  | .publish => 0#32
  | .shootres => 0#32
  | .shootAck _ => 0#32
  | .walk _ => 0#32
  | .answer _ => 0#32
  | .wldExec _ => 0#32
  | .mmaExec _ => 0#32
  | .mmasExec _ => 0#32
  | .aclrExec _ => 0#32
  | .acvtExec _ => 0#32
  | .aaddExec _ => 0#32
  | .mxuCompletion _ => 0#32
  | .cpyExec _ => 0#32
  | .cpygExec _ => 0#32
  | .cpysExec _ => 0#32
  | .cpyrExec _ => 0#32
  | .cpybsExec _ => 0#32
  | .cpytExec _ => 0#32
  | .cpyhExec _ => 0#32
  | .cpyfExec _ => 0#32
  | .copyCompletion _ => 0#32
  | .lkfClaim _ => 0#32
  | .lkfRelease _ => 0#32
  | .lkfSlotFree _ _ => 0#32
  | .claimCycle => 0#32
  | .lkrunExec _ => 0#32
  | .lkrunCompletion _ => 0#32
  | .tvecExec _ => 0#32
  | .tgemvExec _ => 0#32
  | .tgemvsExec _ => 0#32
  | .tredExec _ => 0#32
  | .troughCompletion _ => 0#32
  | .handlerDispatch _ _ => 0#32
  | .responseTakesEffect _ => 0#32
  | .drainComplete _ => 0#32
  | .preemption _ _ => 0#32
  | .preemptDump _ _ => 0#32
  | .restore _ _ => 0#32
  | .pinfoldSlotFree _ => 0#32
  | .pinextWrite _ _ _ => 0#32
  | .clockGate _ => 0#32
  | .powerGate _ => 0#32
  | .powerWake _ => 0#32
  | .wakeComplete _ => 0#32
  | .shedctlWrite _ _ => 0#32
  | .shedReconfiguration _ => 0#32
  | .coreCool _ => 0#32
  | .linkFrame _ _ => 0#32
  | .resendTimeout _ => 0#32
  | .portDown _ => 0#32
  | .wread _ => 0#32
  | .wwrite _ => 0#32
  | .memreq _ => 0#32
  | .memrsp _ => 0#32
  | .topo => 0#32
  | .verify => 0#32
  | .activate => 0#32
  | .attest => 0#32
  | .registerWrite _ _ => 0#32
  | .gangStart _ => 0#32
  | .gangControl _ => 0#32
  | .timeExchange _ => 0#32
  | .syncLoss => 0#32
  | .powerArbiter _ _ _ => 0#32
  | .budgetWindow _ => 0#32
  | .currentAlarm _ => 0#32
  | .refreshTemperature _ _ _ => 0#32
  | .reset => 0#32
  | .portRetrained _ => 0#32
  | .railAlarmClear _ => 0#32
  | .lastingListClear _ => 0#32

/-- The instruction this decoder reads from a table word: one little-endian 32-bit word (R3, R41), bit 0 the least
significant. A number that does not fit 32 bits, or a row without a word (nbits other than 32), reads as nothing. -/
def decodeTableWord (nbits w : Nat) : Option Instr :=
  if nbits = 32 ∧ w < 2 ^ 32 then
    match decode (BitVec.ofNat 32 w) with
    | .ok i => some i
    | .error _ => none
  else none

end Sys2Proof
end

