-- ==== Sys2Proof/Machine/Data.lean ====
section
/-! DEFINITION. The records State is made of: a firing's cells and lanes (R25–R31), flocks (R192), accesses (R33, R34),
fold entries (R163), pens (R188), activations (R151), contexts (R183–R186), the sick pen (R385), pinfold slots (R410),
object records (R228), L1 sectors (R255). Plain data; behaviour is in the other files of this folder. -/

namespace Sys2Proof.Machine

/-- The state of one instruction in one lane (R25–R29): its latches, for each the index plus one of the producer whose
value it holds (0: none; R29 keeps the highest), the deliveries still awaited (R26), whether it has been issued, has
executed (DONE) and performed its effect (PERF), and, once executed, its two results (R463). -/
structure Cell where
  a : Val := { bits := 0 }
  b : Val := { bits := 0 }
  c : Val := { bits := 0 }
  p : Bool := false
  srcA : Nat := 0
  srcB : Nat := 0
  srcC : Nat := 0
  srcP : Nat := 0
  waitA : Nat := 0
  waitB : Nat := 0
  waitC : Nat := 0
  waitP : Nat := 0
  waitO : Nat := 0
  issued : Bool := false
  done : Bool := false
  perf : Bool := false
  r0 : Val := { bits := 0 }
  r1 : Val := { bits := 0 }
  deriving DecidableEq, Repr, Inhabited

/-- A write of a lane register by the instruction `idx` of the firing (R30). -/
structure RegWrite where
  x   : Nat
  idx : Nat
  val : Val
  deriving DecidableEq, Repr

/-- Where a frame stands in the frame region (R166, R167): first 16-byte unit, units, whether from the reserve. -/
structure FrameRef where
  at_   : Nat
  units : Nat
  resv  : Bool
  deriving DecidableEq, Repr, Inhabited

/-- What a lane is doing (R384, R391): running; masked at a faulting instruction until record `r` is answered, or
until a record is free (`none`); or at the end of its firing, held there by R152, R221 or R285. -/
inductive LaneStatus where
  | running
  | masked (idx : Nat) (r : Option Nat)
  | ended
  deriving DecidableEq, Repr, Inhabited

/-- One firing (R23, R36): its unique number, lane position, tag and epoch, frame contents per slot with the void bits
(R22), frame place, cells, register writes, and after `resume` the register image of the record with the index from
which reads take it (R463). `ho` is the number of end-of-firing submissions already made (R202). `atomicUse` and the
emulation registers of R396 are found through the frame. -/
structure Lane where
  fid    : Nat
  lane   : Nat
  fsize  : Nat
  tag    : Tag
  epoch  : BitVec 22
  hpkg   : Nat
  frame  : List (Word × Bool)
  place  : Option FrameRef
  cells  : List Cell
  regs   : List RegWrite := []
  image  : Option (Nat × List Val) := none
  status : LaneStatus := .running
  /-- how many release requests and how many grant requests of its end have been handed on (R152, R202) -/
  gave   : Nat × Nat := (0, 0)
  hrec   : Option Handles := none
  deriving DecidableEq, Repr

/-- A resident flock (R192, R193): `released` its release cycle, `level` its effective priority and `served` the cycle
from which it ages (R194); `parked` under pre-emption (R405). `det` and `admission` order issue (R193). -/
structure Flock where
  id       : Nat
  core     : Nat
  pipe     : Nat
  slot     : Nat
  ctx      : Nat
  block    : Nat
  aligned  : Bool
  lanes    : List Lane
  released : Nat
  level    : Nat
  served   : Nat
  parked   : Bool := false
  deriving DecidableEq, Repr

/-- A ready instance (R188): the core cycle in which it became ready and its order among ready instances.
`expired`: its group's timer has run out (R190); `late`: its group was released before it came (R191). -/
structure Ready where
  core   : Nat
  ctx    : Nat
  block  : Nat
  tag    : Tag
  epoch  : BitVec 22
  hpkg   : Nat
  frame  : List (Word × Bool)
  place  : Option FrameRef
  since  : Nat
  seq    : Nat
  expired : Bool := false
  late   : Bool := false
  group  : Nat := 0
  rel    : Option Scope := none
  hrec   : Option Handles := none
  /-- the arrival stamp of its entry (R163), and its place among those restored together (R413) -/
  arrival : Nat := 0
  order  : Nat := 0
  deriving DecidableEq, Repr

/-- A resumed lane that waits for a resident slot as a one-lane flock (R391). -/
structure Resumed where
  core  : Nat
  ctx   : Nat
  block : Nat
  lane  : Lane
  since : Nat
  level : Nat
  served : Nat
  deriving DecidableEq, Repr

/-- A pen (R188): bound to a pair while it holds ready instances; `due` once its timer expired (R189); its level and
the cycle from which it ages (R194). -/
structure Pen where
  core   : Nat
  index  : Nat
  ctx    : Nat
  block  : Nat
  due    : Bool := false
  level  : Nat
  served : Nat
  /-- the cycle in which it became due by its timer; and, where it then held more than 32 instances, that cycle, by which those it
  keeps due had become ready (R189) -/
  dueAt  : Nat := 0
  keep   : Option Nat := none
  /-- the cycle in which it was found empty: it is freed after that cycle (R195) -/
  empty  : Option Nat := none
  deriving DecidableEq, Repr

/-- A fold entry (R163): the frame contents per slot (none: not arrived), the arrival counter's value, and STATE. A
chain of equal names is the entries in arrival order (R164); `pinned` numbers the pinfold slot of a spilled one. -/
structure FoldEntry where
  core    : Nat
  ctx     : Nat
  block   : Nat
  tag     : Tag
  epoch   : BitVec 22
  hpkg    : Nat
  slots   : List (Option (Word × Bool))
  state   : Nat
  place   : Option FrameRef
  units   : Nat
  arrival : Nat
  rel     : Option Scope := none
  hrec    : Option Handles := none
  /-- the way of its set (R162) -/
  way     : Nat := 0
  /-- of one spilled with its chain, NEXTDUP as it stood (R163, R165) -/
  dup     : Option Nat := none
  /-- its question has been sent to another package (R168); of one that was then spilled, the answer was no -/
  asked   : Bool := false
  /-- the senders of its tokens, by slot: they hold them where the pinfold is full (R412) -/
  senders : List (Nat × Nat) := []
  deriving DecidableEq, Repr

/-- A pinfold slot (R410): a spilled entry or a diverted token, its stamp and its core. `hot`, `divert` and `early`
say why it waits: an overloaded core (R430), a pre-emption (R405), a gang's tick (R442); else it was spilled (R165). -/
inductive PinWhy where
  | spilled | hot | divert | early
  deriving DecidableEq, Repr, Inhabited

structure PinSlot where
  slot  : Nat
  entry : FoldEntry
  stamp : Nat
  core  : Nat
  why   : PinWhy
  /-- how many frames its context had in use on the core when it was spilled: with fewer, frame units have freed (R169) -/
  seen  : Nat := 0
  deriving DecidableEq, Repr

/-- A token between its sender and its fold (R429): agents are cores 0–255, 256 the yard, 257 + k port k. In a core's inbound
queue, with the cycle of its arrival, the mesh port that delivered it (R164) and its arrival stamp (R411). -/
structure Transit where
  src  : Nat
  dst  : Nat
  ctx  : Nat
  tok  : Token
  came : Nat := 0
  mesh : Nat := 0
  stamp : Nat := 0
  deriving DecidableEq, Repr

/-- A token that its sender holds back for a release, or behind one that is (R132): `rel` is set on the one whose
release must be performed. `fid` is its firing (R36); `dpkg` its destination package. One that a unit formed (`unit`) neither
waits behind others nor holds them back (R204); `owes` names the release of another package that it waits for. -/
structure Held where
  fid  : Nat
  src  : Nat
  dst  : Nat
  dpkg : Nat
  ctx  : Nat
  tok  : Token
  rel  : Option Scope
  unit : Bool := false
  owes : Option (Nat × Nat) := none
  deriving DecidableEq, Repr

/-- A release that a firing owes a package whose unit forms one of its tokens (R204): the number it goes by there. -/
structure Owed where
  id   : Nat
  fid  : Nat
  core : Nat
  ctx  : Nat
  dpkg : Nat
  rel  : Scope
  deriving DecidableEq, Repr

/-- An activation (R151): parent tag and epoch, BASE, TOP, the closed iterations from BASE on, H, LEFT; `pending` the
kill notices not yet acknowledged (R161), `hset` whether H was ever lowered. -/
structure Activation where
  core    : Nat
  ctx     : Nat
  dom     : Nat
  act     : Nat
  parent  : Tag
  pepoch  : BitVec 22
  phpkg   : Nat
  base    : Nat
  top     : Nat
  closed  : BitVec 512
  h       : Nat
  left    : Bool
  pending : Nat
  deriving DecidableEq, Repr

/-- A kill notice on its way to a core, or its acknowledgement on its way back (R161). One that a pre-empted core has recorded and
whose activation has been freed since (R157, R414) kills only what arrived before, by the stamps below `upto`, and installs no filter. -/
structure Notice where
  core : Nat
  home : Nat
  ctx  : Nat
  dom  : Nat
  act  : Nat
  h    : Nat
  hpkg : Nat
  upto : Option Nat := none
  deriving DecidableEq, Repr

/-- A kill filter of a core (R161). -/
structure Filter where
  core : Nat
  home : Nat
  ctx  : Nat
  dom  : Nat
  act  : Nat
  h    : Nat
  hpkg : Nat
  deriving DecidableEq, Repr

/-- The classes within which R34 orders a firing's accesses: HBM objects, scratchpad, accumulator (R272). -/
inductive Space where
  | hbm | scratch | accum
  deriving DecidableEq, Repr, Inhabited

/-- How far an access has come (R33, R239): parked on a walk or on a MOVING record; translated to bytes at physical
addresses and not yet performed; sent to another package; waiting at a unit (R259, R260). -/
inductive AccPhase where
  | walking
  | moving
  | ready
  | remote (req : Nat)
  | atUnit
  deriving DecidableEq, Repr, Inhabited

/-- A memory access, or another operation that completes later, of one firing (R33): the instruction, the place it
delivers to, the latches it read, and once translated its record's facts and the bytes it covers. `before` lists the
firing's accesses issued earlier (for `.rel`, `fence` and `arrive`: R275, R281, R288). `orphan`: the firing has ended. -/
structure Access where
  id      : Nat
  core    : Nat
  ctx     : Nat
  flock   : Nat
  fid     : Nat
  idx     : Nat
  instr   : Instr
  a       : Val
  b       : Val
  c       : Val
  space   : Space
  phase   : AccPhase
  handle  : Nat := 0
  gen     : Nat := 0
  coh     : Nat := 0
  pkg     : Option Nat := none
  rmap    : Nat := 0
  gran    : Nat := 0
  base    : Nat := 0
  format  : Nat := 0
  bytes   : List Nat := []
  nibble  : Option Bool := none
  scaleAt : Option Nat := none
  before  : List Nat := []
  orphan  : Bool := false
  /-- a scaled element that has come from another package and waits for its scale byte -/
  got     : Option Word := none
  /-- bytes of a misaligned access that are performed, by position, with the value read (R144); and the one that is awaited
  from another package -/
  part    : List (Nat × Byte) := []
  one     : Option Nat := none
  /-- the header bytes of a spawn record, once read: its length is known from then on (R219) -/
  header  : List Byte := []
  /-- the cycle of its issue (R353) -/
  born    : Nat := 0
  /-- the DETAIL of the fault in which it ends once the device's SHOOTRES is acknowledged (R242) -/
  err     : Option (List Word) := none
  deriving DecidableEq, Repr

/-- The object record of R228, its fields as numbers. -/
structure ObjRec where
  fill    : BitVec 32
  smode   : Nat
  first   : Nat
  tn      : Nat
  tmode   : Nat
  td0     : Nat
  td1     : Nat
  swz     : Nat
  rmap    : Nat
  splane  : Nat
  str     : List Nat
  ext     : List Nat
  base    : Nat
  state   : Nat
  kind    : Nat
  format  : Nat
  scale   : Nat
  rank    : Nat
  coh     : Nat
  resmg   : Bool
  eng     : Bool
  atomp   : Bool
  write   : Bool
  read    : Bool
  oospol  : Nat
  gran    : Nat
  gen     : Nat
  pkg     : Nat
  reservedZero : Bool
  dw0     : Word
  deriving DecidableEq, Repr

/-- An entry of a core's object record cache (R240); `used` orders replacement. -/
structure OrcEntry where
  core   : Nat
  ctx    : Nat
  handle : Nat
  rec_   : ObjRec
  used   : Nat
  deriving DecidableEq, Repr

/-- A residency word that a core caches, resident states only (R240): bit g set when granule 32w + g is resident. -/
structure ResWord where
  core   : Nat
  ctx    : Nat
  handle : Nat
  word   : Nat
  bits   : BitVec 32
  deriving DecidableEq, Repr

/-- A 32-byte L1 sector (R255): the context and attribute that made it, AGEN at its fill, the bytes, which are valid and
which are dirty. Objects may share a sector: `shared` once one of COH SHRD has used it, `through` the dirty bytes stored
under SHRD, `owners` each context's dirty bytes. -/
structure Sector where
  core  : Nat
  ctx   : Nat
  addr  : Nat
  coh   : Nat
  agen  : BitVec 16
  bytes : List Byte
  valid : BitVec 32
  dirty : BitVec 32
  pkg   : Option Nat := none
  shared : Bool := false
  through : BitVec 32 := 0
  owners : List (Nat × BitVec 32) := []
  deriving DecidableEq, Repr

/-- A write waiting in a die's outbound queue (R258): the bytes of one sector that are written together, each with its
address, the first at `addr`. -/
structure BridgeWrite where
  src  : Nat
  dst  : Nat
  addr : Nat
  data : List (Nat × Byte)
  deriving DecidableEq, Repr

/-- The store that a posted write comes from: firing, index, handle and offset (R439). -/
structure Poster where
  fid    : Nat
  idx    : Nat
  handle : Nat
  offset : Nat
  deriving DecidableEq, Repr

/-- A write that has entered the outbound queue for another package and is not acknowledged (R440); `post` names the store of a
lane that it performs. `lost`: its port went down and no lane is left to fault, so that no acknowledgement comes (R432). -/
structure RemoteWrite where
  id   : Nat
  ctx  : Nat
  dpkg : Nat
  addr : Nat
  core : Nat
  post : Option Poster := none
  lost : Bool := false
  deriving DecidableEq, Repr

/-- A write of a `cpyh` to a host window that the host adapter has not acknowledged (R331): the command, the port, the row and the
bytes. -/
structure HostWrite where
  cmd  : Nat
  port : Nat
  row  : Nat
  data : List (Nat × Byte)
  deriving DecidableEq, Repr

/-- A target of an ordered-reduction unit (R259) with its buffered arrivals. -/
structure RedTarget where
  die      : Nat
  ctx      : Nat
  addr     : Nat
  next     : Nat
  buffered : List (Nat × Bool × BitVec 32)
  deriving DecidableEq, Repr

/-- An arrival at an ordered-reduction unit: the die it comes from, key, LAST, addend, and the access (or engine element) that waits for
its acceptance (R259). -/
structure RedArrival where
  die     : Nat
  ctx     : Nat
  addr    : Nat
  key     : Nat
  last    : Bool
  x       : BitVec 32
  acc     : Option Nat
  stalled : Bool
  /-- the engine command, element offset and row, or (0, request, package) of an arrival from another package -/
  rsp     : Option (Nat × Nat × Nat) := none
  deriving DecidableEq, Repr

/-- A waiter registered on a barrier word (R260, R289). -/
structure Waiter where
  ctx   : Nat
  core  : Nat
  addr  : Nat
  phase : Nat
  cont  : Word
  epoch : BitVec 22
  deriving DecidableEq, Repr

/-- A residency fetch sent to the host (R284, R285). -/
structure Fetch where
  ctx    : Nat
  core   : Nat
  req    : Nat
  handle : Nat
  granule : Nat
  rmap   : Nat
  cont   : Word
  deriving DecidableEq, Repr

/-- A spawn submission that the yard has not yet answered (R221), or whose spawned launch runs (R223). -/
structure SpawnSub where
  id     : Nat
  idx    : Nat := 0
  ended  : Bool := false
  ctx    : Nat
  core   : Nat
  fid    : Nat
  header : BitVec 512
  toks   : List (BitVec 128)
  image  : Nat
  cont   : Word
  order  : Nat
  deriving DecidableEq, Repr

/-- A residency request that a firing has made and not yet submitted (R284). -/
structure HresSub where
  fid     : Nat
  idx     : Nat
  ctx     : Nat
  handle  : Nat
  gen     : Nat
  granule : Nat
  rmap    : Nat
  fetch   : Bool
  cont    : Word
  deriving DecidableEq, Repr

/-- Who is told when a launch ends: a host packet's port and cookie, or a spawner (R222, R434). -/
inductive Reply where
  | host (port : Nat) (cookie : BitVec 32)
  | spawn (ctx admission core : Nat) (cont : Word)
  deriving DecidableEq, Repr

/-- An answer the yard owes a spawner (R222): its context and admission number, core, continuation, then the payload's
CTX, DETAIL and OUTCOME. -/
structure Answer where
  ctx       : Nat
  admission : Nat
  core      : Nat
  cont      : Word
  actx      : Nat
  detail    : Nat
  outcome   : Nat
  deriving DecidableEq, Repr

/-- An image whose check result the yard keeps (R186): address, contents, what else the check depends on, the result. -/
structure Kept where
  image  : Nat
  bytes  : List Byte
  det    : Bool
  frames : Nat
  report : Option (Nat × Nat × Nat × Nat)
  deriving DecidableEq, Repr

/-- A launch in a queue of the yard (R183). -/
structure Queued where
  prio   : Nat
  header : BitVec 512
  toks   : List (BitVec 128)
  seed   : Word
  reply  : Reply
  image  : Nat
  /-- of a gang's launch: the package fell out of synchronisation since (R443) -/
  lapsed : Bool := false
  deriving DecidableEq, Repr

/-- A block as the loader leaves it (R10, R26, R59, R178): header fields, instruction words, constants, the counted
targets of every latch of every instruction, placement, domain, component. -/
structure LBlock where
  idem    : Bool
  aligned : Bool
  entry   : Bool
  tclass  : Nat
  inputs  : Nat
  code    : List IWord
  consts  : List IWord
  cells   : List Cell
  place   : Nat
  dom     : Nat
  fixk    : Nat
  comp    : Nat
  deriving DecidableEq, Repr

/-- A context's regions on one core (R166, R251): first segments and sizes. -/
structure Region where
  core      : Nat
  frameSeg  : Nat
  frames    : Nat
  scrSeg    : Nat
  scratch   : Nat
  accSeg    : Nat
  accum     : Nat
  deriving DecidableEq, Repr

/-- The state of one sick-pen record (R384, R385). -/
inductive SickStatus where
  | free
  /-- pending; `ready` once its handler instance has been made ready (R384 step 5) -/
  | pending (dispatched : Bool)
  /-- reserved by a response (R390): 0 resume, 1 retry, by firing `fid` -/
  | reserved (op : Nat) (fid : Nat)
  /-- that firing has ended on `core`; the response takes effect once its accesses are performed (R390) -/
  | leaving (op : Nat) (fid : Nat) (core : Nat)
  deriving DecidableEq, Repr, Inhabited

/-- What the device keeps beside a sick-pen record's bytes: the masked lane with its retained frame, its flock, core
and block; a context-class record has no lane. -/
structure Sick where
  status  : SickStatus := .free
  lane    : Option Lane := none
  flock   : Nat := 0
  core    : Nat := 0
  block   : Nat := 0
  code    : Nat := 0
  algn    : Bool := false
  /-- its handler instance has been made ready (R384 step 5) -/
  told    : Bool := false
  /-- the cycle of its capture (R384 step 3) -/
  taken   : Nat := 0
  /-- B and C of the `resume` that reserved it (R391) -/
  b       : Val := { bits := 0 }
  c       : Val := { bits := 0 }
  deriving DecidableEq, Repr

/-- A lane fault that waits for a free sick-pen record (R384). -/
structure PendingFault where
  fid    : Nat
  idx    : Nat
  code   : Nat
  seq    : Nat
  detail : List Word
  /-- of a context-class fault, the number of waiting entries and the bytes of the entries listed (R387) -/
  entries : Option (Nat × List Byte) := none
  deriving DecidableEq, Repr

/-- A gang launch's facts (R441, R442): number, members (package, cores), own rank, start tick, whether started, and
what rank 0 has heard. -/
structure Gang where
  number   : Nat
  members  : List (Nat × Nat)
  rank     : Nat
  tick     : Nat
  started  : Bool := false
  /-- this member fell out of synchronisation before the tick (R443) -/
  lapsed   : Bool := false
  heard    : List (Nat × Nat) := []
  alignedHeard : List (Nat × Nat) := []
  alignedAll : List Nat := []
  drovers  : List Nat := []
  reports  : List (Nat × Nat × Nat × Nat) := []
  lastRound : Option (Nat × Nat) := none
  sent     : Nat := 0
  received : Nat := 0
  complete : Bool := false
  /-- the members' physical cores, as far as told (R179, R442) -/
  pastures : List (Nat × List Nat) := []
  /-- what other members' units have said of iterations that never come: package, HOME, DOM, ACT, first iteration, mask (R190) -/
  never    : List (Nat × Nat × Nat × Nat × Nat × BitVec 32) := []
  deriving DecidableEq, Repr

/-- A context's saved state on a pre-empted core (R405, R409, R413). `stage` 1: stopped, diverting and ending; 2: its flocks have
ended or are parked, its engines drain, and once it has a place (`size`) it is written; 3: dumped and released; 4: regions carved
again; 5: its contents are back, and the stop waits for fabric slots. `written` counts the captured tokens whose bytes are
written. -/
structure Section where
  core    : Nat
  stage   : Nat
  addr    : Nat
  size    : Nat
  entries : List FoldEntry
  readies : List Ready
  resumed : List Resumed
  flocks  : List Flock
  /-- captured completion tokens with their arrival stamps (R411) -/
  tokens  : List (Nat × Token)
  filters : List Filter
  notices : List Notice
  /-- addresses in the save area of the saved scratchpad and accumulator regions, and the regions given up -/
  scratch : Option Nat
  accum   : Option Nat
  region  : Option Region
  /-- whether the yard needs the segments of the scratchpad region, and of the accumulator region (R405 step 5) -/
  takes   : Bool × Bool := (false, false)
  /-- saved fabric slots: slot number and the address of its descriptor (R348) -/
  slots   : List (Nat × Nat)
  pens    : List Pen := []
  written : Nat := 0
  deriving DecidableEq, Repr

/-- A launch context (R183–R186, R197–R199, R385–R401, R405, R412). -/
structure Ctx where
  id        : Nat
  admission : Nat
  prio      : Nat
  det       : Bool
  seed      : Word
  image     : Nat
  reply     : Reply
  blocks    : List LBlock
  doms      : List (Nat × Nat)
  handler   : BitVec 32
  pasture   : List Nat
  regions   : List Region
  reserve   : Nat
  /-- static-graph component of every block, named by its least block, and the edges between components (R196) -/
  comps     : List Nat
  edges     : List (Nat × Nat)
  forwarded : List Nat := []
  entryDone : Bool := false
  entryToks : List (BitVec 128) := []
  gang      : Option Gang := none
  killed    : BitVec 32 := 0
  stray     : BitVec 32 := 0
  fcount    : BitVec 32 := 0
  seq       : Nat := 0
  fatal     : Bool := false
  ecclog    : BitVec 32 := 0
  sickBase  : Nat
  sick      : List Sick
  pinBase   : List (Nat × Nat) := [(0, 0), (0, 0), (0, 0), (0, 0)]
  pin       : List PinSlot := []
  paused    : Bool := false
  brk       : List Nat := []
  draining  : Option (List Byte) := none
  lastMove  : Nat := 0
  saved     : List Section := []
  faultq    : List PendingFault := []
  fetchSeq  : Nat := 0
  /-- aligned groups released so far (R191): core, block, tag with IDX / 32, epoch -/
  groupsOut : List (Nat × Nat × Nat) := []
  /-- how often values of unwritten registers have been drawn, by core (the model's own, R30) -/
  draws     : List (Nat × Nat) := []
  deriving DecidableEq, Repr

/-- Power state of a core (R417, R418). -/
inductive Power where
  | running | clockGated | powerGated | waking
  deriving DecidableEq, Repr, Inhabited

/-- A port (R431–R433): state (0 untrained, 1 up, 2 down, 3 retraining), DROPS, RESENDS, sequence numbers, replay
buffer, queued frames, messages accepted and not yet taken, packets held for a down host port, and the cycles of the
last acknowledgement and of the last send. -/
structure Port where
  state   : Nat := 0
  drops   : BitVec 16 := 0
  resends : BitVec 32 := 0
  rxSeq   : BitVec 16 := 0
  txSeq   : BitVec 16 := 0
  replay  : List LinkFrame := []
  inbox   : List LinkMsg := []
  holdq   : List HostOut := []
  failed  : Nat := 0
  ackAt   : Nat := 0
  /-- the number that the acknowledgement sent last bears, and how often a resend has been asked for since a CRC failed (R431) -/
  ackSent : BitVec 16 := 0
  naks    : Nat := 0
  deriving DecidableEq, Repr

/-- A die (R402, R452): its L2's lasting-error list (64-byte blocks), rail alarm. -/
structure Die where
  lasting : List Nat := []
  slow    : Bool := false
  lowAt   : Nat := 0
  deriving DecidableEq, Repr

/-- A stack (R453, R455): STKBUD, units left in this window, when the window began; by layer the temperature and the
refresh interval in ps; whether heat holds its budget. -/
structure Stack where
  budget  : BitVec 32 := 0xFFFFFFFF
  left    : Nat := 0xFFFFFFFF
  window  : Nat := 0
  temps   : List Nat := []
  hot     : Bool := false
  refresh : List Nat := []
  deriving DecidableEq, Repr

/-- What stands planted in a memory location: an uncorrectable error that its one retry does or does not cure (R402);
with `l1`, in the dirty byte that this core's L1 holds of the address. -/
structure MemError where
  addr    : Nat
  lasting : Bool
  l1      : Option Nat := none
  deriving DecidableEq, Repr

/-- A command in the object-table command queue (R238); once started, the span of the record as it stood (in another
package's memory, with `pkg`), the number of the last access made before, and the cores that have not acknowledged. -/
structure OtCmd where
  op      : Nat
  ctx     : Nat
  handle  : Nat
  granule : Nat
  started : Bool := false
  span    : List (Nat × Nat) := []
  pkg     : Option Nat := none
  since   : Nat := 0
  waiting : List Nat := []
  deriving DecidableEq, Repr

end Sys2Proof.Machine
end

