-- ==== Sys2Proof/Machine/EngineData.lean ====
section
/-! DEFINITION. What the four engines hold: accepted commands (R306, R320, R343, R355), MXU weight banks (R297), lookup
fabric slots and claims (R342, R344), trough vector buffers (R354). -/

namespace Sys2Proof.Machine

/-- The engines. -/
inductive Engine where
  | mxu | copy | fabric | trough
  deriving DecidableEq, Repr, Inhabited

/-- An accepted engine command: the word it came from, the issuing core, context, firing and logical iteration, the
continuation, its parameter block and reload block as copied at acceptance (R306). Once it has run: its status, DETAIL and
DONE. `reads` are its requests to other packages not yet answered (number, address, package, handle) and `data` the bytes
that came; `writes` its writes to other packages not yet acknowledged, each with its row, element offset and handle;
`posted` those of them that are plain writes (R440); `broken` what failed after it was sent: status, DETAIL (of a refused arrival the element offset) and row (R328, R439). `parked` names the MOVING record that it
waits for (R241).

How far it has come: `log` holds what its accesses brought, the latest first, and stands for their order too: a further
try takes from it what has been done (the model's own). `recs` are the records it began under, `sectors` the 32-byte sectors
of regions that it has read (R266), `was` what bytes that a copy has overwritten held before it (R326), and `fuel` how many further accesses the step under way may make (`none`: all). -/
structure EngineCmd where
  id      : Nat
  engine  : Engine
  instr   : Instr
  core    : Nat
  ctx     : Nat
  fid     : Nat
  liter   : Nat
  cont    : Word
  block   : BitVec 512
  reload  : Option (BitVec 512) := none
  scope   : Scope
  slot    : Nat := 0
  started : Bool := false
  ended   : Option (Nat × Nat × Nat) := none
  reads   : List (Nat × Nat × Nat × Nat) := []
  data    : List (Nat × Nat × Byte) := []
  writes  : List (Nat × Nat × Nat × Nat) := []
  posted  : List Nat := []
  broken  : List (Nat × Nat × Nat) := []
  parked  : Option Nat := none
  log     : List (List Nat) := []
  recs    : List (Nat × ObjRec) := []
  sectors : List (Nat × List Byte) := []
  was     : List (Nat × Byte) := []
  fuel    : Option Nat := none
  deriving DecidableEq, Repr

/-- An MXU weight bank (R297): its tag, state, element codes by column and scales by column. -/
structure MxuBank where
  core   : Nat
  bank   : Nat
  valid  : Bool
  ctx    : Nat
  wid    : Nat
  sub    : MxTy
  scaled : Bool
  sblk   : Nat
  k      : Nat
  n      : Nat
  /-- element codes and scales of column n, row k -/
  w      : List (List Nat)
  scales : List (List Nat)
  deriving DecidableEq, Repr

/-- A wiring context slot of a core's fabric (R342): held by a context, releasing, its written records (others are
zero), runs in progress counted by R344. -/
structure LkSlot where
  core      : Nat
  slot      : Nat
  ctx       : Nat
  releasing : Bool
  cont      : Word := 0
  records   : List (Nat × BitVec 128)
  deriving DecidableEq, Repr

/-- A claim waiting for a slot (R344). -/
structure LkClaim where
  core  : Nat
  cmd   : Nat
  ctx   : Nat
  slot  : Nat
  cont  : Word := 0
  level : Nat
  since : Nat
  /-- a saved slot of a pre-empted context waits to be reclaimed (R413) -/
  saved : Bool := false
  deriving DecidableEq, Repr

/-- A trough's vector buffer (R354, R358). -/
structure TroughBuffer where
  trough : Nat
  buf    : Nat
  ctx    : Nat
  valid  : Bool
  vid    : Nat
  vfmt   : Nat
  elems  : List Nat
  deriving DecidableEq, Repr

end Sys2Proof.Machine
end

