-- ==== Sys2Proof/Machine/State.lean ====
section
/-! DEFINITION. The whole state of one package, plain data (R40 and the chapters named beside each field), the reasons a
step can stop, and the state after reset (R456). INVENTORY.md lists every field with its rule and reset value. -/

namespace Sys2Proof.Machine

/-- Why the machine stops with a fault. The V9 itself never stops: lane and context faults are captured into records
(R384) and are next states. These two are the model's own. -/
inductive Fault where
  /-- `exec` of an encoded word with no issued instruction (`State.focus` empty or naming no resident flock): raised by
  every meaning of a word when it is called outside an issue; `step` never does that. Safe. -/
  | notIssued
  /-- A resident flock's block or instruction index that the loaded image does not hold: raised by an issue; no run
  reaches it, because flocks are formed from loaded blocks (R186). Safe. -/
  | noInstruction
  deriving DecidableEq, Repr

/-- Why the machine refuses a step. -/
inductive Refusal where
  /-- no meaning yet for the instruction, by its mnemonic in the opcode table: raised by an arm of `exec`. Safe. -/
  | notModelled (mnemonic : String)
  /-- the word at the issued index is no instruction (R56, R59): raised by `step`. The loader refuses such a block
  before any firing (R59), so no run from a launch reaches it. Safe. -/
  | undecodable (w : IWord) (e : DecodeError)
  deriving DecidableEq, Repr

/-- The instruction being issued (R193): a resident flock and an instruction index. -/
structure Focus where
  flock : Nat
  idx   : Nat
  deriving DecidableEq, Repr

/-- What the part does in one step: an issue of a pipeline (R193), a step of the opcode table, the passing of cycles,
or a small happening of the memory system and the environment that no row names. -/
inductive Happening where
  /-- pipeline `pipe` of `core` issues (R193) -/
  | issue (core pipe : Nat)
  /-- a step of the opcode table that no word encodes -/
  | event (i : Instr)
  /-- `n` cycles of the arithmetic clock pass (R5) -/
  | elapse (n : Nat)
  /-- the network brings the `k`-th token in transit to its core (R429, R430, R418) -/
  | hop (k : Nat)
  /-- an L1 line is evicted: its dirty bytes are written back (R255) -/
  | evict (core addr : Nat)
  /-- engine command `id` makes up to `n` further accesses (R240, R266) -/
  | engine (id n : Nat)
  /-- a finished command of a copy engine completes, whatever others stand before it (R334) -/
  | engineDone (id : Nat)
  /-- byte `i` of the misaligned access at `k` is performed (R144) -/
  | accessByte (k i : Nat)
  /-- the oldest write of a die's outbound queue reaches its home (R258) -/
  | bridge (src dst : Nat)
  /-- memory at an address develops an error (R402); it may be lasting -/
  | memoryError (addr : Nat) (lasting : Bool)
  /-- a byte that a core's L1 holds develops an error (R402) -/
  | l1Error (core addr : Nat)
  /-- a fold, frame, object record cache or domain unit develops an error under a context (R402) -/
  | unitError (ctx : Nat)
  /-- the `k`-th write to a host window, first of its port, reaches the host's memory and is acknowledged (R331) -/
  | hostAck (k : Nat)
  /-- the host writes a byte of its own memory behind a host window (R331) -/
  | hostStore (addr : Nat) (b : Byte)
  /-- a frame is acknowledged by the peer of a port (R431) -/
  | portAck (port : Nat) (ack : BitVec 16)
  /-- the peer of a port finds that a frame's CRC does not check (R431) -/
  | portNak (port : Nat)
  /-- a port forms a frame of up to `n` messages queued for it (R431) -/
  | transmit (port n : Nat)
  /-- a received TOKEN (`cls` 0), GRANT (1) or RELEASE (2) goes on into this package (R428, R429, R442) -/
  | deliver (port cls : Nat)
  /-- a port sends a time message (R443) -/
  | timeSend (port : Nat)
  /-- a gang member tells rank 0 what it knows; rank 0 opens a completion round (R442) -/
  | gangReport (ctx : Nat)
  /-- reset is applied (R456): the host releases the package from whatever it was doing -/
  | powerOn
  deriving DecidableEq, Repr

/-- One core: the registers and small structures that are not lists of waiting things. -/
structure Core where
  /-- the fuse that enables it (R1, R456) -/
  enabled  : Bool := true
  /-- acquire generation (R256) -/
  agen     : BitVec 16 := 0
  /-- arrival counter (R163, R411) -/
  arrival  : Nat := 0
  /-- SHEDCTL.ILV and a written setting waiting to take effect (R253) -/
  ilv      : Bool := false
  ilvPend  : Option Bool := none
  /-- a change of partitions waits to take effect, and regions given up that are not free before it does (R254) -/
  parts    : Bool := false
  leaving  : List Region := []
  /-- power state, WAKES, the router's buffered tokens (R417, R418) -/
  power    : Power := .running
  wakes    : BitVec 32 := 0
  buffer   : List Transit := []
  /-- the cycle since which the core has been idle, and since which it is clock-gated (R417, R454) -/
  idleAt   : Nat := 0
  gatedAt  : Nat := 0
  /-- tokens that reached the core in this cycle, in the order of their mesh ports (R164); inbound token queue (R430) and whether the
  core is hot -/
  landed   : List Transit := []
  inq      : List Transit := []
  hot      : Bool := false
  /-- domain unit: release queue, grant queue, wait list (R152) -/
  relq     : List UnitReq := []
  grantq   : List UnitReq := []
  waitq    : List UnitReq := []
  /-- for each pipeline, one more than the cycle of its last issue (R193, R452; the model's own) -/
  issued   : List Nat := []
  deriving DecidableEq, Repr

/-- THE STATE of the package. -/
structure State where
  /-- what happens next, oldest first: the model's inputs and scheduling choices -/
  agenda    : List Happening
  /-- the counter that free values and free choices are drawn with (the model's own) -/
  freeCount : Nat
  /-- the instruction being issued (the model's own) -/
  focus     : Option Focus
  /-- cycles since reset; device tick (R71, R443) with its fraction in 1/12,000 ticks and its slew in parts per 1,000 -/
  cycle     : Nat
  tick      : Nat
  tickFrac  : Nat
  slew      : Int
  /-- memory by physical address (R248) -/
  mem       : List Host.Cell
  /-- the cores (R2) -/
  cores     : List Core
  /-- folds of all cores (R162), oldest first -/
  fold      : List FoldEntry
  /-- eldest queries waiting for an answer: the token, and the answer once served (R168) -/
  eldest    : List (FoldEntry × Option Bool)
  /-- ready instances, in ready order, and pens (R188) -/
  ready     : List Ready
  pens      : List Pen
  /-- resumed lanes waiting for a slot (R391) -/
  resumed   : List Resumed
  /-- resident flocks (R192) -/
  flocks    : List Flock
  /-- accesses issued and not yet performed (R33) -/
  accesses  : List Access
  /-- tokens in transit and tokens held for a release (R132, R429) -/
  transit   : List Transit
  held      : List Held
  /-- releases owed to other packages, and those that other packages have performed (R204) -/
  owed      : List Owed
  paid      : List (Nat × Nat)
  /-- requests of firings to units of other packages, by number and firing, that have not entered their queues (R152) -/
  asking    : List (Nat × Nat)
  /-- answers to continuations that wait at their senders for a unit's grant queue (R152) -/
  outbox    : List (Nat × UnitReq)
  /-- physical cores told by members of gangs that have no context here yet: gang, package, cores (R442) -/
  gangCores : List (Nat × Nat × List Nat)
  /-- requests whose HOME is in another package or whose unit's queue is full wait at their firing; kill notices and
  acknowledgements in transit (R161); activations; filters -/
  notices   : List Notice
  acks      : List Notice
  acts      : List Activation
  filters   : List Filter
  /-- live contexts (R184) -/
  ctxs      : List Ctx
  /-- the yard: queued launches, admission counter, images whose check results are kept (R183, R184, R186) -/
  queues    : List Queued
  /-- gang launches refused here, until their tick: gang number, tick, the other members (R441) -/
  refused   : List (Nat × Nat × List Nat)
  admitted  : Nat
  kept      : List Kept
  /-- spawn submissions, and answers owed (R221, R222) -/
  spawns    : List SpawnSub
  answers   : List Answer
  /-- residency requests not yet submitted (R284) -/
  hresSubs  : List HresSub
  /-- handler tokens the yard holds (R389) -/
  handlerQ  : List (Nat × FoldEntry)
  /-- tokens held at their senders for want of a pinfold slot (R412) -/
  pinHeld   : List Transit
  /-- PINEXT registers written while their context was not live: context, number, SIZE, address (R412) -/
  pinext    : List (Nat × Nat × Nat × Nat)
  /-- object record caches and cached residency (R240) -/
  orc       : List OrcEntry
  orcClock  : Nat
  resWords  : List ResWord
  /-- L1 sectors (R255), outbound bridge queues (R258), outbound queue to other packages (R440) -/
  l1        : List Sector
  bridge    : List BridgeWrite
  remoteOut : List RemoteWrite
  reqSeq    : Nat
  /-- memory errors not yet met (R402) -/
  errors    : List MemError
  /-- ordered-reduction units (R259) and arrivals on their way or stalled -/
  targets   : List RedTarget
  arrivals  : List RedArrival
  /-- barrier waiters (R260) -/
  waiters   : List Waiter
  /-- residency fetches outstanding (R285) -/
  fetches   : List Fetch
  /-- writes to host windows not yet acknowledged, in their order (R331) -/
  hostWrites : List HostWrite
  /-- engine commands (R306, R320, R343, R355), MXU banks, fabric slots and waits, trough buffers -/
  cmds      : List EngineCmd
  cmdSeq    : Nat
  banks     : List MxuBank
  lkSlots   : List LkSlot
  lkClaims  : List LkClaim
  buffers   : List TroughBuffer
  /-- device registers: OTPOOL, OTSTAT and the command queue (R238), SAVEPOOL (R408) with what is carved, DEFSEED,
  PWRCAP, PWRSTAT, FWSTAT, FWCMD (R459), PKGID, PEERWIN, ROUTESTAT, routes (R437), TICKSTAT (R443) -/
  otpool    : Word
  otBadw    : Bool
  otOvf     : Bool
  otSeq     : BitVec 32
  otq       : List OtCmd
  /-- records that a SHOOT found MOVING and no PUBLISH has followed (R246), and the SHOOTRES that the device issues itself when
  it retires a granule (R242) -/
  unpublished : List (Nat × Nat)
  ownShoots : List OtCmd
  savepool  : Word
  saveBadw  : Bool
  saveCarve : List (Nat × Nat)
  defseed   : Word
  /-- the cycle of the last write of DEFSEED and the seed before it (R460) -/
  seedWas   : Option (Nat × Word)
  pwrcap    : Nat
  alarm     : Bool
  hotLayer  : Nat
  /-- the cycle from which the arbiter's present millisecond counts (R453; the model's own) -/
  arbiterAt : Nat
  watts     : Nat
  fwSvn     : BitVec 16
  fwState   : Nat
  fwSlot    : Nat
  fwLasterr : Nat
  fwCmd     : Option Word
  fwOther   : Option Nat
  /-- the image that runs; `fwOther` is the verified one of the other slot (R457, R458) -/
  fwImage   : Option Nat
  fwCount   : Nat
  pkgid     : Nat
  peerwin   : Word
  noroute   : BitVec 32
  routes    : List (Nat × Nat)
  sync      : Bool
  root      : Nat
  /-- the port by which the root's time comes (R443) -/
  rootPort  : Nat
  offset    : Int
  lastTime  : Nat
  /-- whether the launch port is open (R456 step 6), and whether steps 1 to 5 are done -/
  isOpen    : Bool
  broughtUp : Bool
  /-- ports (R431), dies, stacks of memory -/
  ports     : List Port
  dies      : List Die
  memStacks : List Stack
  /-- packets sent to the hosts, messages sent to other packages (R434, R425), oldest first -/
  hostOut   : List HostOut
  netOut    : List (Nat × LinkMsg)
  deriving DecidableEq, Repr

/-- THE STATE AFTER RESET (R456: before bring-up runs; the launch port is closed). Registers have the values their
tables give; where the spec gives none, notes/assumptions names the value. -/
def State.reset : State where
  agenda := []
  freeCount := 0
  focus := none
  cycle := 0
  tick := 0
  tickFrac := 0
  slew := 0
  mem := []
  cores := List.replicate Config.numCores {}
  fold := []
  eldest := []
  ready := []
  pens := []
  resumed := []
  flocks := []
  accesses := []
  transit := []
  held := []
  owed := []
  paid := []
  asking := []
  outbox := []
  gangCores := []
  notices := []
  acks := []
  acts := []
  filters := []
  ctxs := []
  queues := []
  refused := []
  admitted := 0
  kept := []
  spawns := []
  answers := []
  hresSubs := []
  handlerQ := []
  pinHeld := []
  pinext := []
  orc := []
  orcClock := 0
  resWords := []
  l1 := []
  bridge := []
  remoteOut := []
  reqSeq := 0
  errors := []
  targets := []
  arrivals := []
  waiters := []
  fetches := []
  hostWrites := []
  cmds := []
  cmdSeq := 0
  banks := []
  lkSlots := []
  lkClaims := []
  buffers := []
  otpool := 14
  otBadw := false
  otOvf := false
  otSeq := 0
  otq := []
  unpublished := []
  ownShoots := []
  savepool := 0
  saveBadw := false
  saveCarve := []
  defseed := 0
  seedWas := none
  pwrcap := 3600
  alarm := false
  hotLayer := 0
  arbiterAt := 0
  watts := 0
  fwSvn := 0
  fwState := 0
  fwSlot := 0
  fwLasterr := 0
  fwCmd := none
  fwOther := none
  fwImage := none
  fwCount := 0
  pkgid := 0
  peerwin := 0
  noroute := 0
  routes := []
  sync := false
  root := 0
  rootPort := 0
  offset := 0
  lastTime := 0
  isOpen := false
  broughtUp := false
  ports := List.replicate Config.numPorts {}
  dies := List.replicate 4 {}
  memStacks := List.replicate Config.numStacks {}
  hostOut := []
  netOut := []

end Sys2Proof.Machine
end

