-- ==== Sys2Proof/Machine/Shape.lean ====
section
/-! DEFINITION. What the fetch, the loader and the firing need to know of a word beyond its effect: its predicate mode,
its targets, the latches an end-of-firing request keeps, and the classes of the loader's checks (R59, R196, R210, R394). -/

namespace Sys2Proof.Machine

/-- The predicate mode of a word (R28); `steer` is always performed (R134), a step has none. -/
def pmOf : Instr → Pm
  | .ldf pm _ _ _ => pm
  | .ldfv pm _ _ _ => pm
  | .ldk pm _ _ _ => pm
  | .getx pm _ _ => pm
  | .gets pm _ _ => pm
  | .movi pm _ _ => pm
  | .movhi pm _ _ => pm
  | .nop pm _ _ => pm
  | .send pm _ _ _ _ _ => pm
  | .sendx pm _ _ => pm
  | .sendv pm _ _ _ _ _ => pm
  | .cont pm _ _ _ _ => pm
  | .enter pm _ _ _ _ => pm
  | .entermAnd pm _ _ _ _ => pm
  | .entermOr pm _ _ _ _ => pm
  | .next pm _ _ _ _ => pm
  | .leave pm _ _ _ _ => pm
  | .dkill pm _ _ => pm
  | .spawn pm _ _ => pm
  | .add pm _ _ _ => pm
  | .addSat pm _ _ _ => pm
  | .sub pm _ _ _ => pm
  | .subSat pm _ _ _ => pm
  | .addi pm _ _ => pm
  | .mul pm _ _ _ => pm
  | .mulh pm _ _ _ => pm
  | .madd pm _ _ _ => pm
  | .div pm _ _ _ => pm
  | .rem pm _ _ _ => pm
  | .min pm _ _ _ => pm
  | .max pm _ _ _ => pm
  | .abs pm _ _ _ => pm
  | .neg pm _ _ _ => pm
  | .and pm _ _ => pm
  | .or pm _ _ => pm
  | .xor pm _ _ => pm
  | .andn pm _ _ => pm
  | .not pm _ _ => pm
  | .shl pm _ _ _ => pm
  | .shr pm _ _ _ => pm
  | .sar pm _ _ _ => pm
  | .rotl pm _ _ _ => pm
  | .shli pm _ _ _ => pm
  | .shri pm _ _ _ => pm
  | .sari pm _ _ _ => pm
  | .rotli pm _ _ _ => pm
  | .clz pm _ _ _ => pm
  | .ctz pm _ _ _ => pm
  | .popc pm _ _ _ => pm
  | .brev pm _ _ _ => pm
  | .bswap pm _ _ _ => pm
  | .bfx pm _ _ _ => pm
  | .bfi pm _ _ => pm
  | .sext pm _ _ _ => pm
  | .zext pm _ _ _ => pm
  | .cmp pm _ _ _ => pm
  | .cmpi pm _ _ _ => pm
  | .sel pm _ _ => pm
  | .pand pm _ _ => pm
  | .por pm _ _ => pm
  | .pxor pm _ _ => pm
  | .pnot pm _ _ => pm
  | .pack2 pm _ _ _ => pm
  | .unpk pm _ _ _ => pm
  | .fadd pm _ _ _ _ => pm
  | .fsub pm _ _ _ _ => pm
  | .fmul pm _ _ _ _ => pm
  | .ffma pm _ _ _ _ => pm
  | .fmin pm _ _ _ => pm
  | .fmax pm _ _ _ => pm
  | .fabs pm _ _ _ => pm
  | .fneg pm _ _ _ => pm
  | .fcmp pm _ _ _ _ => pm
  | .fclass pm _ _ _ => pm
  | .fdiv pm _ _ _ _ => pm
  | .fsqrt pm _ _ _ _ => pm
  | .frcpe pm _ _ => pm
  | .frsqe pm _ _ => pm
  | .fexp2 pm _ _ => pm
  | .flog2 pm _ _ => pm
  | .fsin pm _ _ => pm
  | .fcos pm _ _ => pm
  | .ftanh pm _ _ => pm
  | .fround pm _ _ _ _ => pm
  | .cvt _ pm _ _ _ _ => pm
  | .cvtsr pm _ _ _ _ => pm
  | .hadd2 pm _ _ _ _ => pm
  | .hmul2 pm _ _ _ _ => pm
  | .hfma2 pm _ _ _ _ => pm
  | .hmax2 pm _ _ _ => pm
  | .dot4 pm _ _ _ => pm
  | .shfl pm _ _ => pm
  | .shfx pm _ _ => pm
  | .shup pm _ _ => pm
  | .shdn pm _ _ => pm
  | .ballot pm _ _ => pm
  | .vany pm _ _ => pm
  | .vall pm _ _ => pm
  | .scan pm _ _ _ => pm
  | .redl pm _ _ _ => pm
  | .bcast pm _ _ => pm
  | .curs pm _ _ _ => pm
  | .cursi pm _ _ _ => pm
  | .ld pm _ _ _ => pm
  | .st pm _ _ _ => pm
  | .ldsp pm _ _ _ => pm
  | .stsp pm _ _ _ => pm
  | .lda pm _ _ _ => pm
  | .sta pm _ _ _ => pm
  | .atom pm _ _ _ _ _ => pm
  | .cas pm _ _ _ _ => pm
  | .fatom pm _ _ _ _ => pm
  | .redo pm _ _ _ => pm
  | .fence pm _ _ _ => pm
  | .pref pm _ _ _ => pm
  | .hqry pm _ _ _ => pm
  | .arrive pm _ _ => pm
  | .waitb pm _ _ => pm
  | .hresFetch pm _ _ => pm
  | .hresRelease pm _ _ => pm
  | .mma pm _ _ _ => pm
  | .mmas pm _ _ _ => pm
  | .wld pm _ _ _ => pm
  | .aclr pm _ _ => pm
  | .acvt pm _ _ _ => pm
  | .aadd pm _ _ => pm
  | .cpy pm _ _ => pm
  | .cpyg pm _ _ => pm
  | .cpys pm _ _ => pm
  | .cpyr pm _ _ _ => pm
  | .cpybsToplanes pm _ _ => pm
  | .cpybsFromplanes pm _ _ => pm
  | .cpyt pm _ _ => pm
  | .cpyhTohost pm _ _ => pm
  | .cpyhFromhost pm _ _ => pm
  | .cpyf pm _ _ => pm
  | .lkctx pm _ _ _ => pm
  | .lkrun pm _ _ _ => pm
  | .lkst pm _ _ => pm
  | .tvec pm _ _ => pm
  | .tgemv pm _ _ _ => pm
  | .tgemvs pm _ _ _ => pm
  | .tred pm _ _ => pm
  | .trap pm _ _ => pm
  | .brk pm _ _ => pm
  | .rdsr pm _ _ => pm
  | .wrsr pm _ _ => pm
  | .resume pm _ => pm
  | .retry pm _ => pm
  | .abort pm _ => pm
  | .emx _ pm _ _ _ => pm
  | _ => .always

/-- The first target of a word (R25), or nothing. -/
def t0Of : Instr → Target
  | .ldf _ _ t0 _ => t0
  | .ldfv _ _ t0 _ => t0
  | .ldk _ _ t0 _ => t0
  | .getx _ t0 _ => t0
  | .gets _ _ t0 => t0
  | .movi _ t0 _ => t0
  | .movhi _ t0 _ => t0
  | .nop _ t0 _ => t0
  | .dkill _ t0 _ => t0
  | .spawn _ t0 _ => t0
  | .add _ _ t0 _ => t0
  | .addSat _ _ t0 _ => t0
  | .sub _ _ t0 _ => t0
  | .subSat _ _ t0 _ => t0
  | .addi _ t0 _ => t0
  | .mul _ _ t0 _ => t0
  | .mulh _ _ t0 _ => t0
  | .madd _ _ t0 _ => t0
  | .div _ _ t0 _ => t0
  | .rem _ _ t0 _ => t0
  | .min _ _ t0 _ => t0
  | .max _ _ t0 _ => t0
  | .abs _ _ t0 _ => t0
  | .neg _ _ t0 _ => t0
  | .and _ t0 _ => t0
  | .or _ t0 _ => t0
  | .xor _ t0 _ => t0
  | .andn _ t0 _ => t0
  | .not _ t0 _ => t0
  | .shl _ _ t0 _ => t0
  | .shr _ _ t0 _ => t0
  | .sar _ _ t0 _ => t0
  | .rotl _ _ t0 _ => t0
  | .shli _ t0 _ _ => t0
  | .shri _ t0 _ _ => t0
  | .sari _ t0 _ _ => t0
  | .rotli _ t0 _ _ => t0
  | .clz _ _ t0 _ => t0
  | .ctz _ _ t0 _ => t0
  | .popc _ _ t0 _ => t0
  | .brev _ _ t0 _ => t0
  | .bswap _ _ t0 _ => t0
  | .bfx _ _ t0 _ => t0
  | .bfi _ t0 _ => t0
  | .sext _ _ t0 _ => t0
  | .zext _ _ t0 _ => t0
  | .cmp _ _ t0 _ => t0
  | .cmpi _ t0 _ _ => t0
  | .sel _ t0 _ => t0
  | .pand _ t0 _ => t0
  | .por _ t0 _ => t0
  | .pxor _ t0 _ => t0
  | .pnot _ t0 _ => t0
  | .pack2 _ _ t0 _ => t0
  | .unpk _ _ t0 _ => t0
  | .fadd _ _ _ t0 _ => t0
  | .fsub _ _ _ t0 _ => t0
  | .fmul _ _ _ t0 _ => t0
  | .ffma _ _ _ t0 _ => t0
  | .fmin _ _ t0 _ => t0
  | .fmax _ _ t0 _ => t0
  | .fabs _ _ t0 _ => t0
  | .fneg _ _ t0 _ => t0
  | .fcmp _ _ _ t0 _ => t0
  | .fclass _ _ t0 _ => t0
  | .fdiv _ _ _ t0 _ => t0
  | .fsqrt _ _ _ t0 _ => t0
  | .frcpe _ t0 _ => t0
  | .frsqe _ t0 _ => t0
  | .fexp2 _ t0 _ => t0
  | .flog2 _ t0 _ => t0
  | .fsin _ t0 _ => t0
  | .fcos _ t0 _ => t0
  | .ftanh _ t0 _ => t0
  | .fround _ _ _ t0 _ => t0
  | .cvt _ _ _ _ _ t0 => t0
  | .cvtsr _ _ _ _ t0 => t0
  | .hadd2 _ _ _ t0 _ => t0
  | .hmul2 _ _ _ t0 _ => t0
  | .hfma2 _ _ _ t0 _ => t0
  | .hmax2 _ _ t0 _ => t0
  | .dot4 _ _ t0 _ => t0
  | .shfl _ t0 _ => t0
  | .shfx _ t0 _ => t0
  | .shup _ t0 _ => t0
  | .shdn _ t0 _ => t0
  | .ballot _ t0 _ => t0
  | .vany _ t0 _ => t0
  | .vall _ t0 _ => t0
  | .scan _ _ t0 _ => t0
  | .redl _ _ t0 _ => t0
  | .bcast _ t0 _ => t0
  | .curs _ _ t0 _ => t0
  | .cursi _ t0 _ _ => t0
  | .ld _ _ t0 _ => t0
  | .st _ _ t0 _ => t0
  | .ldsp _ _ t0 _ => t0
  | .stsp _ _ t0 _ => t0
  | .lda _ _ t0 _ => t0
  | .sta _ _ t0 _ => t0
  | .atom _ _ t0 _ _ _ => t0
  | .cas _ t0 _ _ _ => t0
  | .fatom _ _ t0 _ _ => t0
  | .redo _ t0 _ _ => t0
  | .fence _ _ t0 _ => t0
  | .pref _ _ t0 _ => t0
  | .hqry _ _ t0 _ => t0
  | .arrive _ t0 _ => t0
  | .waitb _ t0 _ => t0
  | .hresFetch _ t0 _ => t0
  | .hresRelease _ t0 _ => t0
  | .mma _ _ t0 _ => t0
  | .mmas _ _ t0 _ => t0
  | .wld _ _ t0 _ => t0
  | .aclr _ t0 _ => t0
  | .acvt _ _ t0 _ => t0
  | .aadd _ t0 _ => t0
  | .cpy _ t0 _ => t0
  | .cpyg _ t0 _ => t0
  | .cpys _ t0 _ => t0
  | .cpyr _ _ t0 _ => t0
  | .cpybsToplanes _ t0 _ => t0
  | .cpybsFromplanes _ t0 _ => t0
  | .cpyt _ t0 _ => t0
  | .cpyhTohost _ t0 _ => t0
  | .cpyhFromhost _ t0 _ => t0
  | .cpyf _ t0 _ => t0
  | .lkctx _ _ t0 _ => t0
  | .lkrun _ _ t0 _ => t0
  | .lkst _ t0 _ => t0
  | .tvec _ t0 _ => t0
  | .tgemv _ _ t0 _ => t0
  | .tgemvs _ _ t0 _ => t0
  | .tred _ t0 _ => t0
  | .trap _ _ t0 => t0
  | .brk _ _ t0 => t0
  | .rdsr _ _ t0 => t0
  | .wrsr _ _ t0 => t0
  | .resume _ t0 => t0
  | .retry _ t0 => t0
  | .abort _ t0 => t0
  | .emx _ _ _ t0 _ => t0
  | _ => .none

/-- The second target of a word (R25), or nothing. -/
def t1Of : Instr → Target
  | .ldf _ _ _ t1 => t1
  | .ldfv _ _ _ t1 => t1
  | .ldk _ _ _ t1 => t1
  | .nop _ _ t1 => t1
  | .dkill _ _ t1 => t1
  | .spawn _ _ t1 => t1
  | .add _ _ _ t1 => t1
  | .addSat _ _ _ t1 => t1
  | .sub _ _ _ t1 => t1
  | .subSat _ _ _ t1 => t1
  | .mul _ _ _ t1 => t1
  | .mulh _ _ _ t1 => t1
  | .madd _ _ _ t1 => t1
  | .div _ _ _ t1 => t1
  | .rem _ _ _ t1 => t1
  | .min _ _ _ t1 => t1
  | .max _ _ _ t1 => t1
  | .abs _ _ _ t1 => t1
  | .neg _ _ _ t1 => t1
  | .and _ _ t1 => t1
  | .or _ _ t1 => t1
  | .xor _ _ t1 => t1
  | .andn _ _ t1 => t1
  | .not _ _ t1 => t1
  | .shl _ _ _ t1 => t1
  | .shr _ _ _ t1 => t1
  | .sar _ _ _ t1 => t1
  | .rotl _ _ _ t1 => t1
  | .clz _ _ _ t1 => t1
  | .ctz _ _ _ t1 => t1
  | .popc _ _ _ t1 => t1
  | .brev _ _ _ t1 => t1
  | .bswap _ _ _ t1 => t1
  | .bfx _ _ _ t1 => t1
  | .bfi _ _ t1 => t1
  | .sext _ _ _ t1 => t1
  | .zext _ _ _ t1 => t1
  | .cmp _ _ _ t1 => t1
  | .sel _ _ t1 => t1
  | .pand _ _ t1 => t1
  | .por _ _ t1 => t1
  | .pxor _ _ t1 => t1
  | .pnot _ _ t1 => t1
  | .pack2 _ _ _ t1 => t1
  | .unpk _ _ _ t1 => t1
  | .fadd _ _ _ _ t1 => t1
  | .fsub _ _ _ _ t1 => t1
  | .fmul _ _ _ _ t1 => t1
  | .ffma _ _ _ _ t1 => t1
  | .fmin _ _ _ t1 => t1
  | .fmax _ _ _ t1 => t1
  | .fabs _ _ _ t1 => t1
  | .fneg _ _ _ t1 => t1
  | .fcmp _ _ _ _ t1 => t1
  | .fclass _ _ _ t1 => t1
  | .fdiv _ _ _ _ t1 => t1
  | .fsqrt _ _ _ _ t1 => t1
  | .frcpe _ _ t1 => t1
  | .frsqe _ _ t1 => t1
  | .fexp2 _ _ t1 => t1
  | .flog2 _ _ t1 => t1
  | .fsin _ _ t1 => t1
  | .fcos _ _ t1 => t1
  | .ftanh _ _ t1 => t1
  | .fround _ _ _ _ t1 => t1
  | .hadd2 _ _ _ _ t1 => t1
  | .hmul2 _ _ _ _ t1 => t1
  | .hfma2 _ _ _ _ t1 => t1
  | .hmax2 _ _ _ t1 => t1
  | .dot4 _ _ _ t1 => t1
  | .shfl _ _ t1 => t1
  | .shfx _ _ t1 => t1
  | .shup _ _ t1 => t1
  | .shdn _ _ t1 => t1
  | .ballot _ _ t1 => t1
  | .vany _ _ t1 => t1
  | .vall _ _ t1 => t1
  | .scan _ _ _ t1 => t1
  | .redl _ _ _ t1 => t1
  | .bcast _ _ t1 => t1
  | .curs _ _ _ t1 => t1
  | .ld _ _ _ t1 => t1
  | .st _ _ _ t1 => t1
  | .ldsp _ _ _ t1 => t1
  | .stsp _ _ _ t1 => t1
  | .lda _ _ _ t1 => t1
  | .sta _ _ _ t1 => t1
  | .fence _ _ _ t1 => t1
  | .pref _ _ _ t1 => t1
  | .hqry _ _ _ t1 => t1
  | .arrive _ _ t1 => t1
  | .waitb _ _ t1 => t1
  | .hresFetch _ _ t1 => t1
  | .hresRelease _ _ t1 => t1
  | .mma _ _ _ t1 => t1
  | .mmas _ _ _ t1 => t1
  | .wld _ _ _ t1 => t1
  | .aclr _ _ t1 => t1
  | .acvt _ _ _ t1 => t1
  | .aadd _ _ t1 => t1
  | .cpy _ _ t1 => t1
  | .cpyg _ _ t1 => t1
  | .cpys _ _ t1 => t1
  | .cpyr _ _ _ t1 => t1
  | .cpybsToplanes _ _ t1 => t1
  | .cpybsFromplanes _ _ t1 => t1
  | .cpyt _ _ t1 => t1
  | .cpyhTohost _ _ t1 => t1
  | .cpyhFromhost _ _ t1 => t1
  | .cpyf _ _ t1 => t1
  | .lkctx _ _ _ t1 => t1
  | .lkrun _ _ _ t1 => t1
  | .lkst _ _ t1 => t1
  | .tvec _ _ t1 => t1
  | .tgemv _ _ _ t1 => t1
  | .tgemvs _ _ _ t1 => t1
  | .tred _ _ t1 => t1
  | .emx _ _ _ _ t1 => t1
  | _ => .none

/-- The classes of words the loader and the access order tell apart: send-class words other than `cont` (R129, R200),
cross-lane words (R210), words that access HBM objects, the scratchpad or the accumulators (R34, R272), engine words. -/
inductive WordClass where
  | plain | send | cross | hbm | scratch | accum | mxu | copy | fabric | trough
  deriving DecidableEq, Repr

/-- The class of a word. -/
def classOf : Instr → WordClass
  | .send _ _ _ _ _ _ => .send
  | .sendx _ _ _ => .send
  | .sendv _ _ _ _ _ _ => .send
  | .steer _ _ _ _ _ => .send
  | .enter _ _ _ _ _ => .send
  | .entermAnd _ _ _ _ _ => .send
  | .entermOr _ _ _ _ _ => .send
  | .next _ _ _ _ _ => .send
  | .leave _ _ _ _ _ => .send
  | .spawn _ _ _ => .hbm
  | .shfl _ _ _ => .cross
  | .shfx _ _ _ => .cross
  | .shup _ _ _ => .cross
  | .shdn _ _ _ => .cross
  | .ballot _ _ _ => .cross
  | .vany _ _ _ => .cross
  | .vall _ _ _ => .cross
  | .scan _ _ _ _ => .cross
  | .redl _ _ _ _ => .cross
  | .bcast _ _ _ => .cross
  | .ld _ _ _ _ => .hbm
  | .st _ _ _ _ => .hbm
  | .ldsp _ _ _ _ => .scratch
  | .stsp _ _ _ _ => .scratch
  | .lda _ _ _ _ => .accum
  | .sta _ _ _ _ => .accum
  | .atom _ _ _ _ _ _ => .hbm
  | .cas _ _ _ _ _ => .hbm
  | .fatom _ _ _ _ _ => .hbm
  | .redo _ _ _ _ => .hbm
  | .arrive _ _ _ => .hbm
  | .waitb _ _ _ => .hbm
  | .mma _ _ _ _ => .mxu
  | .mmas _ _ _ _ => .mxu
  | .wld _ _ _ _ => .mxu
  | .aclr _ _ _ => .mxu
  | .acvt _ _ _ _ => .mxu
  | .aadd _ _ _ => .mxu
  | .cpy _ _ _ => .copy
  | .cpyg _ _ _ => .copy
  | .cpys _ _ _ => .copy
  | .cpyr _ _ _ _ => .copy
  | .cpybsToplanes _ _ _ => .copy
  | .cpybsFromplanes _ _ _ => .copy
  | .cpyt _ _ _ => .copy
  | .cpyhTohost _ _ _ => .copy
  | .cpyhFromhost _ _ _ => .copy
  | .cpyf _ _ _ => .copy
  | .lkctx _ _ _ _ => .fabric
  | .lkrun _ _ _ _ => .fabric
  | .lkst _ _ _ => .fabric
  | .tvec _ _ _ => .trough
  | .tgemv _ _ _ _ => .trough
  | .tgemvs _ _ _ _ => .trough
  | .tred _ _ _ => .trough
  | _ => .plain

end Sys2Proof.Machine
end

