-- ==== Sys2Proof/Machine/Ops.lean ====
section
/-! DEFINITION. The named operations every meaning uses: bytes and bit fields, updates of one core, context, flock or
lane, memory and the L1 (R248–R258), the delivery of results (R26–R31), and TAKING A FAULT: the capture of a lane into a
sick-pen record (R384–R387, R463), the start of a drain (R401), and the return, a lane read back from its record
(R391). -/

namespace Sys2Proof.Machine

/-- The outcome of a meaning. -/
abbrev Res := Host.Outcome State Fault Refusal

/-! ### Bytes and fields -/

/-- The low `n` bytes of a number, little-endian (R3). -/
def bytesLE : Nat → Nat → List Byte
  | 0, _ => []
  | n + 1, v => BitVec.ofNat 8 v :: bytesLE n (v / 256)

/-- The number little-endian bytes stand for (R3). -/
def natLE : List Byte → Nat
  | [] => 0
  | b :: r => b.toNat + 256 * natLE r

/-- Bits `lo`+`len`−1 : `lo` of a number. -/
def bits (v lo len : Nat) : Nat := (v / 2 ^ lo) % 2 ^ len

/-- A value placed at bit `lo`. -/
def at_ (v lo : Nat) : Nat := 2 ^ lo * v

/-- The number of a Bool. -/
def b2n (b : Bool) : Nat := if b then 1 else 0

/-- A Bool as a 64-bit result. -/
def boolWord (b : Bool) : Word := if b then 1 else 0

/-- A saturating 32-bit counter (R173, R398). -/
def satInc (c : BitVec 32) (n : Nat := 1) : BitVec 32 := BitVec.ofNat 32 (min (c.toNat + n) 0xFFFFFFFF)

/-- The code of a scope (R43) and its order by width. -/
def scopeNum : Scope → Nat
  | .core => 0 | .die => 1 | .pkg => 2 | .gang => 3

def scopeMax (a b : Option Scope) : Option Scope :=
  match a, b with
  | none, x => x
  | x, none => x
  | some x, some y => if scopeNum x < scopeNum y then some y else some x

/-- Replace the first element that satisfies a test. -/
def replaceFirst {α : Type} (p : α → Bool) (f : α → α) : List α → List α
  | [] => []
  | a :: r => if p a then f a :: r else a :: replaceFirst p f r

/-- Remove the element at an index. -/
def removeAt {α : Type} : Nat → List α → List α
  | _, [] => []
  | 0, _ :: r => r
  | n + 1, a :: r => a :: removeAt n r

/-- The first index whose element satisfies a test. -/
def indexOf? {α : Type} (p : α → Bool) : List α → Nat → Option Nat
  | [], _ => none
  | a :: r, n => if p a then some n else indexOf? p r (n + 1)

/-- Insert keeping a list sorted by a key, after equal keys. -/
def insertBy {α : Type} (key : α → Nat) (x : α) : List α → List α
  | [] => [x]
  | a :: r => if key a ≤ key x then a :: insertBy key x r else x :: a :: r

/-- A list sorted by a key, stably. -/
def sortBy {α : Type} (key : α → Nat) (l : List α) : List α := l.foldl (fun acc x => insertBy key x acc) []

/-- The first element with the least key. -/
def minBy {α : Type} (key : α → Nat) : List α → Option α
  | [] => none
  | a :: r =>
    match minBy key r with
    | none => some a
    | some b => if key b < key a then some b else some a

/-! ### Parts of the state -/

/-- One core's registers (a core that is not listed reads as after reset). -/
def State.core (s : State) (c : Nat) : Core := s.cores[c]?.getD {}

/-- The enabled cores. -/
def State.enabledCores (s : State) : List Nat := (List.range Config.numCores).filter fun c => (s.core c).enabled

def State.updCore (s : State) (c : Nat) (f : Core → Core) : State := { s with cores := s.cores.modify c f }

/-- A live context. -/
def State.ctx? (s : State) (x : Nat) : Option Ctx := s.ctxs.find? (·.id == x)

def State.updCtx (s : State) (x : Nat) (f : Ctx → Ctx) : State :=
  { s with ctxs := replaceFirst (·.id == x) f s.ctxs }

def State.flock? (s : State) (id : Nat) : Option Flock := s.flocks.find? (·.id == id)

def State.updFlock (s : State) (id : Nat) (f : Flock → Flock) : State :=
  { s with flocks := replaceFirst (·.id == id) f s.flocks }

/-- The flock that holds a firing. -/
def State.flockOf? (s : State) (fid : Nat) : Option Flock := s.flocks.find? fun fl => fl.lanes.any (·.fid == fid)

def Flock.lane? (fl : Flock) (fid : Nat) : Option Lane := fl.lanes.find? (·.fid == fid)

def Flock.updLane (fl : Flock) (fid : Nat) (f : Lane → Lane) : Flock :=
  { fl with lanes := replaceFirst (·.fid == fid) f fl.lanes }

/-- Update one firing, wherever it is: resident, waiting for a slot after `resume`, in a sick-pen record, or saved. -/
def Lane.updIf (fid : Nat) (f : Lane → Lane) (ln : Lane) : Lane := if ln.fid = fid then f ln else ln

def Ctx.updLane (c : Ctx) (fid : Nat) (f : Lane → Lane) : Ctx :=
  { c with
    sick := c.sick.map fun k => { k with lane := k.lane.map (Lane.updIf fid f) }
    saved := c.saved.map fun z => { z with
      flocks := z.flocks.map fun fl => fl.updLane fid f
      resumed := z.resumed.map fun r => { r with lane := r.lane.updIf fid f } } }

def State.updLane (s : State) (fid : Nat) (f : Lane → Lane) : State :=
  { s with
    flocks := s.flocks.map fun fl => fl.updLane fid f
    resumed := s.resumed.map fun r => { r with lane := r.lane.updIf fid f }
    ctxs := s.ctxs.map fun c => c.updLane fid f }

/-- A firing that is resident. -/
def State.lane? (s : State) (fid : Nat) : Option Lane := (s.flockOf? fid).bind (·.lane? fid)

/-- The loaded block of a context. -/
def State.block? (s : State) (x b : Nat) : Option LBlock := (s.ctx? x).bind (·.blocks[b]?)

/-- How often a context has drawn values of unwritten registers on a core. -/
def Ctx.drawsOn (c : Ctx) (core : Nat) : Nat := ((c.draws.find? (·.1 == core)).map (·.2)).getD 0

/-- The value an unwritten lane register reads (R30), the `k`-th of the context's present draw on a core. -/
def State.unwritten (s : State) (x core k : Nat) : Word :=
  Config.regWord core (((s.ctx? x).map (·.drawsOn core)).getD 0) k

/-- A context's count of draws on a core advances. -/
def State.draw (s : State) (x core : Nat) : State :=
  s.updCtx x fun c => { c with draws := (core, c.drawsOn core + 1) :: c.draws.filter (·.1 ≠ core) }

/-- The die of a core (R71). -/
def dieOf (core : Nat) : Nat := core / 64

/-- The logical iteration of an instance: its IDX in the root domain, else epoch and IDX (R148). -/
def literOf (t : Tag) (e : BitVec 22) : Nat := if t.dom = 0 then t.idx.toNat else e.toNat * 1024 + t.idx.toNat

/-- The name of an instance equals another's: block and tag (R16). -/
def sameName (x b : Nat) (t : Tag) (x' b' : Nat) (t' : Tag) : Bool := x = x' && b = b' && t = t'

/-- Something of a context moved: the detector's interval starts again (R399). -/
def State.moved (s : State) (x : Nat) : State := s.updCtx x fun c => { c with lastMove := s.cycle }

/-! ### Memory by physical address (R248) -/

/-- What an address reads as: an unlisted one reads 0. -/
def Memory.read : List Host.Cell → Nat → Byte
  | [], _ => 0
  | (a, b) :: r, x => if a = x then b else if x < a then 0 else Memory.read r x

/-- Write one byte, keeping addresses rising and no zero listed. -/
def Memory.write : List Host.Cell → Nat → Byte → List Host.Cell
  | [], x, v => if v = 0 then [] else [(x, v)]
  | (a, b) :: r, x, v =>
    if x < a then (if v = 0 then (a, b) :: r else (x, v) :: (a, b) :: r)
    else if x = a then (if v = 0 then r else (a, v) :: r)
    else (a, b) :: Memory.write r x v

/-- The canonical form: addresses strictly rising above `lo`, no byte equal to what an unlisted address reads as. -/
def Memory.wfFrom : Nat → List Host.Cell → Bool
  | _, [] => true
  | lo, (a, b) :: r => lo ≤ a && b != 0 && Memory.wfFrom (a + 1) r

def Memory.wf (m : List Host.Cell) : Bool := Memory.wfFrom 0 m

/-- Whether an address holds memory: HBM, the host windows, a core's shed or accumulators (R248, R250). -/
def isMemory (a : Nat) : Bool :=
  a < Config.hbmTop || (Config.hostLow ≤ a && a < Config.hostTop) ||
  (Config.winLow ≤ a && a < Config.winTop &&
    (let o := (a - Config.winLow) % Config.winStride
     o < Config.shedBytes || (Config.accumOffset ≤ o && o < Config.accumOffset + Config.accumBytes)))

def State.rd (s : State) (a : Nat) : Byte := if isMemory a then Memory.read s.mem a else 0

def State.wr (s : State) (a : Nat) (b : Byte) : State :=
  if isMemory a then { s with mem := Memory.write s.mem a b } else s

/-- `n` bytes from an address. -/
def State.rdN (s : State) (a : Nat) : Nat → List Byte
  | 0 => []
  | n + 1 => s.rd a :: s.rdN (a + 1) n

def State.wrN (s : State) (a : Nat) : List Byte → State
  | [] => s
  | b :: r => (s.wr a b).wrN (a + 1) r

/-- A little-endian number of `n` bytes. -/
def State.rdNat (s : State) (a n : Nat) : Nat := natLE (s.rdN a n)

/-- The physical address of a byte of a core's shed, or of its accumulator memory (R250). -/
def shedAddr (core off : Nat) : Nat := Config.winLow + core * Config.winStride + off
def accumAddr (core off : Nat) : Nat := Config.winLow + core * Config.winStride + Config.accumOffset + off

/-- The stack of an HBM address (R249). -/
def stackOf (a : Nat) : Nat :=
  if a < Config.hbmUpper then
    let x := (List.range 7).foldl (fun acc k => Nat.xor acc (bits a (8 + 4 * k) 4)) 0
    Nat.xor x (bits a 36 3)
  else (a - Config.hbmUpper) / 0x30000000 / 32

/-- The die whose L2 slice is the home of an address (R249). -/
def homeDie (a : Nat) : Nat := stackOf a / 4

/-- The stacks that hold some bytes have units left in their windows (R453). -/
def State.unitsFor (s : State) (l : List Nat) : Bool :=
  l.all fun x => Config.hbmTop ≤ x || ((s.memStacks[stackOf x]?).map (·.left)).getD 1 ≠ 0

/-- A stack's count falls by one for each 64-byte unit; one loaded from a budget of all ones has no limit (R453, R459). -/
def State.chargeUnits (s : State) (l : List Nat) : State :=
  (((l.filter (· < Config.hbmTop)).map (· / 64)).eraseDups).foldl (fun (s : State) b =>
    { s with memStacks := s.memStacks.modify (stackOf (64 * b)) fun k =>
        if k.left = 0xFFFFFFFF then k else { k with left := k.left - 1 } }) s

/-! ### The way to other packages (R432, R437, R440) -/

/-- The port by which messages to a package leave, if a route exists. -/
def State.route? (s : State) (p : Nat) : Option Nat := (s.routes.find? (·.1 == p)).map (·.2)

/-- A message leaves by its route; without one it is dropped and counted (R437). -/
def State.sendOut (s : State) (p : Nat) (m : LinkMsg) : State :=
  if (s.route? p).isSome then { s with netOut := s.netOut ++ [(p, m)] }
  else { s with noroute := satInc s.noroute }

/-- Whether a path to a package exists: a valid route by a port that is not down (R432, R439). -/
def State.pathTo (s : State) (p : Nat) : Bool :=
  match s.route? p with
  | none => false
  | some k => (s.ports[k]?.getD {}).state ≠ 2

/-- A message that its requester does not send for want of a route is counted (R437). -/
def State.countRoute (s : State) (p : Nat) : State :=
  if (s.route? p).isSome then s else { s with noroute := satInc s.noroute }

/-- A write enters the outbound queue for another package (R440): the bytes of one masked MEMREQ, in address order. With no route
it is dropped and counted (R437). -/
def State.postWrite (s : State) (core ctx p : Nat) (post : Option Poster) (l : List (Nat × Byte)) : State :=
  match l with
  | [] => s
  | (a, _) :: _ =>
    let n := (l.getLast?.map (·.1)).getD a + 1 - a
    let here := fun i => l.find? (·.1 = a + i)
    let op := RemoteOp.write ((List.range n).map fun i => ((here i).map (·.2)).getD 0) ((List.range n).map fun i => (here i).isSome)
    let id := s.reqSeq + 1
    let w : RemoteWrite := { id := id, ctx := ctx, dpkg := p, addr := a, core := core, post := post }
    let s := { s with reqSeq := id, remoteOut := if (s.route? p).isSome then s.remoteOut ++ [w] else s.remoteOut }
    s.sendOut p (.memReq { id := id, spkg := s.pkgid, score := core, dpkg := p, addr := a, op := op })

/-! ### The L1 and the way to the home L2 (R255–R258) -/

/-- Bytes at addresses of their own, in order. -/
def State.wrAll (s : State) (l : List (Nat × Byte)) : State := l.foldl (fun s x => s.wr x.1 x.2) s

/-- Every write that waits in the outbound queue from one die to another reaches its home, oldest first (R258). -/
def State.drainBridge (s : State) (p : BridgeWrite → Bool) : State :=
  let s1 := (s.bridge.filter p).foldl (fun s w => s.wrAll w.data) s
  { s1 with bridge := s1.bridge.filter fun w => !p w }

/-- A write of one byte at the home L2, behind the writes that its die queued earlier toward that home. -/
def State.homeWrite (s : State) (die a : Nat) (b : Byte) : State :=
  (s.drainBridge fun w => w.src = die && w.dst = homeDie a).wr a b

/-- A read of one byte at the home L2 by an agent of a die (R258): it passes behind that die's queued writes. -/
def State.homeView (s : State) (die a : Nat) : State :=
  s.drainBridge fun w => w.src = die && w.dst = homeDie a

def Sector.byte (x : Sector) (i : Nat) : Byte := x.bytes[i]?.getD 0

def sectorIs (core addr : Nat) (pkg : Option Nat) (x : Sector) : Bool :=
  x.core = core && x.addr = addr && x.pkg = pkg

/-- A sector some of whose dirty bytes have been written back. -/
def Sector.clean (m : BitVec 32) (x : Sector) : Sector :=
  { x with
    dirty := x.dirty &&& ~~~m, through := x.through &&& ~~~m
    owners := (x.owners.map fun o => (o.1, o.2 &&& ~~~m)).filter (·.2 ≠ 0) }

/-- The dirty bytes that a context's stores left in a sector. -/
def Sector.ownedBy (c : Nat) (x : Sector) : BitVec 32 :=
  ((x.owners.filter (·.1 = c)).foldl (fun m o => m ||| o.2) 0) &&& x.dirty

/-- A store of a context dirties one byte of a sector; `shrd`: under COH SHRD. -/
def Sector.store (c : Nat) (shrd : Bool) (i : Nat) (b : Byte) (x : Sector) : Sector :=
  let bit := BitVec.ofNat 32 (2 ^ i)
  { x with
    bytes := x.bytes.set i b, valid := x.valid ||| bit, dirty := x.dirty ||| bit, shared := x.shared || shrd
    through := if shrd then x.through ||| bit else x.through
    owners := match x.owners.find? (·.1 = c) with
      | none => x.owners ++ [(c, bit)]
      | some _ => x.owners.map fun o => if o.1 = c then (c, o.2 ||| bit) else o }

/-- Bytes of one sector leave an L1 together, so that no aligned store is seen in part (R144): at die scope toward another
die they join the die's queue, at a wider scope they reach their home (R258); bytes of another package's memory join the
outbound queue toward it as one masked write (R440). -/
def State.pushBytes (s : State) (sc : Scope) (core ctx : Nat) (pkg : Option Nat) (l : List (Nat × Byte)) : State :=
  match l with
  | [] => s
  | (a, _) :: _ =>
    match pkg with
    | none =>
      if sc = .die && homeDie a ≠ dieOf core then
        { s with bridge := s.bridge ++ [{ src := dieOf core, dst := homeDie a, addr := a, data := l }] }
      else ((s.homeView (dieOf core) a).wrAll l).chargeUnits (l.map (·.1))
    | some p => s.postWrite core ctx p none l

/-- Write back bytes of sectors, which then are clean (R255): of a sector the dirty bytes among those that `m` names. -/
def State.writeBackOf (s : State) (sc : Scope) (m : Sector → BitVec 32) : State :=
  let s1 := s.l1.foldl (fun s x =>
    s.pushBytes sc x.core x.ctx x.pkg
      (((List.range 32).filter fun i => x.dirty.getLsbD i && (m x).getLsbD i).map fun i => (x.addr + i, x.byte i))) s
  { s1 with l1 := s1.l1.map fun x => x.clean (m x) }

/-- Write back every dirty byte of the sectors that satisfy a test. -/
def State.writeBack (s : State) (sc : Scope) (p : Sector → Bool) : State :=
  s.writeBackOf sc fun x => if p x then BitVec.allOnes 32 else 0

/-- A release at a scope by a core (R262): its dirty SHRD bytes are written through at die scope or wider, and at
package scope and wider the writes its die has queued reach their homes. -/
def State.release (s : State) (core : Nat) (sc : Scope) : State :=
  match sc with
  | .core => s
  | .die => s.writeBackOf .die fun x => if x.core = core then x.through else 0
  | .pkg | .gang =>
    (s.writeBackOf .pkg fun x => if x.core = core then x.through else 0).drainBridge fun w => w.src = dieOf core

/-- Whether a context's release at a scope is complete once written through: at gang scope every write to another package has
been acknowledged (R440), but for one of another context that was lost with its port. -/
def State.releaseDone (s : State) (sc : Scope) (x : Nat) : Bool := sc ≠ .gang || s.remoteOut.all fun w => w.lost && w.ctx ≠ x

/-- An acquire at a scope by a core (R256): AGEN advances at die scope or wider; when it wraps every SHRD line is
discarded (after its dirty bytes are written back). -/
def State.acquire (s : State) (core : Nat) (sc : Option Scope) : State :=
  match sc with
  | none | some .core => s
  | some _ =>
    let g := (s.core core).agen + 1
    let s1 := s.updCore core fun c => { c with agen := g }
    if g = 0 then
      let s2 := s1.writeBack .pkg fun x => x.core = core && x.shared
      { s2 with l1 := s2.l1.filter fun x => !(x.core = core && x.shared) }
    else s1

/-- The 64-byte lines a core's L1 holds, each once (R255). -/
def State.linesOf (s : State) (core : Nat) : List (Nat × Option Nat) :=
  ((s.l1.filter (·.core = core)).map fun x => (x.addr / 64, x.pkg)).eraseDups

/-- Room for a line (R255): an L1 that holds all the lines it has place for gives up one, its dirty bytes written back. The
spec gives no replacement rule: which one is a free choice. -/
def State.l1Room (s : State) (core a : Nat) (pkg : Option Nat) : State :=
  let lines := s.linesOf core
  if lines.contains (a / 64, pkg) || lines.length < Config.l1Lines then s
  else
    let v := lines[Config.choice s.freeCount % lines.length]?.getD (0, none)
    let hit := fun x : Sector => x.core = core && x.addr / 64 = v.1 && x.pkg = v.2
    let s1 := s.writeBack .pkg hit
    { s1 with l1 := s1.l1.filter (fun x => !hit x), freeCount := s1.freeCount + 1 }

/-- The sector of a core that serves an access, filled whole from the home L2 unless all its bytes are valid and, under SHRD, of
the present acquire generation (R255, R256). Dirty bytes stay; the others come together, so that no aligned store of another
agent is seen in part (R144). -/
def State.fill (s : State) (core ctx coh a : Nat) : State :=
  let base := a / 32 * 32
  let g := (s.core core).agen
  let s := s.homeView (dieOf core) a
  match s.l1.find? (sectorIs core base none) with
  | none =>
    let s := s.l1Room core base none
    let home := s.rdN base 32
    { s with l1 := s.l1 ++ [{ core := core, ctx := ctx, addr := base, coh := coh, agen := g, bytes := home,
                              valid := BitVec.allOnes 32, dirty := 0, shared := coh = 2 }] }
  | some x =>
    let home := s.rdN base 32
    let hit := x.valid = BitVec.allOnes 32 && (coh ≠ 2 || (x.shared && x.agen = g))
    { s with l1 := s.l1.map fun y =>
        if sectorIs core base none y then
          if hit then { y with coh := coh }
          else
            { y with
              agen := g, coh := coh, shared := y.shared || coh = 2, valid := BitVec.allOnes 32,
              bytes := (List.range 32).map fun i => if y.dirty.getLsbD i then y.byte i else home[i]?.getD 0 }
        else y }

/-- A load of one byte of an object of this package by a core (R255): RO, PRIV and SHRD through the L1, NC at home. -/
def State.loadByte (s : State) (core ctx coh a : Nat) : State × Byte :=
  if coh = 3 then
    let s := s.homeView (dieOf core) a
    (s, s.rd a)
  else
    let s := s.fill core ctx coh a
    (s, match s.l1.find? (sectorIs core (a / 32 * 32) none) with
        | some x => x.byte (a % 32)
        | none => 0)

/-- A store of one byte into a core's L1, dirty (R255); `pkg` owns the memory where it is another package's (R439). -/
def State.storeL1 (s : State) (core ctx coh : Nat) (pkg : Option Nat) (a : Nat) (b : Byte) : State :=
  let base := a / 32 * 32
  match s.l1.find? (sectorIs core base pkg) with
  | none =>
    let s := s.l1Room core base pkg
    let new : Sector := { core := core, ctx := ctx, addr := base, coh := coh, agen := (s.core core).agen,
                          bytes := List.replicate 32 0, valid := 0, dirty := 0, pkg := pkg }
    { s with l1 := s.l1 ++ [new.store ctx (coh = 2) (a % 32) b] }
  | some _ =>
    { s with l1 := s.l1.map fun y => if sectorIs core base pkg y then y.store ctx (coh = 2) (a % 32) b else y }

/-- A store of one byte (R255): PRIV and SHRD into the L1; NC at home. -/
def State.storeByte (s : State) (core ctx coh a : Nat) (b : Byte) : State :=
  if coh = 3 then s.homeWrite (dieOf core) a b else s.storeL1 core ctx coh none a b

/-- A byte of another package's memory that a core's L1 holds under SHRD (R439, R255): a dirty one, or a valid one of the present
acquire generation. -/
def State.farByte (s : State) (core p x : Nat) : Option Byte :=
  (s.l1.find? (sectorIs core (x / 32 * 32) (some p))).bind fun k =>
    if k.dirty.getLsbD (x % 32) || (k.valid.getLsbD (x % 32) && k.agen = (s.core core).agen) then some (k.byte (x % 32)) else none

/-- A byte of another package's memory as its owner has answered, with what the core's L1 has stored over it since. -/
def State.farMerged (s : State) (core p : Nat) (x : Nat × Byte) : Byte :=
  match s.l1.find? (sectorIs core (x.1 / 32 * 32) (some p)) with
  | some k => if k.dirty.getLsbD (x.1 % 32) then k.byte (x.1 % 32) else x.2
  | none => x.2

/-- A byte of another package's memory is filled into the L1 under SHRD. Dirty bytes stay; others of an older acquire generation do
not. -/
def State.farFill (s : State) (core ctx p : Nat) (x : Nat × Byte) : State :=
  let base := x.1 / 32 * 32
  let g := (s.core core).agen
  let bit := BitVec.ofNat 32 (2 ^ (x.1 % 32))
  match s.l1.find? (sectorIs core base (some p)) with
  | none =>
    let s := s.l1Room core base (some p)
    let k : Sector := { core := core, ctx := ctx, addr := base, coh := 2, agen := g, bytes := (List.replicate 32 0).set (x.1 % 32) x.2,
                        valid := bit, dirty := 0, pkg := some p, shared := true }
    { s with l1 := s.l1 ++ [k] }
  | some _ =>
    { s with l1 := s.l1.map fun k =>
        if sectorIs core base (some p) k then
          { k with
            bytes := if k.dirty.getLsbD (x.1 % 32) then k.bytes else k.bytes.set (x.1 % 32) x.2
            valid := (if k.agen = g then k.valid else k.dirty) ||| bit, agen := g, shared := true }
        else k }

/-- A byte of another package's memory that the L1 holds takes a value which is written to its owner beside it: it is clean. -/
def State.farPut (s : State) (core p : Nat) (x : Nat × Byte) : State :=
  { s with l1 := s.l1.map fun k =>
      if sectorIs core (x.1 / 32 * 32) (some p) k then
        { k with bytes := k.bytes.set (x.1 % 32) x.2 }.clean (BitVec.ofNat 32 (2 ^ (x.1 % 32)))
      else k }

def State.loadBytes (s : State) (core ctx coh : Nat) : List Nat → State × List Byte
  | [] => (s, [])
  | a :: r =>
    let (s, b) := s.loadByte core ctx coh a
    let (s, bs) := s.loadBytes core ctx coh r
    (s, b :: bs)

def State.storeBytes (s : State) (core ctx coh : Nat) : List Nat → List Byte → State
  | a :: r, b :: bs => (s.storeByte core ctx coh a b).storeBytes core ctx coh r bs
  | _, _ => s

/-- The issuing core writes back its dirty bytes of the 64-byte lines that hold some bytes and discards the lines
(R275); the lines of another package's memory too, whose bytes go before the request that follows. -/
def State.flushLines (s : State) (core : Nat) (pkg : Option Nat) (as : List Nat) : State :=
  let hit := fun x : Sector => x.core = core && x.pkg = pkg && as.any fun a => a / 64 = x.addr / 64
  let s := s.writeBack .pkg hit
  { s with l1 := s.l1.filter fun x => !hit x }

/-! ### Delivery (R25–R31, R143) -/

def Val.zero : Val := { bits := 0 }

/-- A delivery from instruction `j` to a latch: it counts; with a value, the latch keeps the value of the
highest-indexed producer that performed its effect (R26–R29). P takes bit 0 and drops the void mark (R143). -/
def Cell.deliver (l : Latch) (j : Nat) (v : Option Val) (c : Cell) : Cell :=
  match l, v with
  | .a, none => { c with waitA := c.waitA - 1 }
  | .b, none => { c with waitB := c.waitB - 1 }
  | .c, none => { c with waitC := c.waitC - 1 }
  | .p, none => { c with waitP := c.waitP - 1 }
  | .o, _ => { c with waitO := c.waitO - 1 }
  | .a, some v =>
    if c.srcA ≤ j then { c with waitA := c.waitA - 1, a := v, srcA := j + 1 } else { c with waitA := c.waitA - 1 }
  | .b, some v =>
    if c.srcB ≤ j then { c with waitB := c.waitB - 1, b := v, srcB := j + 1 } else { c with waitB := c.waitB - 1 }
  | .c, some v =>
    if c.srcC ≤ j then { c with waitC := c.waitC - 1, c := v, srcC := j + 1 } else { c with waitC := c.waitC - 1 }
  | .p, some v =>
    if c.srcP ≤ j then { c with waitP := c.waitP - 1, p := v.bits.getLsbD 0, srcP := j + 1 }
    else { c with waitP := c.waitP - 1 }

/-- A delivery from instruction `j` to a target (R25): a latch, or with a value a lane register (R30). -/
def Lane.deliver (j : Nat) (v : Option Val) (t : Target) (ln : Lane) : Lane :=
  match t with
  | .none => ln
  | .latch l i => { ln with cells := ln.cells.modify i.toNat (Cell.deliver l j v) }
  | .reg x =>
    match v with
    | none => ln
    | some v => { ln with regs := ln.regs ++ [{ x := x.toNat, idx := j, val := v }] }

/-- Instruction `j` has executed (DONE); `perf` says whether it performed its effect (PERF) and then its results go to
its targets, T0 the first and T1 the second (R28, R31). -/
def Lane.complete (j : Nat) (perf : Bool) (t0 t1 : Target) (r0 r1 : Val) (ln : Lane) : Lane :=
  let ln := { ln with cells := ln.cells.modify j fun c =>
    { c with issued := true, done := true, perf := perf, r0 := if perf then r0 else Val.zero,
             r1 := if perf then r1 else Val.zero } }
  (ln.deliver j (if perf then some r0 else none) t0).deliver j (if perf then some r1 else none) t1

/-- An instruction that has delivered is to deliver again: a latch that has not been used yet awaits it once more, and its register
writes go. -/
def Cell.await (l : Latch) (j : Nat) (c : Cell) : Cell :=
  if c.issued then c
  else match l with
  | .a => { c with waitA := c.waitA + 1, srcA := if c.srcA = j + 1 then j else c.srcA }
  | .b => { c with waitB := c.waitB + 1, srcB := if c.srcB = j + 1 then j else c.srcB }
  | .c => { c with waitC := c.waitC + 1, srcC := if c.srcC = j + 1 then j else c.srcC }
  | .p => { c with waitP := c.waitP + 1, srcP := if c.srcP = j + 1 then j else c.srcP }
  | .o => { c with waitO := c.waitO + 1 }

def Lane.await (j : Nat) (t : Target) (ln : Lane) : Lane :=
  match t with
  | .latch l i => { ln with cells := ln.cells.modify i.toNat (Cell.await l j) }
  | _ => ln

/-- Instruction `j` counts as not executed (R391). -/
def Lane.undo (j : Nat) (t0 t1 : Target) (ln : Lane) : Lane :=
  let ln := (ln.await j t0).await j t1
  { ln with
    cells := ln.cells.modify j fun k => { k with issued := false, done := false, perf := false }
    regs := ln.regs.filter (·.idx ≠ j) }

/-- Instruction `j` has been issued and completes later (R33). -/
def Lane.issue (j : Nat) (ln : Lane) : Lane :=
  { ln with cells := ln.cells.modify j fun c => { c with issued := true } }

/-- The lane register write an instruction `j` reads: the highest-indexed below `j` (R30). -/
def regBelow (x j : Nat) (l : List RegWrite) : Option RegWrite :=
  l.foldl (fun best w =>
    if w.x = x && w.idx < j then
      match best with
      | none => some w
      | some b => if b.idx ≤ w.idx then some w else some b
    else best) none

/-- A read of lane register `x` by instruction `j`; after `resume`, R463: a writer at or above the faulting index
overtakes the record's image for readers at or above it. An unwritten register reads a free value (R30). -/
def Lane.readReg (ln : Lane) (x j : Nat) (free : Word) : Val :=
  match ln.image with
  | none =>
    match regBelow x j ln.regs with
    | some w => w.val
    | none => { bits := free }
  | some (i, img) =>
    let fromImage := img[x]?.getD { bits := free }
    match regBelow x j ln.regs with
    | some w => if i ≤ j && w.idx < i then fromImage else w.val
    | none => fromImage

/-- A plain store may still be in flight when its firing ends (R35, R36). -/
def plainStore (i : Instr) : Bool :=
  match i with
  | .st _ _ _ _ => true
  | .stsp _ _ _ _ => true
  | .sta _ _ _ _ => true
  | _ => false

/-! ### Taking a fault -/

/-- The class of a fault code (R382): 0 L, 1 C, 2 T. -/
def classOfCode (code : Nat) : Nat :=
  if code = 0x10 || code = 0x11 || code = 0x12 then 1
  else if code = 0x14 || code = 0x15 || code = 0x16 || code = 0 then 2 else 0

/-- Whether `retry` stands among the responses R382 lists for a code. -/
def retryListed (code : Nat) : Bool := code = 1 || code = 2 || code = 0x14 || code = 0x15 || code = 0x16

/-- PERMIT (R386, R388): the responses R382 lists for the code that R390 allows for the block. Bit 0 resume, bit 1
retry, bit 2 abort. -/
def permitOf (code : Nat) (idem : Bool) : Nat :=
  if code = 0x17 || code = 0x32 || code = 0x33 then 0
  else (if code = 0x18 then 0 else 1) + (if retryListed code && idem then 2 else 0) + 4

/-- The header of a fault record (R386) as a number of 512 bits. -/
def recHeader (xvoid ftick seq : Nat) (tag : Tag) (block fsize lane : Nat) (epoch : BitVec 22) (core : Nat)
    (algn : Bool) (permit cls index code : Nat) : Nat :=
  at_ xvoid 448 + at_ ftick 384 + at_ seq 320 + at_ tag.toBits.toNat 280 + at_ block 268 + at_ fsize 262 +
  at_ lane 257 + at_ epoch.toNat 235 + at_ core 227 + at_ (b2n algn) 23 + at_ permit 20 + at_ cls 18 +
  at_ index 8 + code

/-- The DETAIL bytes, eight doublewords (R387). -/
def detailBytes (d : List Word) : List Byte :=
  ((d ++ List.replicate 8 0).take 8).flatMap fun (w : Word) => bytesLE 8 w.toNat

/-- Whether a record keeps an executed instruction's latches instead of its results (R463): send-class words other
than `cont`, `dkill`, `spawn` and `hres`. -/
def keepsLatches (i : Instr) : Bool :=
  match i with
  | .dkill _ _ _ | .spawn _ _ _ | .hresFetch _ _ _ | .hresRelease _ _ _ => true
  | i => classOf i = .send

/-- The three doublewords a record keeps for an instruction (R463). -/
def cellTriple (i : Option Instr) (c : Cell) : Val × Val × Val :=
  if c.done && !(match i with | some i => keepsLatches i | none => false) then (c.r0, c.r1, Val.zero)
  else (c.a, c.b, c.c)

/-- The word a record keeps for an instruction at 0x100 + 8j (R387): deliveries awaited, P, void marks. -/
def cellWord (i : Option Instr) (c : Cell) : Nat :=
  let t := cellTriple i c
  c.waitA + at_ c.waitB 7 + at_ c.waitC 14 + at_ c.waitP 21 + at_ c.waitO 28 + at_ (b2n c.p) 35 +
  at_ (b2n t.1.void) 36 + at_ (b2n t.2.1.void) 37 + at_ (b2n t.2.2.void) 38

/-- The instruction a code word stands for, if it is one. -/
def instrAt (code : List IWord) (j : Nat) : Option Instr :=
  match code[j]? with
  | some w => match decode w with
    | .ok i => some i
    | .error _ => none
  | none => none

/-- The body of a lane record from byte 0x080 to 0xAFF (R387, R463). -/
def laneBody (code : List IWord) (ln : Lane) (index : Nat) (free : Nat → Word) : List Byte :=
  let bm (f : Cell → Bool) := (ln.cells.zipIdx.foldl (fun acc (c, k) => if f c then acc + 2 ^ k else acc) 0)
  let pad := fun (n : Nat) (l : List Byte) => (l ++ List.replicate n 0).take n
  bytesLE 8 (bm (·.done)) ++ bytesLE 8 (bm (·.perf)) ++ List.replicate 112 0 ++
  pad 512 (ln.cells.zipIdx.flatMap fun (c, k) => bytesLE 8 (cellWord (instrAt code k) c)) ++
  pad 1536 (ln.cells.zipIdx.flatMap fun (c, k) =>
    let t := cellTriple (instrAt code k) c
    bytesLE 8 t.1.bits.toNat ++ bytesLE 8 t.2.1.bits.toNat ++ bytesLE 8 t.2.2.bits.toNat) ++
  ((List.range 64).flatMap fun x => bytesLE 8 (ln.readReg x index (free x)).bits.toNat)

/-- XVOID (R386). -/
def xvoidOf (ln : Lane) (index : Nat) (free : Nat → Word) : Nat :=
  (List.range 64).foldl (fun acc x => if (ln.readReg x index (free x)).void then acc + 2 ^ x else acc) 0

/-- The handler block that takes a code, if the image names one (R388): EMULATE goes to the emulation handler when
EVAL is 1; every other L, C or T code, and EMULATE otherwise, to the fault handler. -/
def handlerBlock (hw : BitVec 32) (code : Nat) : Option Nat :=
  if code = 0x14 && hw.getLsbD 31 then some (bits hw.toNat 16 12)
  else if hw.getLsbD 15 then some (bits hw.toNat 0 12) else none

/-- A response that a firing reserved lapses (R390): its record is pending as before. -/
def Ctx.lapse (fid : Nat) (c : Ctx) : Ctx :=
  { c with sick := c.sick.map fun k => match k.status with
      | .reserved _ f => if f = fid then { k with status := .pending k.told } else k
      | _ => k }

/-- What a discarded firing withheld goes (R390, R392, R404): its submissions and the responses it reserved are lost, its accesses on
their way go on without it. -/
def State.discardFiring (s : State) (fid : Nat) : State :=
  { s with
    ctxs := s.ctxs.map (Ctx.lapse fid)
    hresSubs := s.hresSubs.filter (·.fid ≠ fid), spawns := s.spawns.filter (fun p => p.fid ≠ fid || p.ended)
    accesses := s.accesses.map fun a => if a.fid = fid then { a with orphan := true } else a }

/-- A lane of a draining context goes (R401, R404): of its accesses only stores already translated and requests already
sent go on. -/
def State.discardLane (s : State) (flock fid : Nat) : State :=
  let s := (s.discardFiring fid).updFlock flock fun f => { f with lanes := f.lanes.filter (·.fid ≠ fid) }
  { s with accesses := s.accesses.filter fun a =>
      a.fid ≠ fid || (a.phase = .ready && plainStore a.instr) || (match a.phase with | .remote _ => true | _ => false) }

def Lane.isMasked (l : Lane) : Bool := match l.status with | .masked _ _ => true | _ => false

/-- A drain begins (R401, R383): the first fatal record's header and DETAIL are kept for the FAULT packet; pens stop;
lanes awaiting responses are discarded and the other lanes of resident flocks go on to their ends; blocks discard their
inputs; queued engine commands that have not started, and waiting claims and releases of fabric slots, are lost (R313, R348); waiters, fetches and ordered targets are discarded
(R285, R289, R280). In a gang, every other member is told (R442). A drain already begun stands. -/
def State.drain (s : State) (x : Nat) (report : List Byte) (code : Nat) : State :=
  match s.ctx? x with
  | none => s
  | some c =>
    if c.draining.isSome then s
    else
      let live := (s.flocks.filter (·.ctx = x)).flatMap fun f => (f.lanes.filter fun l => !l.isMasked).map (·.fid)
      let s := s.updCtx x fun c =>
        { c with draining := some report, pin := [], saved := [], faultq := [], brk := [], paused := false,
                 sick := c.sick.map fun k => { k with status := .free, lane := none } }
      let s : State := (match c.gang with
        | none => s
        | some g => if code = 0x33 then s else
          ((g.members.map (·.1)).filter (· ≠ s.pkgid)).foldl (fun (s : State) p =>
            s.sendOut p (.control p s.pkgid g.number (.lost s.pkgid code))) s)
      { s with
        cores := s.cores.map fun k => { k with waitq := k.waitq.filter (·.ctx ≠ x) }
        fold := s.fold.filter (·.ctx != x), eldest := s.eldest.filter (·.1.ctx != x)
        ready := s.ready.filter (·.ctx != x), resumed := s.resumed.filter (·.ctx != x)
        pens := s.pens.filter (·.ctx != x)
        flocks := (s.flocks.map fun f =>
          if f.ctx = x then { f with parked := false, lanes := f.lanes.filter fun l => !l.isMasked } else f).filter fun f =>
            f.ctx ≠ x || !f.lanes.isEmpty
        handlerQ := s.handlerQ.filter (·.1 != x), pinHeld := s.pinHeld.filter (·.ctx != x)
        held := s.held.filter (·.ctx != x), owed := s.owed.filter (·.ctx != x), outbox := s.outbox.filter (·.2.ctx != x)
        hresSubs := s.hresSubs.filter fun h => h.ctx ≠ x || live.contains h.fid
        accesses := (s.accesses.filter fun a =>
          a.ctx ≠ x || live.contains a.fid || (a.phase = .ready && plainStore a.instr) ||
          (match a.phase with | .remote _ => true | _ => false)).map fun a =>
            if a.ctx = x && !live.contains a.fid then { a with orphan := true } else a
        cmds := s.cmds.filter fun k => !(k.ctx = x && !k.started && k.ended.isNone)
        lkClaims := s.lkClaims.filter (·.ctx != x)
        lkSlots := s.lkSlots.map fun k => if k.ctx = x then { k with releasing := false, cont := 0 } else k
        waiters := s.waiters.filter (·.ctx != x), fetches := s.fetches.filter (·.ctx != x)
        targets := s.targets.filter (·.ctx != x)
        saveCarve := s.saveCarve.filter fun k => !c.saved.any fun z => z.size ≠ 0 && z.addr = k.1
        spawns := s.spawns.filter fun p => p.ctx ≠ x || p.ended || live.contains p.fid }

/-- The fault packet bytes of a fatal fault: header and DETAIL, 0x000–0x07F (R401). -/
def reportBytes (hdr : Nat) (d : List Word) : List Byte := bytesLE 64 hdr ++ detailBytes d

/-- Whether an aligned flock of this block stays resident for its faulted lane: a cross-lane instruction stands above
the faulting index (R386 ALGN, R216). -/
def algnOf (fl : Flock) (code : List IWord) (j : Nat) : Bool :=
  fl.aligned && (List.range code.length).any fun k =>
    j < k && match instrAt code k with | some i => classOf i = .cross | none => false

/-- The lowest free record of a context. -/
def Ctx.freeSick (c : Ctx) : Option Nat := indexOf? (fun k : Sick => k.status = .free) c.sick 0

/-- The code of a context's block. -/
def Ctx.codeAt (c : Ctx) (b : Nat) : List IWord := ((c.blocks[b]?).map (·.code)).getD []

/-- The header of a lane record (R386). -/
def State.laneHeader (s : State) (c : Ctx) (fl : Flock) (ln : Lane) (idx code seq : Nat) : Nat :=
  recHeader (xvoidOf ln idx (s.unwritten c.id fl.core)) s.tick seq ln.tag fl.block ln.fsize ln.lane ln.epoch fl.core
    (algnOf fl (c.codeAt fl.block) idx) (permitOf code (((c.blocks[fl.block]?).map (·.idem)).getD false))
    (classOfCode code) idx code

/-- The bytes of a lane record from its start to 0xAFF (R386, R387). -/
def State.laneRecord (s : State) (c : Ctx) (fl : Flock) (ln : Lane) (f : PendingFault) : List Byte :=
  reportBytes (s.laneHeader c fl ln f.idx f.code f.seq) f.detail ++
    laneBody (c.codeAt fl.block) ln f.idx (s.unwritten c.id fl.core)

/-- A fatal fault's record is written like any other where one is free (R384, R387); the drain frees it. -/
def State.writeFatal (s : State) (x : Nat) (bytes : List Byte) : State :=
  match (s.ctx? x).bind fun c => c.freeSick.map fun r => c.sickBase + 4096 * r with
  | some a => s.wrN a bytes
  | none => s

/-- Two records of a context change places: their bytes and what the device keeps beside them. -/
def State.swapRecords (s : State) (x i j : Nat) : State :=
  match s.ctx? x with
  | none => s
  | some c =>
    match c.sick[i]?, c.sick[j]? with
    | some a, some b =>
      let at_ := fun r => c.sickBase + 4096 * r
      let s := (s.wrN (at_ i) (s.rdN (at_ j) 0xB00)).wrN (at_ j) (s.rdN (at_ i) 0xB00)
      let move := fun (s : State) (k : Sick) (r : Nat) =>
        match k.lane with
        | some l => s.updLane l.fid fun l => match l.status with | .masked i (some _) => { l with status := .masked i (some r) } | _ => l
        | none => s
      move (move (s.updCtx x fun c => { c with sick := (c.sick.set i b).set j a }) b i) a j
    | _, _ => s

/-- Lanes of one flock that fault in the same cycle have their records in ascending lane order (R384 step 3): the newest record, `r`,
changes places with those of the same cycle before it that are of higher lanes. -/
def State.orderRecords (s : State) (x r : Nat) : State :=
  match (s.ctx? x).bind (·.sick[r]?) with
  | some k =>
    let above := fun (o : Sick) => o.flock = k.flock && o.taken = k.taken && o.status = .pending false &&
      (match o.lane, k.lane with | some a, some b => b.lane < a.lane | _, _ => false)
    let hit := (List.range r).reverse.filter fun i => (((s.ctx? x).bind (·.sick[i]?)).map above).getD false
    (hit.foldl (fun (acc : State × Nat) i => (acc.1.swapRecords x i acc.2, i)) (s, r)).1
  | none => s

/-- A masked lane's state goes into the lowest free record of its context (R384 step 3): the record's bytes are written
and the record is pending. With no free record the fault waits in the context. -/
def State.fillRecord (s : State) (x : Nat) (f : PendingFault) : State :=
  match s.ctx? x, s.flockOf? f.fid with
  | some c, some fl =>
    match c.freeSick, fl.lane? f.fid with
    | some r, some ln =>
      let algn := algnOf fl (c.codeAt fl.block) f.idx
      let s := (s.wrN (c.sickBase + 4096 * r) (s.laneRecord c fl ln f)).draw x fl.core
      let s := s.updLane f.fid fun l => { l with status := .masked f.idx (some r) }
      let rec_ : Sick := { status := .pending false, lane := some { ln with status := .masked f.idx (some r) },
                           flock := fl.id, core := fl.core, block := fl.block, code := f.code, algn := algn, taken := s.cycle }
      (s.updCtx x fun c => { c with sick := c.sick.set r rec_ }).orderRecords x r
    | _, _ => s.updCtx x fun c => { c with faultq := c.faultq ++ [f] }
  | _, _ => s

/-- The space of a memory word's accesses, if it makes any. -/
def spaceOf (i : Instr) : Option Space :=
  match i with
  | .ld _ _ _ _ | .st _ _ _ _ | .atom _ _ _ _ _ _ | .cas _ _ _ _ _ | .fatom _ _ _ _ _ | .redo _ _ _ _ | .spawn _ _ _
  | .arrive _ _ _ | .waitb _ _ _ => some .hbm
  | .ldsp _ _ _ _ | .stsp _ _ _ _ => some .scratch
  | .lda _ _ _ _ | .sta _ _ _ _ => some .accum
  | _ => none

def Access.bytesAll (a : Access) : List Nat := match a.scaleAt with | some x => x :: a.bytes | none => a.bytes

/-- Whether an access of a masked lane may not go on: it has begun nothing, and a lower-indexed word of its space has made no
access, so that R34 holds it until the lane's record is answered. `live` are the lane's lower-indexed accesses that go on. -/
def Access.mustWait (code : List IWord) (ln : Lane) (live : List Nat) (a : Access) : Bool :=
  a.phase = .ready && a.part.isEmpty && !a.bytesAll.isEmpty && (List.range a.idx).any fun i =>
    (instrAt code i).any (fun w => spaceOf w = some a.space) && !((ln.cells[i]?.map (·.done)).getD true) && !live.contains i

/-- The accesses of a masked lane that go on: those not translated yet, and those that must wait for the lane's record, are
dropped, and made again after a `resume`. -/
def State.maskAccesses (s : State) (code : List IWord) (ln : Lane) : State :=
  let mine := sortBy (·.idx) (s.accesses.filter fun a => a.fid = ln.fid && a.phase ≠ .walking && a.phase ≠ .moving)
  let live := mine.foldl (fun live a => if a.mustWait code ln live then live else live ++ [a.idx]) []
  { s with accesses := s.accesses.filter fun a => a.fid ≠ ln.fid ||
      (a.phase ≠ .walking && a.phase ≠ .moving && live.contains a.idx) }

/-- TAKING A LANE FAULT (R383, R384): at instruction `idx` of firing `fid`, with a code and its DETAIL items. A fault
while the context drains is counted and discarded (R404). A fault of a handler firing is DOUBLE, a fault under FCTL.FATAL
or without a handler is fatal: the context drains. Otherwise the lane is masked and its state captured; its accesses
already issued go on, but for those not translated yet and those that R34 holds behind a word it has not executed. One of them
that then fails takes no second record of the lane: it counts as not issued, and `resume` makes it again (DEDUCED, entry 102). -/
def State.capture (s : State) (fid idx code : Nat) (detail : List Word) : State :=
  match s.flockOf? fid with
  | none => s
  | some fl =>
    match fl.lane? fid, s.ctx? fl.ctx with
    | some ln, some c =>
      if ln.isMasked then s else
      let s1 := s.updCtx fl.ctx fun c => { c with fcount := satInc c.fcount, seq := c.seq + 1 }
      if c.draining.isSome then s1.discardLane fl.id fid
      else
        let s1 := s1.updCtx fl.ctx (Ctx.lapse fid)
        let f : PendingFault := { fid := fid, idx := idx, code := code, seq := c.seq, detail := detail }
        if ln.hrec.isSome then
          (s1.discardLane fl.id fid).drain fl.ctx
            (reportBytes (recHeader 0 s.tick c.seq ln.tag fl.block ln.fsize ln.lane ln.epoch fl.core false 0 1 idx 0x17)
              [BitVec.ofNat 64 code, BitVec.ofNat 64 ln.tag.toBits.toNat]) 0x17
        else if c.fatal || (handlerBlock c.handler code).isNone then
          (((s1.writeFatal fl.ctx (s.laneRecord c fl ln f)).draw fl.ctx fl.core).discardLane fl.id fid).drain fl.ctx
            (reportBytes (s.laneHeader c fl ln idx code c.seq) detail) code
        else
          let s1 := (s1.updLane fid fun l => { l with status := .masked idx none }).maskAccesses (c.codeAt fl.block) ln
          let pendingAt := fun j => s1.accesses.any fun a => a.fid = fid && a.idx = j
          let s1 := s1.updLane fid fun l =>
            { l with cells := l.cells.mapIdx fun j k =>
                if k.issued && !k.done && !pendingAt j then { k with issued := false } else k }
          s1.fillRecord fl.ctx f
    | _, _ => s

/-- For a latch of instruction `j`, the index plus one of the highest producer that a record says has performed its effect (R29). -/
def recordedSource (code : List IWord) (perf : Nat → Bool) (l : Latch) (j : Nat) : Nat :=
  (List.range (min j code.length)).foldl (fun n i =>
    match instrAt code i with
    | some w => if perf i && (t0Of w = .latch l (BitVec.ofNat 6 j) || t1Of w = .latch l (BitVec.ofNat 6 j)) then i + 1 else n
    | none => n) 0

/-- THE RETURN: a cell read back from a record's bytes at `base` (R387, R391, R463), for instruction `j`. An executed
instruction keeps its DONE and PERF bits and the recorded results; any other takes its recorded latches and counts. The
result of an executed `dkill` is its latch A as recorded. -/
def readCell (s : State) (base j : Nat) (code : List IWord) (c : Cell) : Cell :=
  let i := instrAt code j
  let perfs := s.rdNat (base + 0x88) 8
  let from_ := fun l => recordedSource code (fun i => bits (s.rdNat (base + 0x80) 8) i 1 = 1 && bits perfs i 1 = 1) l j
  let done := bits (s.rdNat (base + 0x80) 8) j 1 = 1
  let perf := bits perfs j 1 = 1
  let w := s.rdNat (base + 0x100 + 8 * j) 8
  let v := fun k => ({ bits := BitVec.ofNat 64 (s.rdNat (base + 0x300 + 24 * j + 8 * k) 8),
                       void := bits w (36 + k) 1 = 1 } : Val)
  if done && !(match i with | some i => keepsLatches i | none => false) then
    { c with done := true, issued := true, perf := perf, r0 := v 0, r1 := v 1 }
  else
    let c := if done && (match i with | some (.dkill _ _ _) => true | _ => false) then { c with r0 := v 0, r1 := v 0 } else c
    { c with done := done, issued := done, perf := perf, a := v 0, b := v 1, c := v 2, p := bits w 35 1 = 1,
             srcA := from_ .a, srcB := from_ .b, srcC := from_ .c, srcP := from_ .p,
             waitA := bits w 0 7, waitB := bits w 7 7, waitC := bits w 14 7, waitP := bits w 21 7,
             waitO := bits w 28 7 }

/-- The lane a `resume` continues, from the record at `base` (R391): cells as recorded, the register image standing for
reads at or above INDEX (R463), the writes of executed instructions kept with their recorded values. An access that was
on its way at the capture delivers to it: at once if it has been performed meanwhile, else when it is. -/
def resumeLane (s : State) (base idx : Nat) (code : List IWord) (ln : Lane) : Lane :=
  let xvoid := s.rdNat (base + 0x38) 8
  let img := (List.range 64).map fun x =>
    ({ bits := BitVec.ofNat 64 (s.rdNat (base + 0x900 + 8 * x) 8), void := bits xvoid x 1 = 1 } : Val)
  let was := ln.cells
  let recorded := fun j => bits (s.rdNat (base + 0x80) 8) j 1 = 1
  let pending := fun j => s.accesses.any fun a => a.fid = ln.fid && a.idx = j
  let cells := was.zipIdx.map fun (c, j) =>
    let k := readCell s base j code c
    { k with issued := k.done || pending j }
  let regs := (ln.regs.filter fun w => recorded w.idx).map fun w =>
    match cells[w.idx]?, instrAt code w.idx with
    | some c, some i => if t1Of i = .reg (BitVec.ofNat 6 w.x) then { w with val := c.r1 } else { w with val := c.r0 }
    | _, _ => w
  let ln' := { ln with cells := cells, image := some (idx, img), status := .running, regs := regs }
  was.zipIdx.foldl (fun l (c, j) =>
    match instrAt code j with
    | some i => if c.done && !recorded j && j ≠ idx then l.complete j c.perf (t0Of i) (t1Of i) c.r0 c.r1 else l
    | none => l) ln'

end Sys2Proof.Machine
end

