-- ==== Sys2Proof/Machine/Num.lean ====
section
/-! DEFINITION. Exact arithmetic and the number formats (R87–R108): a value is decoded to an exact number, an operation
is exact, and `roundTo` brings the result into a format once (R102). Integer helpers of R65–R66 stand here too. -/

namespace Sys2Proof.Machine

/-! ### Integers (R65, R66) -/

/-- Val(x, t) of R66: the low bits of a latch as a two's-complement or natural number. -/
def intVal (t : Ity) (x : Word) : Int :=
  let m := x.toNat % 2 ^ t.bits
  if t.signed && 2 ^ (t.bits - 1) ≤ m then (m : Int) - 2 ^ t.bits else m

/-- Ext(Wrap(x, w), t) of R66: wrapped to the width, sign- or zero-extended to 64 bits. -/
def extWrap (t : Ity) (x : Int) : Word := BitVec.ofInt 64 (intVal t (BitVec.ofInt 64 x))

/-- MinOf and MaxOf of R66. -/
def minOf (t : Ity) : Int := if t.signed then -(2 ^ (t.bits - 1)) else 0
def maxOf (t : Ity) : Int := if t.signed then 2 ^ (t.bits - 1) - 1 else 2 ^ t.bits - 1

/-- Clamp to the range of a type. -/
def clampTo (t : Ity) (x : Int) : Int := max (minOf t) (min (maxOf t) x)

/-! ### Exact numbers -/

/-- An exact value: a sign and a ratio of naturals (a zero keeps its sign), an infinity, or NaN. -/
inductive XNum where
  | nan
  | inf (neg : Bool)
  | fin (neg : Bool) (num den : Nat)
  deriving DecidableEq, Repr

def XNum.zero : XNum := .fin false 0 1

def XNum.isNaN : XNum → Bool
  | .nan => true
  | .inf _ | .fin _ _ _ => false

def XNum.neg : XNum → Bool
  | .nan => false
  | .inf n => n
  | .fin n _ _ => n

def XNum.isZero : XNum → Bool
  | .fin _ n _ => n = 0
  | .nan | .inf _ => false

/-- A signed ratio as an exact number; an exact zero is +0. -/
def XNum.ofRat (n : Int) (d : Nat) : XNum := .fin (n < 0) n.natAbs d

/-- The signed numerator of a finite value. -/
def sgn (neg : Bool) (n : Nat) : Int := if neg then -(n : Int) else n

/-- m × 2^e. -/
def XNum.dyadic (neg : Bool) (m : Nat) (e : Int) : XNum :=
  if 0 ≤ e then .fin neg (m * 2 ^ e.toNat) 1 else .fin neg m (2 ^ (-e).toNat)

/-- The product; 0 × ∞ is NaN (R111). -/
def XNum.mul : XNum → XNum → XNum
  | .nan, _ => .nan
  | _, .nan => .nan
  | .inf a, .inf b => .inf (a != b)
  | .inf a, .fin b n _ => if n = 0 then .nan else .inf (a != b)
  | .fin a n _, .inf b => if n = 0 then .nan else .inf (a != b)
  | .fin a n d, .fin b n' d' => .fin (a != b) (n * n') (d * d')

/-- The quotient (R111): 0 ÷ 0 and ∞ ÷ ∞ are NaN; a non-zero value over zero is ∞. -/
def XNum.div : XNum → XNum → XNum
  | .nan, _ => .nan
  | _, .nan => .nan
  | .inf _, .inf _ => .nan
  | .inf a, .fin b _ _ => .inf (a != b)
  | .fin a _ _, .inf b => .fin (a != b) 0 1
  | .fin a n d, .fin b n' d' =>
    if n' = 0 then (if n = 0 then .nan else .inf (a != b)) else .fin (a != b) (n * d') (d * n')

/-- The sum; ∞ − ∞ is NaN. An exact zero takes the sign of R112 for the rounding mode `rdn`. -/
def XNum.add (rdn : Bool) : XNum → XNum → XNum
  | .nan, _ => .nan
  | _, .nan => .nan
  | .inf a, .inf b => if a = b then .inf a else .nan
  | .inf a, .fin _ _ _ => .inf a
  | .fin _ _ _, .inf b => .inf b
  | .fin a n d, .fin b n' d' =>
    let x := sgn a n * d' + sgn b n' * d
    if x = 0 then .fin (if a = b then a else rdn) 0 1 else .fin (x < 0) x.natAbs (d * d')

def XNum.negate : XNum → XNum
  | .nan => .nan
  | .inf a => .inf (!a)
  | .fin a n d => .fin (!a) n d

/-- a < b for values that are not NaN; −0 equals +0 (R115). -/
def XNum.lt : XNum → XNum → Bool
  | .nan, _ => false
  | _, .nan => false
  | .inf a, .inf b => a && !b
  | .inf a, .fin _ _ _ => a
  | .fin _ _ _, .inf b => !b
  | .fin a n d, .fin b n' d' => sgn a n * d' < sgn b n' * d

/-- a = b for values that are not NaN (R115). -/
def XNum.eqv (a b : XNum) : Bool := !a.isNaN && !b.isNaN && !a.lt b && !b.lt a

/-! ### Formats -/

/-- A floating-point format (R92–R96): width, precision with the hidden bit, exponent of the least normal value, the
codes of the greatest finite magnitude, infinity and NaN, whether it has a sign bit and a negative zero. -/
structure FloatFmt where
  width  : Nat
  p      : Nat
  emin   : Int
  maxOrd : Nat
  inf    : Option Nat
  nan    : Option Nat
  signed : Bool
  negZero : Bool
  deriving DecidableEq, Repr

def ffF32 : FloatFmt := ⟨32, 24, -126, 0x7F7FFFFF, some 0x7F800000, some 0x7FC00000, true, true⟩
def ffF16 : FloatFmt := ⟨16, 11, -14, 0x7BFF, some 0x7C00, some 0x7E00, true, true⟩
def ffBf16 : FloatFmt := ⟨16, 8, -126, 0x7F7F, some 0x7F80, some 0x7FC0, true, true⟩
def ffE2m1 : FloatFmt := ⟨4, 2, 0, 7, none, none, true, true⟩

def b8pNum : B8P → Nat
  | .p1 => 1 | .p2 => 2 | .p3 => 3 | .p4 => 4 | .p5 => 5 | .p6 => 6 | .p7 => 7

/-- The binary8 formats (R93–R95). -/
def ffB8 (unsig inf : Bool) (p : B8P) : FloatFmt :=
  if unsig then
    ⟨8, (b8pNum p), 1 - 2 ^ (8 - (b8pNum p)), if inf then 0xFD else 0xFE, if inf then some 0xFE else none, some 0xFF, false, false⟩
  else
    ⟨8, (b8pNum p), 1 - 2 ^ (7 - (b8pNum p)), if inf then 0x7E else 0x7F, if inf then some 0x7F else none, some 0x80, true, false⟩

def ffOf : FTy → FloatFmt
  | .f32 => ffF32 | .f16 => ffF16 | .bf16 => ffBf16

/-- The magnitude with ordinal `m`: exponent field and fraction read as one number (R92, R93, R95, R96). -/
def FloatFmt.ordVal (f : FloatFmt) (neg : Bool) (m : Nat) : XNum :=
  let e := m / 2 ^ (f.p - 1)
  let t := m % 2 ^ (f.p - 1)
  if e = 0 then XNum.dyadic neg t (f.emin - (f.p - 1 : Nat))
  else XNum.dyadic neg (2 ^ (f.p - 1) + t) ((e : Int) - 1 + f.emin - (f.p - 1 : Nat))

/-- The value of a code (R92–R96). -/
def FloatFmt.decode (f : FloatFmt) (code : Nat) : XNum :=
  let c := code % 2 ^ f.width
  let neg := f.signed && 2 ^ (f.width - 1) ≤ c
  let m := if neg then c - 2 ^ (f.width - 1) else c
  if f.negZero then
    match f.inf with
    | some i => if i < m then .nan else if m = i then .inf neg else f.ordVal neg m
    | none => f.ordVal neg m
  else if f.nan = some c then .nan
  else if f.inf = some m then .inf neg
  else f.ordVal neg m

/-- Rounding modes with the stochastic one, which carries its 32 random bits (R101, R106). -/
inductive Mode where
  | rne | rz | rdn | rup
  | rsr (u : Nat)
  deriving DecidableEq, Repr

def rndMode : Rnd → Mode
  | .rne => .rne | .rz => .rz | .rdn => .rdn | .rup => .rup

/-- ⌊log2 (n / d)⌋ for positive n, d. -/
def floorLog2 (n d : Nat) : Int :=
  let e : Int := (Nat.log2 n : Int) - Nat.log2 d
  let le := if 0 ≤ e then d * 2 ^ e.toNat ≤ n else d ≤ n * 2 ^ (-e).toNat
  if le then e else e - 1

/-- Whether a magnitude between two neighbours goes up: `num`/`den` of the way, `even` the lower one is even, `neg` the
sign (R101, R106). -/
def goesUp (m : Mode) (neg even : Bool) (num den : Nat) : Bool :=
  if num = 0 then false
  else match m with
  | .rne => den < 2 * num || (2 * num = den && !even)
  | .rz => false
  | .rdn => neg
  | .rup => !neg
  | .rsr u => u < num * 2 ^ 32 / den

/-- The ordinal of a positive magnitude on a format's unbounded grid (R102 RoundToGrid). -/
def FloatFmt.gridOrd (f : FloatFmt) (m : Mode) (neg : Bool) (n d : Nat) : Nat :=
  let e := floorLog2 n d
  let q := max e f.emin - (f.p - 1 : Nat)
  let N := if q < 0 then n * 2 ^ (-q).toNat else n
  let D := if q < 0 then d else d * 2 ^ q.toNat
  let k := N / D
  let ord := if e < f.emin then k else (e - f.emin).toNat * 2 ^ (f.p - 1) + k
  if goesUp m neg (ord % 2 = 0) (N % D) D then ord + 1 else ord

/-- The code of a sign and a magnitude. -/
def FloatFmt.enc (f : FloatFmt) (neg : Bool) (ord : Nat) : Nat :=
  if neg && f.signed && (f.negZero || ord ≠ 0) then 2 ^ (f.width - 1) + ord else ord

/-- Round(x, f, m, sat) of R102 with R99 and R103, for every format but `.e8m0`. -/
def roundTo (f : FloatFmt) (m : Mode) (sat : Bool) (x : XNum) : Nat :=
  match x with
  | .nan => f.nan.getD 0
  | .inf neg =>
    if neg && !f.signed then (if sat then 0 else f.nan.getD 0)
    else match f.inf, f.nan with
      | some i, _ => if sat then f.enc neg f.maxOrd else f.enc neg i
      | none, none => f.enc neg f.maxOrd
      | none, some nan => if sat then f.enc neg f.maxOrd else nan
  | .fin neg n d =>
    if n = 0 then f.enc neg 0
    else
      -- beyond the greatest finite value a stochastic rounding is made to nearest (R102)
      let m := match m with
        | .rsr u => if (f.ordVal false f.maxOrd).lt (.fin false n d) then Mode.rne else .rsr u
        | m => m
      let ord := f.gridOrd m neg n d
      if neg && !f.signed then
        (if ord = 0 then 0 else if sat then 0 else f.nan.getD 0)
      else if f.maxOrd < ord then
        match f.inf with
        | none => f.enc neg f.maxOrd
        | some i =>
          if sat then f.enc neg f.maxOrd
          else match m with
            | .rz => f.enc neg f.maxOrd
            | .rdn => if neg then f.enc neg i else f.enc neg f.maxOrd
            | .rup => if neg then f.enc neg f.maxOrd else f.enc neg i
            | .rne | .rsr _ => f.enc neg i
      else f.enc neg ord

/-- A conversion into `.e8m0` (R103). Two points on which rules differ (DESIGN CHOICE, entry 86): an exact power of two stays
unchanged under RUP, as R101 says of every representable value, where R103's words for RUP give the next power; and under RSR
a value between 2^127 and 2^128 is drawn by its fraction, as R103 says, where R102 would round it as RNE does. -/
def roundE8m0 (m : Mode) (sat : Bool) (x : XNum) : Nat :=
  let low := if sat then 0x00 else 0xFF
  let high := if sat then 0xFE else 0xFF
  match x with
  | .nan => 0xFF
  | .inf neg => if neg then low else high
  | .fin neg n d =>
    if n = 0 || neg then low
    else
      let k := floorLog2 n d
      let N := if 0 ≤ k then n else n * 2 ^ (-k).toNat
      let D := if 0 ≤ k then d * 2 ^ k.toNat else d
      let up : Bool := match m with
        | .rne => 3 * D ≤ 2 * N
        | .rz | .rdn => false
        | .rup => D < N
        | .rsr u => u < (N - D) * 2 ^ 32 / D
      let k := if up then k + 1 else k
      if k < -127 then low else if 127 < k then high else (k + 127).toNat

/-- The value of a code in any element format (R87, R91–R97); `.e8m0` 0xFF is NaN. -/
def decodeFmt (f : Fmt) (code : Nat) : XNum :=
  match f with
  | .int t => let v := intVal t (BitVec.ofNat 64 code); .fin (v < 0) v.natAbs 1
  | .f32 => ffF32.decode code
  | .f16 => ffF16.decode code
  | .bf16 => ffBf16.decode code
  | .e2m1 => ffE2m1.decode code
  | .e8m0 => if code % 256 = 0xFF then .nan else XNum.dyadic false 1 ((code % 256 : Nat) - 127 : Int)
  | .b8 u i p => (ffB8 u i p).decode code

/-- The nearest integer under a mode (R104, R117). -/
def roundInt (m : Mode) (neg : Bool) (n d : Nat) : Int :=
  let k := n / d
  sgn neg (if goesUp m neg (k % 2 = 0) (n % d) d then k + 1 else k)

/-- A conversion into an integer format from a floating-point value (R104): rounded, then clamped; NaN gives 0. -/
def toIntClamped (t : Ity) (m : Mode) (x : XNum) : Int :=
  match x with
  | .nan => 0
  | .inf neg => if neg then minOf t else maxOf t
  | .fin neg n d => clampTo t (roundInt m neg n d)

/-- The bits of an element size (R90). -/
def fmtBits : Fmt → Nat
  | .int t => t.bits
  | .f32 => 32
  | .f16 | .bf16 => 16
  | .e2m1 => 4
  | .e8m0 | .b8 _ _ _ => 8

/-- The bytes of `n` consecutive elements start at ByteOf (R233): e × size, or e ÷ 2 for a 4-bit format. -/
def byteOf (fbits e : Nat) : Nat := e * fbits / 8

/-- CONVERT (R102–R104, R126): the destination code of a source code, as the low bits of a number. An infinity converted to its
own code with SAT set becomes MaxFinite, as R102 says, where R126's first bullet would deliver the operand (DESIGN CHOICE,
entry 87). -/
def convert (dst src : Fmt) (m : Mode) (sat : Bool) (code : Nat) : Nat :=
  let x := decodeFmt src code
  match dst, src with
  | .int t, .int ts =>
    let v := intVal ts (BitVec.ofNat 64 code)
    (extWrap t (if sat then clampTo t v else v)).toNat % 2 ^ t.bits
  | .int t, _ => (extWrap t (toIntClamped t m x)).toNat % 2 ^ t.bits
  | .f32, _ => roundTo ffF32 m sat x
  | .f16, _ => roundTo ffF16 m sat x
  | .bf16, _ => roundTo ffBf16 m sat x
  | .e2m1, _ => roundTo ffE2m1 m sat x
  | .e8m0, _ => roundE8m0 m sat x
  | .b8 u i p, _ => roundTo (ffB8 u i p) m sat x

/-- Mix64 (R105). -/
def mix64 (z : Word) : Word :=
  let z := (z ^^^ (z >>> 30)) * 0xBF58476D1CE4E5B9
  let z := (z ^^^ (z >>> 27)) * 0x94D049BB133111EB
  z ^^^ (z >>> 31)

/-- SrBits of R105. -/
def srBits (seed : Word) (ctx liter : Nat) (elem : Word) : Word :=
  mix64 (mix64 (seed ^^^ (BitVec.ofNat 64 ctx <<< 54) ^^^ (BitVec.ofNat 64 liter <<< 22)) ^^^ elem)

/-- The stochastic mode for an element (R105, R106): the upper half of its bits. `ctx` is 0 under DET. -/
def srMode (seed : Word) (det : Bool) (ctx liter : Nat) (elem : Word) : Mode :=
  .rsr ((srBits seed (if det then 0 else ctx) liter elem).toNat / 2 ^ 32)

/-! ### Roots -/

/-- ⌊√n⌋, by bits from the top. -/
def isqrtAux : Nat → Nat → Nat → Nat
  | 0, _, r => r
  | k + 1, n, r =>
    let t := r + 2 ^ k
    isqrtAux k n (if t * t ≤ n then t else r)

def isqrt (n : Nat) : Nat := isqrtAux (Nat.log2 n / 2 + 1) n 0

/-- A value that rounds as √(n / d) in every format: the root to 64 bits below its leading one and a sticky half. -/
def rootOf (n d : Nat) : XNum :=
  -- √(n/d) = √(n·d)/d; scaled by 2^(2s) so that the root has more than 64 fraction bits
  let s := 80 + Nat.log2 d
  let v := n * d * 2 ^ (2 * s)
  let r := isqrt v
  if r * r = v then .fin false r (d * 2 ^ s) else .fin false (2 * r + 1) (d * 2 ^ (s + 1))

/-! ### Scalar floating point (R111–R121) -/

/-- The low bits of a latch that a type reads (R109). -/
def fbitsOf (t : FTy) (w : Word) : Nat := w.toNat % 2 ^ (ffOf t).width

def fdec (t : FTy) (w : Word) : XNum := (ffOf t).decode (fbitsOf t w)

def fres (t : FTy) (rm : Rnd) (x : XNum) : Word := BitVec.ofNat 64 (roundTo (ffOf t) (rndMode rm) false x)

def isRdn : Rnd → Bool
  | .rdn => true
  | .rne | .rz | .rup => false

def fadd (t : FTy) (rm : Rnd) (a b : Word) : Word := fres t rm ((fdec t a).add (isRdn rm) (fdec t b))
def fsub (t : FTy) (rm : Rnd) (a b : Word) : Word := fres t rm ((fdec t a).add (isRdn rm) (fdec t b).negate)
def fmul (t : FTy) (rm : Rnd) (a b : Word) : Word := fres t rm ((fdec t a).mul (fdec t b))
def fdiv (t : FTy) (rm : Rnd) (a b : Word) : Word := fres t rm ((fdec t a).div (fdec t b))
def ffma (t : FTy) (rm : Rnd) (a b c : Word) : Word :=
  fres t rm (((fdec t a).mul (fdec t b)).add (isRdn rm) (fdec t c))

def fsqrt (t : FTy) (rm : Rnd) (a : Word) : Word :=
  fres t rm (match fdec t a with
    | .nan => .nan
    | .inf neg => if neg then .nan else .inf false
    | .fin neg n d => if n = 0 then .fin neg 0 1 else if neg then .nan else rootOf n d)

/-- `fmin` and `fmax` (R113): −0 is less than +0; one NaN is skipped. -/
def fminmax (mx : Bool) (t : FTy) (a b : Word) : Word :=
  let x := fdec t a
  let y := fdec t b
  let nan := BitVec.ofNat 64 ((ffOf t).nan.getD 0)
  let bitsOf := fun w => BitVec.ofNat 64 (fbitsOf t w)
  if x.isNaN then (if y.isNaN then nan else bitsOf b)
  else if y.isNaN then bitsOf a
  else
    let less := x.lt y || (x.eqv y && x.neg && !y.neg)
    if less != mx then bitsOf a else bitsOf b

/-- `fabs` and `fneg` (R114). -/
def fsign (flip : Bool) (t : FTy) (a : Word) : Word :=
  let w := (ffOf t).width
  let c := fbitsOf t a
  if (fdec t a).isNaN then BitVec.ofNat 64 ((ffOf t).nan.getD 0)
  else if flip then BitVec.ofNat 64 ((c + 2 ^ (w - 1)) % 2 ^ w)
  else BitVec.ofNat 64 (c % 2 ^ (w - 1))

/-- `fcmp` (R115). -/
def fcmp (c : FCond) (t : FTy) (a b : Word) : Bool :=
  let x := fdec t a
  let y := fdec t b
  match c with
  | .eq => x.eqv y
  | .lt => x.lt y
  | .le => x.lt y || x.eqv y
  | .un => x.isNaN || y.isNaN

/-- `fclass` (R116). -/
def fclass (t : FTy) (a : Word) : Word :=
  let f := ffOf t
  let c := fbitsOf t a
  let neg := 2 ^ (f.width - 1) ≤ c
  let m := c % 2 ^ (f.width - 1)
  let inf := f.inf.getD 0
  let hidden := 2 ^ (f.p - 1)
  let k :=
    if inf < m then (if bits m (f.p - 2) 1 = 1 then 9 else 8)
    else if m = inf then (if neg then 0 else 7)
    else if m = 0 then (if neg then 3 else 4)
    else if m < hidden then (if neg then 2 else 5)
    else (if neg then 1 else 6)
  BitVec.ofNat 64 (2 ^ k)

/-- `fround` (R117). -/
def fround (t : FTy) (rm : Rnd) (a : Word) : Word :=
  match fdec t a with
  | .nan => fres t .rne .nan
  | .inf neg => fres t .rne (.inf neg)
  | .fin neg n d => fres t .rne (.fin neg (roundInt (rndMode rm) neg n d).natAbs 1)

/-- The tables of R118 and R119. -/
def trcp : List Nat := [248, 233, 219, 206, 193, 181, 170, 159, 149, 139, 130, 121, 112, 104, 96, 89,
  82, 75, 68, 62, 56, 50, 45, 39, 34, 29, 24, 19, 15, 10, 6, 2]

def trsq : List Nat := [248, 234, 220, 208, 196, 186, 176, 166, 158, 150, 142, 135, 128, 121, 115, 109,
  101, 90, 81, 72, 64, 56, 49, 43, 37, 31, 25, 20, 15, 11, 6, 2]

/-- Bits of the fraction of m in [1, 2), where a = m × 2^e: the `k` bits below the leading one. -/
def fracTop (n d : Nat) (k : Nat) : Nat :=
  let e := floorLog2 n d
  let N := if 0 ≤ e then n else n * 2 ^ (-e).toNat
  let D := if 0 ≤ e then d * 2 ^ e.toNat else d
  (N * 2 ^ k / D) % 2 ^ k

/-- `frcpe` (R118). -/
def frcpe (a : Word) : Word :=
  match fdec .f32 a with
  | .nan => fres .f32 .rne .nan
  | .inf neg => fres .f32 .rne (.fin neg 0 1)
  | .fin neg n d =>
    if n = 0 then fres .f32 .rne (.inf neg)
    else fres .f32 .rne (XNum.dyadic neg (256 + trcp[fracTop n d 5]?.getD 0) (-9 - floorLog2 n d))

/-- `frsqe` (R119). -/
def frsqe (a : Word) : Word :=
  match fdec .f32 a with
  | .nan => fres .f32 .rne .nan
  | .inf neg => if neg then fres .f32 .rne .nan else fres .f32 .rne (.fin false 0 1)
  | .fin neg n d =>
    if n = 0 then fres .f32 .rne (.inf neg)
    else if neg then fres .f32 .rne .nan
    else
      let e := floorLog2 n d
      let q := (e % 2).toNat
      fres .f32 .rne (XNum.dyadic false (256 + trsq[16 * q + fracTop n d 4]?.getD 0) (-9 - (e - q) / 2))

/-- The exponent of an exact power of two, if the value is one. -/
def powerOfTwo (n d : Nat) : Option Int :=
  let e := floorLog2 n d
  if (if 0 ≤ e then n = d * 2 ^ e.toNat else n * 2 ^ (-e).toNat = d) then some e else none

/-- The integer a finite value equals, if it is one. -/
def integral (neg : Bool) (n d : Nat) : Option Int := if n % d = 0 then some (sgn neg (n / d)) else none

def f32Bits (w : Word) : BitVec 32 := BitVec.ofNat 32 w.toNat
def wordOf32 (b : BitVec 32) : Word := BitVec.ofNat 64 b.toNat

/-! The bounds of the five forms of R120. The exact result is computed in fixed point (1 is 2^100) far closer than any bound;
the part's own bits stand wherever they lie within the bound, and else the number nearest the exact result does. -/

def fxOne : Nat := 2 ^ 100
/-- ln 2 and log2 e with 128 fractional bits, π with 240. -/
def fxLn2 : Nat := 0xB17217F7D1CF79ABC9E3B39803F2F6AF
def fxLog2e : Nat := 0x171547652B82FE1777D0FFDA0D23A7D11
def fxPi : Nat := 0x3243F6A8885A308D313198A2E03707344A4093822299F31D0082EFA98EC4E

/-- `n` terms of the power series of exp from term `t` of index `k`. -/
def expTerms : Nat → Nat → Nat → Nat → Nat
  | 0, _, _, _ => 0
  | n + 1, k, t, x => t + expTerms n (k + 1) (t * x / fxOne / (k + 1)) x

/-- 2^y as m × 2^k, 1 ≤ m < 2. -/
def fxExp2 (y : Int) : Nat × Int :=
  (expTerms 40 0 fxOne (((y % fxOne).toNat * fxLn2) / 2 ^ 128), y / fxOne)

/-- `n` binary digits of log2 x, 1 ≤ x < 2. -/
def log2Digits : Nat → Nat → Nat → Nat
  | 0, _, acc => acc
  | n + 1, x, acc =>
    let y := x * x / fxOne
    if 2 * fxOne ≤ y then log2Digits n (y / 2) (2 * acc + 1) else log2Digits n y (2 * acc)

/-- `n` terms of the power series of sin (from index `k` 1) or cos (from 0), from term `t`; `x2` is x². -/
def sinTerms : Nat → Nat → Int → Int → Int
  | 0, _, _, _ => 0
  | n + 1, k, t, x2 => t + sinTerms n (k + 2) (-(t * x2 / fxOne / ((k + 1) * (k + 2) : Nat))) x2

/-- n/d modulo 2π, between −π and π. -/
def fxAngle (n d : Nat) : Int :=
  let r := n * 2 ^ 240 / d % (2 * fxPi)
  if fxPi < r then -(((2 * fxPi - r) / 2 ^ 140 : Nat) : Int) else ((r / 2 ^ 140 : Nat) : Int)

/-- One ulp of .f32 at |x| / 2^q, as a number over 2^q (R120). -/
def ulpAt (x q : Nat) : Nat := 2 ^ ((q : Int) + max (floorLog2 x (2 ^ q)) (-126) - 23).toNat

/-- More than the fixed-point result of any of the five forms can be away from the exact one, over 2^q. -/
def fxSlack : Nat := 2 ^ 12

/-- The part's bits `v` where they surely lie within `tol` of the exact result, of which `x` is the fixed-point value, both over
2^q; else the number nearest x, which does (entry 9). -/
def keepWithin (v : BitVec 32) (x : Int) (q tol : Nat) : Word :=
  let near := fres .f32 .rne (XNum.ofRat x (2 ^ q))
  match ffF32.decode v.toNat with
  | .fin neg n d => if (sgn neg n * 2 ^ q - x * d).natAbs ≤ (tol - fxSlack) * d then wordOf32 v else near
  | .nan | .inf _ => near

/-- `fexp2` (R120): the named results; other arguments deliver the part's own bits (R121), a free value within the bound. -/
def fexp2 (a : Word) : Word :=
  match fdec .f32 a with
  | .nan => fres .f32 .rne .nan
  | .inf neg => if neg then 0 else fres .f32 .rne (.inf false)
  | .fin neg n d =>
    if !neg && 128 * d ≤ n then fres .f32 .rne (.inf false)
    else if neg && 150 * d ≤ n then 0
    else match integral neg n d with
      | some k => fres .f32 .rne (XNum.dyadic false 1 k)
      | none =>
        let (m, k) := fxExp2 (sgn neg n * fxOne / d)
        let q := (max 0 (-k)).toNat + 100
        let x := m * 2 ^ (max 0 k).toNat
        keepWithin (Config.exp2Bits (f32Bits a)) x q (2 * ulpAt x q)

/-- `flog2` (R120). -/
def flog2 (a : Word) : Word :=
  match fdec .f32 a with
  | .nan => fres .f32 .rne .nan
  | .inf neg => if neg then fres .f32 .rne .nan else fres .f32 .rne (.inf false)
  | .fin neg n d =>
    if n = 0 then fres .f32 .rne (.inf true)
    else if neg then fres .f32 .rne .nan
    else match powerOfTwo n d with
      | some k => fres .f32 .rne (XNum.ofRat k 1)
      | none =>
        let k := floorLog2 n d
        let x : Int := k * 2 ^ 96 + log2Digits 96 (if 0 ≤ k then n * fxOne / (d * 2 ^ k.toNat) else n * fxOne * 2 ^ (-k).toNat / d) 0
        keepWithin (Config.log2Bits (f32Bits a)) x 96 (if d < 2 * n && n < 2 * d then 2 ^ 74 else 2 * ulpAt x.natAbs 96)

/-- `fsin` (R120). -/
def fsin (a : Word) : Word :=
  match fdec .f32 a with
  | .nan | .inf _ => fres .f32 .rne .nan
  | .fin neg n d =>
    if n * 4096 < d then BitVec.ofNat 64 (fbitsOf .f32 a)
    else
      let r := fxAngle n d
      let y := sinTerms 40 1 r (r * r / fxOne)
      keepWithin (Config.sinBits (f32Bits a)) (if neg then -y else y) 100 (2 ^ 78)

/-- `fcos` (R120). -/
def fcos (a : Word) : Word :=
  match fdec .f32 a with
  | .nan | .inf _ => fres .f32 .rne .nan
  | .fin _ n d =>
    if n = 0 then 0x3F800000
    else
      let r := fxAngle n d
      keepWithin (Config.cosBits (f32Bits a)) (sinTerms 40 0 fxOne (r * r / fxOne)) 100 (2 ^ 78)

/-- `ftanh` (R120). -/
def ftanh (a : Word) : Word :=
  match fdec .f32 a with
  | .nan => fres .f32 .rne .nan
  | .inf neg => if neg then 0xBF800000 else 0x3F800000
  | .fin neg n d =>
    if n * 4096 < d then BitVec.ofNat 64 (fbitsOf .f32 a)
    else if 19 * d ≤ 2 * n then (if neg then 0xBF800000 else 0x3F800000)
    else
      let (m, k) := fxExp2 (2 * n * fxLog2e / d / 2 ^ 28)
      let e := m * 2 ^ k.toNat
      let y := (e - fxOne) * fxOne / (e + fxOne)
      keepWithin (Config.tanhBits (f32Bits a)) (sgn neg y) 100 (2 * ulpAt y 100)

/-- An operation on each 16-bit half (R122). -/
def halves (f : Word → Word → Word → Word) (a b c : Word) : Word :=
  let lo := fun (w : Word) => w &&& 0xFFFF
  let hi := fun (w : Word) => (w >>> 16) &&& 0xFFFF
  (f (hi a) (hi b) (hi c) <<< 16) ||| f (lo a) (lo b) (lo c)

/-- `dot4` (R123). -/
def dot4 (t : Dot4Ty) (a b c : Word) : Word :=
  let byte := fun (w : Word) k => bits w.toNat (8 * k) 8
  let isum := fun (ty : Ity) => (List.range 4).foldl (fun acc k =>
    acc + intVal ty (BitVec.ofNat 64 (byte a k)) * intVal ty (BitVec.ofNat 64 (byte b k))) (0 : Int)
  let fdot := fun p =>
    let f := ffB8 false false p
    let x := (List.range 4).foldl (fun acc k => XNum.add false acc ((f.decode (byte a k)).mul (f.decode (byte b k))))
      (fdec .f32 c)
    if x.isZero then 0 else fres .f32 .rne x
  match t with
  | .i8 => extWrap .i32 (intVal .i32 c + isum .i8)
  | .n8 => extWrap .n32 (intVal .n32 c + isum .n8)
  | .b8p3 => fdot .p3
  | .b8p4 => fdot .p4
  | .b8p5 => fdot .p5

/-- The exact sum of FP32 values rounded once, with the cases of R215. -/
def sumF32 (l : List Word) : Word :=
  let xs := l.map (fdec .f32)
  if xs.any (·.isNaN) || (xs.any (· = .inf false) && xs.any (· = .inf true)) then 0x7FC00000
  else if xs.any (· = .inf false) then 0x7F800000
  else if xs.any (· = .inf true) then 0xFF800000
  else
    let x := xs.foldl (XNum.add false) XNum.zero
    if x.isZero then (if !l.isEmpty && xs.all (fun x => x.isZero && x.neg) then 0x80000000 else 0)
    else fres .f32 .rne x

end Sys2Proof.Machine
end

