-- ==== Sys2Proof/Machine/Flags.lean ====
section
/-! DEFINITION. The V9 has no flags register (R98): what stands for flags is the condition a compare delivers (R83,
R115), the predicate latch that gates an effect (R28), and the void mark that travels with a value (R143). -/

namespace Sys2Proof.Machine

/-- The condition of `cmp` and `cmpi` on 64-bit operands (R83). -/
def condHolds (c : Cond) (a b : Word) : Bool :=
  match c with
  | .eq => a = b
  | .lt => a.slt b
  | .le => a.sle b
  | .ltu => a.ult b
  | .leu => a.ule b

/-- Whether an instruction performs its effect (R28). -/
def performs (pm : Pm) (p : Bool) : Bool :=
  match pm with
  | .always => true
  | .ifTrue => p
  | .ifFalse => !p

/-- Which value latches an instruction reads. -/
structure Reads where
  a : Bool := false
  b : Bool := false
  c : Bool := false
  deriving DecidableEq, Repr

/-- Whether a value latch that is read holds a void mark (R143). -/
def Reads.void (r : Reads) (k : Cell) : Bool := (r.a && k.a.void) || (r.b && k.b.void) || (r.c && k.c.void)

def readsNone : Reads := {}
def readsA : Reads := { a := true }
def readsAB : Reads := { a := true, b := true }
def readsABC : Reads := { a := true, b := true, c := true }

/-- Two results from one. -/
def both (w : Word) : Word × Word := (w, w)

/-- A condition and its complement (R46). -/
def withComplement (b : Bool) : Word × Word := (boolWord b, boolWord (!b))

end Sys2Proof.Machine
end

