-- ==== Sys2Proof/Machine/Operands.lean ====
section
/-! DEFINITION. The integer, bit, field and packing operations on latch values (R72–R86), as functions of the operands
alone; the floating-point ones are in Num.lean. -/

namespace Sys2Proof.Machine

/-- IMM13 and IMM10, sign-extended (R72, R75, R83). -/
def simm13 (i : BitVec 13) : Word := i.signExtend 64
def simm10 (i : BitVec 10) : Word := i.signExtend 64

/-- `movhi` (R72). -/
def movhiVal (a : Word) (i : BitVec 13) : Word := a * 8192 + i.zeroExtend 64

def addVal (t : Ity) (a b : Word) : Word := extWrap t (intVal t a + intVal t b)
def addSatVal (t : Ity) (a b : Word) : Word := extWrap t (clampTo t (intVal t a + intVal t b))
def subVal (t : Ity) (a b : Word) : Word := extWrap t (intVal t a - intVal t b)
def subSatVal (t : Ity) (a b : Word) : Word := extWrap t (clampTo t (intVal t a - intVal t b))
def mulVal (t : Ity) (a b : Word) : Word := extWrap t (intVal t a * intVal t b)
/-- ⌊a × b / 2^w⌋ (R74). -/
def mulhVal (t : Ity) (a b : Word) : Word := extWrap t (Int.fdiv (intVal t a * intVal t b) (2 ^ t.bits))
def maddVal (t : Ity) (a b c : Word) : Word := extWrap t (intVal t a * intVal t b + intVal t c)
def minVal (t : Ity) (a b : Word) : Word := extWrap t (if intVal t a ≤ intVal t b then intVal t a else intVal t b)
def maxVal (t : Ity) (a b : Word) : Word := extWrap t (if intVal t b ≤ intVal t a then intVal t a else intVal t b)
def absVal (t : Ity) (a : Word) : Word := extWrap t (if 0 ≤ intVal t a then intVal t a else -intVal t a)
def negVal (t : Ity) (a : Word) : Word := extWrap t (-intVal t a)

/-- Quotient and remainder of R76, with its two named cases. -/
def divRem (t : Ity) (a b : Word) : Int × Int :=
  let x := intVal t a
  let y := intVal t b
  if y = 0 then (if t.signed then -1 else 2 ^ t.bits - 1, x)
  else if t.signed && x = minOf t && y = -1 then (minOf t, 0)
  else (Int.tdiv x y, x - Int.tdiv x y * y)

def divVal (t : Ity) (a b : Word) : Word × Word := (extWrap t (divRem t a b).1, extWrap t (divRem t a b).2)
def remVal (t : Ity) (a b : Word) : Word := extWrap t (divRem t a b).2

/-- The low `w` bits of a latch, a natural number (R78, R80). -/
def lowBits (w : Width) (a : Word) : Nat := a.toNat % 2 ^ w.bits

/-- The shifts of R78 by a natural amount. -/
def shlVal (w : Width) (a : Word) (n : Nat) : Word :=
  if n < w.bits then BitVec.ofNat 64 (lowBits w a * 2 ^ n % 2 ^ w.bits) else 0

def shrVal (w : Width) (a : Word) (n : Nat) : Word :=
  if n < w.bits then BitVec.ofNat 64 (lowBits w a / 2 ^ n) else 0

/-- The signed integer type of a width. -/
def sityOf : Width → Ity
  | .w8 => .i8 | .w16 => .i16 | .w32 => .i32 | .w64 => .i64

def sarVal (w : Width) (a : Word) (n : Nat) : Word :=
  let v := intVal (sityOf w) a
  if n < w.bits then BitVec.ofInt 64 (Int.fdiv v (2 ^ n)) else if v < 0 then BitVec.allOnes 64 else 0

def rotlVal (w : Width) (a : Word) (n : Nat) : Word :=
  let k := n % w.bits
  BitVec.ofNat 64 (lowBits w a * 2 ^ k % 2 ^ w.bits + lowBits w a / 2 ^ (w.bits - k))

/-- The bits of a natural number, lowest first, `n` of them. -/
def bitList (v : Nat) (n : Nat) : List Bool := (List.range n).map fun i => bits v i 1 = 1

/-- The number that bits, lowest first, stand for. -/
def ofBitList : List Bool → Nat
  | [] => 0
  | b :: r => b2n b + 2 * ofBitList r

def leadingZeros : List Bool → Nat
  | [] => 0
  | b :: r => if b then 0 else leadingZeros r + 1

def clzVal (w : Width) (a : Word) : Word := BitVec.ofNat 64 (leadingZeros (bitList (lowBits w a) w.bits).reverse)
def ctzVal (w : Width) (a : Word) : Word := BitVec.ofNat 64 (leadingZeros (bitList (lowBits w a) w.bits))
def popcVal (w : Width) (a : Word) : Word := BitVec.ofNat 64 ((bitList (lowBits w a) w.bits).filter id).length
def brevVal (w : Width) (a : Word) : Word := BitVec.ofNat 64 (ofBitList (bitList (lowBits w a) w.bits).reverse)
def bswapVal (w : Width) (a : Word) : Word := BitVec.ofNat 64 (natLE (bytesLE (w.bits / 8) (lowBits w a)).reverse)

/-- Position and length of a field control word (R81). -/
def fieldPos (ctl : Word) : Nat := bits ctl.toNat 0 6
def fieldLen (ctl : Word) : Nat := min (bits ctl.toNat 8 7) (64 - fieldPos ctl)

def bfxVal (sg : Bool) (a ctl : Word) : Word :=
  let l := fieldLen ctl
  let f := bits a.toNat (fieldPos ctl) l
  if l = 0 then 0
  else if sg && 2 ^ (l - 1) ≤ f then BitVec.ofInt 64 ((f : Int) - 2 ^ l) else BitVec.ofNat 64 f

def bfiVal (a b ctl : Word) : Word :=
  let p := fieldPos ctl
  let l := fieldLen ctl
  if l = 0 then a
  else BitVec.ofNat 64 (a.toNat - bits a.toNat p l * 2 ^ p + bits b.toNat 0 l * 2 ^ p)

def sextVal (w : Width) (a : Word) : Word := BitVec.ofInt 64 (intVal (sityOf w) a)
def zextVal (w : Width) (a : Word) : Word := BitVec.ofNat 64 (lowBits w a)

/-- Bit 0 of a value latch (R85). -/
def bit0 (a : Word) : Bool := a.getLsbD 0

def pack2Val (h : Half) (a b : Word) : Word :=
  match h with
  | .h16 => BitVec.ofNat 64 (bits a.toNat 0 16 + 2 ^ 16 * bits b.toNat 0 16)
  | .h32 => BitVec.ofNat 64 (bits a.toNat 0 32 + 2 ^ 32 * bits b.toNat 0 32)

def unpkVal (h : Half) (a : Word) : Word × Word :=
  match h with
  | .h16 => (BitVec.ofNat 64 (bits a.toNat 0 16), BitVec.ofNat 64 (bits a.toNat 16 16))
  | .h32 => (BitVec.ofNat 64 (bits a.toNat 0 32), BitVec.ofNat 64 (bits a.toNat 32 32))

/-- The bits of a source format that a conversion reads (R126). -/
def srcBits (f : Fmt) (a : Word) : Nat := a.toNat % 2 ^ fmtBits f

/-- The delivered form of a converted value (R126): sign-extended for a signed integer, else zero-extended. -/
def deliverFmt (f : Fmt) (code : Nat) : Word :=
  match f with
  | .int t => BitVec.ofInt 64 (intVal t (BitVec.ofNat 64 code))
  | .f32 | .f16 | .bf16 | .e2m1 | .e8m0 | .b8 _ _ _ => BitVec.ofNat 64 code

/-- `cvt` (R126). -/
def cvtVal (dst src : Fmt) (m : Mode) (sat : Bool) (a : Word) : Word := deliverFmt dst (convert dst src m sat (srcBits src a))

end Sys2Proof.Machine
end

