-- ==== Sys2Proof/Machine/Tokens.lean ====
section
/-! DEFINITION. Tokens: the core a token goes to (R179, R180), what a send-class word emits (R130–R137, R152, R154,
R200–R206), how tokens travel and wait (R132, R429, R437), frames (R166–R168), the pinfold (R410–R412), and what the fold
does with a token (R20, R21, R164, R165). A context fault is captured here (R384, R387). -/

namespace Sys2Proof.Machine

/-! ### Placement (R179, R180, R442) -/

/-- The physical cores of a gang member's pasture, as it has told them; of one that has not, the lowest ones (entry 45). -/
def Gang.coresOf (g : Gang) (p n : Nat) : List Nat := ((g.pastures.find? (·.1 == p)).map (·.2)).getD (List.range n)

/-- The logical core list (R179), package and physical core; of a gang, the members' lists in rank order (R442). -/
def State.logical (s : State) (c : Ctx) : List (Nat × Nat) :=
  match c.gang with
  | none => c.pasture.map fun k => (s.pkgid, k)
  | some g => g.members.flatMap fun (p, n) => (if p = s.pkgid then c.pasture else g.coresOf p n).map fun k => (p, k)

/-- The CTX that takes part in SpreadHash: in a gang, bits 9:0 of the gang number. -/
def Ctx.hashCtx (c : Ctx) : Nat :=
  match c.gang with
  | none => c.id
  | some g => bits g.number 0 10

/-- SpreadHash (R180). -/
def spreadHash (ctx : Nat) (t : Tag) (l : Nat) : Nat :=
  (mix64 (BitVec.ofNat 64 (at_ ctx 54) ^^^ BitVec.ofNat 64 (at_ t.dom.toNat 48) ^^^
    BitVec.ofNat 64 (at_ t.home.toNat 40) ^^^ BitVec.ofNat 64 (at_ t.act.toNat 32) ^^^ BitVec.ofNat 64 (l / 32))).toNat

/-- The logical core that a block's rule chooses (R180), `none` under HOME. -/
def placeIndex (b : LBlock) (hctx n : Nat) (t : Tag) (e : BitVec 22) (payload : Word) (void : Bool) : Option Nat :=
  if b.place = 0 then none
  else if b.place = 1 then some (spreadHash hctx t (literOf t e) * n / 2 ^ 64)
  else if b.place = 2 then some b.fixk
  else some (if void then 0 else bits payload.toNat 48 16 % n)

/-- Package and core a token goes to from a sender's package and core. -/
def State.placeFrom (s : State) (c : Ctx) (t : Token) (origin : Nat × Nat) : Nat × Nat :=
  let l := s.logical c
  match c.blocks[t.block]? with
  | none => origin
  | some b =>
    match placeIndex b c.hashCtx l.length t.tag t.epoch t.payload t.void with
    | none => origin
    | some k => l[k]?.getD origin

/-- Package and core a token goes to; `origin` is the sender's core in this package. -/
def State.placeOf (s : State) (c : Ctx) (t : Token) (origin : Nat) : Nat × Nat := s.placeFrom c t (s.pkgid, origin)

/-- The physical number of logical core 0 (R181): in a gang, the first core of rank 0. -/
def Ctx.firstCore (c : Ctx) : Nat :=
  match c.gang with
  | none => c.pasture.headD 0
  | some g => if g.rank = 0 then c.pasture.headD 0 else (g.members.headD (0, 0) |> fun m => (g.coresOf m.1 m.2).headD 0)

/-- The root tag of a launch (R181). -/
def Ctx.rootTag (c : Ctx) (idx : Nat) : Tag :=
  { ctx := BitVec.ofNat 10 c.id, dom := 0, home := BitVec.ofNat 8 c.firstCore, act := 0, idx := BitVec.ofNat 10 idx }

/-! ### Messages to other packages (R437, R432) -/

/-! ### What a word emits -/

/-- One thing a firing hands on at its end (R36, R202, R221): a token with its destination, or a request with the
package and core of its unit. -/
inductive Emit where
  | token (t : Token) (pkg core : Nat)
  | request (pkg core : Nat) (r : UnitReq)
  deriving DecidableEq, Repr

/-- The domain a block belongs to (R150); a block not in the image has none. -/
def Ctx.domOf (c : Ctx) (b : Nat) : Nat := (c.blocks[b]?.map (·.dom)).getD 0

/-- The parent of a declared domain and its window (R149). -/
def Ctx.parentOf (c : Ctx) (d : Nat) : Nat := (c.doms[d - 1]?.map (·.1)).getD 0
def Ctx.windowOf (c : Ctx) (d : Nat) : Nat := (c.doms[d - 1]?.map (·.2)).getD 1

/-- A continuation's fields (R135) and the check of R137 with the reach of R150. -/
def contTm (w : Word) : Nat := bits w.toNat 57 3
def contSlot (w : Word) : Nat := bits w.toNat 54 3
def contBlock (w : Word) : Nat := bits w.toNat 40 12
def contTag (w : Word) : Tag := Tag.ofBits (BitVec.ofNat 40 w.toNat)

def Ctx.contOk (c : Ctx) (w : Word) : Bool :=
  let d := (contTag w).dom.toNat
  bits w.toNat 60 4 = 0xC && bits w.toNat 52 2 = 0 &&
  (match c.blocks[contBlock w]? with
   | none => false
   | some b => contSlot w < b.inputs &&
      (if contTm w = 0 then b.dom = d
       else if contTm w = 1 then b.dom = d && d ≠ 0
       else if contTm w = 4 then d ≠ 0 && d ≤ c.doms.length && b.dom = c.parentOf d
       else false))

/-- A continuation value (R135, R136). -/
def contValue (tm slot block : Nat) (t : Tag) : Word :=
  BitVec.ofNat 64 (at_ 0xC 60 + at_ tm 57 + at_ slot 54 + at_ block 40 + t.toBits.toNat)

/-- The sender a token is formed for: context, tag, epoch, home package, core, firing. -/
structure Sender where
  tag   : Tag
  epoch : BitVec 22
  hpkg  : Nat
  core  : Nat
  fid   : Nat
  deriving DecidableEq, Repr

/-- A void token carries payload zero (R19). -/
def tokenOf (block slot : Nat) (tag : Tag) (e : BitVec 22) (hpkg : Nat) (p : Val) (void : Bool) (rel : Option Scope) :
    Token :=
  let v := void || p.void
  { block := block, slot := slot, tag := tag, epoch := e, payload := if v then 0 else p.bits, void := v, rel := rel,
    hpkg := hpkg }

/-- The request a sender makes (R152); the device tick at which it enters the unit is stamped there. -/
def reqOf (x : Ctx) (sd : Sender) (mode : GrantMode ⊕ ReleaseKind) (tag : Tag) (epoch : BitVec 22) (tok : Option Token)
    (closes : Bool := false) : UnitReq :=
  { ctx := x.id, mode := mode, tag := tag, epoch := epoch, tok := tok, origin := sd.core, hpkg := sd.hpkg,
    fid := sd.fid, tick := 0, closes := closes }

/-- CLOSE of the sender's iteration (R133, R156, R203): nothing in the root domain. -/
def closeEmit (c : Ctx) (sd : Sender) (close : Bool) : List Emit :=
  if close && sd.tag.dom ≠ 0 then
    [.request sd.hpkg sd.tag.home.toNat (reqOf c sd (.inr .close) sd.tag sd.epoch none)]
  else []

/-- A token sent to a continuation (R137): nothing for the null one, a fault for one that fails its check. -/
def State.contEmit (s : State) (c : Ctx) (sd : Sender) (w : Word) (p : Val) (void : Bool) (rel : Option Scope) :
    Except (Nat × List Word) (List Emit) :=
  if w = 0 then .ok []
  else if !c.contOk w then .error (0x05, [w])
  else
    let tag := { contTag w with ctx := BitVec.ofNat 10 c.id }
    let t := tokenOf (contBlock w) (contSlot w) tag 0 s.pkgid p void rel
    if tag.dom = 0 then
      let d := s.placeOf c t sd.core
      .ok [.token t d.1 d.2]
    else .ok [.request s.pkgid tag.home.toNat (reqOf c sd (.inl (.cont (contTm w))) tag 0 (some t))]

/-- A token sent under a tag mode to a named block (R131, R154, R201). `tagOp` is the tag operand of EXPLICIT. -/
def State.modeEmit (s : State) (c : Ctx) (sd : Sender) (tm : Tm) (slot block : Nat) (p : Val) (void : Bool)
    (rel : Option Scope) (close : Bool) (tagOp : Word) : Except (Nat × List Word) (List Emit) :=
  match tm with
  | .same =>
    let t := tokenOf block slot sd.tag sd.epoch sd.hpkg p void rel
    let d := s.placeOf c t sd.core
    .ok (.token t d.1 d.2 :: closeEmit c sd close)
  | .next =>
    let t := tokenOf block slot sd.tag sd.epoch sd.hpkg p void rel
    .ok (closeEmit c sd close ++
      [.request sd.hpkg sd.tag.home.toNat (reqOf c sd (.inl .next) sd.tag sd.epoch (some t) close)])
  | .enter =>
    let t := tokenOf block slot sd.tag sd.epoch s.pkgid p void rel
    .ok (.request s.pkgid sd.core (reqOf c sd (.inl (.enter (c.domOf block))) sd.tag sd.epoch (some t)) ::
      closeEmit c sd close)
  | .leave =>
    let t := tokenOf block slot sd.tag sd.epoch sd.hpkg p void rel
    .ok [.request sd.hpkg sd.tag.home.toNat (reqOf c sd (.inr (.leave close)) sd.tag sd.epoch (some t))]
  | .expl =>
    let tag := { Tag.ofBits (BitVec.ofNat 40 tagOp.toNat) with ctx := BitVec.ofNat 10 c.id }
    if tag.dom.toNat ≠ c.domOf block || !(s.core tag.home.toNat).enabled then .error (0x06, [tagOp])
    else
      let t := tokenOf block slot tag 0 s.pkgid p void rel
      if tag.dom = 0 then
        let d := s.placeOf c t sd.core
        .ok (.token t d.1 d.2 :: closeEmit c sd close)
      else .ok (.request s.pkgid tag.home.toNat (reqOf c sd (.inl .explicit) tag 0 (some t)) :: closeEmit c sd close)

/-- `enterm`: one request for all its tokens (R201, R205). -/
def State.entermEmit (s : State) (c : Ctx) (sd : Sender) (slot block : Nat) (p : Val) (mask : Word)
    (rel : Option Scope) (close : Bool) : Except (Nat × List Word) (List Emit) :=
  let t := tokenOf block slot sd.tag sd.epoch s.pkgid p false rel
  .ok (.request s.pkgid sd.core (reqOf c sd (.inl (.enterm (c.domOf block) mask)) sd.tag sd.epoch (some t)) ::
    closeEmit c sd close)

/-- Both results, the first one's emissions first. -/
def emitBoth (a b : Except (Nat × List Word) (List Emit)) : Except (Nat × List Word) (List Emit) :=
  match a, b with
  | .error e, _ => .error e
  | _, .error e => .error e
  | .ok x, .ok y => .ok (x ++ y)

/-- `steer` (R134): the arm P chooses first, the void token of the other arm second. -/
def State.steerEmit (s : State) (c : Ctx) (sd : Sender) (tm : Tm) (slot block : Nat) (rel : Option Scope) (void : Bool)
    (k : Cell) : Except (Nat × List Word) (List Emit) :=
  let named := fun v => s.modeEmit c sd tm slot block k.a v rel false k.c.bits
  let cont := fun v => s.contEmit c sd k.b.bits k.a v rel
  if k.p then (if void then emitBoth (named false) (cont true) else named false)
  else if void then emitBoth (cont false) (named true) else cont false

/-- What an executed word of a firing hands on, from its latches (R130, R201, R208). -/
def State.emits (s : State) (c : Ctx) (sd : Sender) (i : Instr) (k : Cell) : Except (Nat × List Word) (List Emit) :=
  match i with
  | .send _ tm slot blk rel close => s.modeEmit c sd tm slot.toNat blk.toNat k.a false rel close k.b.bits
  | .sendv _ tm slot blk rel close => s.modeEmit c sd tm slot.toNat blk.toNat Val.zero true rel close k.b.bits
  | .sendx _ rel close => emitBoth (s.contEmit c sd k.b.bits k.a false rel) (.ok (closeEmit c sd close))
  | .steer tm slot blk rel void => s.steerEmit c sd tm slot.toNat blk.toNat rel void k
  | .enter _ slot blk rel close => s.modeEmit c sd .enter slot.toNat blk.toNat k.a false rel close 0
  | .next _ slot blk rel close => s.modeEmit c sd .next slot.toNat blk.toNat k.a false rel close 0
  | .leave _ slot blk rel close => s.modeEmit c sd .leave slot.toNat blk.toNat k.a false rel close 0
  | .entermAnd _ slot blk rel close =>
    s.entermEmit c sd slot.toNat blk.toNat k.a (k.b.bits &&& k.c.bits) rel close
  | .entermOr _ slot blk rel close =>
    s.entermEmit c sd slot.toNat blk.toNat k.a (k.b.bits ||| k.c.bits) rel close
  | .dkill _ _ _ =>
    .ok [.request sd.hpkg sd.tag.home.toNat (reqOf c sd (.inr (.dkill (bits k.a.bits.toNat 0 32))) sd.tag sd.epoch none)]
  | _ => .ok []

/-! ### Sending -/

/-- A token enters the network (R429): toward a core of this package, or with the gang number to another one (R426). -/
def State.inject (s : State) (x src : Nat) (t : Token) (pkg core : Nat) : State :=
  if pkg = s.pkgid then { s with transit := s.transit ++ [{ src := src, dst := core, ctx := x, tok := t }] }
  else
    let g := ((s.ctx? x).bind (·.gang)).map (·.number)
    let s := s.updCtx x fun c => { c with gang := c.gang.map fun g => { g with sent := g.sent + 1 } }
    s.sendOut pkg (.token pkg core s.pkgid src (g.getD 0) t)

/-- A firing's token (R132): with a release, or behind one of its own that is held toward the same core, it is held. -/
def State.sendToken (s : State) (fid src x : Nat) (t : Token) (pkg core : Nat) : State :=
  if t.rel.isSome || s.held.any (fun h => h.fid = fid && h.dst = core && h.dpkg = pkg && !h.unit) then
    { s with held := s.held ++ [{ fid := fid, src := src, dst := core, dpkg := pkg, ctx := x, tok := t, rel := t.rel }] }
  else s.inject x src t pkg core

/-- Whether a request is for a release queue (R152). -/
def isReleaseReq (r : UnitReq) : Bool := match r.mode with | .inl _ => false | .inr _ => true

/-- The queue of a unit that a request goes to has room (R152). -/
def State.unitRoom (s : State) (core : Nat) (release : Bool) : Bool :=
  if release then (s.core core).relq.length < 64 else (s.core core).grantq.length < 64

/-- A request enters the queue of a unit of this package (R152). -/
def State.enterQueue (s : State) (core : Nat) (r : UnitReq) : State :=
  let r := { r with tick := s.tick }
  s.updCore core fun k =>
    if isReleaseReq r then { k with relq := k.relq ++ [r] } else { k with grantq := k.grantq ++ [r] }

/-- A request enters a unit's queue, or leaves for the unit's package (R152, R442). There the token of one that carries a
release waits until this package says that the firing's accesses are performed (R204); and the firing waits at its end until that one
says that the request has entered its unit's queue (R152). -/
def State.postRequest (s : State) (pkg core : Nat) (r : UnitReq) : State :=
  let r := { r with opkg := s.pkgid }
  if pkg = s.pkgid then s.enterQueue core r
  else
    let g := (((s.ctx? r.ctx).bind (·.gang)).map (·.number)).getD 0
    let s := s.updCtx r.ctx fun c => { c with gang := c.gang.map fun g => { g with sent := g.sent + 1 } }
    match r.tok.bind (·.rel) with
    | some sc =>
      if r.fid = 0 then s.sendOut pkg (.request pkg core g r)
      else
        let w : Owed := { id := s.reqSeq + 1, fid := r.fid, core := r.origin, ctx := r.ctx, dpkg := pkg, rel := sc }
        ({ s with reqSeq := w.id, owed := s.owed ++ [w], asking := s.asking ++ [(w.id, r.fid)] } : State).sendOut pkg
          (.request pkg core g { r with owes := some (s.pkgid, w.id), asks := some w.id })
    | none =>
      if r.fid = 0 then s.sendOut pkg (.request pkg core g r)
      else
        let n := s.reqSeq + 1
        ({ s with reqSeq := n, asking := s.asking ++ [(n, r.fid)] } : State).sendOut pkg
          (.request pkg core g { r with asks := some n })

/-- A token through a continuation that agent `src`, other than a lane, sends from a core: to its core, or to a unit, for whose
grant queue it waits at its sender (R152). `eng`: it completes an engine command of that core (R405). -/
def State.contTo (s : State) (c : Ctx) (src core : Nat) (w payload : Word) (rel : Option Scope)
    (eng : Option (Nat × Nat) := none) : State :=
  let sd : Sender := { tag := contTag w, epoch := 0, hpkg := s.pkgid, core := core, fid := 0 }
  match s.contEmit c sd w { bits := payload } false rel with
  | .error _ => s
  | .ok l => l.foldl (fun s e => match e with
      | .token t p k => s.inject c.id src { t with eng := eng } p k
      | .request _ k r =>
        let r := { r with tok := r.tok.map fun t => { t with eng := eng } }
        if s.unitRoom k false && !s.outbox.any (·.1 = k) then s.postRequest s.pkgid k r
        else { s with outbox := s.outbox ++ [(k, r)] }) s

/-- An answer of the device (an engine, a unit, the yard) to a continuation already checked: with a release, which the
answer's own step has performed. In a loop domain it waits for room in the unit's grant queue (R152). -/
def State.answerCont (s : State) (x src core : Nat) (w : Word) (payload : Word) (rel : Option Scope) : State :=
  match s.ctx? x with
  | none => s
  | some c => if c.draining.isSome then s else s.contTo c src core w payload rel

/-- Answers that waited enter their units' queues, in their order, as far as these have room (R152). -/
def State.flushOutbox (s : State) : State :=
  s.outbox.foldl (fun (s : State) e =>
    if s.unitRoom e.1 false && !s.outbox.any (·.1 = e.1) then s.postRequest s.pkgid e.1 e.2
    else { s with outbox := s.outbox ++ [e] }) { s with outbox := [] }

/-! ### Frames (R166, R167) -/

/-- Units of a frame for a number of inputs. -/
def frameUnits (inputs : Nat) : Nat := (8 + 8 * inputs + 15) / 16

/-- Every frame in use in a context's region on a core. -/
def State.usedFrames (s : State) (core x : Nat) : List FrameRef :=
  ((s.fold.filter fun e => e.core = core && e.ctx = x).filterMap (·.place)) ++
  ((s.ready.filter fun r => r.core = core && r.ctx = x).filterMap (·.place)) ++
  ((s.flocks.filter fun f => f.core = core && f.ctx = x).flatMap fun f => f.lanes.filterMap (·.place)) ++
  ((s.resumed.filter fun r => r.core = core && r.ctx = x).filterMap (·.lane.place)) ++
  (match s.ctx? x with
   | none => []
   | some c => (c.sick.filter (·.core = core)).filterMap fun k =>
      if s.flocks.any (·.id = k.flock) then none else k.lane.bind (·.place))

/-- The lowest run of free units below `top` (R167 step 1). -/
def lowestRun (units top : Nat) (used : List FrameRef) : Option Nat :=
  let fits := fun a => a + units ≤ top && used.all fun f => a + units ≤ f.at_ || f.at_ + f.units ≤ a
  minBy id ((0 :: used.map fun f => f.at_ + f.units).filter fits)

/-- A frame from the free units outside the reserve. -/
def State.frame1 (s : State) (core x units : Nat) : Option FrameRef :=
  match (s.ctx? x) with
  | none => none
  | some c =>
    match c.regions.find? (·.core = core) with
    | none => none
    | some r => (lowestRun units (4096 * r.frames - 5 * c.reserve) (s.usedFrames core x)).map fun a =>
        { at_ := a, units := units, resv := false }

/-- A frame of the reserve, whose positions of five units stand at the top of the region. -/
def State.frame2 (s : State) (core x units : Nat) : Option FrameRef :=
  match (s.ctx? x) with
  | none => none
  | some c =>
    match c.regions.find? (·.core = core) with
    | none => none
    | some r =>
      let used := s.usedFrames core x
      let free := (List.range c.reserve).map (fun k => 4096 * r.frames - 5 * c.reserve + 5 * k)
      (free.find? fun a => used.all fun f => f.at_ ≠ a).map fun a => { at_ := a, units := units, resv := true }

/-! ### The pinfold (R410–R412) -/

/-- The position of an entry in the fold: set and way (R162). -/
def FoldEntry.position (e : FoldEntry) : Nat := Config.foldHash e.ctx e.block e.tag.toBits % 2048 * 8 + e.way

def FoldEntry.named (e : FoldEntry) (core x block : Nat) (t : Tag) : Bool :=
  e.core = core && sameName x block t e.ctx e.block e.tag

/-- NEXTDUP among some entries: the position of the next one of the name (R163, R164). -/
def nextDup (l : List FoldEntry) (e : FoldEntry) : Option Nat :=
  (minBy (·.arrival) (l.filter fun f => f.named e.core e.ctx e.block e.tag && e.arrival < f.arrival)).map FoldEntry.position

/-- A fold entry's sixteen bytes (R163) with its NEXTDUP, if it has one. FRAME and RESV of an entry without a frame, of which R163 says
nothing, are 0 (DESIGN CHOICE, entry 108). -/
def entryBytes (e : FoldEntry) (dup : Option Nat) : List Byte :=
  let present := (e.slots.zipIdx.foldl (fun acc (x, k) => if x.isSome then acc + 2 ^ k else acc) 0)
  let void := (e.slots.zipIdx.foldl (fun acc (x, k) =>
    match x with | some (_, true) => acc + 2 ^ k | _ => acc) 0)
  bytesLE 16 (at_ e.tag.toBits.toNat 88 + at_ e.block 76 + at_ present 68 + at_ void 60 + at_ e.state 58 +
    at_ (b2n ((e.place.map (·.resv)).getD false)) 57 + at_ e.units 54 + at_ ((e.place.map (·.at_)).getD 0) 38 +
    at_ (dup.getD 0) 24 + at_ (b2n dup.isSome) 23 + e.arrival % 2 ^ 23)

/-- A frame's bytes (R166): an eight-byte header with the epoch, then eight bytes a slot. Where the epoch stands in the header, in its low
22 bits with the others zero, is the model's (DESIGN CHOICE, entry 33). -/
def frameBytes (e : FoldEntry) : List Byte :=
  let l := bytesLE 8 e.epoch.toNat ++ e.slots.flatMap fun x => bytesLE 8 ((x.map (·.1.toNat)).getD 0)
  (l ++ List.replicate (16 * e.units) 0).take (16 * e.units)

/-- Slots of a context's pinfold: each 64 KiB of an extent holds 512. -/
def Ctx.pinCapacity (c : Ctx) : Nat := c.pinBase.foldl (fun n e => n + 512 * e.1) 0

/-- Slots are numbered from 2^25 k on in the extent of PINEXT k, so that a later extent moves none. -/
def pinStride : Nat := 2 ^ 25

/-- The address of a slot. -/
def pinAddr (l : List (Nat × Nat)) (slot : Nat) : Nat :=
  ((l[slot / pinStride]?).map (·.2)).getD 0 + 128 * (slot % pinStride)

/-- The lowest free slot. -/
def Ctx.pinFree (c : Ctx) : Option Nat :=
  (c.pinBase.zipIdx.flatMap fun (e, k) =>
    ((List.range (c.pin.length + 1)).filter (· < 512 * e.1)).map (pinStride * k + ·)).find? fun k => c.pin.all (·.slot ≠ k)

/-- An entry or a token takes a slot and its 128 bytes are written (R410), if one is free. -/
def State.pinAdd (s : State) (e : FoldEntry) (why : PinWhy) : Option State :=
  match s.ctx? e.ctx with
  | none => none
  | some c =>
    match c.pinFree with
    | none => none
    | some k =>
      let e := { e with state := 1, place := none }
      let used := (s.usedFrames e.core e.ctx).length
      let s := s.wrN (pinAddr c.pinBase k)
        (entryBytes e e.dup ++ (frameBytes e ++ List.replicate 80 0).take 80 ++ bytesLE 8 e.arrival ++ bytesLE 2 e.core ++
          List.replicate 22 0)
      some ((s.updCtx e.ctx fun c =>
        { c with pin := c.pin ++ [{ slot := k, entry := e, stamp := e.arrival, core := e.core, why := why, seen := used }] }).moved e.ctx)

/-! ### Context faults (R384, R386, R387) -/

/-- The fold entries of a context that wait, the spilled ones among them, oldest ARRIVAL first (R172, R387). -/
def State.waitingEntries (s : State) (c : Ctx) : List FoldEntry :=
  sortBy (·.arrival) ((s.fold.filter (·.ctx = c.id)) ++ ((s.eldest.map (·.1)).filter (·.ctx = c.id)) ++ c.pin.map (·.entry))

/-- A context-class record's bytes from 0x080: TOTAL, then up to 160 entries. -/
def contextBody (total : Nat) (l : List Byte) : List Byte := bytesLE 128 total ++ (l ++ List.replicate 2560 0).take 2560

/-- The header of a context record (R386). -/
def State.ctxHeader (s : State) (c : Ctx) (seq permit code : Nat) : Nat :=
  recHeader 0 s.tick seq (c.rootTag 0) 4095 0 0 0 (c.pasture.headD 0) false permit 1 255 code

/-- The bytes of a context record from its start to 0xAFF (R386, R387). -/
def State.ctxRecord (s : State) (c : Ctx) (f : PendingFault) : List Byte :=
  let e := f.entries.getD (0, [])
  reportBytes (s.ctxHeader c f.seq (permitOf f.code false) f.code) f.detail ++ contextBody e.1 e.2

/-- A waiting context fault takes the lowest free record, or stays waiting. -/
def State.fillContextRecord (s : State) (x : Nat) (f : PendingFault) : State :=
  match s.ctx? x with
  | none => s
  | some c =>
    match c.freeSick with
    | some r =>
      let s := s.wrN (c.sickBase + 4096 * r) (s.ctxRecord c f)
      let rec_ : Sick := { status := .pending false, core := c.pasture.headD 0, block := 4095, code := f.code }
      s.updCtx x fun c => { c with sick := c.sick.set r rec_ }
    | none => s.updCtx x fun c => { c with faultq := c.faultq ++ [f] }

/-- A fatal context fault: its record is written, and the context drains with its header and DETAIL (R383, R401). -/
def State.fatalContext (s : State) (x : Nat) (f : PendingFault) : State :=
  match s.ctx? x with
  | none => s
  | some c => (s.writeFatal x (s.ctxRecord c f)).drain x
      (reportBytes (s.ctxHeader c f.seq (permitOf f.code false) f.code) f.detail) f.code

/-- TAKING A CONTEXT FAULT. Its record lists the waiting fold entries as they stand (R387); `fatal`: or there is no
handler. -/
def State.captureContext (s : State) (x code : Nat) (detail : List Word) (fatal : Bool) : State :=
  match s.ctx? x with
  | none => s
  | some c =>
    let l := s.waitingEntries c
    let f : PendingFault := {
      fid := 0, idx := 255, code := code, seq := c.seq, detail := detail
      entries := some (l.length, (l.take 160).flatMap fun e =>
        entryBytes e (if e.state = 1 then e.dup else nextDup (s.fold.filter (·.ctx = x)) e)) }
    let s := s.updCtx x fun c => { c with fcount := satInc c.fcount, seq := c.seq + 1 }
    if c.draining.isSome then s
    else if fatal || (handlerBlock c.handler code).isNone then s.fatalContext x f
    else s.fillContextRecord x f

/-- The tokens of an entry, as their senders would send them again. -/
def FoldEntry.tokens (e : FoldEntry) : List Token :=
  e.slots.zipIdx.filterMap fun (x, k) => x.map fun v =>
    { block := e.block, slot := k, tag := e.tag, epoch := e.epoch, payload := v.1, void := v.2, rel := e.rel, hpkg := e.hpkg, hrec := e.hrec }

/-- Tokens must enter the pinfold of a context and no slot is free (R400, R412): they wait at their senders, and the context
pauses with PINFOLD_FULL unless it is paused already. -/
def State.pinfoldFull (s : State) (x : Nat) (l : List Transit) : State :=
  let s : State := { s with pinHeld := s.pinHeld ++ l }
  match s.ctx? x with
  | none => s
  | some c =>
    if c.paused then s
    else (s.updCtx x fun c => { c with paused := true }).captureContext x 0x11
      [BitVec.ofNat 64 c.pinCapacity, BitVec.ofNat 64 c.pin.length] false

/-- An entry goes to the pinfold, or its tokens wait for a slot (R412). -/
def State.pinOrHold (s : State) (e : FoldEntry) (why : PinWhy) (l : List Transit) : State :=
  match s.pinAdd e why with
  | some s => s
  | none => s.pinfoldFull e.ctx l

/-- The tokens of an entry, held at their senders. -/
def FoldEntry.held (e : FoldEntry) : List Transit := e.tokens.map fun t =>
  { src := ((e.senders.find? (·.1 = t.slot)).map (·.2)).getD e.core, dst := e.core, ctx := e.ctx, tok := t, stamp := e.arrival }

/-- A one-token entry, by its core, context, token, number of inputs and arrival stamp. -/
def entryOf (core x : Nat) (t : Token) (inputs arrival : Nat) : FoldEntry :=
  { core := core, ctx := x, block := t.block, tag := t.tag, epoch := t.epoch, hpkg := t.hpkg,
    slots := (List.replicate inputs none).set t.slot (some (t.payload, t.void)), state := 0, place := none,
    units := frameUnits inputs, arrival := arrival, rel := t.rel, hrec := t.hrec }

def FoldEntry.complete (e : FoldEntry) : Bool := e.slots.all (·.isSome)

/-- The tokens of `f` fill the empty slots of `e`. -/
def FoldEntry.absorb (e f : FoldEntry) : FoldEntry :=
  { e with slots := List.zipWith (fun a b => match a with | some _ => a | none => b) e.slots f.slots, senders := e.senders ++ f.senders,
           rel := scopeMax e.rel f.rel, hrec := match e.hrec with | some r => some r | none => f.hrec }

/-- Whether the tokens of `f` find every slot of `e` that they name empty. -/
def FoldEntry.accepts (e f : FoldEntry) : Bool :=
  (List.zip e.slots f.slots).all fun (a, b) => !(a.isSome && b.isSome)

/-- The key of an aligned group (R190): the tag with IDX's low five bits cleared, and the epoch. -/
def groupKey (t : Tag) (e : BitVec 22) : Nat := (t.toBits.toNat / 32) * 2 ^ 22 + e.toNat

/-- The lane an instance takes in its group. -/
def groupLane (t : Tag) (e : BitVec 22) : Nat := literOf t e % 32

/-- The group of its key whose lane is free, in the order of their forming; else a further one (R190). -/
def State.groupFor (s : State) (core x block : Nat) (t : Tag) (e : BitVec 22) : Nat :=
  let mine := s.ready.filter fun r => r.core = core && r.ctx = x && r.block = block && groupKey r.tag r.epoch = groupKey t e
  let taken := mine.filter fun r => groupLane r.tag r.epoch = groupLane t e
  match minBy id ((mine.map (·.group)).filter fun g => taken.all fun r => r.group ≠ g) with
  | some g => g
  | none => mine.foldl (fun m r => max m (r.group + 1)) 0

/-- The order number of the next ready instance. -/
def State.nextSeq (s : State) : Nat := s.ready.foldl (fun m r => max m (r.seq + 1)) 0

/-- Work reaches a core: a clock-gated one is ungated, a power-gated one starts a wake (R418), and its idleness ends. -/
def State.stir (s : State) (core : Nat) : State :=
  s.updCore core fun k => match k.power with
    | .clockGated => { k with power := .running, idleAt := s.cycle }
    | .powerGated => { k with power := .waking, wakes := k.wakes + 1, idleAt := s.cycle }
    | _ => { k with idleAt := s.cycle }

/-- A completed entry becomes a ready instance (R188): late where it forms a group of its own after one of its key has been released
(R191). One that waited in its entry for room in the ready list counts its age
from its move there: the spec does not say when it became ready (DESIGN CHOICE, entry 89). -/
def State.makeReady (s : State) (e : FoldEntry) : State :=
  let frame := e.slots.map fun x => x.getD (0, false)
  let key := groupKey e.tag e.epoch
  let group := s.groupFor e.core e.ctx e.block e.tag e.epoch
  let joins := s.ready.any fun r => r.core = e.core && r.ctx = e.ctx && r.block = e.block && groupKey r.tag r.epoch = key && r.group = group
  let r : Ready := {
    core := e.core, ctx := e.ctx, block := e.block, tag := e.tag, epoch := e.epoch, hpkg := e.hpkg, frame := frame,
    place := e.place, since := s.cycle, seq := s.nextSeq, group := group, rel := e.rel, hrec := e.hrec, arrival := e.arrival,
    late := !joins && ((s.ctx? e.ctx).map fun c => c.groupsOut.contains (e.core, e.block, key)).getD false }
  ({ s with ready := s.ready ++ [r] } : State).stir e.core

/-- Completed entries move to the ready list in ARRIVAL order while it has room (R188). -/
def State.promote (s : State) (core : Nat) : State :=
  let room := 1024 - (s.ready.filter (·.core = core)).length
  let go := (sortBy (·.arrival) (s.fold.filter fun e => e.core = core && e.state = 0 && e.complete)).take room
  let s := go.foldl State.makeReady s
  { s with fold := s.fold.filter fun e => !go.contains e }

/-- Pens bind to the pairs of the oldest unbound ready instances (R188). -/
def bindPens (prio : Nat → Nat) (cycle core : Nat) : List Ready → List Pen → List Pen
  | [], pens => pens
  | r :: rest, pens =>
    if r.core ≠ core || pens.any (fun p => p.core = core && p.ctx = r.ctx && p.block = r.block) then
      bindPens prio cycle core rest pens
    else
      match (List.range 32).find? fun k => !pens.any fun p => p.core = core && p.index = k with
      | none => pens
      | some k => bindPens prio cycle core rest
          (pens ++ [{ core := core, index := k, ctx := r.ctx, block := r.block, level := prio r.ctx, served := cycle }])

/-- What becomes of a pen as its core's ready list changes (R188): one that is empty is freed once the cycle has passed, in which an
instance of its pair may still come (R195); one stays due only while it holds an instance whose timer has run out, or one that it held
when its timer ran out over more than 32 (R189). -/
def State.keptPen (s : State) (p : Pen) : Option Pen :=
  let mine := s.ready.filter fun r => r.core = p.core && r.ctx = p.ctx && r.block = p.block
  if mine.isEmpty then
    match p.empty with
    | some c => if c < s.cycle then none else some p
    | none => some { p with empty := some s.cycle, due := false, keep := none }
  else some { p with empty := none, due := p.due && mine.any fun r => r.expired || p.keep.any (r.since ≤ ·) }

/-- Empty pens of a core are freed and free ones bound (R188). -/
def State.rebind (s : State) (core : Nat) : State :=
  let keep := s.pens.filterMap fun p => if p.core = core then s.keptPen p else some p
  { s with pens := bindPens (fun x => ((s.ctx? x).map (·.prio)).getD 0) s.cycle core s.ready keep }

/-- The entries of a chain from one entry on: the later entries of its name (R165). -/
def State.chainFrom (s : State) (e : FoldEntry) : List FoldEntry :=
  s.fold.filter fun f => f.named e.core e.ctx e.block e.tag && e.arrival ≤ f.arrival

/-- The set of the fold an entry is in (R162). -/
def FoldEntry.set (e : FoldEntry) : Nat := Config.foldHash e.ctx e.block e.tag.toBits % 2048

/-- The entries in the set of one. -/
def State.setOf (s : State) (e : FoldEntry) : List FoldEntry := s.fold.filter fun f => f.core = e.core && f.set = e.set

/-- The place of an entry's frame in the shed, if it has one (R166, R250). -/
def State.frameAddr (s : State) (e : FoldEntry) : Option Nat :=
  match e.place, (s.ctx? e.ctx).bind fun c => c.regions.find? (·.core = e.core) with
  | some f, some r => some (shedAddr e.core (65536 * r.frameSeg + 16 * f.at_))
  | _, _ => none

/-- An entry's frame stands in the frame region (R166). -/
def State.writeFrame (s : State) (e : FoldEntry) : State :=
  match s.frameAddr e with
  | some a => s.wrN a (frameBytes e)
  | none => s

/-- An entry joins the fold in the lowest free way of its set (R162), with its frame written. -/
def State.foldAdd (s : State) (e : FoldEntry) : State :=
  let e := { e with state := 0, dup := none, way := ((List.range 8).find? fun k => (s.setOf e).all (·.way ≠ k)).getD 7 }
  ({ s with fold := s.fold ++ [e] } : State).writeFrame e

/-- Room for a new entry in its set: at once, or after an eviction (R165); `none` when the token itself must be
spilled. -/
def State.setRoom (s : State) (e : FoldEntry) : Option State :=
  if (s.setOf e).length < 8 then some s
  else
    let ok := (s.setOf e).filter fun f => !((f.place.map (·.resv)).getD false) && f.state = 0 &&
      (match s.ctx? f.ctx with
       | none => false
       | some c => c.pin.length + (s.chainFrom f).length ≤ c.pinCapacity)
    match (sortBy (·.arrival) ok).getLast? with
    | none => none
    | some f =>
      let chain := s.chainFrom f
      let s1 : State := { s with fold := s.fold.filter fun g => !chain.contains g }
      some (chain.foldl (fun s1 g => (s1.pinAdd { g with dup := nextDup s.fold g } .spilled).getD s1) s1)

/-- A complete entry goes to the ready list; with that full it waits in its set of the fold, after an eviction if need be, or it is
spilled (R162, R165, R188). -/
def State.addComplete (s : State) (e : FoldEntry) : State :=
  if (s.ready.filter (·.core = e.core)).length < 1024 then (s.makeReady e).rebind e.core
  else
    match s.setRoom e with
    | some t => t.foldAdd e
    | none => s.pinOrHold e .spilled e.held

/-- Whether iteration `l` is BASE of an activation at a unit of this package (R168). -/
def State.isBase (s : State) (core x dom act l : Nat) : Bool :=
  s.acts.any fun a => a.core = core && a.ctx = x && a.dom = dom && a.act = act && a.base = l

/-- Whether a token is eldest, as far as this package's units tell (R168): of an activation of another package, that one is
asked. -/
def State.isEldest (s : State) (e : FoldEntry) : Bool :=
  e.tag.dom = 0 || (e.hpkg = s.pkgid &&
    s.isBase e.tag.home.toNat e.ctx e.tag.dom.toNat e.tag.act.toNat (literOf e.tag e.epoch))

/-- A place for a new entry's tokens that needs no answer of a unit. -/
inductive Placed where
  | at_ (s : State)
  | ask
  | spill

/-- R167 for a new entry: the free units, the reserve for a root-domain token, else a question or a spill. -/
def State.placeEntry (s : State) (e : FoldEntry) : Placed :=
  match s.frame1 e.core e.ctx e.units with
  | some f => .at_ (s.foldAdd { e with place := some f })
  | none =>
    if (s.frame2 e.core e.ctx e.units).isNone then .spill
    else if e.tag.dom = 0 then
      .at_ (s.foldAdd { e with place := s.frame2 e.core e.ctx e.units })
    else if (s.eldest.filter (·.1.core = e.core)).length < 32 then .ask
    else .spill

/-- A token or a re-presented entry meets the fold (R164): it fills the oldest waiting instance of its name that takes
it, or starts an entry. `none`: it has to be spilled. -/
def State.present (s : State) (e : FoldEntry) : Option State :=
  let inFold := s.fold.filter fun f => f.named e.core e.ctx e.block e.tag && f.accepts e
  let inAsk := (s.eldest.map (·.1)).filter fun f => f.named e.core e.ctx e.block e.tag && f.accepts e
  match minBy (·.arrival) (inFold ++ inAsk) with
  | some f =>
    let up := fun g => if g = f then f.absorb e else g
    some (({ s with fold := s.fold.map up, eldest := s.eldest.map fun (g, a) => (up g, a) } : State).writeFrame (f.absorb e))
  | none =>
    match s.setRoom e with
    | none => none
    | some s =>
      match s.placeEntry e with
      | .at_ s => some s
      | .ask => some { s with eldest := s.eldest ++ [({ e with state := 2, asked := false }, none)] }
      | .spill => none

/-- Whether a slot of the same name holds an earlier token in the pinfold for this core, so that a later one stays behind it
(R21, R169). -/
def Ctx.pinnedAhead (c : Ctx) (e : FoldEntry) : Bool :=
  c.pin.any fun p => p.core = e.core && p.stamp < e.arrival && p.entry.named e.core e.ctx e.block e.tag && !p.entry.accepts e

/-- A kill filter that a token meets (R161). -/
def State.filtered (s : State) (core x hpkg : Nat) (t : Tag) (e : BitVec 22) : Bool :=
  t.dom ≠ 0 && s.filters.any fun f => f.core = core && f.ctx = x && f.dom = t.dom.toNat && f.home = t.home.toNat &&
    f.act = t.act.toNat && f.hpkg = hpkg && f.h < literOf t e

/-- A context on a core that is pre-empted (R405): the section, if its tokens are diverted. -/
def Ctx.section? (c : Ctx) (core : Nat) : Option Section := c.saved.find? (·.core = core)

/-- A completion token is captured with its arrival stamp (R405, R411, R416). -/
def State.captureToken (s : State) (x core stamp : Nat) (t : Token) : State :=
  (s.updCtx x fun c => { c with
    saved := replaceFirst (·.core == core) (fun z => { z with tokens := z.tokens ++ [(stamp, t)] }) c.saved }).moved x

/-- The number of input slots of a token's block. -/
def Ctx.inputsOf (c : Ctx) (b : Nat) : Nat := (c.blocks[b]?.map (·.inputs)).getD 0

/-- Whether the fold finds a place for what a spilled slot holds (R164, R167): an instance that it joins, a frame outside the reserve,
or one of the reserve. An iteration that has become BASE does not recall it (R168): a unit is asked again only when frame units have
freed since it was spilled. -/
def State.offers (s : State) (p : PinSlot) : Bool :=
  let e := p.entry
  let joins := fun f : FoldEntry => f.named e.core e.ctx e.block e.tag && f.accepts e
  s.fold.any joins || s.eldest.any (fun q => joins q.1) || (s.frame1 e.core e.ctx e.units).isSome ||
    ((s.frame2 e.core e.ctx e.units).isSome && (e.tag.dom = 0 || (s.usedFrames e.core e.ctx).length < p.seen))

/-- A slot of the pinfold is given back to the fold of its core; it stays where it is when it finds no frame, or behind an earlier one of
its name. A killed iteration's is discarded (R414). -/
def State.represent (s : State) (p : PinSlot) : State :=
  match s.ctx? p.entry.ctx with
  | none => s
  | some c =>
    let drop := fun (s : State) => s.updCtx c.id fun c => { c with pin := c.pin.filter (·.slot ≠ p.slot) }
    let e := { p.entry with state := 0, dup := none }
    if s.filtered p.core c.id e.hpkg e.tag e.epoch then
      (drop s).updCtx c.id fun c =>
        { c with killed := satInc c.killed (e.slots.filter (·.isSome)).length }
    else if c.pinnedAhead e || (p.why = .spilled && !s.offers p) then s
    else
      match (drop s).present e with
      | some s => ((s.promote p.core).rebind p.core).moved c.id
      | none => s

/-- Whether a spilled entry counts as eligible for the reserve (R168, R169). The unit of another package is asked only once a frame of
the reserve is offered: until it has said no, the entry counts (DESIGN CHOICE, entry 104). -/
def State.mayBeEldest (s : State) (e : FoldEntry) : Bool := s.isEldest e || (e.hpkg ≠ s.pkgid && !e.asked)

/-- The spilled tokens and entries of a context on a core are presented again, those eligible for the reserve first, the rest
in order of arrival (R169). -/
def State.representSpilled (s : State) (core x : Nat) : State :=
  match s.ctx? x with
  | none => s
  | some c =>
    let mine := sortBy (·.stamp) (c.pin.filter fun p => p.core = core && p.why = .spilled)
    let first := mine.filter fun p => s.mayBeEldest p.entry
    let rest := mine.filter fun p => !s.mayBeEldest p.entry
    if c.draining.isSome || (c.section? core).isSome then s
    else (first ++ rest).foldl State.represent s

/-- Wherever units of frames have freed, what is spilled there is presented again at once (R169). -/
def State.representFreed (s : State) : State :=
  ((s.ctxs.flatMap fun c => (c.pin.filter (·.why = .spilled)).map fun p => (p.core, c.id)).eraseDups).foldl
    (fun s k => s.representSpilled k.1 k.2) s

/-- A token meets the fold of its core behind the spilled ones, which take freed frames first (R169, R174); one that finds no
frame, or has one of its name and slot before it in the pinfold, is spilled. `held`: an earlier token of the context waits for
a slot, so that this one does too (R412). -/
def State.meetFold (s : State) (e : FoldEntry) (tr : Transit) (held : Bool) : State :=
  let spill := fun (s : State) => if held then s.pinfoldFull e.ctx [tr] else s.pinOrHold e .spilled [tr]
  let s := s.representSpilled e.core e.ctx
  if ((s.ctx? e.ctx).map (·.pinnedAhead e)).getD false then spill s
  else
    match s.present e with
    | some s => ((s.promote e.core).rebind e.core).moved e.ctx
    | none => spill s

/-- A context of a gang that has not started (R442): its tokens wait in the pinfold. -/
def Ctx.waitsForTick (c : Ctx) : Bool := match c.gang with | none => false | some g => !g.started

/-- The entry that a token which has reached its core would start. -/
def Transit.entry (tr : Transit) (inputs : Nat) : FoldEntry :=
  { entryOf tr.dst tr.ctx tr.tok inputs tr.stamp with senders := [(tr.tok.slot, tr.src)] }

/-- A token reaches the fold of its core (R164): discarded while the context drains (R401), by a filter (R161), captured or diverted
under pre-emption (R405) or before a gang's start (R442), else presented; spilled when it finds no frame. -/
def State.arriveAt (s : State) (tr : Transit) (held : Bool) : State :=
  match s.ctx? tr.ctx with
  | none => s
  | some c =>
    if c.draining.isSome then s
    else
      let core := tr.dst
      let e := tr.entry (c.inputsOf tr.tok.block)
      let early := c.waitsForTick
      if tr.tok.eng = some (s.pkgid, core) && (c.section? core).isSome then s.captureToken tr.ctx core tr.stamp tr.tok
      else if early || (c.section? core).isSome then
        if held then s.pinfoldFull tr.ctx [tr] else s.pinOrHold e (if early then .early else .divert) [tr]
      else if s.filtered core tr.ctx tr.tok.hpkg tr.tok.tag tr.tok.epoch then
        s.updCtx tr.ctx fun c => { c with killed := satInc c.killed }
      else s.meetFold e tr held

/-- A token reaches the fold, behind any that wait for a pinfold slot of its context. -/
def State.arrive (s : State) (tr : Transit) : State := s.arriveAt tr (s.pinHeld.any (·.ctx = tr.ctx))

end Sys2Proof.Machine
end

