-- ==== Sys2Proof/Machine/Units.lean ====
section
/-! DEFINITION. The domain units (R151–R161, R201–R209): activations, the release queue, the grant queue and the wait
list, kill notices and filters, and the eldest questions of the fold (R168). -/

namespace Sys2Proof.Machine

/-- The activation a request or a tag names at a unit (R151). -/
def State.act? (s : State) (core x : Nat) (dom act : Nat) : Option Activation :=
  s.acts.find? fun a => a.core = core && a.ctx = x && a.dom = dom && a.act = act

def Activation.same (a b : Activation) : Bool := a.core = b.core && a.ctx = b.ctx && a.dom = b.dom && a.act = b.act

def State.setAct (s : State) (a : Activation) : State := { s with acts := s.acts.map fun b => if a.same b then a else b }

/-- An iteration at or above BASE that counts as closed: its closed bit, or beyond H (R155, R160). -/
def Activation.closedAt (a : Activation) (l : Nat) : Bool := a.closed.getLsbD (l - a.base) || a.h < l

/-- BASE advances past every closed iteration, up to TOP + 1 (R156). -/
def Activation.advance : Nat → Activation → Activation
  | 0, a => a
  | n + 1, a =>
    if a.base ≤ a.top && a.closedAt a.base then
      Activation.advance n { a with base := a.base + 1, closed := a.closed >>> 1 }
    else a

/-- The close of iteration `l` (R156): none for one already closed, below BASE or beyond H. -/
def Activation.close (a : Activation) (l : Nat) : Activation :=
  if a.base ≤ l && l ≤ a.top && l ≤ a.h then
    Activation.advance 1024 { a with closed := a.closed ||| BitVec.ofNat 512 (2 ^ (l - a.base)) }
  else a

/-- The iteration an IDX names (R158); `none` where that would lie below 0, which names no iteration. -/
def Activation.recover (a : Activation) (idx : Nat) : Option Nat :=
  let d := (idx + 1024 - a.base % 1024) % 1024
  if d < 512 then some (a.base + d) else if 1024 ≤ a.base + d then some (a.base + d - 1024) else none

/-- Whether an activation may be freed (R157, R161). -/
def Activation.over (a : Activation) : Bool := a.left && min a.top a.h < a.base && a.pending = 0

/-- The two counters of R173. -/
def State.countStray (s : State) (x : Nat) : State := s.updCtx x fun c => { c with stray := satInc c.stray }
def State.countKilled (s : State) (x : Nat) (n : Nat) : State := s.updCtx x fun c => { c with killed := satInc c.killed n }

/-- The tag of iteration `l` of an activation, and its epoch (R148). -/
def Activation.tagOf (a : Activation) (l : Nat) : Tag :=
  { ctx := BitVec.ofNat 10 a.ctx, dom := BitVec.ofNat 6 a.dom, home := BitVec.ofNat 8 a.core, act := BitVec.ofNat 6 a.act,
    idx := BitVec.ofNat 10 l }

def epochOf (l : Nat) : BitVec 22 := BitVec.ofNat 22 (l / 1024)

/-- A token whose tag a unit has formed goes on to its core (R152, R180): held where it carries a release that the firing's
package has still to perform, and behind nothing else (R204). -/
def State.forward (s : State) (core : Nat) (r : UnitReq) (tag : Tag) (e : BitVec 22) (hpkg : Nat) : State :=
  match r.tok, s.ctx? r.ctx with
  | some t, some c =>
    let t := { t with tag := tag, epoch := e, hpkg := hpkg }
    let d := s.placeFrom c t (r.opkg, r.origin)
    if t.rel.isSome && (r.fid ≠ 0 || r.owes.isSome) then
      { s with held := s.held ++ [{ fid := r.fid, src := r.origin, dst := d.2, dpkg := d.1, ctx := r.ctx, tok := t, rel := t.rel,
                                    unit := true, owes := r.owes }] }
    else s.inject r.ctx (512 + core) t d.1 d.2
  | _, _ => s

/-- The free ACT slots of a context and domain at a unit (R151). -/
def State.freeActs (s : State) (core x dom : Nat) : List Nat :=
  (List.range 64).filter fun k => (s.act? core x dom k).isNone

/-- ENTER and ENTERM (R154, R205) take the first free slot (R226). -/
def State.enterAct (s : State) (core : Nat) (r : UnitReq) (dom base top : Nat) (closed : BitVec 512) (ks : List Nat) :
    Option State :=
  let free := s.freeActs core r.ctx dom
  if free.isEmpty || 1024 ≤ (s.acts.filter (·.core = core)).length then none
  else
    let act := free.headD 0
    let a : Activation := {
      core := core, ctx := r.ctx, dom := dom, act := act, parent := r.tag, pepoch := r.epoch, phpkg := r.hpkg,
      base := base, top := top, closed := closed, h := 2 ^ 32 - 1, left := false, pending := 0 }
    let s := { s with acts := s.acts ++ [a] }
    some (ks.foldl (fun s k => s.forward core r (a.tagOf k) (epochOf k) s.pkgid) s)

def maskBits (m : Word) : List Nat := (List.range 64).filter fun k => m.getLsbD k

/-- The service of one grant request at a unit (R154): `none`, it must wait. A request whose iteration lies above both TOP and H
is counted STRAY, not KILLED: the table names both counters and no order (DESIGN CHOICE, entry 90). -/
def State.tryGrant (s : State) (core : Nat) (r : UnitReq) : Option State :=
  match s.ctx? r.ctx with
  | none => some s
  | some c =>
    if c.draining.isSome then some s
    else
      let dom := r.tag.dom.toNat
      let nextFrom := fun (a : Activation) (l : Nat) =>
        if a.h < l + 1 || l = 2 ^ 32 - 1 then some (s.countKilled r.ctx 1)
        else if l + 1 ≤ a.top || l + 1 < a.base + c.windowOf dom then
          let s := s.setAct { a with top := max a.top (l + 1) }
          some (s.forward core r (a.tagOf (l + 1)) (epochOf (l + 1)) s.pkgid)
        else none
      let sameAt := fun (a : Activation) =>
        match a.recover r.tag.idx.toNat with
        | none => some (s.countStray r.ctx)
        | some l =>
          if a.top < l then some (s.countStray r.ctx)
          else if a.h < l then some (s.countKilled r.ctx 1)
          else some (s.forward core r (a.tagOf l) (epochOf l) s.pkgid)
      match r.mode with
      | .inr _ => some s
      | .inl (.enter t) => s.enterAct core r t 0 0 0 [0]
      | .inl (.enterm t m) =>
        match maskBits m with
        | [] => some s
        | k :: ks =>
          let top := (k :: ks).foldl max 0
          s.enterAct core r t k top (BitVec.ofNat 512 ((2 ^ 64 - 1 - m.toNat) / 2 ^ k % 2 ^ (top - k + 1))) (k :: ks)
      | .inl g =>
        match s.act? core r.ctx dom r.tag.act.toNat with
        | none => some (s.countStray r.ctx)
        | some a =>
          match g with
          | .next => nextFrom a (literOf r.tag r.epoch)
          | .cont 1 =>
            match a.recover r.tag.idx.toNat with
            | none => some (s.countStray r.ctx)
            | some l => nextFrom a l
          | .cont 4 => some (s.forward core r a.parent a.pepoch a.phpkg)
          | .cont _ => sameAt a
          | .explicit => sameAt a
          | .enter _ => some s
          | .enterm _ _ => some s

/-- What waits: a continuation's NEXT waits as a NEXT from the iteration its IDX named when it was served (R158). -/
def State.asWaiting (s : State) (core : Nat) (r : UnitReq) : UnitReq :=
  match r.mode with
  | .inl (.cont 1) =>
    match (s.act? core r.ctx r.tag.dom.toNat r.tag.act.toNat).bind (·.recover r.tag.idx.toNat) with
    | some l => { r with mode := .inl .next, epoch := epochOf l, waited := true }
    | none => { r with waited := true }
  | _ => { r with waited := true }

/-- The first waiting request that can be granted, and the list without it. -/
def firstGrant (s : State) (core : Nat) : List UnitReq → List UnitReq → Option (State × List UnitReq)
  | _, [] => none
  | seen, r :: rest =>
    match s.tryGrant core r with
    | some s => some (s, seen ++ rest)
    | none => firstGrant s core (seen ++ [r]) rest

/-- Waiting requests are granted, oldest first, as long as one can be (R156, R157). -/
def State.regrant (core : Nat) : Nat → State → State
  | 0, s => s
  | n + 1, s =>
    match firstGrant s core [] (s.core core).waitq with
    | none => s
    | some (s, l) => State.regrant core n (s.updCore core fun k => { k with waitq := l })

/-- Whether an instance belongs to the iterations a notice kills (R161). -/
def Notice.kills (n : Notice) (x hpkg : Nat) (t : Tag) (e : BitVec 22) : Bool :=
  x = n.ctx && t.dom.toNat = n.dom && t.home.toNat = n.home && t.act.toNat = n.act && hpkg = n.hpkg && t.dom ≠ 0 &&
  n.h < literOf t e

/-- The same of something with an arrival stamp. -/
def Notice.killsAt (n : Notice) (x hpkg : Nat) (t : Tag) (e : BitVec 22) (stamp : Nat) : Bool :=
  n.kills x hpkg t e && n.upto.all (stamp < ·)

/-- What a notice kills at its core: entries, ready instances, and what a slot of the pinfold holds. -/
def Notice.killsEntry (n : Notice) (e : FoldEntry) : Bool := e.core = n.core && n.killsAt e.ctx e.hpkg e.tag e.epoch e.arrival
def Notice.killsReady (n : Notice) (r : Ready) : Bool := r.core = n.core && n.killsAt r.ctx r.hpkg r.tag r.epoch r.arrival
def Notice.killsPin (n : Notice) (p : PinSlot) : Bool :=
  p.core = n.core && n.killsAt p.entry.ctx p.entry.hpkg p.entry.tag p.entry.epoch p.stamp

/-- How many tokens an entry holds. -/
def FoldEntry.count (e : FoldEntry) : Nat := (e.slots.filter (·.isSome)).length

/-- A sum over a list. -/
def sumBy {α : Type} (f : α → Nat) (l : List α) : Nat := l.foldl (fun n a => n + f a) 0

/-- Whether a notice or a filter is of an activation. -/
def Notice.of (x home dom act hpkg : Nat) (n : Notice) : Bool :=
  n.ctx = x && n.home = home && n.dom = dom && n.act = act && n.hpkg = hpkg
def Filter.of (x home dom act hpkg : Nat) (f : Filter) : Bool :=
  f.ctx = x && f.home = home && f.dom = dom && f.act = act && f.hpkg = hpkg

/-- A pre-empted core's filters of a freed activation go. The notices of it that the core has recorded still take effect at the restore
(R414), on what came before now. -/
def Section.withdraw (x home dom act hpkg stamp : Nat) (z : Section) : Section :=
  { z with
    filters := z.filters.filter fun f => !f.of x home dom act hpkg
    notices := z.notices.map fun n =>
      if n.of x home dom act hpkg && n.upto.isNone then { n with upto := some stamp } else n }

/-- What cores keep of an activation that is freed is withdrawn (R157): its kill filters, those of pre-empted cores too, and
the groups released of it (R191). -/
def State.withdraw (s : State) (x home dom act hpkg : Nat) : State :=
  let gone := fun g : Nat × Nat × Nat =>
    let t := Tag.ofBits (BitVec.ofNat 40 (g.2.2 / 2 ^ 22 * 32))
    t.dom.toNat = dom && t.home.toNat = home && t.act.toNat = act
  let s : State := { s with filters := s.filters.filter fun f => !f.of x home dom act hpkg }
  s.updCtx x fun c => { c with
    groupsOut := c.groupsOut.filter fun g => !gone g
    gang := c.gang.map fun g => { g with never := g.never.filter fun n => !(n.1 = hpkg && n.2.1 = home && n.2.2.1 = dom && n.2.2.2.1 = act) }
    saved := c.saved.map fun z => z.withdraw x home dom act hpkg (s.core z.core).arrival }

/-- A message to every other member of a context's gang. -/
def State.tellOthers (s : State) (x : Nat) (m : GangMsg) : State :=
  match (s.ctx? x).bind (·.gang) with
  | none => s
  | some g => (g.members.map (·.1)).foldl (fun (s : State) p => if p = s.pkgid then s else s.sendOut p (.control p s.pkgid g.number m)) s

/-- An activation that is over is freed and what cores keep of it withdrawn (R157, R161); then waiters are granted. -/
def State.settleAct (s : State) (a : Activation) : State :=
  let s := s.setAct a
  let s := if a.over then
      let s : State := { s with acts := s.acts.filter fun b => !a.same b }
      (s.withdraw a.ctx a.core a.dom a.act s.pkgid).tellOthers a.ctx (.withdraw s.pkgid a.core a.dom a.act)
    else s
  State.regrant a.core ((s.core a.core).waitq.length + 1) s

/-- H is lowered: every core of the pasture is told (R161), other members by CONTROL messages. -/
def State.lowerH (s : State) (a : Activation) (h : Nat) : State :=
  match s.ctx? a.ctx with
  | none => s
  | some c =>
    let notice := fun k : Nat => ({ core := k, home := a.core, ctx := a.ctx, dom := a.dom, act := a.act, h := h, hpkg := s.pkgid } : Notice)
    let others : List (Nat × Nat × Nat) := match c.gang with
      | none => []
      | some g => (g.members.filter fun m => m.1 ≠ s.pkgid).map fun m => (g.number, m.1, m.2)
    let far := others.foldl (fun n m => n + m.2.2) 0
    let s := { s with notices := s.notices ++ c.pasture.map notice }
    let s := others.foldl (fun s m => s.sendOut m.2.1 (.control m.2.1 s.pkgid m.1 (.kill s.pkgid a.core a.dom a.act h))) s
    s.settleAct (Activation.advance 1024 { a with h := h, pending := a.pending + c.pasture.length + far })

/-- Whether a core has a filter of an activation. -/
def State.hasFilter (s : State) (core home x dom act hpkg : Nat) : Bool :=
  s.filters.any fun f => f.core = core && f.home = home && f.ctx = x && f.dom = dom && f.act = act && f.hpkg = hpkg

/-- Whether a core can take a notice: a free filter, or one of the activation already (R161). -/
def State.filterFree (s : State) (core home x dom act hpkg : Nat) : Bool :=
  (s.filters.filter (·.core = core)).length < 256 || s.hasFilter core home x dom act hpkg

/-- How many more filters the notices on their way to a core will take there. -/
def State.filtersOwed (s : State) (core : Nat) : Nat :=
  (((s.notices.filter fun n => n.core = core && !s.hasFilter core n.home n.ctx n.dom n.act n.hpkg).map fun n =>
    (n.home, n.ctx, n.dom, n.act, n.hpkg)).eraseDups).length

/-- Whether a `dkill`'s notice will find a filter at a core, those on their way there having taken theirs (R161). -/
def State.filterRoom (s : State) (core home x dom act hpkg : Nat) : Bool :=
  (s.filters.filter (·.core = core)).length + s.filtersOwed core < 256 || s.hasFilter core home x dom act hpkg ||
  s.notices.any fun n => n.core = core && n.of x home dom act hpkg

/-- The head of a release queue, which CLOSE, LEAVE and `dkill` requests share. -/
def State.serveRelease (s : State) (core : Nat) (p : ReleaseKind → Bool)
    (f : State → UnitReq → ReleaseKind → Option State) : State :=
  match (s.core core).relq with
  | [] => s
  | r :: rest =>
    match r.mode with
    | .inl _ => s
    | .inr k =>
      if !p k then s
      else
        match f (s.updCore core fun c => { c with relq := rest }) r k with
        | some s => s.moved r.ctx
        | none => s

/-- Whether the head of the release queue is a `dkill` that waits for a filter (R161): one that lowers H. -/
def State.dkillWaits (s : State) (core : Nat) : Bool :=
  match (s.core core).relq with
  | r :: _ =>
    (match r.mode, s.ctx? r.ctx, s.act? core r.ctx r.tag.dom.toNat r.tag.act.toNat with
     | .inr (.dkill h), some c, some a => h < a.h && c.pasture.any fun k =>
        !s.filterRoom k core r.ctx r.tag.dom.toNat r.tag.act.toNat s.pkgid
     | _, _, _ => false)
  | [] => false

/-- Whether a unit serves its grant queue: its release queue is served first (R152). -/
def State.grantTurn (s : State) (core : Nat) : Bool := (s.core core).relq.isEmpty || s.dkillWaits core

/-- Whether a request is the close of the iteration that a NEXT with CLOSE comes from. -/
def closeOf (r q : UnitReq) : Bool :=
  q.mode = .inr .close && q.ctx = r.ctx && q.tag = r.tag && q.epoch = r.epoch && q.fid = r.fid

/-- The close of a NEXT with CLOSE is served before its grant (R156); if it still stands in the release queue, it leaves it. -/
def State.closeFirst (s : State) (core : Nat) (r : UnitReq) : State :=
  match r.closes, s.act? core r.ctx r.tag.dom.toNat r.tag.act.toNat with
  | true, some a =>
    (s.updCore core fun k => { k with relq := (match indexOf? (closeOf r) k.relq 0 with
      | some i => removeAt i k.relq
      | none => k.relq) }).settleAct (a.close (literOf r.tag r.epoch))
  | _, _ => s

/-- The head of a grant queue: granted, or moved to the wait list of 256; with that list full it stays (R152). -/
def State.serveGrant (s : State) (core : Nat) (p : GrantMode → Bool) : State :=
  match (s.core core).grantq with
  | [] => s
  | r :: rest =>
    match r.mode with
    | .inr _ => s
    | .inl g =>
      if !p g || !s.grantTurn core then s
      else
        let s := (s.updCore core fun c => { c with grantq := rest }).closeFirst core r
        let r := { r with closes := false }
        match s.tryGrant core r with
        | some s => s.moved r.ctx
        | none =>
          if (s.core core).waitq.length < 256 then
            s.updCore core fun c => { c with waitq := c.waitq ++ [s.asWaiting core r] }
          else s.updCore core fun c => { c with grantq := r :: c.grantq }

/-- CLOSE (R156). -/
def closeReq (core : Nat) (s : State) (r : UnitReq) (_ : ReleaseKind) : Option State :=
  let s := s.updCore core fun k => { k with grantq := k.grantq.map fun q => if closeOf q r then { q with closes := false } else q }
  match s.act? core r.ctx r.tag.dom.toNat r.tag.act.toNat with
  | none => some (s.countStray r.ctx)
  | some a => some (s.settleAct (a.close (literOf r.tag r.epoch)))

/-- LEAVE and the final LEAVE (R154, R157): its token, then the close of its iteration with the grants that this brings, then
LEFT and H. -/
def leaveReq (core : Nat) (s : State) (r : UnitReq) (k : ReleaseKind) : Option State :=
  match s.act? core r.ctx r.tag.dom.toNat r.tag.act.toNat with
  | none => some (s.countStray r.ctx)
  | some a =>
    let l := literOf r.tag r.epoch
    if k = .leave true then
      if a.left then some ((s.countStray r.ctx).settleAct (a.close l))
      else
        let s := (s.forward core r a.parent a.pepoch a.phpkg).settleAct (a.close l)
        let b := { (s.act? core r.ctx r.tag.dom.toNat r.tag.act.toNat).getD (a.close l) with left := true }
        if l < b.h then some (s.lowerH b l) else some (s.settleAct b)
    else some (s.forward core r a.parent a.pepoch a.phpkg)

/-- `dkill` (R160, R161): waits while some core of the pasture in this package has no free filter; at another member of a gang
the notice waits (entry 44). -/
def dkillReq (core : Nat) (s : State) (r : UnitReq) (k : ReleaseKind) : Option State :=
  match s.act? core r.ctx r.tag.dom.toNat r.tag.act.toNat, k, s.ctx? r.ctx with
  | some a, .dkill h, some c =>
    if h < a.h then
      if c.pasture.all fun k => s.filterRoom k core r.ctx a.dom a.act s.pkgid then some (s.lowerH a h) else none
    else some s
  | none, _, _ => some (s.countStray r.ctx)
  | _, _, _ => some s

def execNextGrant (core : Nat) (s : State) : Res :=
  .next (s.serveGrant core fun g => match g with | .next => true | _ => false)

def execEnterGrant (core : Nat) (s : State) : Res :=
  .next (s.serveGrant core fun g => match g with | .enter _ => true | _ => false)

def execEntermGrant (core : Nat) (s : State) : Res :=
  .next (s.serveGrant core fun g => match g with | .enterm _ _ => true | _ => false)

def execExplicitGrant (core : Nat) (s : State) : Res :=
  .next (s.serveGrant core fun g => match g with | .explicit => true | _ => false)

def execContTokenGrant (core : Nat) (s : State) : Res :=
  .next (s.serveGrant core fun g => match g with | .cont _ => true | _ => false)

def execLeaveServe (core : Nat) (s : State) : Res :=
  .next (s.serveRelease core (fun k => match k with | .leave _ => true | _ => false) (leaveReq core))

def execCloseServe (core : Nat) (s : State) : Res :=
  .next (s.serveRelease core (fun k => match k with | .close => true | _ => false) (closeReq core))

def execDkillServe (core : Nat) (s : State) : Res :=
  .next (s.serveRelease core (fun k => match k with | .dkill _ => true | _ => false) (dkillReq core))

/-- The acknowledgement of a notice: to the unit here, or in the package that sent it. -/
def State.ackNotice (s : State) (n : Notice) : State :=
  if n.hpkg = s.pkgid then { s with acks := s.acks ++ [n] }
  else s.sendOut n.hpkg (.control n.hpkg s.pkgid ((((s.ctx? n.ctx).bind (·.gang)).map (·.number)).getD 0)
    (.killAck n.hpkg n.home n.dom n.act))

/-- The filter of a notice takes the place of one of its activation; the lower H stands. -/
def State.installFilter (s : State) (n : Notice) : State :=
  let old := fun f : Filter => f.core = n.core && f.of n.ctx n.home n.dom n.act n.hpkg
  let h := (s.filters.filter old).foldl (fun h f => min h f.h) n.h
  { s with filters := (s.filters.filter fun f => !old f) ++
      [{ core := n.core, home := n.home, ctx := n.ctx, dom := n.dom, act := n.act, h := h, hpkg := n.hpkg }] }

/-- The tokens that a notice kills at its core: in the fold, in ready instances, and in the pinfold, where they would else outlive the
filter (R161). -/
def State.killedBy (s : State) (n : Notice) : Nat :=
  sumBy FoldEntry.count ((s.fold ++ s.eldest.map (·.1)).filter n.killsEntry) + sumBy (·.frame.length) (s.ready.filter n.killsReady) +
    sumBy (·.entry.count) ((((s.ctx? n.ctx).map (·.pin)).getD []).filter n.killsPin)

/-- A kill notice is applied at its core (R161). -/
def State.applyNotice (s : State) (n : Notice) : State :=
  let count := s.killedBy n
  let s : State := { s with fold := s.fold.filter fun e => !n.killsEntry e, eldest := s.eldest.filter fun e => !n.killsEntry e.1,
                            ready := s.ready.filter fun r => !n.killsReady r }
  let s := (s.updCtx n.ctx fun c => { c with pin := c.pin.filter fun p => !n.killsPin p }).countKilled n.ctx count
  (((if n.upto.isNone then s.installFilter n else s).promote n.core).rebind n.core)

/-- KILL_NOTICE: the `k`-th notice in transit, no earlier one of its activation being on the way to the core, reaches it; of a core where the context is pre-empted it is
recorded (R414). It waits while the core has no free filter. -/
def execKillNotice (k : Nat) (s : State) : Res :=
  .next (match s.notices[k]? with
    | none => s
    | some n =>
      let s1 := { s with notices := removeAt k s.notices }
      if (s.notices.take k).any fun o => o.core = n.core && o.of n.ctx n.home n.dom n.act n.hpkg then s
      else match (s.ctx? n.ctx).bind (·.section? n.core) with
      | some _ => (s1.updCtx n.ctx fun c => { c with
          saved := replaceFirst (·.core == n.core) (fun z => { z with notices := z.notices ++ [n] }) c.saved }).ackNotice n
      | none =>
        if s.filterFree n.core n.home n.ctx n.dom n.act n.hpkg then ((s1.applyNotice n).ackNotice n).moved n.ctx else s)

/-- One acknowledgement reaches the unit of an activation. -/
def State.takeAck (s : State) (home x dom act : Nat) : State :=
  match s.act? home x dom act with
  | none => s
  | some a => s.settleAct { a with pending := a.pending - 1 }

def execKillNoticeAck (k : Nat) (s : State) : Res :=
  .next (match s.acks[k]? with
    | none => s
    | some n => ({ s with acks := removeAt k s.acks } : State).takeAck n.home n.ctx n.dom n.act)

/-- ELDEST_QUERY: the unit of `core` answers the `k`-th question of the folds (R168); one for a unit of another package is sent
there. -/
def execEldestQuery (core k : Nat) (s : State) : Res :=
  .next (match s.eldest[k]? with
    | some (e, none) =>
      if e.tag.home.toNat ≠ core || e.asked then s
      else if e.hpkg = s.pkgid then { s with eldest := s.eldest.set k (e, some (s.isEldest e)) }
      else
        let g := (((s.ctx? e.ctx).bind (·.gang)).map (·.number)).getD 0
        ({ s with eldest := s.eldest.set k ({ e with asked := true }, none) } : State).sendOut e.hpkg (.control e.hpkg s.pkgid g
          (.eldestAsk s.pkgid e.core e.arrival core e.tag.dom.toNat e.tag.act.toNat (literOf e.tag e.epoch)))
    | _ => s)

/-- An entry that found no frame goes to the pinfold, behind what waits for a slot there (R412). -/
def State.spillEntry (s : State) (e : FoldEntry) : State :=
  if s.pinHeld.any (·.ctx = e.ctx) then s.pinfoldFull e.ctx e.held else s.pinOrHold e .spilled e.held

/-- ELDEST_ANSWER: the answer reaches the fold of `core`: a reserve frame, in a set with room (R165), or a spill (R167, R168). -/
def execEldestAnswer (core k : Nat) (s : State) : Res :=
  .next (match s.eldest[k]? with
    | some (e, some yes) =>
      if e.core ≠ core then s
      else
        let s1 := { s with eldest := removeAt k s.eldest }
        match (if yes then s1.setRoom e else none) with
        | none => s1.spillEntry e
        | some s2 =>
          match s2.frame2 core e.ctx e.units with
          | some f => (((s2.foldAdd { e with place := some f }).promote core).rebind core).moved e.ctx
          | none => s1.spillEntry e
    | _ => s)

/-- SPILL_REPRESENT: spilled tokens and entries of a context on a core are presented again, those eligible for the
reserve first, the rest in order of arrival (R169). -/
def execSpillRepresent (core ctx : Nat) (s : State) : Res := .next (s.representSpilled core ctx)

end Sys2Proof.Machine
end

