-- ==== Sys2Proof/Machine/Firing.lean ====
section
/-! DEFINITION. A firing: how an issued word acts on the lanes of its flock (R26–R31, R193), when an instruction is ready
(R26, R30, R216), and the end of a firing (R36, R38, R132, R202, R221, R284). -/

namespace Sys2Proof.Machine

/-! ### Issue over the lanes of a flock -/

/-- Whether instruction `j` of a lane still has to be issued: the lane runs and has not issued it. -/
def Lane.activeAt (j : Nat) (ln : Lane) : Bool :=
  ln.status = .running && (match ln.cells[j]? with | some k => !k.issued | none => false)

/-- One lane executes instruction `j`, whose results are a function of the lane and the cell. -/
def Lane.step (j : Nat) (pm : Pm) (t0 t1 : Target) (f : Lane → Cell → Val × Val) (ln : Lane) : Lane :=
  if ln.activeAt j then
    match ln.cells[j]? with
    | none => ln
    | some k => ln.complete j (performs pm k.p) t0 t1 (f ln k).1 (f ln k).2
  else ln

/-- The flock with instruction `j` executed in every active lane. -/
def Flock.step (j : Nat) (pm : Pm) (t0 t1 : Target) (f : Lane → Cell → Val × Val) (fl : Flock) : Flock :=
  { fl with lanes := fl.lanes.map (Lane.step j pm t0 t1 f) }

/-- A word issued for a flock: `focus` names the flock and the index (R193). -/
def withFocus (s : State) (k : Flock → Nat → Res) : Res :=
  match s.focus with
  | none => .fault .notIssued
  | some f =>
    match s.flock? f.flock with
    | none => .fault .notIssued
    | some fl => k fl f.idx

/-- A word whose results depend on the state, the lane and its latches. -/
def laneOp (pm : Pm) (t0 t1 : Target) (f : State → Flock → Nat → Lane → Cell → Val × Val) (s : State) : Res :=
  withFocus s fun fl j => .next (s.updFlock fl.id (Flock.step j pm t0 t1 (f s fl j)))

/-- The results of a value instruction: void-marked when a latch it reads is (R143). -/
def marked (r : Reads) (g : Word → Word → Word → Bool → Word × Word) (k : Cell) : Val × Val :=
  let w := g k.a.bits k.b.bits k.c.bits k.p
  ({ bits := w.1, void := r.void k }, { bits := w.2, void := r.void k })

/-- A value instruction: its results are a function of its latches alone. -/
def valueOp (pm : Pm) (r : Reads) (t0 t1 : Target) (g : Word → Word → Word → Bool → Word × Word) (s : State) : Res :=
  laneOp pm t0 t1 (fun _ _ _ _ k => marked r g k) s

/-- A word with an effect beyond its lane: it acts for each active lane in ascending order, each seeing what the lanes
before it did (R202, R384 step 3). A lane that does not perform its effect only delivers without a value (R28). -/
def effectOp (pm : Pm) (t0 t1 : Target) (f : State → Flock → Nat → Lane → Cell → State) (s : State) : Res :=
  withFocus s fun fl j => .next ((fl.lanes.filter (Lane.activeAt j)).foldl (fun s ln =>
    match s.lane? ln.fid, ln.cells[j]? with
    | some ln, some k =>
      if performs pm k.p then f s fl j ln k
      else s.updLane ln.fid fun l => l.complete j false t0 t1 Val.zero Val.zero
    | _, _ => s) s)

/-- Instruction `j` of a firing delivers and is done. -/
def State.completeLane (s : State) (fid j : Nat) (t0 t1 : Target) (r0 r1 : Val) : State :=
  s.updLane fid fun l => l.complete j true t0 t1 r0 r1

/-- The sender a firing's tokens are formed for. -/
def senderOf (fl : Flock) (ln : Lane) : Sender :=
  { tag := ln.tag, epoch := ln.epoch, hpkg := ln.hpkg, core := fl.core, fid := ln.fid }

/-! ### Flocks that hold no running lane -/

/-- Whether a lane no longer needs its flock: masked with its state in a record that does not keep the flock (R386). -/
def laneLeft (c : Option Ctx) (ln : Lane) : Bool :=
  match ln.status with
  | .masked _ (some r) => !(((c.bind (·.sick[r]?)).map (·.algn)).getD false)
  | _ => false

/-- A flock stays resident until every active lane has ended or has faulted (R192). -/
def State.flockOver (s : State) (fl : Flock) : Bool := fl.lanes.all (laneLeft (s.ctx? fl.ctx))

def State.retireFlocks (s : State) : State := { s with flocks := s.flocks.filter fun fl => !s.flockOver fl }

/-- A lane faults at `j` (R384), and a flock that is thereby left goes. -/
def State.faultLane (s : State) (fid j code : Nat) (detail : List Word) : State := (s.capture fid j code detail).retireFlocks

/-- A store that its lane has made faults after all (R432, R439): it counts as not executed, so that a `resume` makes it again. A lane
that has ended, or is masked already, is not faulted. -/
def State.faultStore (s : State) (w : Poster) (code : Nat) (detail : List Word) : State :=
  match s.lane? w.fid with
  | some ln =>
    if ln.isMasked then s
    else
      let fl := s.flockOf? w.fid
      let i := fl.bind fun fl => instrAt (((s.block? fl.ctx fl.block).map (·.code)).getD []) w.idx
      (s.updLane w.fid fun l => l.undo w.idx ((i.map t0Of).getD .none) ((i.map t1Of).getD .none)).faultLane w.fid w.idx code detail
  | none => s

/-! ### Which instruction is ready (R26, R193) -/

def Cell.ready (k : Cell) : Bool := k.waitA = 0 && k.waitB = 0 && k.waitC = 0 && k.waitP = 0 && k.waitO = 0

/-- The lane registers a word writes (R25, R136). -/
def writesReg (i : Instr) (x : Nat) : Bool :=
  let t := fun | Target.reg y => y.toNat = x | _ => false
  t (t0Of i) || t (t1Of i) || (match i with | .cont _ _ _ _ y => y.toNat = x | _ => false)

/-- A `getx` waits for the lower-indexed writers of its register (R30). -/
def regsReady (code : List IWord) (j : Nat) (ln : Lane) : Bool :=
  match instrAt code j with
  | some (.getx _ _ x) => (List.range j).all fun i =>
      (match instrAt code i with | some w => !writesReg w x.toNat | none => true) ||
      ((ln.cells[i]?.map (·.done)).getD true)
  | _ => true

/-- Whether the word at an index is a cross-lane instruction. -/
def isCross (code : List IWord) (j : Nat) : Bool :=
  match instrAt code j with
  | some i => classOf i = .cross
  | none => false

/-- A cross-lane instruction waits while a lane masked below it awaits its answer (R216). -/
def crossHeld (code : List IWord) (j : Nat) (fl : Flock) : Bool :=
  isCross code j && fl.lanes.any fun ln => match ln.status with | .masked i _ => i < j | _ => false

/-- Whether instruction `j` of a flock is ready: some lane has still to issue it, and every such lane has all its counted
latches. A cross-lane instruction is thus issued over all running lanes at once, but for one that a lane resumed below it has
still to issue after the others (R26, R391). -/
def Flock.readyAt (code : List IWord) (fl : Flock) (j : Nat) : Bool :=
  let act := fl.lanes.filter (Lane.activeAt j)
  !act.isEmpty && act.all (fun ln => ((ln.cells[j]?.map Cell.ready).getD false) && regsReady code j ln) &&
  !crossHeld code j fl

/-- The lowest-indexed ready instruction (R193). -/
def Flock.nextIndex (code : List IWord) (fl : Flock) : Option Nat :=
  if fl.parked then none else (List.range code.length).find? (fl.readyAt code)

/-! ### The end of a firing -/

/-- Whether every instruction of a firing has executed: done, or a translated plain store in flight. One to another package's memory that
has still to read its byte, or is on its way through the outbound queue, counts as in flight too; when it then enters the queue, no lane
is left to fault (R36, R440). -/
def State.finished (s : State) (ln : Lane) : Bool :=
  ln.cells.zipIdx.all fun (k, j) => k.done ||
    (k.issued && s.accesses.any fun a => a.fid = ln.fid && a.idx = j && plainStore a.instr && (a.phase = .ready || match a.phase with | .remote _ => true | _ => false))

/-- What a firing hands on, in ascending index order (R36, R202), or the index and fault of a check that fails. -/
def State.outputs (s : State) (c : Ctx) (sd : Sender) (code : List IWord) (ln : Lane) :
    Except (Nat × Nat × List Word) (List Emit) :=
  ln.cells.zipIdx.foldl (fun acc (k, j) =>
    match acc with
    | .error e => .error e
    | .ok l =>
      if !k.perf then .ok l
      else
        match instrAt code j with
        | none => .ok l
        | some i =>
          match s.emits c sd i k with
          | .ok es => .ok (l ++ es)
          | .error (f, d) => .error (j, f, d)) (.ok [])

/-- Whether something a firing hands on is a request for a release queue, or for a grant queue. -/
def Emit.isRequest (release : Bool) (e : Emit) : Bool :=
  match e with
  | .token _ _ _ => false
  | .request _ _ r => isReleaseReq r = release

/-- Requests of a firing enter their units' queues in their order, as far as these have room (R152, R202), with their number.
A full grant queue holds back no release request. -/
def State.postSome (s : State) (release : Bool) : List Emit → State × Nat
  | [] => (s, 0)
  | .token _ _ _ :: _ => (s, 0)
  | .request p k r :: rest =>
    if p ≠ s.pkgid || s.unitRoom k release then
      let (t, n) := (s.postRequest p k r).postSome release rest
      (t, n + 1)
    else (s, 0)

/-- A granule's map code (R242): 0 absent, 1 resident, 2 retired; with no map it is resident. -/
def State.granuleState (s : State) (rmap g : Nat) : Nat :=
  if rmap = 0 then 1
  else
    let k := bits (s.rdNat (rmap + 8 * (g / 32)) 8) (2 * (g % 32)) 2
    if k = 3 then 0 else k

/-- Outstanding fetches of a context, and those a firing would add (R285). -/
def State.fetchRoom (s : State) (x fid : Nat) : Bool :=
  (s.fetches.filter (·.ctx = x)).length +
    (s.hresSubs.filter fun h => h.fid = fid && h.fetch && s.granuleState h.rmap h.granule = 0).length ≤ 256

/-- Whether the submissions of a firing may be made now: at most 64 of its context wait for the yard (R221). -/
def State.spawnRoom (s : State) (x fid : Nat) : Bool :=
  let mine := s.spawns.filter fun p => p.ctx = x && p.fid = fid
  mine.isEmpty || (s.spawns.filter fun p => p.ctx = x && p.ended).length + mine.length ≤ 64

/-- A packet to a host (R434): held for a down port, dropped and counted beyond 256 (R432). -/
def State.toHost (s : State) (port type : Nat) (cookie : BitVec 32) (arg : Word) (body : List Byte) : State :=
  let m : HostOut := { port := port, type := type, cookie := cookie, arg := arg, body := body }
  let p := s.ports[port]?.getD {}
  if p.state = 2 || p.state = 3 then
    { s with ports := s.ports.modify port fun p =>
        if p.holdq.length < 256 then { p with holdq := p.holdq ++ [m] }
        else { p with drops := BitVec.ofNat 16 (min (p.drops.toNat + 1) 0xFFFF) } }
  else { s with hostOut := s.hostOut ++ [m] }

/-- A request number that no outstanding fetch of the context bears (R284). -/
def State.freshReq (s : State) (c : Ctx) : Nat :=
  ((List.range 300).map (fun k => (c.fetchSeq + k) % 65536)).find?
    (fun r => s.fetches.all fun f => !(f.ctx = c.id && f.req = r)) |>.getD 0

/-- One residency request at its submission (R284). -/
def State.submitHres (s : State) (core : Nat) (h : HresSub) : State :=
  match s.ctx? h.ctx with
  | none => s
  | some c =>
    let st := s.granuleState h.rmap h.granule
    if h.fetch && st ≠ 0 then s.answerCont h.ctx (257 + Config.numPorts) core h.cont (BitVec.ofNat 64 st) (some .pkg)
    else
      let req := s.freshReq c
      let s := s.toHost 0 0x87 0 (BitVec.ofNat 64 (h.ctx + at_ h.handle 10 + at_ h.gen 29 + at_ req 45 +
        at_ (b2n (!h.fetch)) 61)) (bytesLE 8 h.granule)
      let s := s.updCtx h.ctx fun c => { c with fetchSeq := (req + 1) % 65536 }
      if h.fetch && c.draining.isNone then
        let f : Fetch := { ctx := h.ctx, core := core, req := req, handle := h.handle, granule := h.granule,
                           rmap := h.rmap, cont := h.cont }
        { s with fetches := s.fetches ++ [f] }
      else s

/-- A firing ends, its requests having been made: tokens go out in index order, submissions are made, responses it reserved may
take effect, its frame is freed, and its stores in flight go on without it. -/
def State.finish (s : State) (fl : Flock) (ln : Lane) (es : List Emit) : State :=
  let s := es.foldl (fun (s : State) e => match e with
    | .token t p k => s.sendToken ln.fid fl.core fl.ctx t p k
    | .request _ _ _ => s) s
  let s := (s.hresSubs.filter (·.fid = ln.fid)).foldl (fun s h => s.submitHres fl.core h) s
  let s := s.updCtx fl.ctx fun c => { c with sick := c.sick.map fun k =>
    match k.status with
    | .reserved op f => if f = ln.fid then { k with status := .leaving op f fl.core } else k
    | _ => k }
  let s : State := { s with hresSubs := s.hresSubs.filter (·.fid ≠ ln.fid), asking := s.asking.filter (·.2 ≠ ln.fid) }
  let mine := (sortBy (·.idx) (s.spawns.filter (·.fid = ln.fid))).map fun p => { p with ended := true }
  let s : State := { s with spawns := s.spawns.filter (·.fid ≠ ln.fid) ++ mine }
  let s : State := { s with accesses := s.accesses.map fun a => if a.fid = ln.fid then { a with orphan := true } else a }
  let s := s.updFlock fl.id fun f => { f with lanes := f.lanes.filter (·.fid ≠ ln.fid) }
  ((s.retireFlocks).updCore fl.core fun k => { k with idleAt := s.cycle }).moved fl.ctx

/-- Whether tokens of a context are held at a core for want of pinfold slots, which holds its further ones back (R152, R412). -/
def State.backPressed (s : State) (x core : Nat) (es : List Emit) : Bool :=
  (s.pinHeld.any fun h => h.ctx = x && h.src = core) && es.any fun e => match e with | .token _ _ _ => true | _ => false

/-- Whether the residency requests of a firing may be submitted: its accesses are performed (R221, R284). -/
def State.hresReady (s : State) (fid : Nat) : Bool :=
  !(s.hresSubs.any (·.fid = fid)) || s.accesses.all (·.fid ≠ fid)

/-- The end of firing `fid`, if it may end now: a check that fails on the latches (R387) faults the lane again; its requests
enter their queues, in other packages too; one that does not find room, a pinfold that is full and too many submissions hold it at its end, its tokens
with it. -/
def State.tryEnd (s : State) (fid : Nat) : State :=
  match s.flockOf? fid with
  | none => s
  | some fl =>
    match fl.lane? fid, s.ctx? fl.ctx with
    | some ln, some c =>
      let running := match ln.status with | .masked _ _ => false | _ => true
      if !running || !s.finished ln then s
      else
        match s.outputs c (senderOf fl ln) (c.codeAt fl.block) ln with
        | .error (j, f, d) =>
          (s.updLane fid fun l => { l with cells := l.cells.modify j fun k => { k with done := false, issued := false } }).faultLane
            fid j f d
        | .ok es =>
          let rel := es.filter (Emit.isRequest true)
          let gra := es.filter (Emit.isRequest false)
          let (s1, n) := s.postSome true (rel.drop ln.gave.1)
          let (s2, m) := s1.postSome false (gra.drop ln.gave.2)
          let gave := (ln.gave.1 + n, ln.gave.2 + m)
          if gave = (rel.length, gra.length) && s.hresReady fid && s.spawnRoom fl.ctx fid && s.fetchRoom fl.ctx fid &&
             !s.backPressed fl.ctx fl.core es && (c.draining.isSome || s2.asking.all (·.2 ≠ fid)) then
            (if s.hresSubs.any (·.fid = fid) then s2.release fl.core .pkg else s2).finish fl ln es
          else s2.updLane fid fun l => { l with status := .ended, gave := gave }
    | _, _ => s

end Sys2Proof.Machine
end

