-- ==== Sys2Proof/Machine/Objects.lean ====
section
/-! DEFINITION. Tensor objects: records and their checks (R228–R234), offsets and coordinates (R231, R232), addresses
(R235, R236), object tables, the record cache and walks (R237–R241), residency (R242), translation (R239). -/

namespace Sys2Proof.Machine

/-! ### Records (R228) -/

/-- A record from its 1,024 bits. -/
def parseRec (v : Nat) : ObjRec :=
  let f := bits v
  { fill := BitVec.ofNat 32 (f 768 32), smode := f 766 2, first := f 757 9, tn := f 753 4, tmode := f 702 2, td0 := f 699 3,
    td1 := f 696 3, swz := f 694 2, rmap := f 576 48, splane := f 512 48,
    str := [f 288 40, f 328 40, f 368 40, f 408 40, f 448 40], ext := [f 128 32, f 160 32, f 192 32, f 224 32, f 256 32],
    base := f 64 48, state := f 62 2, kind := f 59 3, format := f 53 6, scale := f 51 2, rank := f 48 3, coh := f 46 2,
    resmg := f 45 1 = 1, eng := f 44 1 = 1, atomp := f 43 1 = 1, write := f 42 1 = 1, read := f 41 1 = 1, oospol := f 39 2,
    gran := f 35 4, gen := f 15 16, pkg := f 0 15,
    reservedZero := f 832 64 = 0 && f 800 32 = 0 && f 704 49 = 0 && f 624 70 = 0 && f 560 16 = 0 && f 488 24 = 0 &&
      f 112 16 = 0 && f 31 4 = 0,
    dw0 := BitVec.ofNat 64 (f 0 64) }

def ObjRec.strOf (r : ObjRec) (k : Nat) : Nat := r.str[k]?.getD 0
def ObjRec.extOf (r : ObjRec) (k : Nat) : Nat := r.ext[k]?.getD 0

/-- The record's format, if its code is assigned (R87, R88). -/
def ObjRec.fmt (r : ObjRec) : Option Fmt := Fmt.ofBits (BitVec.ofNat 6 r.format)

/-- Bits of an element. -/
def ObjRec.ebits (r : ObjRec) : Nat := (r.fmt.map fmtBits).getD 8

/-- ByteOf and LastByte (R233), and the bytes of an element. -/
def ObjRec.byteOf (r : ObjRec) (e : Nat) : Nat := if r.ebits = 4 then e / 2 else e * (r.ebits / 8)
def ObjRec.elemBytes (r : ObjRec) : Nat := if r.ebits = 4 then 1 else r.ebits / 8
def ObjRec.lastByte (r : ObjRec) (e : Nat) : Nat := r.byteOf e + r.elemBytes - 1

/-- Tile extents a and b (R231). -/
def ObjRec.tileA (r : ObjRec) : Nat := if r.tmode = 1 then 2 ^ r.td0 else 1
def ObjRec.tileB (r : ObjRec) : Nat := if r.tmode = 1 then 2 ^ r.td1 else 1

def ceilDiv (a b : Nat) : Nat := (a + b - 1) / b

/-- The grid without its implicit tile dimension: stride, extent, dimension (R231). -/
def ObjRec.dims (r : ObjRec) : List (Nat × Nat × Nat) :=
  (List.range r.rank).map fun k =>
    (r.strOf k,
     if r.tmode = 1 && k = 0 then ceilDiv (r.extOf 0) r.tileA
     else if r.tmode = 1 && k = 1 then ceilDiv (r.extOf 1) r.tileB else r.extOf k, k)

/-- The grid dimensions in ascending order of stride and number, the tile dimension left out (R232). -/
def ObjRec.sorted (r : ObjRec) : List (Nat × Nat × Nat) := sortBy (·.1) r.dims

/-- The greatest offset within the tile dimension. -/
def ObjRec.tileMax (r : ObjRec) : Nat := if r.tmode = 1 then r.tileA * r.tileB - 1 else 0

/-- Nesting (R232): each stride exceeds what the dimensions before it can reach. -/
def nestedFrom : Bool → Nat → List (Nat × Nat × Nat) → Bool
  | _, _, [] => true
  | first, reach, (st, ex, _) :: r => (first || reach < st) && nestedFrom false (reach + st * (ex - 1)) r

def ObjRec.nested (r : ObjRec) : Bool := nestedFrom (r.tmode ≠ 1) r.tileMax r.sorted

def ObjRec.empty (r : ObjRec) : Bool := (List.range r.rank).any fun k => r.extOf k = 0

/-- M of R233. -/
def ObjRec.maxOffset (r : ObjRec) : Nat := r.dims.foldl (fun m d => m + d.1 * (d.2.1 - 1)) r.tileMax

/-- Offset (R231). -/
def ObjRec.offset (r : ObjRec) (i : List Nat) : Nat :=
  let c := fun k => i[k]?.getD 0
  if r.tmode ≠ 1 then (List.range r.rank).foldl (fun o k => o + r.strOf k * c k) 0
  else
    let a := r.tileA
    let b := r.tileB
    (List.range r.rank).foldl (fun o k => if k < 2 then o else o + r.strOf k * c k)
      (c 0 % a + a * (c 1 % b) + r.strOf 0 * (c 0 / a) + r.strOf 1 * (c 1 / b))

/-- The grid coordinates of an offset, from the greatest stride down, and what remains. -/
def decompose : List (Nat × Nat × Nat) → Nat → List (Nat × Nat) × Nat
  | [], rem => ([], rem)
  | (st, _, k) :: r, rem =>
    let q := if st = 0 then 0 else rem / st
    let (l, m) := decompose r (rem - q * st)
    ((k, q) :: l, m)

/-- Coords (R232): the coordinates of an in-shape offset, `none` for Outside. -/
def ObjRec.coords (r : ObjRec) (o : Nat) : Option (List Nat) :=
  let (l, rem) := decompose r.sorted.reverse o
  let c := fun k => ((l.find? (·.1 == k)).map (·.2)).getD 0
  let i := (List.range r.rank).map fun k =>
    if r.tmode = 1 then
      (if k = 0 then c 0 * r.tileA + rem % r.tileA else if k = 1 then c 1 * r.tileB + rem / r.tileA else c k)
    else c k
  if r.tmode ≠ 1 && rem ≠ 0 then none
  else if r.tmode = 1 && r.tileA * r.tileB ≤ rem then none
  else if (List.range r.rank).any fun k => r.extOf k ≤ i[k]?.getD 0 then none
  else some i

/-! ### Addresses (R235, R236) -/

def troughStart (t : Nat) : Nat := Config.hbmUpper + 0x30000000 * t

/-- The byte within the span after the swizzle: `w` is the element's tile row (R235). -/
def swizzle (mode w q : Nat) : Nat :=
  let x := if mode = 1 then w % 8 else if mode = 2 then w % 4 else 0
  q / 256 * 256 + Nat.xor (bits q 5 3) x * 32 + q % 32

/-- The first byte address of the in-shape element at an offset (R235, R236). -/
def ObjRec.addrOf (r : ObjRec) (e : Nat) : Nat :=
  let i := (r.coords e).getD []
  let i0 := i[0]?.getD 0
  let i1 := i[1]?.getD 0
  if r.smode = 1 then
    let n := 2 ^ r.tn
    troughStart (r.first + i1 % n) + (r.base - troughStart r.first) + r.byteOf (i1 / n * r.strOf 1 + i0 * r.strOf 0)
  else r.base + swizzle r.swz (i1 % r.tileB) (r.byteOf e)

/-- The bytes of the element at an offset. -/
def ObjRec.elemAddrs (r : ObjRec) (e : Nat) : List Nat := (List.range r.elemBytes).map fun k => r.addrOf e + k

/-- The scale byte's address of an element (R107). -/
def ObjRec.scaleAddr (r : ObjRec) (e : Nat) : Nat :=
  let i := (r.coords e).getD []
  let c := fun k => i[k]?.getD 0
  let blk := if r.scale = 2 then 16 else 32
  r.splane + c 0 / blk + ceilDiv (r.extOf 0) blk * (c 1 + r.extOf 1 * (c 2 + r.extOf 2 * (c 3 + r.extOf 3 * c 4)))

/-- The bytes of the scale plane. -/
def ObjRec.scaleBytes (r : ObjRec) : Nat :=
  let blk := if r.scale = 2 then 16 else 32
  (List.range r.rank).foldl (fun n k => if k = 0 then n else n * r.extOf k) (ceilDiv (r.extOf 0) blk)

/-! ### Well-formed records (R230, R234, R236) -/

/-- The address ranges a record's elements lie in, as first byte and length: one, or one a trough under ROWS. -/
def ObjRec.spans (r : ObjRec) : List (Nat × Nat) :=
  if r.empty then []
  else if r.smode = 1 then
    let n := 2 ^ r.tn
    (List.range n).map fun t => (troughStart (r.first + t) + (r.base - troughStart r.first),
      r.lastByte ((ceilDiv (r.extOf 1) n - 1) * r.strOf 1 + (r.extOf 0 - 1) * r.strOf 0) + 1)
  else [(r.base, r.lastByte r.maxOffset + 1)]

/-- Whether a range lies within `lo` .. `hi` − 1. -/
def within (lo hi : Nat) (x : Nat × Nat) : Bool := lo ≤ x.1 && x.1 + x.2 ≤ hi

/-- Whether two ranges share a byte. -/
def overlap (x y : Nat × Nat) : Bool := x.1 < y.1 + y.2 && y.1 < x.1 + x.2

/-- The residency map's bytes. -/
def ObjRec.mapRange (r : ObjRec) : List (Nat × Nat) :=
  if r.rmap = 0 then []
  else (r.spans.map fun x => (r.rmap, 8 * ceilDiv (ceilDiv x.2 (2 ^ (12 + r.gran))) 32))

/-- The scale plane; that of an empty object has no byte (R107). -/
def ObjRec.scalePlane (r : ObjRec) : List (Nat × Nat) :=
  if r.scale = 0 || r.empty then [] else [(r.splane, r.scaleBytes)]

def ObjRec.flatForm (r : ObjRec) : Bool :=
  r.rank = 1 && r.format = 4 && r.strOf 0 = 1 && r.scale = 0 && r.tmode = 0 && r.smode = 0

def ObjRec.kindOk (r : ObjRec) : Bool :=
  if r.kind = 1 then r.flatForm
  else if r.kind = 2 then
    r.coh = 3 && r.rmap = 0 && r.smode = 0 && r.tmode = 0 && Config.hostLow ≤ r.base && r.base < Config.hostTop
  else if r.kind = 3 then (r.coh = 3 || r.coh = 2) && r.rmap = 0 && r.base < Config.hbmTop
  else if r.kind = 4 then r.flatForm && r.coh = 0 && r.read && !r.write && !r.atomp && !r.eng && !r.resmg
  else true

def ObjRec.rowsOk (r : ObjRec) : Bool :=
  r.smode ≠ 1 ||
  (let n := 2 ^ r.tn
   r.kind = 0 && r.rank = 2 && r.tmode = 0 && r.rmap = 0 && r.tn ≤ 9 && r.first % n = 0 && r.first + n ≤ 512 &&
   troughStart r.first ≤ r.base && r.base < troughStart (r.first + 1) &&
   (r.empty || r.base - troughStart r.first +
      r.lastByte ((ceilDiv (r.extOf 1) n - 1) * r.strOf 1 + (r.extOf 0 - 1) * r.strOf 0) < 0x30000000))

/-- Well formed (R234), `pool` being the object-table pool. -/
def ObjRec.wellFormed (pool : Nat × Nat) (r : ObjRec) : Bool :=
  -- encodings
  r.state ≠ 3 && r.kind ≤ 4 && r.fmt.isSome && r.scale ≠ 3 && 1 ≤ r.rank && r.rank ≤ 5 && r.oospol ≠ 3 && r.gran ≤ 12 &&
  r.tmode ≤ 1 && r.smode ≤ 1 && r.swz ≠ 3 && r.reservedZero &&
  -- scales
  (if r.scale = 0 then r.splane = 0
   else (r.format = 0x22 || r.format = 0x23 || r.format = 0x24 || r.format = 0x13) &&
     r.scalePlane.all (within 0 Config.hbmTop)) &&
  -- dimensions
  (List.range 5).all (fun k => k < r.rank || (r.extOf k = 0 && r.strOf k = 0)) && r.dims.all (fun d => d.1 ≠ 0) &&
  !(r.tmode = 1 && r.rank = 1) &&
  -- nesting and span
  (r.empty || (r.nested && r.maxOffset < 2 ^ 44 &&
    r.spans.all (within (if r.kind = 2 then Config.hostLow else 0) (if r.kind = 2 then Config.hostTop else Config.hbmTop)))) &&
  -- kind, coherence, alignment, layout, spread
  r.kindOk && !(r.coh = 0 && (r.write || r.atomp)) &&
  (r.kind = 1 || r.kind = 2 || r.base % 64 = 0) && (r.swz = 0 || r.base % 256 = 0) && r.rmap % 8 = 0 &&
  !(r.tmode = 1 && r.ebits = 4 && r.td0 = 0) && (r.swz = 0 || r.byteOf r.tileA % 256 = 0) && r.rowsOk &&
  -- isolation
  (r.kind = 3 || (r.spans ++ r.mapRange ++ r.scalePlane).all fun x => !overlap x pool)

/-! ### Tables (R237, R238) -/

def State.otrecs (s : State) : Nat := bits s.otpool.toNat 0 5
def State.poolBase (s : State) : Nat := bits s.otpool.toNat 16 32 * 2 ^ 16
/-- The object-table pool: 1,024 tables. -/
def State.pool (s : State) : Nat × Nat := (s.poolBase, 1024 * 128 * 2 ^ s.otrecs)
/-- Where a record stands. -/
def State.recAddr (s : State) (x h : Nat) : Nat := s.poolBase + x * (128 * 2 ^ s.otrecs) + 128 * h

/-- The bytes of a record. -/
def State.recBytes (s : State) (x h : Nat) : List Nat := (List.range 128).map (s.recAddr x h + ·)

/-- The record that stands in a table. -/
def State.tableRec (s : State) (x h : Nat) : ObjRec := parseRec (s.rdNat (s.recAddr x h) 128)

/-! ### The record cache (R240) -/

def State.orcHit (s : State) (core x h : Nat) : Option ObjRec :=
  (s.orc.find? fun e => e.core = core && e.ctx = x && e.handle = h).map (·.rec_)

/-- A use of an entry makes it the most recent. -/
def State.orcUse (s : State) (core x h : Nat) : State :=
  { s with orcClock := s.orcClock + 1
           orc := s.orc.map fun e => if e.core = core && e.ctx = x && e.handle = h then { e with used := s.orcClock } else e }

/-- A walked record is installed; a full set of eight gives up its least recently used entry. -/
def State.orcInstall (s : State) (core x h : Nat) (r : ObjRec) : State :=
  let set := fun e : OrcEntry => Config.orcHash e.ctx e.handle % 64
  let new : OrcEntry := { core := core, ctx := x, handle := h, rec_ := r, used := s.orcClock }
  let rest := s.orc.filter fun e => !(e.core = core && e.ctx = x && e.handle = h)
  let ways := rest.filter fun e => e.core = core && set e = set new
  let rest := if ways.length < 8 then rest
    else match minBy (·.used) ways with
      | some v => rest.filter (· ≠ v)
      | none => rest
  { s with orc := rest ++ [new], orcClock := s.orcClock + 1 }

/-- A granule's state as a core sees it (R240): from a cached resident word, else from the map, of which resident states
are then cached, at most 64 words a core. R240 gives no replacement rule: the word cached longest ago gives way (DESIGN CHOICE,
entry 103). -/
def State.residency (s : State) (core x h rmap g : Nat) : State × Nat :=
  if rmap = 0 then (s, 1)
  else
    let w := g / 32
    let mine := fun r : ResWord => r.core = core && r.ctx = x && r.handle = h && r.word = w
    if (s.resWords.find? mine).any fun r => r.bits.getLsbD (g % 32) then (s, 1)
    else
      let v := (List.range 32).foldl (fun b k => if s.granuleState rmap (32 * w + k) = 1 then b + 2 ^ k else b) 0
      let others := s.resWords.filter fun r => !mine r
      let others := if 64 ≤ (others.filter (·.core = core)).length then
          match others.find? (·.core = core) with
          | some o => others.filter (· ≠ o)
          | none => others
        else others
      ({ s with resWords := if v = 0 then others
                  else others ++ [{ core := core, ctx := x, handle := h, word := w, bits := BitVec.ofNat 32 v }] },
       s.granuleState rmap g)

/-! ### Translation (R239) -/

/-- A use of an object: the permissions it needs (R229). -/
structure Use where
  read  : Bool := false
  write : Bool := false
  atom  : Bool := false
  eng   : Bool := false
  resmg : Bool := false
  /-- a use a remote-package record allows (R439) -/
  remote : Bool := false
  /-- `cpyh` (R230) and `spawn` (R219) -/
  host  : Bool := false
  image : Bool := false
  deriving DecidableEq, Repr, Inhabited

/-- The number a use is named by, for the record's DETAIL. -/
def Use.num (u : Use) : Nat := b2n u.read + 2 * b2n u.write + 4 * b2n u.atom + 8 * b2n u.eng + 16 * b2n u.resmg

/-- Whether a record permits a use (R229, R230, R439); a remote record of this package is a local one. -/
def ObjRec.permits (r : ObjRec) (u : Use) : Bool :=
  (!u.read || r.read) && (!u.write || r.write) && (!u.atom || r.atomp) && (!u.eng || r.eng) && (!u.resmg || r.resmg) &&
  (r.kind ≠ 2 || u.host) && (r.kind ≠ 4 || u.image) && (r.kind ≠ 3 || u.remote)

/-- What a translation comes to: a fault with its DETAIL, an access out of shape, or the bytes. -/
inductive Trans where
  | fault (code : Nat) (detail : List Word)
  | outOfShape (first : Nat)
  | bytes (l : List Nat)
  deriving DecidableEq, Repr

def w64 (n : Nat) : Word := BitVec.ofNat 64 n

/-- Cursor fields (R138). -/
def curHandle (c : Word) : Nat := bits c.toNat 44 19
def curOffset (c : Word) : Nat := bits c.toNat 0 44
def curOos (c : Word) : Bool := c.getLsbD 63

/-- The granules of some bytes, ascending. -/
def granulesOf (r : ObjRec) (l : List Nat) : List Nat :=
  sortBy id ((l.map fun a => (a - r.base) / 2 ^ (12 + r.gran)).eraseDups)

/-- The first granule of a list that is not resident, with its state. -/
def State.firstAbsent (s : State) (core x h rmap : Nat) : List Nat → State × Option (Nat × Nat)
  | [] => (s, none)
  | g :: rest =>
    let (s, st) := s.residency core x h rmap g
    if st = 1 then s.firstAbsent core x h rmap rest else (s, some (g, st))

/-- Whether a byte lies in a 64-byte block of its home L2's lasting list (R402). -/
def State.lastingAt (s : State) (a : Nat) : Bool :=
  a < Config.hbmTop && ((s.dies[homeDie a]?.map (·.lasting)).getD []).contains (a / 64)

/-- The checks of a translation from the permissions on (R239). The elements at the offsets `need` must be in shape; `cov` gives the bytes covered, in order; `pre` is a check before shape (R394) and `extra` one between shape and residency,
on the first byte's address (R274, R287). -/
def State.translate (s : State) (core x : Nat) (cur : Word) (r : ObjRec) (u : Use) (need : List Nat) (cov : Nat → List Nat)
    (pre : Option (Nat × List Word)) (extra : Nat → Option (Nat × List Word)) : State × Trans :=
  let h := curHandle cur
  let o := curOffset cur
  if !r.permits u then (s, .fault 0x03 [w64 h, w64 r.gen, Config.useCode u.num])
  else
    match pre with
    | some (c, d) => (s, .fault c d)
    | none =>
      if curOos cur then (s, .outOfShape o)
      else
        match need.find? fun e => (r.coords e).isNone with
        | some e => (s, .outOfShape e)
        | none =>
          let l := cov o
          match extra (r.addrOf o) with
          | some (c, d) => (s, .fault c d)
          | none =>
            if r.kind = 3 && r.pkg ≠ s.pkgid then (s, .bytes l)
            else
              match s.firstAbsent core x h r.rmap (if r.rmap = 0 then [] else granulesOf r l) with
              | (s, some (g, 2)) => (s, .fault 0x04 [w64 h, w64 r.gen, w64 g])
              | (s, some (g, _)) => (s, .fault 0x02 [w64 h, w64 r.gen, w64 o, w64 g])
              | (s, none) =>
                match l.find? s.lastingAt with
                | some a => (s, .fault 0x04 [w64 h, w64 r.gen, w64 ((a - r.base) / 2 ^ (12 + r.gran))])
                | none => (s, .bytes l)

/-- How many elements an access of `n` bytes covers (R239), the elements that must be in shape: those from the offset on (R239), and in
a 4-bit format the lower one of its first byte too, whose byte is covered (R142; DEDUCED, entry 38); and the bytes, element after
element (R142). -/
def ObjRec.elemsFor (r : ObjRec) (n : Nat) : Nat := max 1 (ceilDiv (8 * n) r.ebits)
def ObjRec.coverFor (r : ObjRec) (n o : Nat) : List Nat :=
  let low := if r.ebits = 4 then o % 2 else 0
  (List.range (r.elemsFor n + low)).map fun i => o - low + i
def ObjRec.bytesFor (r : ObjRec) (n o : Nat) : List Nat :=
  if r.ebits = 4 then (List.range n).map fun i => r.addrOf (o / 2 * 2 + 2 * i)
  else ((List.range (r.elemsFor n)).flatMap fun i => r.elemAddrs (o + i)).take n

/-- What a walk finds (R241, R239): a record to use, one that is MOVING, or BAD_HANDLE. -/
inductive Walked where
  | use (r : ObjRec)
  | moving
  | bad (detail : List Word)
  deriving DecidableEq, Repr

/-- A walk. A record that a SHOOT found MOVING is used again only from its PUBLISH on, so that no access falls between the
write of VALID and the PUBLISH (R246; DEDUCED, entry 66). -/
def State.walk (s : State) (x h : Nat) : Walked :=
  if 2 ^ s.otrecs ≤ h then .bad [w64 h, Config.noDoubleword h]
  else
    let r := s.tableRec x h
    if r.state = 2 || (r.state = 1 && s.unpublished.contains (x, h)) then .moving
    else if r.state ≠ 1 || !r.wellFormed s.pool then .bad [w64 h, r.dw0] else .use r

end Sys2Proof.Machine
end

