-- ==== Sys2Proof/Machine/Loader.lean ====
section
/-! DEFINITION. The loader (R59): the image header and its tables (R9), the gang table (R441), domain declarations
(R149), the region word (R251), the handler word (R388), the block table (R178), blocks and their words (R10, R11, R18,
R25, R150, R190, R209, R210, R394), the counts of R26 and the static graph of R196. -/

namespace Sys2Proof.Machine

/-- What the report of R59 names: block, instruction index, bad word, number of BLOCKED blocks. -/
abbrev Report := Nat × Nat × Nat × Nat

/-- A little-endian word of the image at a byte offset. -/
def State.iw (s : State) (image off : Nat) : Nat := s.rdNat (image + off) 4

/-- The image header (R9). -/
structure ImageHdr where
  image  : Nat
  imark  : Nat
  ibytes : Nat
  region : Nat
  handler : Nat
  gang   : Nat
  btoff  : Nat
  nblk   : Nat
  ddoff  : Nat
  ndom   : Nat
  tploff : Nat
  ntpl   : Nat
  rest   : List Nat
  deriving DecidableEq, Repr

def State.imageHdr (s : State) (image : Nat) : ImageHdr :=
  let w := s.iw image
  { image := image, imark := w 0, ibytes := w 4, region := w 8, handler := w 12, gang := w 16, btoff := w 20,
    nblk := w 24, ddoff := w 28, ndom := w 32, tploff := w 36, ntpl := w 40, rest := [w 44, w 48, w 52, w 56, w 60] }

/-- Bytes of a located gang table; nothing when the word is 0 or locates no count word. -/
def State.gangSpan (s : State) (h : ImageHdr) : Option (Nat × Nat) :=
  if h.gang = 0 || h.gang % 4 ≠ 0 || h.ibytes < h.gang + 4 then none
  else
    let n := s.iw h.image h.gang
    some (h.gang, 4 * (1 + min n 4096))

/-- The tables of an image by kind, with their extents: 0 header, 1 block table, 2 declarations, 3 template, 4 gang. A
table whose count is out of range has no extent. -/
def State.imageTables (s : State) (h : ImageHdr) : List (Nat × Nat × Nat) :=
  [(0, 0, 64)] ++ (if h.nblk = 0 || 4096 < h.nblk then [] else [(1, h.btoff, 8 * h.nblk)]) ++
  (if h.ndom = 0 || 63 < h.ndom then [] else [(2, h.ddoff, 4 * h.ndom)]) ++
  (if h.ntpl = 0 || 524288 < h.ntpl then [] else [(3, h.tploff, 136 * h.ntpl)]) ++
  (match s.gangSpan h with | some x => [(4, x.1, x.2)] | none => [])

/-- Whether table `k` reaches beyond the image (the gang table has its own check) or overlaps another. -/
def State.tableBad (s : State) (h : ImageHdr) (k : Nat) : Bool :=
  let l := s.imageTables h
  l.any fun t => t.1 = k && ((k ≠ 4 && h.ibytes < t.2.1 + t.2.2) || l.any fun u => u.1 ≠ k && overlap t.2 u.2)

/-- R9: the first failing header word, in offset order. -/
def State.headerBad (s : State) (h : ImageHdr) : Option Nat :=
  let ck := fun (w : Nat) (b : Bool) => (w, b)
  let checks := [
    ck h.imark (h.imark != 0x56090001), ck h.ibytes (h.ibytes % 4 ≠ 0 || h.ibytes < 64 || 2 ^ 31 < h.ibytes),
    ck h.gang (s.tableBad h 4), ck h.btoff (h.btoff % 8 ≠ 0 || s.tableBad h 1),
    ck h.nblk (h.nblk = 0 || 4096 < h.nblk),
    ck h.ddoff (h.ddoff % 4 ≠ 0 || (h.ndom = 0 && h.ddoff ≠ 0) || s.tableBad h 2), ck h.ndom (63 < h.ndom),
    ck h.tploff (h.tploff % 8 ≠ 0 || (h.ntpl = 0 && h.tploff ≠ 0) || s.tableBad h 3), ck h.ntpl (524288 < h.ntpl)] ++
    h.rest.map fun w => ck w (w != 0)
  (checks.find? (·.2)).map (·.1)

/-- The members of the gang table: package and core count (R441). -/
def State.gangMembers (s : State) (h : ImageHdr) : List (Nat × Nat) :=
  if h.gang = 0 then []
  else (List.range (s.iw h.image h.gang)).map fun i =>
    let w := s.iw h.image (h.gang + 4 + 4 * i)
    (bits w 0 15, bits w 15 9)

/-- R9: the first failing word of the gang table. -/
def State.gangBad (s : State) (h : ImageHdr) : Option Nat :=
  if h.gang = 0 then none
  else if h.gang % 4 ≠ 0 || h.ibytes < h.gang + 4 then some h.gang
  else
    let n := s.iw h.image h.gang
    if n = 0 || 4096 < n then some n
    else
      let word := fun i => s.iw h.image (h.gang + 4 + 4 * i)
      (List.range n).findSome? fun i =>
        if h.ibytes < h.gang + 8 + 4 * i then some h.gang
        else
          let w := word i
          if bits w 24 8 ≠ 0 || bits w 15 9 = 0 || 256 < bits w 15 9 ||
             (i ≠ 0 && bits w 0 15 ≤ bits (word (i - 1)) 0 15) then some w
          else none

/-- Whether the header, with the gang table it locates, passes R9. -/
def State.headerOk (s : State) (h : ImageHdr) : Bool := (s.headerBad h).isNone && (s.gangBad h).isNone

/-- The declared domains: parent and window (R149). -/
def State.domains (s : State) (h : ImageHdr) : List (Nat × Nat) :=
  (List.range h.ndom).map fun k =>
    let w := s.iw h.image (h.ddoff + 4 * k)
    (bits w 26 6, bits w 16 10)

def State.domainBad (s : State) (h : ImageHdr) : Option Nat :=
  (List.range h.ndom).findSome? fun k =>
    let w := s.iw h.image (h.ddoff + 4 * k)
    if k < bits w 26 6 || bits w 16 10 = 0 || 512 < bits w 16 10 || bits w 0 16 ≠ 0 then some w else none

/-- R251, with the frame segments of the launch. -/
def regionBad (w frames : Nat) : Bool :=
  bits w 13 19 ≠ 0 || bits w 5 3 ≠ 0 || 16 < bits w 8 5 || 23 < bits w 0 5 || 24 < frames + bits w 0 5

/-- A block-table entry, and a block header word if its place lies in the image (R178). -/
def State.blockEntry (s : State) (h : ImageHdr) (b : Nat) : Nat := s.rdNat (h.image + h.btoff + 8 * b) 8

def State.blockHeader (s : State) (h : ImageHdr) (b : Nat) : Option Nat :=
  let off := bits (s.blockEntry h b) 0 32
  if b < h.nblk && off + 4 ≤ h.ibytes then some (s.iw h.image off) else none

def entryDom (e : Nat) : Nat := bits e 56 6
def hdrInputs (w : Nat) : Nat := bits w 19 4
def hdrEntry (w : Nat) : Bool := bits w 25 1 = 1
def hdrMark (w : Nat) : Bool := bits w 28 4 = 0xB

/-- R388: a named handler block belongs to DOM 0, has one input and no ENTRY. -/
def State.handlerBad (s : State) (h : ImageHdr) : Bool :=
  let bad := fun b => match s.blockHeader h b with
    | none => true
    | some w => entryDom (s.blockEntry h b) ≠ 0 || hdrInputs w ≠ 1 || hdrEntry w
  bits h.handler 28 3 ≠ 0 || bits h.handler 12 3 ≠ 0 || (bits h.handler 31 1 = 1 && bad (bits h.handler 16 12)) ||
  (bits h.handler 15 1 = 1 && bad (bits h.handler 0 12))

/-- What the word checks look up: the image's declared domains, and inputs and domain of each block. -/
structure LoadEnv where
  ndom   : Nat
  doms   : List (Nat × Nat)
  inputs : List Nat
  domOf  : List Nat
  det    : Bool
  deriving DecidableEq, Repr

def LoadEnv.parent? (g : LoadEnv) (d : Nat) : Option Nat := if d = 0 then none else (g.doms[d - 1]?).map (·.1)
def LoadEnv.window (g : LoadEnv) (d : Nat) : Nat := (g.doms[d - 1]?.map (·.2)).getD 0

/-- The destination a send-class word names: mode 0 SAME, 1 NEXT, 2 ENTER, 3 ENTERM, 4 LEAVE, 5 EXPLICIT; slot; block. -/
def destOf (i : Instr) : Option (Nat × Nat × Nat) :=
  let m := fun (t : Tm) => match t with | .same => 0 | .next => 1 | .enter => 2 | .leave => 4 | .expl => 5
  match i with
  | .send _ tm slot blk _ _ => some (m tm, slot.toNat, blk.toNat)
  | .sendv _ tm slot blk _ _ => some (m tm, slot.toNat, blk.toNat)
  | .steer tm slot blk _ _ => some (m tm, slot.toNat, blk.toNat)
  | .cont _ tm slot blk _ => some (m tm, slot.toNat, blk.toNat)
  | .enter _ slot blk _ _ => some (2, slot.toNat, blk.toNat)
  | .entermAnd _ slot blk _ _ => some (3, slot.toNat, blk.toNat)
  | .entermOr _ slot blk _ _ => some (3, slot.toNat, blk.toNat)
  | .next _ slot blk _ _ => some (1, slot.toNat, blk.toNat)
  | .leave _ slot blk _ _ => some (4, slot.toNat, blk.toNat)
  | _ => none

/-- R150: the mode against the domain `d` of the sender's block and `t` of the named one. -/
def LoadEnv.reaches (g : LoadEnv) (mode d t : Nat) : Bool :=
  match mode with
  | 0 => t = d
  | 1 => t = d && d ≠ 0
  | 2 => g.parent? t = some d
  | 3 => g.parent? t = some d && 64 ≤ g.window t
  | 4 => g.parent? d = some t
  | _ => true

/-- R18 and R150 for a word of a block of domain `d`. -/
def LoadEnv.destOk (g : LoadEnv) (d : Nat) (i : Instr) : Bool :=
  match destOf i with
  | none => true
  | some (mode, slot, blk) =>
    match g.inputs[blk]?, g.domOf[blk]? with
    | some n, some t => slot < n && g.reaches mode d t
    | _, _ => false

/-- The release a send-class word carries. -/
def relOfWord (i : Instr) : Option Scope :=
  match i with
  | .send _ _ _ _ r _ => r
  | .sendx _ r _ => r
  | .sendv _ _ _ _ r _ => r
  | .steer _ _ _ r _ => r
  | .enter _ _ _ r _ => r
  | .entermAnd _ _ _ r _ => r
  | .entermOr _ _ _ r _ => r
  | .next _ _ _ r _ => r
  | .leave _ _ _ r _ => r
  | _ => none

/-- A word that an IDEM block may not hold (R394), but for `getx`. -/
def idemRefused (aligned : Bool) (i : Instr) : Bool :=
  (match classOf i with | .mxu | .copy | .fabric | .trough => true | _ => false) || (relOfWord i).isSome ||
  (match i with
   | .atom _ _ _ _ _ _ => true
   | .cas _ _ _ _ _ => true
   | .fatom _ _ _ _ _ => true
   | .redo _ _ _ _ => true
   | .arrive _ _ _ => true
   | .waitb _ _ _ => true
   | .hresFetch _ _ _ => true
   | .hresRelease _ _ _ => true
   | .spawn _ _ _ => true
   | .ldsp _ _ _ _ => true
   | .lda _ _ _ _ => true
   | .gets _ r _ => r = .tick || (!aligned && (r = .lane || r = .fsize))
   | .hqry _ _ _ _ => true
   | .rdsr _ _ _ => true
   | _ => false)

/-- R394 for `getx`: some earlier word that always performs its effect writes the register. -/
def getxCovered (before : List Instr) (i : Instr) : Bool :=
  match i with
  | .getx _ _ x => before.any fun w => pmOf w = .always && writesReg w x.toNat
  | _ => true

/-- The checks of a decoded word that its block and image decide (R14, R18, R25, R68, R150, R209, R210, R278, R320, R398,
R394); `n` instructions, `k` constants. -/
def LoadEnv.wordOk (g : LoadEnv) (d n k inputs : Nat) (aligned idem : Bool) (before : List Instr) (i : Instr) : Bool :=
  let inRange := fun t : Target => match t with | .latch _ j => before.length < j.toNat && j.toNat < n | _ => true
  inRange (t0Of i) && inRange (t1Of i) && g.destOk d i &&
  (match i with
   | .ldf _ m _ _ => m.toNat < inputs
   | .ldfv _ m _ _ => m.toNat < inputs
   | .ldk _ m _ _ => m.toNat < k
   | .dkill _ _ _ => d ≠ 0
   | .fatom _ op _ _ _ => !(g.det && op = .addBf16x2)
   | .cpyr _ op _ _ => !(g.det && op = .addBf16)
   | .wrsr _ r _ => r = .fctl
   | _ => true) &&
  (aligned || classOf i ≠ .cross) && (!idem || (!idemRefused aligned i && getxCovered before i))

/-- The words of a block checked in order: the instructions, or the index and word that is bad. -/
def LoadEnv.words (g : LoadEnv) (d n k inputs : Nat) (aligned idem : Bool) :
    List IWord → List Instr → Except (Nat × Nat) (List Instr)
  | [], acc => .ok acc
  | w :: r, acc =>
    match decode w with
    | .error _ => .error (acc.length, w.toNat)
    | .ok i =>
      if g.wordOk d n k inputs aligned idem acc i then g.words d n k inputs aligned idem r (acc ++ [i])
      else .error (acc.length, w.toNat)

/-- Targets of a block's words aimed at a latch of instruction `j` (R26). -/
def aimedAt (l : Latch) (j : Nat) (code : List Instr) : Nat :=
  code.foldl (fun m i =>
    let one := fun t : Target => match t with | .latch k x => if k = l && x.toNat = j then 1 else 0 | _ => 0
    m + one (t0Of i) + one (t1Of i)) 0

/-- The cells of a fresh firing (R26, R27). -/
def freshCells (code : List Instr) : List Cell :=
  (List.range code.length).map fun j =>
    { waitA := aimedAt .a j code, waitB := aimedAt .b j code, waitC := aimedAt .c j code, waitP := aimedAt .p j code,
      waitO := aimedAt .o j code }

/-- One block (R178, R10, R11, then its words): the block, or index and word of the first failure. A block with ENTRY outside domain 0
(R150), for which R11 and R59 name no index, is reported at index 255 with its header word (DESIGN CHOICE, entry 107). -/
def State.loadBlock (s : State) (h : ImageHdr) (g : LoadEnv) (b : Nat) : Except (Nat × Nat) LBlock :=
  let e := s.blockEntry h b
  let off := bits e 0 32
  let place := bits e 62 2
  let d := entryDom e
  if bits e 40 16 ≠ 0 || (place ≠ 2 && bits e 32 8 ≠ 0) || off % 4 ≠ 0 || h.ibytes < off + 4 || g.ndom < d then
    .error (253, off)
  else
    let w := s.iw h.image off
    let n := bits w 0 6 + 1
    let k := bits w 15 4
    let inputs := hdrInputs w
    let aligned := bits w 26 1 = 1
    let idem := bits w 27 1 = 1
    if !hdrMark w || bits w 6 9 ≠ 0 || 8 < inputs || (inputs = 0 && !hdrEntry w) ||
       h.ibytes < off + 4 * (1 + n + k) || (hdrEntry w && d ≠ 0) || (aligned && d ≠ 0 && g.window d < 32) then
      .error (255, w)
    else
      let word := fun j => BitVec.ofNat 32 (s.iw h.image (off + 4 + 4 * j))
      let code := (List.range n).map word
      match g.words d n k inputs aligned idem code [] with
      | .error x => .error x
      | .ok is =>
        let l : LBlock := {
          idem := idem, aligned := aligned, entry := hdrEntry w, tclass := bits w 23 2, inputs := inputs, code := code,
          consts := (List.range k).map fun j => word (n + j), cells := freshCells is, place := place, dom := d,
          fixk := bits e 32 8, comp := 0 }
        .ok l

/-! ### The static graph (R196) -/

/-- A word whose tokens or answers go to a continuation. -/
def toCont (i : Instr) : Bool :=
  match i with
  | .sendx _ _ _ => true
  | .steer _ _ _ _ _ => true
  | .waitb _ _ _ => true
  | .spawn _ _ _ => true
  | .hresFetch _ _ _ => true
  | .hresRelease _ _ _ => true
  | .lkst _ _ _ => false
  | _ => match classOf i with | .mxu | .copy | .fabric | .trough => true | _ => false

/-- The instructions of a loaded block. -/
def LBlock.instrs (b : LBlock) : List Instr := (List.range b.code.length).filterMap (instrAt b.code)

/-- Blocks that some `cont` of the image names. -/
def contBlocks (bs : List LBlock) : List Nat :=
  (bs.flatMap fun b => b.instrs.filterMap fun i => match i with | .cont _ _ _ blk _ => some blk.toNat | _ => none).eraseDups

/-- The successors of each block. -/
def graphOf (bs : List LBlock) : List (List Nat) :=
  let conts := contBlocks bs
  bs.map fun b => (b.instrs.flatMap fun i =>
    (match destOf i with | some (_, _, t) => [t] | none => []) ++ (if toCont i then conts else [])).eraseDups

/-- Everything reachable from a list of blocks. -/
def reach (succ : List (List Nat)) : Nat → List Nat → List Nat
  | 0, l => l
  | n + 1, l =>
    let m := (l ++ l.flatMap fun b => succ[b]?.getD []).eraseDups
    if m.length = l.length then l else reach succ n m

/-- The component of each block, named by its least block. -/
def componentsOf (succ : List (List Nat)) : List Nat :=
  let r := succ.zipIdx.map fun (_, b) => reach succ succ.length [b]
  r.zipIdx.map fun (l, b) => (minBy id (l.filter fun c => (r[c]?.getD []).contains b)).getD b

/-- The edges between components. -/
def componentEdges (succ : List (List Nat)) (comps : List Nat) : List (Nat × Nat) :=
  let comp := fun b => comps[b]?.getD b
  ((succ.zipIdx.flatMap fun (l, b) => l.map fun t => (comp b, comp t)).filter fun e => e.1 ≠ e.2).eraseDups

/-! ### Loading -/

/-- What an image gives a launch. -/
structure Loaded where
  blocks  : List LBlock
  doms    : List (Nat × Nat)
  handler : BitVec 32
  scratch : Nat
  accum   : Nat
  members : List (Nat × Nat)
  comps   : List Nat
  edges   : List (Nat × Nat)
  deriving DecidableEq, Repr

/-- The loader on the image at an address, for a launch with `frames` segments. -/
def State.loadImage (s : State) (image frames : Nat) (det : Bool) : Except Report Loaded :=
  let h := s.imageHdr image
  let whole := fun idx w => (Except.error (4095, idx, w, 0) : Except Report Loaded)
  match s.headerBad h with
  | some w => whole 250 w
  | none =>
    match s.gangBad h with
    | some w => whole 249 w
    | none =>
      match s.domainBad h with
      | some w => whole 254 w
      | none =>
        if regionBad h.region frames then whole 252 h.region
        else if s.handlerBad h then whole 251 h.handler
        else
          let g : LoadEnv := {
            ndom := h.ndom, doms := s.domains h, det := det,
            inputs := (List.range h.nblk).map fun b => ((s.blockHeader h b).map hdrInputs).getD 0,
            domOf := (List.range h.nblk).map fun b => entryDom (s.blockEntry h b) }
          let rs := (List.range h.nblk).map (s.loadBlock h g)
          let bad := rs.zipIdx.filterMap fun (r, b) => match r with | .error e => some (b, e) | .ok _ => none
          match bad with
          | (b, e) :: _ => .error (b, e.1, e.2, bad.length)
          | [] =>
            let bs := rs.filterMap fun r => match r with | .ok b => some b | .error _ => none
            let succ := graphOf bs
            let comps := componentsOf succ
            let bs := bs.zipIdx.map fun (b, k) => { b with comp := comps[k]?.getD k }
            .ok { blocks := bs, doms := s.domains h, handler := BitVec.ofNat 32 h.handler, scratch := bits h.region 0 5,
                  accum := bits h.region 8 5, members := s.gangMembers h, comps := comps,
                  edges := componentEdges succ comps }

end Sys2Proof.Machine
end

