-- ==== Sys2Proof/Machine/Memory.lean ====
section
/-! DEFINITION. The memory instructions (R138–R146, R268–R291): each issue makes an access (R33), which translates at once
or after a walk (R239, R241) and is performed later (R34, R258); cursor steps, queries and prefetches only read the
record. The end of this file holds the steps MEM_ACCESS_PERFORMED, WALK, BARRIER_ARRIVAL and BARRIER_REGISTRATION. -/

namespace Sys2Proof.Machine

/-! ### Making and ending an access -/

def State.updAccess (s : State) (id : Nat) (f : Access → Access) : State :=
  { s with accesses := replaceFirst (·.id == id) f s.accesses }

def State.dropAccess (s : State) (id : Nat) : State := { s with accesses := s.accesses.filter fun a => a.id ≠ id }

/-- An access is over: its value is delivered to both targets, unless its firing has ended. -/
def State.deliverAccess (s : State) (a : Access) (v : Val) : State :=
  let s := (s.dropAccess a.id).moved a.ctx
  if a.orphan then s else s.completeLane a.fid a.idx (t0Of a.instr) (t1Of a.instr) v v

/-- An access ends in a fault of its lane (R146, R244). -/
def State.faultAccess (s : State) (a : Access) (code : Nat) (detail : List Word) : State :=
  let s := s.dropAccess a.id
  if a.orphan then s else s.faultLane a.fid a.idx code detail

/-- An issued word's access (R33), with the firing's accesses issued before it. -/
def State.newAccess (s : State) (i : Instr) (sp : Space) (ph : AccPhase) (fl : Flock) (j : Nat) (ln : Lane) (k : Cell) :
    State × Access :=
  let a : Access := {
    id := s.reqSeq + 1, core := fl.core, ctx := fl.ctx, flock := fl.id, fid := ln.fid, idx := j, instr := i, a := k.a,
    b := k.b, c := k.c, space := sp, phase := ph, handle := curHandle k.a.bits,
    before := (s.accesses.filter fun o => o.fid = ln.fid).map (·.id), born := s.cycle }
  ({ s with reqSeq := s.reqSeq + 1, accesses := s.accesses ++ [a] }.updLane ln.fid (Lane.issue j), a)

/-- A result that needs no record, delivered when the instruction executes. -/
def State.deliverNow (s : State) (ln : Lane) (j : Nat) (i : Instr) (v : Val) : State :=
  s.completeLane ln.fid j (t0Of i) (t1Of i) v v

/-! ### Values in memory -/

/-- A raw element code under a scale, as FP32 (R108). -/
def scaledValue (format code scale : Nat) : Word :=
  match Fmt.ofBits (BitVec.ofNat 6 format) with
  | none => 0
  | some f =>
    if scale = 255 then 0x7FC00000
    else fres .f32 .rne ((decodeFmt f code).mul (XNum.dyadic false 1 ((scale : Int) - 127)))

def zeroVoid : Val := { bits := 0, void := true }

/-- The bits of a FILL value that an access of `n` bits delivers (R142). -/
def fillBits (fill : BitVec 32) (n : Nat) : Word := BitVec.ofNat 64 (fill.toNat % 2 ^ min n 64)

/-- The width of a memory type in bytes, `none` for `.elem`. -/
def memBytes : MemTy → Option Nat
  | .n8 => some 1 | .n16 => some 2 | .n32 => some 4 | .n64 => some 8 | .elem => none

/-! ### Cursor steps (R268–R270) -/

def dimNum : Dim → Nat
  | .d0 => 0 | .d1 => 1 | .d2 => 2 | .d3 => 3 | .d4 => 4

/-- The first dimension of a `curs` and whether it is the pair form. -/
def cursDim : CursDim → Nat × Bool
  | .single d => (dimNum d, false)
  | .pair0 => (0, true) | .pair1 => (1, true) | .pair2 => (2, true) | .pair3 => (3, true)

def setOos (c : Word) : Word := c ||| BitVec.ofNat 64 (2 ^ 63)

/-- The step of a cursor over a rank-1 record (R140): the coordinate is the offset divided by the stride, and the stepped
coordinate alone is compared with the extent. -/
def stepFlat (r : ObjRec) (c : Word) (b : Int) : Word :=
  let q : Int := ((curOffset c / r.strOf 0 : Nat) : Int) + b
  if 0 ≤ q && q < r.extOf 0 then BitVec.ofNat 64 (at_ (curHandle c) 44 + q.toNat * r.strOf 0) else setOos c

/-- A cursor step after the record is at hand: R140 on a rank-1 record, where a dimension above 0 and the pair form set OOS;
else R270. R140 and R270 differ on a rank-1 cursor whose own offset is not in shape: R140's pseudocode is followed, since it
says that the other forms agree with it there (DEDUCED, entry 85). -/
def stepCursor (r : ObjRec) (c : Word) (steps : List (Nat × Int)) : Word :=
  if r.rank = 1 then
    match steps with
    | [(0, b)] => stepFlat r c b
    | _ => setOos c
  else
  match r.coords (curOffset c) with
  | none => setOos c
  | some i =>
    let ok := steps.all fun (d, b) => let v := (i[d]?.getD 0 : Int) + b
      d < r.rank && 0 ≤ v && v < r.extOf d
    if ok then
      let i := steps.foldl (fun i (d, b) => i.set d (((i[d]?.getD 0 : Int) + b).toNat)) i
      BitVec.ofNat 64 (at_ (curHandle c) 44 + r.offset i)
    else setOos c

def cursSteps (d : CursDim) (b c : Word) : List (Nat × Int) :=
  let (k, pair) := cursDim d
  (k, b.toInt) :: (if pair then [(k + 1, c.toInt)] else [])

/-! ### What an instruction needs of its object -/

/-- The use a memory word makes (R229, R439). -/
def useOf (i : Instr) : Use :=
  match i with
  | .ld _ _ _ _ => { read := true, remote := true }
  | .spawn _ _ _ => { read := true, image := true }
  | .st _ _ _ _ => { write := true, remote := true }
  | .atom _ _ _ _ _ _ | .cas _ _ _ _ _ | .fatom _ _ _ _ _ | .redo _ _ _ _ => { atom := true, remote := true }
  | .arrive _ _ _ => { atom := true }
  | .waitb _ _ _ => { read := true }
  | .hresFetch _ _ _ | .hresRelease _ _ _ => { resmg := true }
  | _ => {}

/-- Bytes of an access, `none` for one element. -/
def widthOf (i : Instr) : Option Nat :=
  match i with
  | .ld _ w _ _ | .st _ w _ _ => memBytes w
  | .atom _ _ _ w64 _ _ | .cas _ _ w64 _ _ => some (if w64 then 8 else 4)
  | .fatom _ _ _ _ _ | .redo _ _ _ _ => some 4
  | .arrive _ _ _ | .waitb _ _ _ => some 8
  | .spawn _ _ _ => some 64
  | _ => none

/-- Whether an instruction needs its word aligned (R274, R287). -/
def aligns (i : Instr) : Bool :=
  match i with
  | .atom _ _ _ _ _ _ | .cas _ _ _ _ _ | .fatom _ _ _ _ _ | .redo _ _ _ _ | .arrive _ _ _ | .waitb _ _ _ => true
  | _ => false

/-- What an out-of-shape access delivers under fill and void, and under fault a fault (R142, R274); `none` for the
instructions that fault whatever OOSPOL, which in a launch with DET set `fatom.add.f32` is too (R278). -/
def outOfShapeVal (i : Instr) (r : ObjRec) (det : Bool) : Option Val :=
  match i with
  | .ld _ w _ _ =>
    if r.oospol = 1 then some { bits := fillBits r.fill (match memBytes w with | some n => 8 * n | none => r.ebits) }
    else if r.oospol = 2 then some zeroVoid else none
  | .st _ _ _ _ => if r.oospol = 0 then none else some { bits := 1 }
  | .atom _ _ _ w64 _ _ | .cas _ _ w64 _ _ =>
    if r.oospol = 1 then some { bits := fillBits r.fill (if w64 then 64 else 32) }
    else if r.oospol = 2 then some zeroVoid else none
  | .fatom _ op _ _ _ =>
    if det && op = .addF32 then none
    else if r.oospol = 1 then some { bits := fillBits r.fill 32 } else if r.oospol = 2 then some zeroVoid else none
  | _ => none

/-- Whether an access to a remote-package record goes to another package (R439). -/
def State.farRec (s : State) (r : ObjRec) : Bool := r.kind = 3 && r.pkg ≠ s.pkgid

/-- The value of `hqry` from the record (R283). -/
def State.queryVal (s : State) (a : Access) (q : HqryItem) (r : ObjRec) : State × Word :=
  match q with
  | .ext d => (s, w64 (r.extOf (dimNum d)))
  | .rank => (s, w64 r.rank)
  | .fmt => (s, w64 r.format)
  | .gen => (s, w64 r.gen)
  | .res =>
    if curOos a.a.bits || (r.coords (curOffset a.a.bits)).isNone then (s, 4)
    else if r.rmap = 0 then (s, 1)
    else
      let (s, k) := s.residency a.core a.ctx a.handle r.rmap ((r.addrOf (curOffset a.a.bits) - r.base) / 2 ^ (12 + r.gran))
      (s, w64 k)

/-- The translation an instruction asks for. -/
def State.translateFor (s : State) (a : Access) (r : ObjRec) : State × Trans :=
  let idem := ((s.flock? a.flock).bind fun fl => s.block? a.ctx fl.block).map (·.idem)
  let pre := match a.instr with
    | .ld _ _ _ _ => if idem = some true && r.coh ≠ 0 then some (0x18, [w64 a.handle, w64 r.gen, w64 r.coh]) else none
    | _ => none
  let o := curOffset a.a.bits
  let n := widthOf a.instr
  let extra := fun addr =>
    if aligns a.instr && addr % (n.getD 1) ≠ 0 then some (0x0C, [w64 a.handle, w64 o, w64 (8 * n.getD 1)]) else none
  s.translate a.core a.ctx a.a.bits r (useOf a.instr)
    (match n with | some n => r.coverFor n o | none => [o])
    (fun o => match n with | some n => r.bytesFor n o | none => r.elemAddrs o) pre extra

/-- DETAIL of OOS (R244). -/
def oosDetail (a : Access) (first : Nat) : List Word := [w64 a.handle, w64 (curOffset a.a.bits), w64 first]

/-- The launch has DET set, so that `fatom.add.f32` acts as `redo` (R278). -/
def State.isDet (s : State) (x : Nat) : Bool := ((s.ctx? x).map (·.det)).getD false

/-- A translated access: its bytes are known and it waits to be performed. -/
def State.setReady (s : State) (a : Access) (r : ObjRec) (l : List Nat) : State :=
  let elem := (widthOf a.instr).isNone
  let o := curOffset a.a.bits
  s.updAccess a.id fun a => { a with
    phase := .ready, gen := r.gen, coh := r.coh, rmap := r.rmap, gran := r.gran, base := r.base, format := r.format, bytes := l
    pkg := if s.farRec r then some r.pkg else none
    nibble := if elem && r.ebits = 4 then some (o % 2 = 1) else none
    scaleAt := if elem && r.scale ≠ 0 then some (r.scaleAddr o) else none }

/-- An access meets its record (R239): what each instruction then does. Of several cases of R220 that hold, `spawn` raises the first
of PERM, OOS of the header, BAD_CONT, OOS of the token bytes, BAD_SPAWN; a record whose KIND R230 or R439 keeps from `spawn` is PERM, any
other that is not flat OOS; and a void-marked cursor, of which R218 says nothing, is an OOS as of `hres` (DESIGN CHOICE, entry 105). -/
def State.proceed (s : State) (a : Access) (r : ObjRec) : State :=
  let checked := fun (k : State → List Nat → State) =>
    if a.a.void then
      (if !r.permits (useOf a.instr) then s.faultAccess a 0x03 [w64 a.handle, w64 r.gen, Config.useCode (useOf a.instr).num]
       else s.faultAccess a 0x01 (oosDetail a (curOffset a.a.bits)))
    else
      match s.translateFor a r with
      | (s, .fault c d) => s.faultAccess a c d
      | (s, .outOfShape f) =>
        (match outOfShapeVal a.instr r (s.isDet a.ctx) with
         | some v => s.deliverAccess a v
         | none => s.faultAccess a 0x01 (oosDetail a f))
      | (s, .bytes l) => k s l
  let plain := checked fun s l =>
    if s.farRec r && !s.pathTo r.pkg then (s.countRoute r.pkg).faultAccess a 0x30 [w64 a.handle, w64 r.pkg] else s.setReady a r l
  let contChecked := fun (s : State) (w : Word) (k : State → State) =>
    match s.ctx? a.ctx with
    | some c => if w = 0 || c.contOk w then k s else s.faultAccess a 0x05 [w]
    | none => s
  let hres := fun (fetch : Bool) =>
    let o := curOffset a.a.bits
    if !r.permits (useOf a.instr) then s.faultAccess a 0x03 [w64 a.handle, w64 r.gen, Config.useCode (useOf a.instr).num]
    else if a.a.void || curOos a.a.bits || (r.coords o).isNone then s.faultAccess a 0x01 (oosDetail a o)
    else contChecked s a.b.bits fun s =>
      let h : HresSub := {
        fid := a.fid, idx := a.idx, ctx := a.ctx, handle := a.handle, gen := r.gen,
        granule := (r.addrOf o - r.base) / 2 ^ (12 + r.gran), rmap := r.rmap, fetch := fetch, cont := a.b.bits }
      ({ s with hresSubs := s.hresSubs ++ [h] } : State).deliverAccess a { bits := 0 }
  match a.instr with
  | .curs _ d _ _ => s.deliverAccess a { bits := stepCursor r a.a.bits (cursSteps d a.b.bits a.c.bits) }
  | .cursi _ _ d imm => s.deliverAccess a { bits := stepCursor r a.a.bits [(dimNum d, (imm.signExtend 64 : Word).toInt)] }
  | .hqry _ q _ _ =>
    let (s, v) := s.queryVal a q r
    s.deliverAccess a { bits := v }
  | .hresFetch _ _ _ => hres true
  | .hresRelease _ _ _ => hres false
  | .spawn _ _ _ =>
    if r.kind ≠ 1 && r.permits (useOf a.instr) then s.faultAccess a 0x01 (oosDetail a (curOffset a.a.bits))
    else checked fun s l => contChecked s a.b.bits fun s => s.setReady a r l
  | .arrive _ _ _ => checked fun s l =>
      if r.coh < 2 || a.b.bits.toNat / 2 ^ 24 ≠ 0 then
        s.faultAccess a 0x0A [w64 a.handle, w64 (curOffset a.a.bits), w64 (s.rdNat (l.headD 0) 8)]
      else s.setReady a r l
  | .waitb _ _ _ => checked fun s l =>
      if r.coh < 2 then
        s.faultAccess a 0x0A [w64 a.handle, w64 (curOffset a.a.bits), w64 (s.rdNat (l.headD 0) 8)]
      else contChecked s a.b.bits fun s => if a.b.bits = 0 then s.deliverAccess a { bits := 0 } else s.setReady a r l
  | _ => plain

/-- An access whose record is cached translates at once; otherwise it waits for a walk (R240, R241). -/
def State.seek (s : State) (a : Access) : State :=
  match s.orcHit a.core a.ctx a.handle with
  | some r => (s.orcUse a.core a.ctx a.handle).proceed a r
  | none => s

/-- A memory word through a cursor. -/
def cursorOp (i : Instr) (pm : Pm) (early : Cell → Option Val) (s : State) : Res :=
  effectOp pm (t0Of i) (t1Of i) (fun s fl j ln k =>
    match early k with
    | some v => s.deliverNow ln j i v
    | none =>
      let (s, a) := s.newAccess i .hbm .walking fl j ln k
      s.seek a) s

/-- What a cursor step delivers without a record: a void-marked result, a cursor already out of shape. -/
def cursEarly (r : Reads) (k : Cell) : Option Val :=
  if r.void k then some { k.a with void := true } else if curOos k.a.bits then some k.a else none

def voidZero (k : Cell) : Option Val := if k.a.void then some zeroVoid else none
def voidStore (k : Cell) : Option Val := if k.a.void || k.b.void then some { bits := 1 } else none

def execCurs (pm : Pm) (d : CursDim) (t0 t1 : Target) (s : State) : Res :=
  cursorOp (.curs pm d t0 t1) pm (cursEarly (if (cursDim d).2 then readsABC else readsAB)) s

def execCursi (pm : Pm) (t0 : Target) (d : Dim) (imm : BitVec 10) (s : State) : Res :=
  cursorOp (.cursi pm t0 d imm) pm (cursEarly readsA) s

def execLd (pm : Pm) (w : MemTy) (t0 t1 : Target) (s : State) : Res := cursorOp (.ld pm w t0 t1) pm voidZero s

def execSt (pm : Pm) (w : MemTy) (t0 t1 : Target) (s : State) : Res := cursorOp (.st pm w t0 t1) pm voidStore s

/-! ### Scratchpad and accumulator (R271, R272) -/

/-- The context's region on a core: first shed or accumulator byte, and size. -/
def State.regionOf (s : State) (x core : Nat) (accum : Bool) : Nat × Nat :=
  match (s.ctx? x).bind (fun c => c.regions.find? (·.core = core)) with
  | none => (0, 0)
  | some r =>
    if accum then (accumAddr core (32768 * r.accSeg), 32768 * r.accum)
    else (shedAddr core (65536 * r.scrSeg), 65536 * r.scratch)

/-- An access to a region of the issuing core. -/
def regionOp (i : Instr) (pm : Pm) (accum : Bool) (n : Nat) (early : Cell → Option Val) (s : State) : Res :=
  effectOp pm (t0Of i) (t1Of i) (fun s fl j ln k =>
    match early k with
    | some v => s.deliverNow ln j i v
    | none =>
      let (base, size) := s.regionOf fl.ctx fl.core accum
      let o := k.a.bits.toNat
      if size < o + n then s.faultLane ln.fid j 0x0B [k.a.bits, w64 n, w64 size]
      else
        let (s, a) := s.newAccess i (if accum then .accum else .scratch) .ready fl j ln k
        s.updAccess a.id fun a => { a with bytes := (List.range n).map fun b => base + o + b }) s

def execLdsp (pm : Pm) (w : Width) (t0 t1 : Target) (s : State) : Res :=
  regionOp (.ldsp pm w t0 t1) pm false (w.bits / 8) voidZero s

def execStsp (pm : Pm) (w : Width) (t0 t1 : Target) (s : State) : Res :=
  regionOp (.stsp pm w t0 t1) pm false (w.bits / 8) voidStore s

def execLda (pm : Pm) (w : Width) (t0 t1 : Target) (s : State) : Res :=
  regionOp (.lda pm w t0 t1) pm true (w.bits / 8) voidZero s

def execSta (pm : Pm) (w : Width) (t0 t1 : Target) (s : State) : Res :=
  regionOp (.sta pm w t0 t1) pm true (w.bits / 8) voidStore s

/-! ### Atomics, fences, queries, barriers: issue -/

def execAtom (pm : Pm) (op : AtomOp) (t0 : Target) (w64 : Bool) (ord : Order) (sc : Scope) (s : State) : Res :=
  cursorOp (.atom pm op t0 w64 ord sc) pm voidZero s

def execCas (pm : Pm) (t0 : Target) (w64 : Bool) (ord : Order) (sc : Scope) (s : State) : Res :=
  cursorOp (.cas pm t0 w64 ord sc) pm voidZero s

/-- Under DET `fatom.add.f32` acts as `redo` (R278), also for a void-marked cursor. -/
def execFatom (pm : Pm) (op : FatomOp) (t0 : Target) (ord : Order) (sc : Scope) (s : State) : Res :=
  effectOp pm t0 .none (fun s fl j ln k =>
    let i := Instr.fatom pm op t0 ord sc
    if k.a.void && !(s.isDet fl.ctx && op = .addF32) then s.deliverNow ln j i zeroVoid
    else
      let (s, a) := s.newAccess i .hbm .walking fl j ln k
      s.seek a) s

def execRedo (pm : Pm) (t0 : Target) (relOrd : Bool) (sc : Scope) (s : State) : Res :=
  cursorOp (.redo pm t0 relOrd sc) pm (fun _ => none) s

/-- `fence` waits as an access without bytes (R281). -/
def execFence (pm : Pm) (sc : Scope) (t0 t1 : Target) (s : State) : Res :=
  effectOp pm t0 t1 (fun s fl j ln k => (s.newAccess (.fence pm sc t0 t1) .hbm .ready fl j ln k).1) s

/-- The record a prefetch finds: the cached one, else the one a walk finds (R240, R241), which is then cached; `none`
where the walk finds none to use. -/
def State.prefRecord (s : State) (core x h : Nat) : State × Option ObjRec :=
  match s.orcHit core x h with
  | some r => (s.orcUse core x h, some r)
  | none =>
    match s.walk x h with
    | .use r => (s.orcInstall core x h r, some r)
    | _ => (s, none)

/-- `pref` delivers 0 at once, and fills the line into the L1 where nothing that R282 lists forbids it; what `pref.l2` brings
into an L2 is no state (R258). -/
def execPref (pm : Pm) (lv : PrefLevel) (t0 t1 : Target) (s : State) : Res :=
  effectOp pm t0 t1 (fun s fl j ln k =>
    let s := s.deliverNow ln j (.pref pm lv t0 t1) { bits := 0 }
    match s.prefRecord fl.core fl.ctx (curHandle k.a.bits) with
    | (s, none) => s
    | (s, some r) =>
      let o := curOffset k.a.bits
      if k.a.void || lv = .l2 || r.coh = 3 || curOos k.a.bits || (r.coords o).isNone || !r.permits { read := true } then s
      else if r.rmap ≠ 0 && s.granuleState r.rmap ((r.addrOf o - r.base) / 2 ^ (12 + r.gran)) ≠ 1 then s
      else (s.fill fl.core fl.ctx r.coh (r.addrOf o / 64 * 64)).fill fl.core fl.ctx r.coh (r.addrOf o / 64 * 64 + 32)) s

def execHqry (pm : Pm) (q : HqryItem) (t0 t1 : Target) (s : State) : Res := cursorOp (.hqry pm q t0 t1) pm voidZero s

def execArrive (pm : Pm) (t0 t1 : Target) (s : State) : Res := cursorOp (.arrive pm t0 t1) pm (fun _ => none) s

def execWaitb (pm : Pm) (t0 t1 : Target) (s : State) : Res := cursorOp (.waitb pm t0 t1) pm (fun _ => none) s

def execHresFetch (pm : Pm) (t0 t1 : Target) (s : State) : Res := cursorOp (.hresFetch pm t0 t1) pm (fun _ => none) s

def execHresRelease (pm : Pm) (t0 t1 : Target) (s : State) : Res := cursorOp (.hresRelease pm t0 t1) pm (fun _ => none) s

def execSpawn (pm : Pm) (t0 t1 : Target) (s : State) : Res := cursorOp (.spawn pm t0 t1) pm (fun _ => none) s

/-! ### When an access may be performed (R34, R35, R132, R275) -/

def Access.overlaps (a b : Access) : Bool := a.pkg = b.pkg && a.bytesAll.any fun x => b.bytesAll.contains x

/-- Whether an access's bytes are known: of a spawn record, once its header has been read (R219). -/
def Access.known (a : Access) : Bool :=
  match a.phase, a.instr with
  | .walking, _ | .moving, _ => false
  | _, .spawn _ _ _ => !a.header.isEmpty
  | _, _ => true

/-- R34: every lower-indexed access of the firing is known and does not overlap, and every lower-indexed word of the same
space has made its access (of a masked lane, those of R34 that must wait were dropped at its capture). R35: no store that an ended firing of the core left in flight overlaps. -/
def State.orderFree (s : State) (a : Access) : Bool :=
  (s.accesses.all fun o => !(o.orphan && o.fid ≠ a.fid && o.core = a.core && o.id < a.id && o.overlaps a)) &&
  (a.bytesAll.isEmpty ||
    ((s.accesses.all fun o => !(o.fid = a.fid && o.idx < a.idx && o.space = a.space) || (o.known && !o.overlaps a)) &&
     (a.orphan ||
      match s.flock? a.flock, s.lane? a.fid with
      | some fl, some ln =>
        let code := ((s.block? fl.ctx fl.block).map (·.code)).getD []
        ln.isMasked || (List.range a.idx).all fun i =>
          match instrAt code i with
          | none => true
          | some w =>
            spaceOf w ≠ some a.space || ((ln.cells[i]?.map (·.done)).getD true) ||
            s.accesses.any fun o => o.fid = a.fid && o.idx = i
      | _, _ => true)))

/-- The accesses issued before are performed, as far as a release asks (R132, R275): a store that has entered the outbound queue for
another package is none of them (R440). -/
def State.beforeDone (s : State) (ids : List Nat) : Bool := ids.all fun i => s.accesses.all fun a => a.id ≠ i

/-- A release that an access carries (R262): what is dirty is written through, and the flag says whether the release is
performed or the access still waits, for the accesses issued before or at gang scope for acknowledgements (R440). An access
that R34 puts after this one, of a higher index and overlapping it, is not waited for: each would wait for the other. -/
def State.releaseFor (s : State) (a : Access) (sc : Scope) : State × Bool :=
  let later := fun i => s.accesses.any fun o => o.id = i && o.fid = a.fid && a.idx < o.idx && o.known && o.overlaps a
  if s.beforeDone (a.before.filter fun i => !later i) then
    let s := s.release a.core sc
    (s, s.releaseDone sc a.ctx)
  else (s, false)

/-- A remote access's scope is gang (R439). -/
def Access.scopeOf (a : Access) (sc : Scope) : Scope := if a.pkg.isSome then .gang else sc

/-! ### Memory errors (R402) -/

/-- A 64-byte block enters its home L2's list of lasting errors, of 1,024 entries (R402). -/
def State.listLasting (s : State) (a : Nat) : State :=
  { s with dies := s.dies.modify (homeDie a) fun x => { x with lasting := (x.lasting ++ [a / 64]).eraseDups.take 1024 } }

/-- The device retires a granule (R242): its map code becomes 0b10, and a SHOOTRES of the device's own removes its cached
residency; what was translated before has still to be performed before each core acknowledges it. -/
def State.retire (s : State) (x h rmap g : Nat) (span : List (Nat × Nat)) : State :=
  let at0 := rmap + 8 * (g / 32)
  let v := s.rdNat at0 8
  let p := 2 * (g % 32)
  let s := s.wrN at0 (bytesLE 8 (v - bits v p 2 * 2 ^ p + 2 * 2 ^ p))
  let c : OtCmd := { op := 3, ctx := x, handle := h, granule := g, started := true, span := span, since := s.reqSeq,
                     waiting := s.enabledCores }
  { s with resWords := s.resWords.filter fun r => !(r.ctx = x && r.handle = h && r.word = g / 32)
           ownShoots := s.ownShoots ++ [c] }

/-- Whether the device's own SHOOTRES of a granule is not yet acknowledged by all. -/
def State.retiring (s : State) (x h g : Nat) : Bool :=
  s.ownShoots.any fun c => c.ctx = x && c.handle = h && c.granule = g

/-- An access that met a lasting error faults, where its granule was retired once the SHOOTRES is done (R242). -/
def State.faultEcc (s : State) (a : Access) (d : List Word) : State :=
  if !a.orphan && a.rmap ≠ 0 && s.retiring a.ctx a.handle ((d.getD 2 0).toNat) then s.updAccess a.id fun a => { a with err := some d }
  else s.faultAccess a 0x04 d

/-- Whether a planted error is met by a core's read of an address: one in a byte of an L1 only by that core, while its L1
holds the byte; one in memory where the core's L1 holds no dirty copy. -/
def State.meets (s : State) (core : Nat) (e : MemError) : Bool :=
  let held := fun c (m : Sector → BitVec 32) =>
    s.l1.any fun k => k.core = c && k.pkg.isNone && k.addr = e.addr / 32 * 32 && (m k).getLsbD (e.addr % 32)
  match e.l1 with
  | some c => c = core && held c (·.valid)
  | none => !held core (·.dirty)

/-- Whether a core's L1 holds a dirty copy of a byte. -/
def State.dirtyAt (s : State) (core a : Nat) : Bool :=
  s.l1.any fun k => k.core = core && k.pkg.isNone && k.addr = a / 32 * 32 && k.dirty.getLsbD (a % 32)

/-- A core's L1 gives up the clean bytes it holds of the line of an address. -/
def State.dropClean (s : State) (core a : Nat) : State :=
  { s with l1 := s.l1.map fun k =>
      if k.core = core && k.pkg.isNone && k.addr / 64 = a / 64 then { k with valid := k.dirty } else k }

/-- A read of bytes meets a planted error (R402): in HBM it is retried, and when cured counted; else the granule of an
element's byte is retired, or the block enters its home's lasting list; a clean L1 line is discarded and fetched again; in
shed, accumulators and dirty L1 bytes there is no retry, and DETAIL names the memory. The access faults with the DETAIL of
R244. -/
def State.meetError (s : State) (a : Access) : Option (State × Option (List Word)) :=
  match s.errors.find? fun e => a.bytesAll.contains e.addr && (a.space ≠ .hbm || s.meets a.core e) with
  | none => none
  | some e =>
    let cured := fun (s : State) => s.updCtx a.ctx fun c => { c with ecclog := satInc c.ecclog }
    let s := { s with errors := s.errors.filter (· ≠ e) }
    if a.space = .scratch then some (s, some [Config.memoryName 1])
    else if a.space = .accum then some (s, some [Config.memoryName 2])
    else if e.l1.isSome then
      (if s.dirtyAt a.core e.addr then some (s, some [Config.memoryName 0]) else some (cured (s.dropClean a.core e.addr), none))
    else if !e.lasting then some (cured s, none)
    else
      let g := (e.addr - a.base) / 2 ^ (12 + a.gran)
      let d := [w64 a.handle, w64 a.gen, w64 g]
      if a.rmap ≠ 0 && a.bytes.contains e.addr then
        some (s.retire a.ctx a.handle a.rmap g [(a.base + g * 2 ^ (12 + a.gran), 2 ^ (12 + a.gran))], some d)
      else some (s.listLasting e.addr, some d)

/-! ### Performing (R258, R264, R275–R279) -/

/-- A read-modify-write's new value; `none`: a `cas` that does not write. -/
def atomNew (op : Nat) (w64 : Bool) (old b c : Nat) : Option Nat :=
  let w := if w64 then 64 else 32
  let m := 2 ^ w
  let v := b % m
  let sg := fun x : Nat => if x < m / 2 then (x : Int) else (x : Int) - m
  let f := fun (k : Word → Word → Word) => some ((k (BitVec.ofNat 64 old) (BitVec.ofNat 64 v)).toNat % m)
  match op with
  | 0 => some ((old + v) % m)
  | 1 => some (if sg v < sg old then v else old)
  | 2 => some (if sg old < sg v then v else old)
  | 3 => some (min old v)
  | 4 => some (max old v)
  | 5 => some (Nat.land old v)
  | 6 => some (Nat.lor old v)
  | 7 => some (Nat.xor old v)
  | 8 => some v
  | 9 => if old = v then some (c % m) else none
  | 16 => f (fadd .f32 .rne)
  | 17 => f (fminmax false .f32)
  | 18 => f (fminmax true .f32)
  | 19 => f fun x y => halves (fun x y _ => fadd .bf16 .rne x y) x y 0
  | _ => some ((fadd .bf16 .rne (BitVec.ofNat 64 (old % 65536)) (BitVec.ofNat 64 (b % 65536))).toNat % 65536)

def atomCode : AtomOp → Nat
  | .add => 0 | .min => 1 | .max => 2 | .minu => 3 | .maxu => 4 | .and => 5 | .or => 6 | .xor => 7 | .exch => 8

def fatomCode : FatomOp → Nat
  | .addF32 => 16 | .minF32 => 17 | .maxF32 => 18 | .addBf16x2 => 19

/-- The atomic an instruction performs: operation, width, order, scope. -/
def atomicOf (i : Instr) : Option (Nat × Bool × Order × Scope) :=
  match i with
  | .atom _ op _ w64 ord sc => some (atomCode op, w64, ord, sc)
  | .cas _ _ w64 ord sc => some (9, w64, ord, sc)
  | .fatom _ op _ ord sc => some (fatomCode op, false, ord, sc)
  | _ => none

/-- An atomic at the home L2: one indivisible access; the old value. -/
def State.atomicHome (s : State) (die : Nat) (l : List Nat) (op : Nat) (w64 : Bool) (b c : Nat) : State × Nat :=
  let s := s.homeView die (l.headD 0)
  let old := natLE (l.map s.rd)
  match atomNew op w64 old b c with
  | none => (s, old)
  | some v => ((List.zip l (bytesLE l.length v)).foldl (fun s x => s.homeWrite die x.1 x.2) s, old)

/-- An atomic in the issuing core's L1 (R264, R275). -/
def State.atomicL1 (s : State) (a : Access) (op : Nat) (w64 : Bool) : State × Nat :=
  let (s, bs) := s.loadBytes a.core a.ctx a.coh a.bytes
  let old := natLE bs
  match atomNew op w64 old a.b.bits.toNat a.c.bits.toNat with
  | none => (s, old)
  | some v => (s.storeBytes a.core a.ctx a.coh a.bytes (bytesLE a.bytes.length v), old)

/-- A request to another package for an access (R425, R439): the access waits for its response. -/
def State.sendRemote (s : State) (a : Access) (p : Nat) (op : RemoteOp) : State :=
  let id := s.reqSeq + 1
  (({ s with reqSeq := id } : State).updAccess a.id fun a => { a with phase := .remote id }).sendOut p
    (.memReq { id := id, spkg := s.pkgid, score := a.core, dpkg := p, addr := a.bytes.headD 0, op := op })

/-- The value a load delivers from its bytes (R141). -/
def loadValue (a : Access) (bs : List Byte) (scale : Nat) : Word :=
  let raw := match a.nibble with
    | none => natLE bs
    | some hi => if hi then natLE bs / 16 % 16 else natLE bs % 16
  if a.scaleAt.isSome then scaledValue a.format raw scale else BitVec.ofNat 64 raw

/-- The bytes a store writes, given what stands there (for a 4-bit element, the other nibble stays). -/
def storeBytesOf (a : Access) (old : List Byte) : List Byte :=
  match a.nibble with
  | none => bytesLE a.bytes.length a.b.bits.toNat
  | some hi =>
    let o := natLE old
    let v := bits a.b.bits.toNat 0 4
    bytesLE 1 (if hi then o % 16 + 16 * v else o / 16 * 16 + v)

/-- A remote line the L1 holds under SHRD serves a load (R439, R255). -/
def State.remoteHit (s : State) (a : Access) (p : Nat) (l : List Nat) : Option (List Byte) :=
  if a.coh ≠ 2 then none
  else l.foldl (fun acc x => match acc, s.farByte a.core p x with | some l, some b => some (l ++ [b]) | _, _ => none) (some [])

/-- Bytes of another package's memory as its owner has answered, cached under SHRD, with what the core has stored over them. -/
def State.remoteGot (s : State) (a : Access) (p : Nat) (l : List Nat) (bs : List Byte) : State × List Byte :=
  if a.coh ≠ 2 then (s, bs)
  else ((List.zip l bs).foldl (fun s x => s.farFill a.core a.ctx p x) s, (List.zip l bs).map (s.farMerged a.core p))

/-- The values of some bytes, those read before in their place (R144). -/
def Access.withPart (a : Access) (bs : List Byte) : List Byte :=
  bs.zipIdx.map fun (b, i) => ((a.part.find? (·.1 == i)).map (·.2)).getD b

/-- The bytes of a store that are still to be written. -/
def Access.left (a : Access) (bs : List Byte) : List (Nat × Byte) :=
  ((List.zip a.bytes bs).zipIdx.filter fun x => !a.part.any (·.1 == x.2)).map (·.1)

/-- A load is performed. -/
def State.performLoad (s : State) (a : Access) : State :=
  match a.pkg with
  | some p =>
    (match s.remoteHit a p a.bytesAll with
     | some bs =>
       s.deliverAccess a { bits := loadValue a (a.withPart (if a.scaleAt.isSome then bs.drop 1 else bs)) ((bs.headD 0).toNat) }
     | none => s.sendRemote a p (.read a.bytes.length))
  | none =>
    if a.space = .hbm then
      let (s, bs) := s.loadBytes a.core a.ctx a.coh a.bytes
      let (s, sc) := match a.scaleAt with
        | some x => let (s, b) := s.loadByte a.core a.ctx a.coh x
                    (s, b.toNat)
        | none => (s, 0)
      s.deliverAccess a { bits := loadValue a (a.withPart bs) sc }
    else s.deliverAccess a { bits := loadValue a (a.withPart (a.bytes.map s.rd)) 0 }

/-- The bytes of a store to another package's memory: dirty in the L1 under SHRD, else as one write that enters the outbound queue
(R439, R440). -/
def State.remoteStore (s : State) (a : Access) (p : Nat) (l : List (Nat × Byte)) : State :=
  if a.coh = 2 then l.foldl (fun s x => s.storeL1 a.core a.ctx 2 (some p) x.1 x.2) s
  else s.postWrite a.core a.ctx p
    (if a.orphan then none else some { fid := a.fid, idx := a.idx, handle := a.handle, offset := curOffset a.a.bits }) l

/-- A store is performed (R145): at core scope in the L1, at home, at its bank, or, for another package's memory, by
entering the outbound queue (R440). -/
def State.performStore (s : State) (a : Access) : State :=
  match a.pkg with
  | some p =>
    -- of a 4-bit element the byte is read first
    let old := if a.nibble.isNone then some [] else
      match s.remoteHit a p a.bytes with
      | some bs => some bs
      | none => a.got.map fun w => bytesLE a.bytes.length w.toNat
    (match old with
     | none => s.sendRemote a p (.read a.bytes.length)
     | some old => (s.remoteStore a p (a.left (storeBytesOf a old))).deliverAccess a { bits := 0 })
  | none =>
    if a.space = .hbm then
      let (s, old) := if a.nibble.isSome then s.loadBytes a.core a.ctx a.coh a.bytes else (s, [])
      let l := a.left (storeBytesOf a old)
      (s.storeBytes a.core a.ctx a.coh (l.map (·.1)) (l.map (·.2))).deliverAccess a { bits := 0 }
    else (s.wrAll (a.left (storeBytesOf a []))).deliverAccess a { bits := 0 }

/-- Whether an access is made of separate byte accesses (R144): a plain one of several bytes whose first address is no
multiple of its width. -/
def Access.splits (a : Access) : Bool :=
  a.nibble.isNone && a.scaleAt.isNone && a.bytes.headD 0 % (max 1 a.bytes.length) ≠ 0 &&
  match a.instr with
  | .ld _ _ _ _ | .ldsp _ _ _ _ | .lda _ _ _ _ => true
  | i => plainStore i

/-- One byte of a misaligned access is performed. -/
def State.byteAccess (s : State) (a : Access) (i : Nat) : State :=
  match a.bytes[i]? with
  | none => s
  | some x =>
    let note := fun (s : State) (b : Byte) => s.updAccess a.id fun a => { a with part := a.part ++ [(i, b)] }
    let mine := (storeBytesOf a [])[i]?.getD 0
    match plainStore a.instr, a.pkg with
    | true, some p => note (s.remoteStore a p [(x, mine)]) mine
    | true, none => note (if a.space = .hbm then s.storeByte a.core a.ctx a.coh x mine else s.wr x mine) mine
    | false, some p =>
      (match s.remoteHit a p [x] with
       | some bs => note s (bs.headD 0)
       | none => (s.updAccess a.id fun a => { a with one := some i }).sendRemote { a with bytes := [x] } p (.read 1))
    | false, none =>
      if a.space = .hbm then
        let (s, b) := s.loadByte a.core a.ctx a.coh x
        note s b
      else note s (s.rd x)

/-- An atomic is performed (R264, R275–R278). -/
def State.performAtomic (s : State) (a : Access) (op : Nat) (w64 : Bool) (ord : Order) (sc : Scope) : State :=
  let sc := a.scopeOf sc
  match (if ord = .rel || ord = .ar then s.releaseFor a sc else (s, true)) with
  | (s, false) => s
  | (s, true) =>
    match a.pkg with
    | some p => (s.flushLines a.core (some p) a.bytes).sendRemote a p (.atomic op w64 a.b.bits a.c.bits)
    | none =>
      let (s, old) :=
        if sc = .core && (a.coh = 1 || a.coh = 2) then s.atomicL1 a op w64
        else (s.flushLines a.core none a.bytes).atomicHome (dieOf a.core) a.bytes op w64 a.b.bits.toNat a.c.bits.toNat
      let s := if ord = .acq || ord = .ar then s.acquire a.core (some sc) else s
      s.deliverAccess a { bits := BitVec.ofNat 64 old }

/-- A keyed arrival is sent to the unit at its word's home (R259, R279), or to another package. -/
def State.sendArrival (s : State) (a : Access) (rel : Bool) (sc : Scope) : State :=
  let sc := a.scopeOf sc
  match (if rel then s.releaseFor a sc else (s, true)) with
  | (s, false) => s
  | (s, true) =>
    let key := bits a.c.bits.toNat 0 32
    let last := a.c.bits.getLsbD 32
    let x : BitVec 32 := if a.b.void then 0 else BitVec.ofNat 32 a.b.bits.toNat
    match a.pkg with
    | some p => (s.flushLines a.core (some p) a.bytes).sendRemote a p (.ordered key last x)
    | none =>
      let s := s.flushLines a.core none a.bytes
      let arr : RedArrival := {
        die := dieOf a.core, ctx := a.ctx, addr := a.bytes.headD 0, key := key, last := last, x := x, acc := some a.id, stalled := false }
      ({ s with arrivals := s.arrivals ++ [arr] } : State).updAccess a.id fun a => { a with phase := .atUnit }

/-- `fence` (R281). -/
def State.performFence (s : State) (a : Access) (sc : Scope) : State :=
  match s.releaseFor a sc with
  | (s, false) => s
  | (s, true) => (s.acquire a.core (some sc)).deliverAccess a { bits := 0 }

/-- The read of a spawn record (R218–R220): the header, which says how long the record is; the access then stands for the
token bytes, whose order is still to be free. -/
def State.performSpawnHeader (s : State) (a : Access) : State :=
  let (s, hb) := s.loadBytes a.core a.ctx a.coh a.bytes
  let n := 64 + 16 * bits (natLE hb) 425 7
  let r := (s.orcHit a.core a.ctx a.handle).getD (s.tableRec a.ctx a.handle)
  match s.translate a.core a.ctx a.a.bits r { read := true } (r.coverFor n (curOffset a.a.bits)) (fun o => r.bytesFor n o) none
      (fun _ => none) with
  | (s, .fault c d) => s.faultAccess a c d
  | (s, .outOfShape f) => s.faultAccess a 0x01 (oosDetail a f)
  | (s, .bytes l) => s.updAccess a.id fun a => { a with header := hb, bytes := l.drop 64 }

/-- The base of a program image as a spawn record names it by its handle (R219): its record stands in the table, VALID and well formed,
of KIND program image, with read permission, on a page boundary. -/
def State.imageBase (s : State) (x h : Nat) : Option Nat :=
  let r := s.tableRec x h
  if h < 2 ^ s.otrecs && r.state = 1 && r.wellFormed s.pool && r.kind = 4 && r.read && r.base % 4096 = 0 then some r.base else none

/-- The tokens of a spawn record: the launch is submitted when the firing ends. -/
def State.performSpawn (s : State) (a : Access) : State :=
  if a.header.isEmpty then s.performSpawnHeader a
  else
    let hdr := natLE a.header
    let (s, bs) := s.loadBytes a.core a.ctx a.coh a.bytes
    let h := bits hdr 0 19
    let bad := s.faultAccess a 0x07 [w64 (bits hdr 0 64)]
    if bits hdr 19 29 ≠ 0 || bits hdr 432 16 ≠ 0 || bits hdr 448 64 ≠ 0 then bad
    else
      match s.imageBase a.ctx h with
      | none => bad
      | some base =>
        let sub : SpawnSub := {
          id := a.id, idx := a.idx, ctx := a.ctx, core := a.core, fid := a.fid, header := BitVec.ofNat 512 hdr,
          toks := (List.range (bits hdr 425 7)).map fun k => BitVec.ofNat 128 (natLE ((bs.drop (16 * k)).take 16)),
          image := base, cont := a.b.bits, order := curOffset a.a.bits }
        ({ s with spawns := s.spawns ++ [sub] } : State).deliverAccess a { bits := 0 }

/-- A read meets every error planted in its bytes, one after another, as long as the retry cures them. -/
def State.meetErrors : Nat → State → Access → State × Option (List Word)
  | 0, s, _ => (s, none)
  | n + 1, s, a =>
    match s.meetError a with
    | none => (s, none)
    | some (s, none) => State.meetErrors n s a
    | some (s, some d) => (s, some d)

/-- The DETAIL of an access whose bytes, its scale byte among them, lie in a block of a lasting list (R402). -/
def State.lastingFault (s : State) (a : Access) : Option (List Word) :=
  if a.space ≠ .hbm || a.pkg.isSome then none
  else (a.bytesAll.find? s.lastingAt).map fun x => [w64 a.handle, w64 a.gen, w64 ((x - a.base) / 2 ^ (12 + a.gran))]

/-- Performing access `a`, its order being free. A read that meets a memory error is retried once (R402); an access to a block that has
come into a lasting list faults. -/
def State.perform (s : State) (a : Access) : State :=
  let go := fun s : State =>
    match a.instr with
    | .ld _ _ _ _ | .ldsp _ _ _ _ | .lda _ _ _ _ => s.performLoad a
    | .st _ _ _ _ | .stsp _ _ _ _ | .sta _ _ _ _ => s.performStore a
    | .redo _ _ rel sc => s.sendArrival a rel sc
    | .fence _ sc _ _ => s.performFence a sc
    | .spawn _ _ _ => s.performSpawn a
    | i =>
      match atomicOf i with
      | some (16, w, ord, sc) =>
        if s.isDet a.ctx then s.sendArrival a (ord = .rel || ord = .ar) sc else s.performAtomic a 16 w ord sc
      | some (op, w, ord, sc) => s.performAtomic a op w ord sc
      | none => s
  let reads := a.nibble.isSome || match a.instr with | .st _ _ _ _ | .stsp _ _ _ _ | .sta _ _ _ _ | .fence _ _ _ _ => false | _ => true
  match s.lastingFault a, (if reads && a.pkg.isNone then State.meetErrors s.errors.length s a else (s, none)) with
  | some d, _ => s.faultAccess a 0x04 d
  | none, (s, some d) => s.faultEcc a d
  | none, (s, none) => go s

/-- The stacks an access of this package reaches have units left in their windows (R453). -/
def State.budgetFree (s : State) (a : Access) : Bool := a.pkg.isSome || s.unitsFor a.bytesAll

/-- An access of this package is charged (R453). -/
def State.charge (s : State) (a : Access) : State := if a.pkg.isSome then s else s.chargeUnits a.bytesAll

/-- Whether an access may be performed now: its bytes are known, its order is free, and its stacks serve it; arrivals and
waits of a barrier have steps of their own. -/
def State.mayPerform (s : State) (a : Access) : Bool :=
  let barrier := match a.instr with | .arrive _ _ _ | .waitb _ _ _ => true | _ => false
  a.phase = .ready && a.err.isNone && !barrier && s.orderFree a && s.budgetFree a

/-- An access is performed; its bytes are charged unless it still waits. -/
def State.performCharged (s : State) (a : Access) : State :=
  let t := s.perform a
  if t.accesses.any fun o => o.id = a.id && o.phase = .ready && o.header = a.header then t else t.charge a

/-- The access is performed where it may be; a spawn record's tokens follow its header where their order is free. -/
def State.performIf (s : State) (a : Access) : State :=
  if s.mayPerform a then
    let t := s.performCharged a
    match t.accesses.find? (·.id == a.id) with
    | some o => if o.header ≠ a.header && t.mayPerform o then t.performCharged o else t
    | none => t
  else s

/-- One byte of the misaligned access at `k` is performed, where the access itself may be (R144). -/
def State.performByte (s : State) (k i : Nat) : State :=
  match s.accesses[k]? with
  | none => s
  | some a =>
    if s.mayPerform a && a.splits && !a.part.any (·.1 == i) && (s.meetError a).isNone && (s.lastingFault a).isNone then s.byteAccess a i else s

/-- WALK: the walk that the access at `k` waits for is made (R241), as far as the record's stack lets it (R453). -/
def execWalk (k : Nat) (s : State) : Res :=
  .next (match s.accesses[k]? with
    | none => s
    | some a =>
      if a.phase ≠ .walking || !s.unitsFor (s.recBytes a.ctx a.handle) then s
      else
        let s := s.chargeUnits (s.recBytes a.ctx a.handle)
        match s.walk a.ctx a.handle with
        | .use r => (s.orcInstall a.core a.ctx a.handle r).proceed a r
        | .moving => s.updAccess a.id fun a => { a with phase := .moving }
        | .bad d => s.faultAccess a 0x08 d)

/-! ### The barrier unit (R260, R287–R289) -/

/-- A waiter's token (R289). -/
def State.releaseWaiter (s : State) (w : Waiter) (word : Word) : State :=
  (s.answerCont w.ctx (1024 + homeDie w.addr) w.core w.cont word (some .pkg)).moved w.ctx

/-- The waiters that stand on a word and whose phase has passed get the word's value. -/
def State.releaseAll (s : State) (addr : Nat) (word : Word) : State :=
  let go := s.waiters.filter fun w => w.addr = addr && w.phase ≠ bits word.toNat 48 16
  let s := { s with waiters := s.waiters.filter fun w => !go.contains w }
  go.foldl (fun s w => s.releaseWaiter w word) s

/-- The word after `n` parties arrive, after the first phase change if any, and after all. -/
def barrierStep (word n : Nat) : Option Nat × Nat :=
  let expect := bits word 0 24
  let sum := bits word 24 24 + n
  let ph := bits word 48 16
  let q := sum / expect
  let mk := fun p a => at_ (p % 65536) 48 + at_ (a % 2 ^ 24) 24 + expect
  (if q = 0 then none else some (mk (ph + 1) (sum - expect)), mk (ph + q) (sum % expect))

/-- A unit's read of the word that an access names, which may meet a memory error (R402). -/
def State.readWord (s : State) (a : Access) (k : State → State) : State :=
  match s.lastingFault a, State.meetErrors s.errors.length s a with
  | some d, _ => s.faultAccess a 0x04 d
  | none, (s, some d) => s.faultEcc a d
  | none, (s, none) => k s

/-- BARRIER_ARRIVAL (R288): after the package-scope release, the unit adds the count and releases waiters. -/
def execBarrierArrival (k : Nat) (s : State) : Res :=
  .next (match s.accesses[k]? with
    | none => s
    | some a =>
      match a.instr with
      | .arrive _ _ _ =>
        if a.phase ≠ .ready || a.err.isSome || !s.orderFree a || !s.budgetFree a then s
        else
          match s.releaseFor a .pkg with
          | (s, false) => s
          | (s, true) =>
            s.readWord a fun s =>
            let s := ((s.charge a).flushLines a.core none a.bytes).homeView (dieOf a.core) (a.bytes.headD 0)
            let addr := a.bytes.headD 0
            let word := s.rdNat addr 8
            if bits word 0 24 = 0 then
              s.faultAccess a 0x0A [w64 a.handle, w64 (curOffset a.a.bits), w64 word]
            else
              let n := a.b.bits.toNat
              if n = 0 then s.deliverAccess a { bits := w64 word }
              else
                let (first, last) := barrierStep word n
                let s := s.wrN addr (bytesLE 8 last)
                let s := match first with | some w => s.releaseAll addr (w64 w) | none => s
                s.deliverAccess a { bits := w64 word }
      | _ => s)

/-- BARRIER_REGISTRATION (R289): with 4,096 waiters in the slice the registration stalls. -/
def execBarrierRegistration (k : Nat) (s : State) : Res :=
  .next (match s.accesses[k]? with
    | none => s
    | some a =>
      match a.instr with
      | .waitb _ _ _ =>
        if a.phase ≠ .ready || a.err.isSome || !s.orderFree a || !s.budgetFree a then s
        else
          s.readWord a fun s =>
          let addr := a.bytes.headD 0
          let s1 := ((s.charge a).flushLines a.core none a.bytes).homeView (dieOf a.core) addr
          let word := s1.rdNat addr 8
          let w : Waiter := { ctx := a.ctx, core := a.core, addr := addr, phase := bits a.c.bits.toNat 0 16,
                              cont := a.b.bits, epoch := 0 }
          if bits word 48 16 ≠ w.phase then (s1.releaseWaiter w (w64 word)).deliverAccess a { bits := 0 }
          else if ((s.ctx? a.ctx).map (·.draining.isSome)).getD true then s.deliverAccess a { bits := 0 }
          else if 4096 ≤ (s1.waiters.filter fun v => homeDie v.addr = homeDie addr).length then s
          else ({ s1 with waiters := s1.waiters ++ [w] } : State).deliverAccess a { bits := 0 }
      | _ => s)

/-- Waiters whose word's phase a plain store has changed are released (R260). -/
def State.waiterCheck (s : State) : State :=
  match s.waiters.find? fun w => bits (s.rdNat w.addr 8) 48 16 ≠ w.phase with
  | none => s
  | some w => s.releaseAll w.addr (w64 (s.rdNat w.addr 8))

end Sys2Proof.Machine
end

