-- ==== Sys2Proof/Machine/Yard.lean ====
section
/-! DEFINITION. The yard: launch records and their refusal (R175–R177), queues, admission and what it installs
(R183–R186, R237, R251, R385, R408), entry tokens, spawn submissions and answers (R219–R223), the occupancy tree, the
drover and completion (R196–R198), the end of a context (R207, R255, R280, R401). -/

namespace Sys2Proof.Machine

/-! ### Launch records (R175, R176) -/

def lhImage (h : BitVec 512) : Nat := bits h.toNat 0 48
def lhPrio (h : BitVec 512) : Nat := bits h.toNat 51 5
def lhDet (h : BitVec 512) : Bool := bits h.toNat 56 1 = 1
def lhSeed (h : BitVec 512) : Nat := bits h.toNat 64 64
def lhCores (h : BitVec 512) : Nat := bits h.toNat 128 256
def lhSeedSrc (h : BitVec 512) : Bool := bits h.toNat 403 1 = 1
def lhCount (h : BitVec 512) : Nat := bits h.toNat 404 9
def lhGang (h : BitVec 512) : Nat := bits h.toNat 432 16
def lhTick (h : BitVec 512) : Nat := bits h.toNat 448 64
def lhNtok (h : BitVec 512) : Nat := bits h.toNat 425 7
/-- Frame segments and reserve frames, with their defaults. -/
def lhFrames (h : BitVec 512) : Nat := let f := bits h.toNat 413 5; if f = 0 then 4 else f
def lhReserve (h : BitVec 512) : Nat := let r := bits h.toNat 418 7; if r = 0 then 256 else 16 * r

def tkPayload (t : BitVec 128) : Word := BitVec.ofNat 64 (bits t.toNat 64 64)
def tkBlock (t : BitVec 128) : Nat := bits t.toNat 52 12
def tkSlot (t : BitVec 128) : Nat := bits t.toNat 49 3
def tkVoid (t : BitVec 128) : Bool := t.getLsbD 48
def tkReserved (t : BitVec 128) : Nat := bits t.toNat 10 38
def tkIdx (t : BitVec 128) : Nat := bits t.toNat 0 10


/-- Live contexts of a core. -/
def State.liveOn (s : State) (core : Nat) : Nat := (s.ctxs.filter fun c => c.pasture.contains core).length

/-- How many cores a record asks for. -/
def lhSize (h : BitVec 512) : Nat :=
  if lhCores h = 0 then max 1 (lhCount h) else ((List.range 256).filter fun c => bits (lhCores h) c 1 = 1).length

/-- The pasture, in ascending physical number (R179). -/
def State.pastureOf (s : State) (h : BitVec 512) : List Nat :=
  if lhCores h ≠ 0 then (List.range 256).filter fun c => bits (lhCores h) c 1 = 1
  else sortBy id ((sortBy s.liveOn s.enabledCores).take (lhSize h))

/-- An entry-token record that breaks R177 by its own bits, or by the image. -/
def tokenBad (t : BitVec 128) : Bool := tkReserved t ≠ 0 || (tkVoid t && tkPayload t ≠ 0)

def State.tokenImageBad (s : State) (h : ImageHdr) (t : BitVec 128) : Bool :=
  match s.blockHeader h (tkBlock t) with
  | none => true
  | some w => !hdrMark w || !hdrEntry w || hdrInputs w ≤ tkSlot t

/-- R441 and R443: reason 7. Of an image whose header or gang table fails R9 the table's cases are not judged: the record is accepted and
the launch ends with ILLEGAL_BLOCK (R177). -/
def State.gangRefused (s : State) (lh : BitVec 512) (h : ImageHdr) : Bool :=
  let ms := s.gangMembers h
  lhTick lh < s.tick + 4000 || !s.sync ||
  (s.headerOk h && (h.gang = 0 ||
    (match ms.find? (·.1 == s.pkgid) with | none => true | some m => m.2 ≠ lhSize lh) ||
    65535 < ms.foldl (fun n m => n + m.2) 0 || ms.any fun m => m.1 ≠ s.pkgid && (s.route? m.1).isNone))

/-- The reason a record is refused (R177, R441, R456), the checks in the order of their numbers; `image` is the program
image, `spawned` whether `spawn` made the record. -/
def State.refusal (s : State) (h : BitVec 512) (toks : List (BitVec 128)) (image : Nat) (spawned : Bool) : Option Nat :=
  let ih := s.imageHdr image
  let ok := s.headerOk ih
  let size := if lhGang h = 0 || !ok then lhSize h else (s.gangMembers ih).foldl (fun n m => n + m.2) 0
  if !spawned && !s.isOpen then some 8
  else if bits h.toNat 60 4 ≠ 6 || bits h.toNat 48 3 ≠ 0 || bits h.toNat 57 3 ≠ 0 || bits h.toNat 384 19 ≠ 0 || 23 < lhPrio h ||
     (!spawned && lhImage h % 4096 ≠ 0) then some 1
  else if 16 < bits h.toNat 413 5 || 64 < bits h.toNat 418 7 || 65536 * lhFrames h / 80 < 2 * lhReserve h then some 2
  else if (lhCores h ≠ 0 && lhCount h ≠ 0) || (lhCores h ≠ 0 && (s.pastureOf h).any fun c => !(s.core c).enabled) ||
     (lhCores h = 0 && s.enabledCores.length < lhSize h) then some 3
  else if ok && (64 < lhNtok h || toks.any fun t => tokenBad t || s.tokenImageBad ih t) then some 4
  else if ok && (List.range ih.nblk).any fun b =>
      let e := s.blockEntry ih b
      bits e 62 2 = 2 && size ≤ bits e 32 8 then some 5
  else if 4096 ≤ s.queues.length then some 6
  else if lhGang h ≠ 0 && s.gangRefused h ih then some 7
  else none

/-- DEFSEED as an acceptance in this cycle takes it: a write of the same cycle comes after it (R460). -/
def State.seedNow (s : State) : Word :=
  match s.seedWas with
  | some (c, w) => if c = s.cycle then w else s.defseed
  | none => s.defseed

/-- A record joins its queue (R183); the seed is taken now. -/
def State.accept (s : State) (h : BitVec 512) (toks : List (BitVec 128)) (image prio : Nat) (reply : Reply) : State :=
  let q : Queued := {
    prio := prio, header := h, toks := toks, seed := if lhSeedSrc h then s.seedNow else BitVec.ofNat 64 (lhSeed h),
    reply := reply, image := image }
  { s with queues := s.queues ++ [q] }

/-- The fields of a host packet's header (R434). -/
def hpType (p : HostPkt) : Nat := bits p.header.toNat 0 8
def hpLen (p : HostPkt) : Nat := bits p.header.toNat 16 16
def hpCookie (p : HostPkt) : BitVec 32 := BitVec.ofNat 32 (bits p.header.toNat 32 32)
def hpArg (p : HostPkt) : Word := BitVec.ofNat 64 (bits p.header.toNat 64 64)

/-- The launch record of a packet's body. -/
def hpRecord (p : HostPkt) : BitVec 512 × List (BitVec 128) :=
  (BitVec.ofNat 512 (natLE (p.body.take 64)),
   (List.range ((p.body.length - 64) / 16)).map fun k => BitVec.ofNat 128 (natLE ((p.body.drop (64 + 16 * k)).take 16)))

/-- The host packet at the head of a host port, of a type. -/
def State.hostHead (s : State) (port type : Nat) : Option HostPkt :=
  match (s.ports[port]?.getD {}).inbox with
  | .host p :: _ => if (hpType p) = type then some p else none
  | _ => none

def State.popInbox (s : State) (port : Nat) : State :=
  { s with ports := s.ports.modify port fun p => { p with inbox := p.inbox.drop 1 } }

/-- A refused gang launch, whose other members learn at its tick that this one has not been admitted (R441, R442). -/
def State.noteRefused (s : State) (h : BitVec 512) : State :=
  let ih := s.imageHdr (lhImage h)
  let others := ((s.gangMembers ih).map (·.1)).filter (· ≠ s.pkgid)
  if lhGang h = 0 || !s.headerOk ih || ih.gang = 0 || others.isEmpty then s
  else { s with refused := s.refused ++ [(lhGang h, lhTick h, others)] }

/-- LAUNCH: the launch packet at the head of a host port is accepted into its queue, or refused (R177). -/
def execLaunch (port : Nat) (s : State) : Res :=
  .next (match s.hostHead port 1 with
    | none => s
    | some p =>
      let s := s.popInbox port
      let (h, toks) := (hpRecord p)
      match s.refusal h toks (lhImage h) false with
      | some r => (s.noteRefused h).toHost port 0x82 (hpCookie p) (BitVec.ofNat 64 r) []
      | none => s.accept h toks (lhImage h) (lhPrio h) (.host port (hpCookie p)))

/-! ### Segments and the save pool (R251, R408) -/

/-- The lowest place for `n` units below `top` clear of what is used. -/
def lowestFit (n top : Nat) (used : List (Nat × Nat)) : Option Nat :=
  if n = 0 then some 0
  else minBy id ((0 :: used.map fun u => u.1 + u.2).filter fun a => a + n ≤ top && used.all fun u => u.2 = 0 || !overlap (a, n) u)

/-- Shed segments and accumulator segments in use on a core: those of its contexts, and those given up in a change of partitions
that has not taken effect (R254). -/
def State.usedShed (s : State) (core : Nat) : List (Nat × Nat) :=
  ((s.ctxs.flatMap fun c => c.regions.filter (·.core = core)) ++ (s.core core).leaving).flatMap fun r =>
    [(r.frameSeg, r.frames), (r.scrSeg, r.scratch)]
def State.usedAccum (s : State) (core : Nat) : List (Nat × Nat) :=
  ((s.ctxs.flatMap fun c => c.regions.filter (·.core = core)) ++ (s.core core).leaving).map fun r => (r.accSeg, r.accum)

/-- A core's partitions change (R254): it stops releasing flocks until the change takes effect; a region given up stays taken
until then. -/
def State.repartition (s : State) (core : Nat) (gone : List Region) : State :=
  s.updCore core fun k => { k with parts := true, leaving := k.leaving ++ gone }

/-- Places for the three regions on a core. -/
def fitRegion (core frames scratch accum : Nat) (shed acc : List (Nat × Nat)) : Option Region :=
  match lowestFit frames 24 shed with
  | none => none
  | some f =>
    match lowestFit scratch 24 ((f, frames) :: shed), lowestFit accum 16 acc with
    | some g, some a => some { core := core, frameSeg := f, frames := frames, scrSeg := g, scratch := scratch, accSeg := a, accum := accum }
    | _, _ => none

def State.poolSize (s : State) : Nat := bits s.savepool.toNat 48 8 * 2 ^ 30
def State.savePoolBase (s : State) : Nat := bits s.savepool.toNat 30 18 * 2 ^ 30

/-- The lowest free 64 KiB-aligned place in the save pool. -/
def State.carve (s : State) (size : Nat) : Option (State × Nat) :=
  let n := ceilDiv size 0x10000
  let used := s.saveCarve.map fun c => ((c.1 - s.savePoolBase) / 0x10000, ceilDiv c.2 0x10000)
  if s.poolSize = 0 then none
  else
    match lowestFit n (s.poolSize / 0x10000) used with
    | none => none
    | some k =>
      let a := s.savePoolBase + 0x10000 * k
      some ({ s with saveCarve := s.saveCarve ++ [(a, size)] }, a)

def State.uncarve (s : State) (a : Nat) : State := { s with saveCarve := s.saveCarve.filter (·.1 ≠ a) }

/-- Bytes from `lo` on become what an unlisted byte reads as. -/
def Memory.clear (lo n : Nat) (m : List Host.Cell) : List Host.Cell := m.filter fun c => c.1 < lo || lo + n ≤ c.1

def State.clearMem (s : State) (lo n : Nat) : State := { s with mem := Memory.clear lo n s.mem }

/-! ### Admission (R184, R185) -/

/-- What an admission takes. -/
structure Admission where
  ctx     : Nat
  pasture : List Nat
  regions : List Region
  pen     : Nat
  pin     : Nat
  obj0    : Nat
  carved  : List (Nat × Nat)
  deriving DecidableEq, Repr

/-- The scratchpad and accumulator segments a launch needs; an image that fails its checks is refused at step 1. -/
def State.imageRegions (s : State) (q : Queued) : Nat × Nat :=
  let h := s.imageHdr q.image
  if !s.headerOk h || regionBad h.region (lhFrames q.header) then (0, 0) else (bits h.region 0 5, bits h.region 8 5)

def State.freeCtx (s : State) : Option Nat := (List.range 1024).find? fun x => s.ctxs.all (·.id ≠ x)

/-- Cores held by gang launches that have not started (R185). -/
def State.gangHeld (s : State) : List Nat :=
  s.ctxs.flatMap fun c => match c.gang with | some g => if g.started then [] else c.pasture | none => []

/-- Cores on which a pre-empted context of at least some priority waits for its restore (R413). -/
def State.restoreFirst (s : State) (prio : Nat) : List Nat :=
  (s.ctxs.filter fun c => prio ≤ c.prio).flatMap fun c => (c.saved.filter (·.stage = 3)).map (·.core)

/-- Room in the save pool for a sick pen and a first extent (R408). -/
def State.carveTwo (s : State) : Option (State × Nat × Nat) :=
  match s.carve 0x40000 with
  | none => none
  | some (s, a) => (s.carve 0x100000).map fun (s, b) => (s, a, b)

/-- Where object 0 of a context lies: where the part puts it (R139 does not say), each context's in a place of its own. -/
def objectZeroAt (x : Nat) : Nat := (Config.objectZero % 0xBFC00 + x) * 0x100000

/-- Regions on every core of a pasture. -/
def State.fitAll (s : State) (frames scratch accum : Nat) : List Nat → Option (List Region)
  | [] => some []
  | k :: r =>
    match fitRegion k frames scratch accum (s.usedShed k) (s.usedAccum k), s.fitAll frames scratch accum r with
    | some x, some l => some (x :: l)
    | _, _ => none

/-- R184 for a launch, with the cores that higher launches hold. -/
def State.admissible (s : State) (q : Queued) (held : List Nat) : Option Admission :=
  let pasture := s.pastureOf q.header
  let (scratch, accum) := s.imageRegions q
  if lhGang q.header ≠ 0 && lhTick q.header ≤ s.tick then none
  else if pasture.any fun k => held.contains k || s.gangHeld.contains k || (s.restoreFirst q.prio).contains k then none
  else
    match s.freeCtx, s.fitAll (lhFrames q.header) scratch accum pasture, s.carveTwo with
    | some x, some rs, some (t, a, b) =>
      some { ctx := x, pasture := pasture, regions := rs, pen := a, pin := b, obj0 := objectZeroAt x, carved := t.saveCarve }
    | _, _, _ => none

/-- The head of each queue from priority 23 down: the first that is admissible, and the cores held before it. -/
def State.scan (s : State) : List Nat → List Nat → Option (Queued × Admission)
  | [], _ => none
  | p :: rest, held =>
    match s.queues.find? (·.prio == p) with
    | none => s.scan rest held
    | some q =>
      match s.admissible q held with
      | some a => some (q, a)
      | none => s.scan rest (held ++ s.pastureOf q.header)

def prioDown : List Nat := (List.range 24).reverse

/-! ### Installation (R186, R237, R139, R385) -/

/-- A flat, rank-1 record of bytes (R139, R385): base, elements, COH, and permission bits read, write, atomic. -/
def flatRec (base n coh perm : Nat) : Nat :=
  at_ 1 288 + at_ n 128 + at_ base 64 + at_ 1 62 + at_ 1 59 + at_ 4 53 + at_ 1 48 + at_ coh 46 + at_ perm 41

/-- Template entries: handle word and record. -/
def State.template (s : State) (h : ImageHdr) : List (Nat × Nat) :=
  (List.range h.ntpl).map fun k =>
    (s.rdNat (h.image + h.tploff + 136 * k) 8, s.rdNat (h.image + h.tploff + 136 * k + 8) 128)

def templateHandle (e : Nat × Nat) : Nat := bits e.1 0 19

/-- The lowest failing entry of a template (R237, R139). One whose record is not in state VALID, which R237 does not list, fails too
(DESIGN CHOICE, entry 25). -/
def State.templateBad (s : State) (l : List (Nat × Nat)) : Option (Nat × Nat) :=
  let n := 2 ^ s.otrecs
  let bad := l.zipIdx.filter fun (e, k) =>
    let r := parseRec e.2
    let hd := templateHandle e
    r.state ≠ 1 || !r.wellFormed s.pool || n ≤ hd || n - 64 ≤ hd || bits e.1 19 45 ≠ 0 ||
    (hd = 0 && !(r.kind = 1 && r.rank = 1 && r.format = 4)) || ((l.take k).any fun f => templateHandle f = hd)
  minBy templateHandle (bad.map (·.1))

/-- A PINEXT register of a context that is not live: SIZE and address (R412). -/
def State.pinextOf (s : State) (x k : Nat) : Nat × Nat := ((s.pinext.find? fun e => e.1 = x && e.2.1 = k).map (·.2.2)).getD (0, 0)

/-- The context's table (step 2): everything else INVALID, the template, object 0, the sick-pen records. -/
def State.installTable (s : State) (x : Nat) (l : List (Nat × Nat)) (pen obj0 : Nat) : State :=
  let n := 2 ^ s.otrecs
  let put := fun (s : State) (hd r : Nat) => s.wrN (s.recAddr x hd) (bytesLE 128 r)
  let s := s.clearMem (s.recAddr x 0) (128 * n)
  let s := l.foldl (fun s e => put s (templateHandle e) e.2) s
  let s := if l.any fun e => templateHandle e = 0 then s
    else (put s 0 (flatRec obj0 1048576 1 7)).clearMem obj0 0x100000
  (List.range 64).foldl (fun s k => put s (n - 64 + k) (flatRec (pen + 4096 * k) 4096 3 3)) s

/-- The launch ends before it runs (R59, R237): the FAULT packet, and a spawner's answer. -/
def State.failLaunch (s : State) (q : Queued) (x block index code : Nat) (detail : List Word) : State :=
  let body := reportBytes (recHeader 0 s.tick 0 (Tag.ofBits 0) block 0 0 0 0 false 0 1 index code) detail ++ bytesLE 8 0
  match q.reply with
  | .host port cookie => s.toHost port 0x84 cookie (BitVec.ofNat 64 x) body
  | .spawn c adm core cont =>
    let s := s.toHost 0 0x84 0 (BitVec.ofNat 64 x) body
    if cont = 0 then s
    else
      let a : Answer := { ctx := c, admission := adm, core := core, cont := cont, actx := x, detail := code, outcome := 2 }
      { s with answers := s.answers ++ [a] }

/-- Step 1 of R186: the check, or the result kept of one of the last 64 images. -/
def State.checkImage (s : State) (q : Queued) : State × Except Report Loaded :=
  let bytes := s.rdN q.image (s.imageHdr q.image).ibytes
  let det := lhDet q.header
  let frames := lhFrames q.header
  let r := s.loadImage q.image frames det
  match s.kept.find? fun k => k.image = q.image && k.bytes = bytes && k.det = det && k.frames = frames with
  | some k => (s, match k.report with | some e => .error e | none => r)
  | none =>
    let k : Kept := { image := q.image, bytes := bytes, det := det, frames := frames,
                      report := match r with | .error e => some e | .ok _ => none }
    ({ s with kept := (s.kept ++ [k]).drop (s.kept.length + 1 - 64) }, r)

/-- Steps 4 and 5 of R186 for the tokens and blocks placed on this package's cores. -/
def State.injectEntries (s : State) (x : Nat) : State :=
  match s.ctx? x with
  | none => s
  | some c =>
    let first := (s.logical c).headD (s.pkgid, 0)
    let place := fun (t : Token) => match c.blocks[t.block]? with
      | some b => if b.place = 0 then first else s.placeOf c t first.2
      | none => first
    let s1 := c.entryToks.foldl (fun (s : State) r =>
      let t : Token := {
        block := tkBlock r, slot := tkSlot r, tag := c.rootTag (tkIdx r), epoch := 0,
        payload := if tkVoid r then 0 else tkPayload r, void := tkVoid r, rel := some .pkg, hpkg := s.pkgid }
      let d := place t
      if d.1 = s.pkgid then s.inject x 256 t d.1 d.2 else s) s
    let s2 := c.blocks.zipIdx.foldl (fun (s : State) (b, k) =>
      if b.inputs = 0 && b.entry then
        let t : Token := { block := k, slot := 0, tag := c.rootTag 0, epoch := 0, payload := 0, void := false, rel := some .pkg, hpkg := s.pkgid }
        let d := place t
        if d.1 = s.pkgid then
          s.addComplete { entryOf d.2 x t 0 (s.core d.2).arrival with slots := [] }
        else s
      else s) s1
    (s2.updCtx x fun c => { c with entryDone := true, entryToks := [] }).moved x

/-- Admission of a launch (R184, R186). -/
def State.admitLaunch (s : State) (q : Queued) (a : Admission) : State :=
  let adm := s.admitted
  let s : State := { s with admitted := (adm + 1) % 2 ^ 54, queues := removeAt ((indexOf? (· == q) s.queues 0).getD 0) s.queues }
  let s := match q.reply with
    | .host port cookie => s.toHost port 0x81 cookie (BitVec.ofNat 64 (a.ctx + at_ adm 10)) []
    | .spawn _ _ _ _ => s
  match s.checkImage q with
  | (s, .error (b, i, w, n)) => s.failLaunch q a.ctx b i 0x13 [w64 w, w64 n]
  | (s, .ok l) =>
    let h := s.imageHdr q.image
    let tpl := s.template h
    match s.templateBad tpl with
    | some e => s.failLaunch q a.ctx 4095 255 0x08 [w64 (templateHandle e), w64 e.1]
    | none =>
      let s := ({ s with saveCarve := a.carved } : State).installTable a.ctx tpl a.pen a.obj0
      let gang : Option Gang := if lhGang q.header = 0 then none
        else some { number := lhGang q.header, members := l.members, tick := lhTick q.header, lapsed := q.lapsed,
                    rank := (indexOf? (fun m : Nat × Nat => m.1 = s.pkgid) l.members 0).getD 0
                    pastures := (s.gangCores.filter (·.1 = lhGang q.header)).map (·.2) }
      let c : Ctx := {
        id := a.ctx, admission := adm, prio := q.prio, det := lhDet q.header, seed := q.seed, image := q.image,
        reply := q.reply, blocks := l.blocks, doms := l.doms, handler := l.handler, pasture := a.pasture,
        regions := a.regions, reserve := lhReserve q.header, comps := l.comps, edges := l.edges,
        entryToks := q.toks, gang := gang, sickBase := a.pen, sick := List.replicate 64 {},
        pinBase := (16, a.pin) :: [1, 2, 3].map (s.pinextOf a.ctx), lastMove := s.cycle }
      let s : State := { s with pinext := s.pinext.filter (·.1 ≠ a.ctx), ctxs := s.ctxs ++ [c], gangCores := s.gangCores.filter fun g => gang.isNone || g.1 ≠ lhGang q.header }
      let s := a.regions.foldl (fun s r => s.repartition r.core []) s
      -- a newly assigned scratchpad or accumulator region reads zero (R254)
      let s := a.regions.foldl (fun s r =>
        (s.clearMem (shedAddr r.core (65536 * r.scrSeg)) (65536 * r.scratch)).clearMem
          (accumAddr r.core (32768 * r.accSeg)) (32768 * r.accum)) s
      if gang.isNone then s.injectEntries a.ctx else s.tellOthers a.ctx (.pasture s.pkgid a.pasture)

/-- LAUNCH_ADMISSION. -/
def execLaunchAdmission (s : State) : Res :=
  .next (match s.scan prioDown [] with
    | none => s
    | some (q, a) => s.admitLaunch q a)

/-! ### Spawn (R219–R223) -/

/-- A spawn record's header as the yard takes it: IMAGE from the handle, PRIO at most the spawner's. -/
def spawnHeader (h : BitVec 512) (image : Nat) : BitVec 512 :=
  BitVec.ofNat 512 (h.toNat - bits h.toNat 0 48 + image % 2 ^ 48)

/-- SPAWN_SUBMISSION: the first submission of its context whose firing has ended, once that firing's accesses are
performed at package scope (R221). A record with PRIO above 23 is refused before PRIO is lowered to the spawner's (DESIGN CHOICE, entry
105), and the submissions of firings that have ended are still made while the context drains (DESIGN CHOICE, entry 22). -/
def execSpawnSubmission (k : Nat) (s : State) : Res :=
  .next (match s.spawns[k]? with
    | none => s
    | some p =>
      if !p.ended || (s.spawns.take k).any (fun o => o.ctx = p.ctx && o.ended) || s.accesses.any (·.fid = p.fid) then s
      else
        let s := s.release p.core .pkg
        let s : State := { s with spawns := removeAt k s.spawns }
        match s.ctx? p.ctx with
        | none => s
        | some c =>
          let h := spawnHeader p.header p.image
          let s := s.moved p.ctx
          match s.refusal h p.toks p.image true with
          | some r =>
            if p.cont = 0 then s
            else
              let a : Answer := { ctx := p.ctx, admission := c.admission, core := p.core, cont := p.cont, actx := 0, detail := r, outcome := 1 }
              { s with answers := s.answers ++ [a] }
          | none => s.accept h p.toks p.image (min (lhPrio h) c.prio) (.spawn p.ctx c.admission p.core p.cont))

/-- SPAWN_ANSWER: the answer token goes to the spawner's continuation (R222); one to a spawner that drains is counted
STRAY (R224). -/
def execSpawnAnswer (k : Nat) (s : State) : Res :=
  .next (match s.answers[k]? with
    | none => s
    | some a =>
      let s : State := { s with answers := removeAt k s.answers }
      match s.ctx? a.ctx with
      | none => s
      | some c =>
        if c.admission ≠ a.admission then s
        else if c.draining.isSome then s.countStray a.ctx
        else
          (s.answerCont a.ctx 256 a.core a.cont (w64 (at_ a.actx 16 + at_ a.detail 8 + a.outcome)) (some .pkg)).moved a.ctx)

/-! ### The occupancy tree and the drover (R196–R198, R223, R280, R285, R289) -/

/-- Spawned launches of a context whose answers are awaited (R223), once submitted: their continuations. -/
def State.awaitedSpawns (s : State) (c : Ctx) : List Word :=
  let of := fun (r : Reply) => match r with
    | .spawn x adm _ cont => if x = c.id && adm = c.admission && cont ≠ 0 then [cont] else []
    | .host _ _ => []
  (s.queues.flatMap fun q => of q.reply) ++ (s.ctxs.flatMap fun d => of d.reply) ++
  ((s.answers.filter fun a => a.ctx = c.id && a.admission = c.admission).map (·.cont))

/-- These, and those whose spawning firing has not yet submitted them. -/
def State.spawnedFrom (s : State) (c : Ctx) : List Word :=
  s.awaitedSpawns c ++ ((s.spawns.filter fun p => p.ctx = c.id && p.cont ≠ 0).map (·.cont))

/-- Requests of a context in the units of this package, and answers that wait for one. -/
def State.unitReqs (s : State) (x : Nat) : List UnitReq :=
  (s.cores.flatMap fun k => (k.relq ++ k.grantq ++ k.waitq).filter (·.ctx = x)) ++ ((s.outbox.map (·.2)).filter (·.ctx = x))

/-- Tokens on their way: in the network, in queues and buffers before a fold, held at senders (R132, R412, R418). -/
def State.movingTokens (s : State) (x : Nat) : List Token :=
  ((s.transit ++ s.pinHeld ++ s.cores.flatMap fun k => k.landed ++ k.inq ++ k.buffer).filter (·.ctx = x)).map (·.tok) ++
  (s.held.filter (·.ctx = x)).map (·.tok)

/-- Messages of a gang that have not left the package or are not yet taken. -/
def State.gangMsgs (s : State) (g : Nat) : List LinkMsg :=
  ((s.netOut.map (·.2)) ++ s.ports.flatMap fun p => p.inbox ++ p.replay.flatMap (·.msgs)).filter fun m =>
    match m with
    | .token _ _ _ _ n _ => n = g
    | .request _ _ n _ => n = g
    | _ => false

/-- Lanes that have not ended: resident, waiting for a slot, in records, saved. -/
def State.lanesOf (s : State) (c : Ctx) : List (Nat × Lane) :=
  ((s.flocks.filter (·.ctx = c.id)).flatMap fun f => f.lanes.map fun l => (f.block, l)) ++
  ((s.resumed.filter (·.ctx = c.id)).map fun r => (r.block, r.lane)) ++
  (c.sick.filterMap fun k => if k.status = .free then none else k.lane.map fun l => (k.block, l)) ++
  c.saved.flatMap fun z => (z.flocks.flatMap fun f => f.lanes.map fun l => (f.block, l)) ++ z.resumed.map fun r => (r.block, r.lane)

/-- The continuations of what counts as an engine command (R197, R223, R285, R289, R344). -/
def State.answersTo (s : State) (c : Ctx) : List Word :=
  (s.cmds.filter (·.ctx = c.id)).map (·.cont) ++ (s.lkClaims.filter (·.ctx = c.id)).map (·.cont) ++
  ((s.lkSlots.filter fun k => k.ctx = c.id && k.releasing).map (·.cont)) ++
  (s.waiters.filter (·.ctx = c.id)).map (·.cont) ++ (s.fetches.filter (·.ctx = c.id)).map (·.cont) ++ s.spawnedFrom c

/-- Whether the context has a live instance of a block (R197) other than a ready one. -/
def State.liveElse (s : State) (c : Ctx) (b : Nat) : Bool :=
  let tk := fun t : Token => t.block == b
  (s.movingTokens c.id).any tk || (s.unitReqs c.id).any (fun r => (r.tok.map tk).getD false) ||
  (s.fold.any fun e => e.ctx = c.id && e.block = b) || (s.eldest.any fun e => e.1.ctx = c.id && e.1.block = b) ||
  (c.pin.any fun p => p.entry.block = b) ||
  (s.lanesOf c).any (·.1 = b) || (s.answersTo c).any (fun w => w ≠ 0 && contBlock w = b) ||
  (s.handlerQ.any fun h => h.1 = c.id && h.2.block = b) ||
  (c.saved.any fun z => z.entries.any (·.block = b) || z.readies.any (·.block = b) || z.tokens.any (fun t => tk t.2)) ||
  (match c.gang with
   | none => false
   | some g => (s.gangMsgs g.number).any fun m => match m with
      | .token _ _ _ _ _ t => tk t
      | .request _ _ _ r => (r.tok.map tk).getD false
      | _ => false)

def State.liveBlock (s : State) (c : Ctx) (b : Nat) : Bool :=
  s.liveElse c b || s.ready.any fun r => r.ctx = c.id && r.block = b

/-- The blocks of a component. -/
def Ctx.blocksOf (c : Ctx) (comp : Nat) : List Nat := (List.range c.comps.length).filter fun b => c.comps[b]? = some comp

/-- Whether a component holds its drover by R197 in this package. -/
def Ctx.holdsHere (c : Ctx) (comp : Nat) : Bool :=
  let ins := c.edges.filter (·.2 = comp)
  let entry := (c.blocksOf comp).any fun b => ((c.blocks[b]?).map (·.entry)).getD false
  (entry && c.entryDone) || (!(entry && ins.isEmpty) && ins.all fun e => c.forwarded.contains e.1)

/-- Whether a component holds its drover; in a gang, in every member as rank 0 announces (R442). -/
def Ctx.holdsDrover (c : Ctx) (comp : Nat) : Bool :=
  match c.gang with
  | none => c.holdsHere comp
  | some g => g.drovers.contains comp

/-- The components of a context. -/
def Ctx.compList (c : Ctx) : List Nat := c.comps.eraseDups

/-- DROVER_FORWARD: the component hands its drover on along every edge once no instance of it is live. -/
def execDroverForward (ctx comp : Nat) (s : State) : Res :=
  .next (match s.ctx? ctx with
    | none => s
    | some c =>
      if c.compList.contains comp && c.holdsDrover comp && !c.forwarded.contains comp && c.draining.isNone &&
         (c.edges.any (·.1 = comp)) && (c.blocksOf comp).all fun b => !s.liveBlock c b then
        s.updCtx ctx fun c => { c with forwarded := c.forwarded ++ [comp] }
      else s)

/-- What the occupancy tree counts (R198), every sort of thing once. -/
def State.occupancy (s : State) (c : Ctx) : Nat :=
  let x := c.id
  (s.fold.filter (·.ctx = x)).length + (s.eldest.filter (·.1.ctx = x)).length + (s.ready.filter (·.ctx = x)).length +
  (s.lanesOf c).length + (c.sick.filter (·.status ≠ .free)).length + c.faultq.length +
  (s.answersTo c).length + (s.movingTokens x).length + (s.owed.filter (·.ctx = x)).length +
  c.pin.length + (s.unitReqs x).length + (s.accesses.filter (·.ctx = x)).length +
  (s.remoteOut.filter fun w => w.ctx = x && !w.lost).length + (s.arrivals.filter (·.ctx = x)).length +
  ((s.targets.filter (·.ctx = x)).foldl (fun n t => n + t.buffered.length) 0) +
  (s.hresSubs.filter (·.ctx = x)).length + (s.spawns.filter (·.ctx = x)).length + (s.handlerQ.filter (·.1 = x)).length +
  c.saved.length + (match c.gang with | some g => (s.gangMsgs g.number).length | none => 0)

/-- A unit's queued request that still moves: its release queue is served unless a `dkill` waits there, its grant queue
while the wait list has room or the head can be granted. -/
def State.unitMoves (s : State) (core x : Nat) : Bool :=
  let k := s.core core
  (k.relq.any (fun r => r.ctx = x) && !s.dkillWaits core) ||
  (k.grantq.any (fun r => r.ctx = x) && (k.waitq.length < 256 ||
    match k.grantq with | r :: _ => r.closes || (s.tryGrant core r).isSome | [] => false))

/-- An access that nothing but the passing of cycles holds back: a walk, a request to another package, or one ready to be
performed; one that waits behind a barrier arrival or a unit's answer does not move. -/
def State.accMoves (s : State) (a : Access) : Bool :=
  match a.phase with
  | .walking => true
  | .moving => true
  | .remote _ => true
  | .atUnit => false
  | .ready => (match classOf a.instr with | .mxu | .copy | .fabric | .trough => false | _ => true) && s.orderFree a &&
    !(a.before.any fun i => s.accesses.any fun o => o.id = i && o.phase = .atUnit)

/-- Whether a held token waits for the acknowledgement of a write that was lost with its port (R432, R440). -/
def State.heldForLost (s : State) (h : Held) : Bool :=
  s.remoteOut.any (fun w => w.lost && w.ctx = h.ctx) && s.held.any fun o => o.fid = h.fid && o.rel = some .gang

/-- What counts as in motion for the quiescence detector (R399): the tokens of a firing that is held at its end for room too. -/
def State.inMotion (s : State) (c : Ctx) : Bool :=
  let x := c.id
  !(({ s with held := s.held.filter fun h => !s.heldForLost h } : State).movingTokens x).isEmpty || c.pin.any (fun p => p.why = .hot || p.why = .early || p.why = .divert) ||
  s.flocks.any (fun f => f.ctx = x && f.lanes.any (·.status = .ended)) || s.cmds.any (·.ctx = x) || s.lkClaims.any (·.ctx = x) || s.lkSlots.any (fun k => k.ctx = x && k.releasing) ||
  s.fetches.any (·.ctx = x) || s.spawns.any (fun p => p.ctx = x && p.ended) || !(s.awaitedSpawns c).isEmpty ||
  (s.accesses.any fun a => a.ctx = x && s.accMoves a) || s.handlerQ.any (·.1 = x) ||
  (List.range Config.numCores).any (fun k => s.unitMoves k x) ||
  s.notices.any (·.ctx = x) || s.acks.any (·.ctx = x) ||
  s.remoteOut.any (fun w => w.ctx = x && !w.lost) || s.owed.any (·.ctx = x) || s.outbox.any (·.2.ctx = x) || (match c.gang with | some g => !(s.gangMsgs g.number).isEmpty | none => false)

/-! ### The end of a context -/

/-- Everything that a context leaves behind goes (R207, R255, R280, R285, R289, R342, R354): dirty bytes are written
back, caches, activations, filters, targets, fabric slots and buffers are freed, its regions return under R254 and its carved
memory; requests and claims of other contexts that waited for what it held are granted (R157, R344). -/
def State.endCtx (s : State) (c : Ctx) : State :=
  let x := c.id
  let s := s.writeBackOf .pkg (Sector.ownedBy x)
  let s := s.drainBridge fun w => c.pasture.any fun k => dieOf k = w.src
  let gone := [c.sickBase] ++ (c.pinBase.take 1).map (·.2) ++ c.saved.map (·.addr)
  let s := c.regions.foldl (fun (s : State) r => s.repartition r.core [r]) s
  let s : State := { s with
    ctxs := s.ctxs.filter (·.id ≠ x)
    l1 := s.l1.filter fun k => k.ctx ≠ x || k.dirty ≠ 0
    orc := s.orc.filter (·.ctx ≠ x)
    resWords := s.resWords.filter (·.ctx ≠ x)
    acts := s.acts.filter (·.ctx ≠ x)
    filters := s.filters.filter (·.ctx ≠ x)
    notices := s.notices.filter (·.ctx ≠ x)
    acks := s.acks.filter (·.ctx ≠ x)
    targets := s.targets.filter (·.ctx ≠ x)
    arrivals := s.arrivals.filter (·.ctx ≠ x)
    waiters := s.waiters.filter (·.ctx ≠ x)
    fetches := s.fetches.filter (·.ctx ≠ x)
    unpublished := s.unpublished.filter (·.1 ≠ x)
    pens := s.pens.filter (·.ctx ≠ x)
    lkSlots := s.lkSlots.filter (·.ctx ≠ x)
    lkClaims := s.lkClaims.filter (·.ctx ≠ x)
    owed := s.owed.filter (·.ctx ≠ x)
    outbox := s.outbox.filter (·.2.ctx ≠ x)
    banks := s.banks.map fun b => if b.ctx = x then { b with valid := false } else b
    buffers := s.buffers.filter (·.ctx ≠ x)
    saveCarve := s.saveCarve.filter fun k => !gone.contains k.1 }
  (List.range Config.numCores).foldl (fun (s : State) k => State.regrant k ((s.core k).waitq.length + 1) s) s

/-- The word an ending is told to a spawner with. -/
def State.tellSpawner (s : State) (c : Ctx) (detail outcome : Nat) : State :=
  match c.reply with
  | .spawn x adm core cont =>
    if cont = 0 then s
    else
      let a : Answer := { ctx := x, admission := adm, core := core, cont := cont, actx := c.id, detail := detail, outcome := outcome }
      { s with answers := s.answers ++ [a] }
  | .host _ _ => s

/-- Port and cookie of a context's packets: a spawned launch's go to port 0 with COOKIE 0 (R434). -/
def Ctx.replyPort (c : Ctx) : Nat × BitVec 32 :=
  match c.reply with
  | .host port cookie => (port, cookie)
  | .spawn _ _ _ _ => (0, 0)

/-- LAUNCH_COMPLETE (R198): every sink holds its drover and the tree reads zero; in a gang, rank 0 has found it so in
every member (R442). -/
def State.isComplete (s : State) (c : Ctx) : Bool :=
  c.draining.isNone && s.occupancy c = 0 &&
  (match c.gang with
   | some g => g.complete
   | none => c.entryDone && (c.compList.filter fun k => !c.edges.any (·.1 = k)).all c.holdsDrover)

def execLaunchComplete (ctx : Nat) (s : State) : Res :=
  .next (match s.ctx? ctx with
    | none => s
    | some c =>
      if !s.isComplete c then s
      else
        let s := (s.endCtx c).tellSpawner c 0 0
        s.toHost c.replyPort.1 0x83 c.replyPort.2 (w64 ctx) (bytesLE 4 c.killed.toNat ++ bytesLE 4 c.stray.toNat))

/-- DRAIN_COMPLETE (R401): the tree reads zero, and the FAULT packet goes out. A spawner is told OUTCOME 0x02 with the code, of an `abort`
0, which R222 does not name (DESIGN CHOICE, entry 105). -/
def execDrainComplete (ctx : Nat) (s : State) : Res :=
  .next (match s.ctx? ctx with
    | none => s
    | some c =>
      match c.draining with
      | none => s
      | some body =>
        if s.occupancy c ≠ 0 then s
        else
          let s := (s.endCtx c).tellSpawner c (natLE (body.take 1)) 2
          s.toHost c.replyPort.1 0x84 c.replyPort.2 (w64 ctx) (body ++ bytesLE 4 c.killed.toNat ++ bytesLE 4 c.stray.toNat))

/-! ### The quiescence detector (R172, R399) -/

/-- Waiting requests of a context with their unit: (enter tick, core, place in the unit). -/
def State.waitingReqs (s : State) (x : Nat) : List (Nat × UnitReq) :=
  s.cores.zipIdx.flatMap fun (k, c) => ((k.waitq ++ k.grantq ++ k.relq).filter (·.ctx = x)).map fun r => (c, r)

/-- The DETAIL of TAG_EXHAUSTED: DOM, HOME and ACT, the mode, the requested L, then BASE, TOP, W and H. An ENTER or ENTERM that
waits has no activation yet: ACT is then the sender's, BASE, TOP and H read 0, and the L of an ENTERM is that of its lowest mask bit
(DESIGN CHOICE, entry 91). Of an EXPLICIT request or a continuation's it is the iteration that its IDX names (R158). -/
def State.exhaustedDetail (s : State) (c : Ctx) (core : Nat) (r : UnitReq) : List Word :=
  let dom := match r.mode with
    | .inl (.enter t) => t
    | .inl (.enterm t _) => t
    | _ => r.tag.dom.toNat
  let mode := match r.mode with
    | .inl .next => 1
    | .inl (.enter _) => 2
    | .inl (.enterm _ _) => 3
    | .inl .explicit => 5
    | .inl (.cont t) => t
    | .inr (.leave _) => 4
    | .inr .close => 6
    | .inr (.dkill _) => 7
  let a := match r.mode with
    | .inl (.enter _) => none
    | .inl (.enterm _ _) => none
    | _ => s.act? core c.id dom r.tag.act.toNat
  let named := (a.bind (·.recover r.tag.idx.toNat)).getD r.tag.idx.toNat
  let l := match r.mode with
    | .inl .next => literOf r.tag r.epoch + 1
    | .inl (.enter _) => 0
    | .inl (.enterm _ m) => (maskBits m).headD 0
    | .inl .explicit => named
    | .inl (.cont 1) => named + 1
    | .inl (.cont _) => named
    | .inr _ => literOf r.tag r.epoch
  let f := fun k : Activation → Nat => w64 ((a.map k).getD 0)
  [w64 (at_ dom 14 + at_ core 6 + r.tag.act.toNat), w64 mode, w64 l, f (·.base), f (·.top), w64 (c.windowOf dom), f (·.h)]

/-- Whether the detector's conditions stand now. -/
def State.isQuiet (s : State) (c : Ctx) : Bool :=
  c.draining.isNone && !s.isComplete c && c.saved.isEmpty && !s.inMotion c && c.lastMove + 2 ^ 20 ≤ s.cycle &&
  (match c.gang with | some g => g.started | none => true) &&
  c.sick.all fun k => k.status = .free || classOfCode k.code ≠ 1

/-- QUIESCENCE_DETECT: TAG_EXHAUSTED when a request waits, else QUIESCENT; fatal while a record is pending. -/
def execQuiescenceDetect (ctx : Nat) (s : State) : Res :=
  .next (match s.ctx? ctx with
    | none => s
    | some c =>
      if !s.isQuiet c then s
      else
        let (code, detail) := match minBy (fun q => q.2.tick) (s.waitingReqs ctx) with
          | some (core, r) => (0x10, s.exhaustedDetail c core r)
          | none => (0x12, [])
        (s.moved ctx).captureContext ctx code detail (c.sick.any (·.status ≠ .free)))

end Sys2Proof.Machine
end

