-- ==== Sys2Proof/Machine/Pens.lean ====
section
/-! DEFINITION. Pens and flocks (R188–R195): timers, groups, release, the choices of R193, aging; and the tokens' way to the
fold (R132, R412, R418, R429, R430). -/

namespace Sys2Proof.Machine

/-! ### The order of R193 -/

/-- What R193 compares: `slot` breaks the last ties. -/
structure Rank where
  level : Nat
  det   : Bool
  adm   : Nat
  dom   : Nat
  low   : Nat
  since : Nat
  block : Nat
  slot  : Nat
  deriving DecidableEq, Repr

/-- Whether the first of two lists of numbers is lexicographically less. -/
def lexLess : List Nat → List Nat → Bool
  | a :: r, b :: t => a < b || (a = b && lexLess r t)
  | [], _ :: _ => true
  | _, [] => false

/-- Whether `a` goes before `b` (R193). -/
def Rank.before (a b : Rank) : Bool :=
  if a.level ≠ b.level then b.level < a.level
  else if a.det && b.det then lexLess [a.adm, a.dom, a.low, a.block, a.slot] [b.adm, b.dom, b.low, b.block, b.slot]
  else lexLess [a.since, a.block, a.slot] [b.since, b.block, b.slot]

/-- The first by R193. Its order is not transitive among two deterministic flocks and an ordinary one of one level; in such a
cycle the list's order settles which is taken (DESIGN CHOICE, entry 92). -/
def chooseBy {α : Type} (rank : α → Rank) : List α → Option α
  | [] => none
  | a :: r =>
    match chooseBy rank r with
    | none => some a
    | some b => if (rank b).before (rank a) then some b else some a

/-- The level of something of a priority and a level that has waited some cycles (R194): one more for each 4,096. -/
def agedLevel (prio level waited : Nat) : Nat := max level (min (min (prio + 2) 23) (level + waited / 4096))

/-- The cycle from which it goes on waiting for its next level. -/
def agedSince (served cycle : Nat) : Nat := served + (cycle - served) / 4096 * 4096

def State.prioOf (s : State) (x : Nat) : Nat := ((s.ctx? x).map (·.prio)).getD 0

/-! ### What stops a pen (R253, R395, R400, R405) -/

def Ctx.isFaultBlock (c : Ctx) (b : Nat) : Bool := c.handler.getLsbD 15 && bits c.handler.toNat 0 12 = b
def Ctx.isEmulBlock (c : Ctx) (b : Nat) : Bool := c.handler.getLsbD 31 && bits c.handler.toNat 16 12 = b

/-- Whether a pen of a context may not release. A change of partitions or interleave stops every pen of its core, those of handlers too
(R254; entry 96); a pause or a break stops no handler's (R395, R400), and a pre-emption at first no fault handler's (R405). -/
def State.penStopped (s : State) (c : Ctx) (core block : Nat) : Bool :=
  let handler := c.isFaultBlock block || c.isEmulBlock block
  c.draining.isSome || (s.core core).ilvPend.isSome || (s.core core).parts || (s.core core).power ≠ .running ||
  ((c.paused || !c.brk.isEmpty) && !handler) ||
  (match c.section? core with
   | none => false
   | some z => !(z.stage = 1 && c.isFaultBlock block))

/-! ### Due pens and groups -/

/-- Ready instances of a pair on a core, the first to become ready first; those of one cycle in tag order (R189), those restored
together before them in their order (R413). -/
def State.readyOf (s : State) (core x block : Nat) : List Ready :=
  sortBy (·.since) (sortBy (fun r => if r.order = 0 then 2 ^ 64 else r.order) (sortBy (·.tag.toBits.toNat)
    (s.ready.filter fun r => r.core = core && r.ctx = x && r.block = block)))

/-- The timer of a class in cycles (R10). -/
def timerOf (tclass : Nat) : Nat := if tclass = 0 then 16 else if tclass = 1 then 48 else if tclass = 2 then 256 else 2048

/-- Whether a unit of this package reports an iteration closed, killed, or never to be opened (R190). -/
def State.closedHere (s : State) (x home dom act l : Nat) : Bool :=
  match s.act? home x dom act with
  | none => true
  | some a => l < a.base || a.closedAt l || (a.left && a.top < l)

/-- What a unit of another member has said of the 32 iterations from `l0` on. -/
def Gang.saidNever (g : Gang) (hpkg home dom act l0 : Nat) : BitVec 32 :=
  ((g.never.find? fun n => n.1 = hpkg && n.2.1 = home && n.2.2.1 = dom && n.2.2.2.1 = act && n.2.2.2.2.1 = l0).map (·.2.2.2.2.2)).getD 0

/-- Whether the home unit, here or in another member of the gang, reports an iteration closed, killed or never to be opened. -/
def State.neverComes (s : State) (r : Ready) (l : Nat) : Bool :=
  if r.hpkg = s.pkgid then s.closedHere r.ctx r.tag.home.toNat r.tag.dom.toNat r.tag.act.toNat l
  else (((s.ctx? r.ctx).bind (·.gang)).map fun g =>
    (g.saidNever r.hpkg r.tag.home.toNat r.tag.dom.toNat r.tag.act.toNat (l / 32 * 32)).getLsbD (l % 32)).getD false

/-- Every live instance of a component in this package waits in an aligned group. -/
def State.alignedHere (s : State) (c : Ctx) (comp : Nat) : Bool :=
  (c.blocksOf comp).all fun b => !s.liveElse c b &&
    (((c.blocks[b]?).map (·.aligned)).getD false || s.ready.all fun r => !(r.ctx = c.id && r.block = b))

/-- Every live instance of a block's component waits in an aligned group (R190); in a gang, in every member (R442). -/
def State.allAligned (s : State) (c : Ctx) (comp : Nat) : Bool :=
  match c.gang with
  | some g => g.alignedAll.contains comp && s.alignedHere c comp
  | none => s.alignedHere c comp

/-- Whether a group is due (R190, R191). -/
def State.groupDue (s : State) (c : Ctx) (b : LBlock) (g : List Ready) : Bool :=
  match g with
  | [] => false
  | r :: _ =>
    g.length = 32 || g.any (·.late) ||
    (r.tag.dom ≠ 0 && g.any (·.expired) && (List.range 32).all fun i =>
      g.any (fun q => groupLane q.tag q.epoch = i) || s.neverComes r (literOf r.tag r.epoch / 32 * 32 + i)) ||
    (c.holdsDrover b.comp && s.allAligned c b.comp)

/-- The groups of a pair that are first of their keys. -/
def headGroups (l : List Ready) : List (List Ready) :=
  let keys := (l.map fun r => groupKey r.tag r.epoch).eraseDups
  keys.map fun k =>
    let mine := l.filter fun r => groupKey r.tag r.epoch = k
    let g := (minBy id (mine.map (·.group))).getD 0
    mine.filter (·.group = g)

/-- Something that may become a resident flock: the instances of a due pen or group, or a resumed lane (R391). -/
structure Cand where
  rank    : Rank
  ctx     : Nat
  block   : Nat
  aligned : Bool
  members : List Ready
  resumed : Option Resumed
  pen     : Nat
  deriving DecidableEq, Repr

def rankOf (c : Ctx) (level block since slot : Nat) (tags : List (Tag × BitVec 22)) : Rank :=
  { level := level, det := c.det, adm := c.admission, dom := ((tags.map fun t => t.1.dom.toNat).headD 0),
    low := (minBy id (tags.map fun t => literOf t.1 t.2)).getD 0, since := since, block := block, slot := slot }

/-- What a pen may release now, with the age of the pen's oldest instance (R192). What comes in the cycle in which its timer runs out
still joins (R195): a pen that its timer makes due is released in a later one. R193's last tie-break, the resident slot, has no
meaning for a pen: the pen's index takes its place, with resumed lanes last (DESIGN CHOICE, entry 93). -/
def State.penCands (s : State) (p : Pen) : List Cand :=
  match s.ctx? p.ctx with
  | none => []
  | some c =>
    match c.blocks[p.block]? with
    | none => []
    | some b =>
      let l := s.readyOf p.core p.ctx p.block
      let since := (minBy id (l.map (·.since))).getD 0
      let mk := fun (m : List Ready) => ({
        rank := rankOf c p.level p.block since p.index (m.map fun r => (r.tag, r.epoch)), ctx := p.ctx, block := p.block,
        aligned := b.aligned, members := m, resumed := none, pen := p.index } : Cand)
      if s.penStopped c p.core p.block then []
      else if b.aligned then ((headGroups l).filter (s.groupDue c b)).map mk
      else if (p.due && p.dueAt < s.cycle) || 32 ≤ l.length then [mk (l.take 32)] else []

/-- Resumed lanes that wait for a slot (R391). -/
def State.resumedCands (s : State) (core : Nat) : List Cand :=
  (s.resumed.filter (·.core = core)).filterMap fun r =>
    match s.ctx? r.ctx with
    | none => none
    | some c =>
      if s.penStopped c core r.block then none
      else some { rank := rankOf c r.level r.block r.since 32 [(r.lane.tag, r.lane.epoch)], ctx := r.ctx, block := r.block,
                  aligned := ((c.blocks[r.block]?).map (·.aligned)).getD false, members := [], resumed := some r, pen := 32 }

def State.cands (s : State) (core : Nat) : List Cand :=
  ((s.pens.filter (·.core = core)).flatMap s.penCands) ++ s.resumedCands core

/-- The pipeline a flock goes to, and its slot (R192). -/
def State.freeSlot (s : State) (core : Nat) : Option (Nat × Nat) :=
  let on := fun p => s.flocks.filter fun f => f.core = core && f.pipe = p
  match minBy (fun p => (on p).length) (List.range Config.numPipes) with
  | none => none
  | some p => ((List.range Config.slotsPerPipe).find? fun k => (on p).all (·.slot ≠ k)).map fun k => (p, k)

/-- A fresh firing of an instance. -/
def laneOf (b : LBlock) (fid lane fsize : Nat) (r : Ready) : Lane :=
  { fid := fid, lane := lane, fsize := fsize, tag := r.tag, epoch := r.epoch, hpkg := r.hpkg, frame := r.frame,
    place := r.place, cells := b.cells, hrec := r.hrec }

/-- The lanes of a release, numbered by R189 or R190. -/
def lanesFor (b : LBlock) (fid0 : Nat) (aligned : Bool) (m : List Ready) : List Lane :=
  let n := m.length
  let l := if aligned then sortBy (fun r => groupLane r.tag r.epoch) m else m
  l.zipIdx.map fun (r, k) => laneOf b (fid0 + k) (if aligned then groupLane r.tag r.epoch else k) n r

/-- A release: the instances leave the ready list, the flock becomes resident and acquires at the widest scope its tokens
carried (R256). -/
def State.releaseFlock (s : State) (core pipe slot : Nat) (k : Cand) : State :=
  match (s.ctx? k.ctx).bind (·.blocks[k.block]?) with
  | none => s
  | some b =>
    let fl : Flock := { id := s.reqSeq + 1, core := core, pipe := pipe, slot := slot, ctx := k.ctx, block := k.block,
                        aligned := k.aligned, lanes := [], released := s.cycle, level := k.rank.level, served := s.cycle }
    match k.resumed with
    | some r =>
      (({ s with reqSeq := s.reqSeq + 1, resumed := s.resumed.filter (· ≠ r), flocks := s.flocks ++ [{ fl with lanes := [r.lane] }] }
        : State).stir core).moved k.ctx
    | none =>
      let s : State := { s with
        reqSeq := s.reqSeq + 1 + k.members.length, ready := s.ready.filter (fun r => !k.members.contains r),
        flocks := s.flocks ++ [{ fl with lanes := lanesFor b (s.reqSeq + 2) k.aligned k.members }],
        pens := s.pens.map fun p =>
          if p.core = core && p.index = k.pen then { p with level := s.prioOf p.ctx, served := s.cycle } else p }
      let s := s.updCtx k.ctx fun c => match k.members with
        | r :: _ => if k.aligned then { c with groupsOut := (c.groupsOut ++ [(core, k.block, groupKey r.tag r.epoch)]).eraseDups } else c
        | [] => c
      (((s.promote core).rebind core).acquire core (k.members.foldl (fun m r => scopeMax m r.rel) none)).moved k.ctx

/-- FLOCK_RELEASE: a free slot takes the first of what is due (R189–R193). -/
def execFlockRelease (core : Nat) (s : State) : Res :=
  .next (match s.freeSlot core, chooseBy (·.rank) (s.cands core) with
    | some (p, k), some c => s.releaseFlock core p k c
    | _, _ => s)

/-- The home units of other members are asked which lanes of some groups never come (R190). -/
def State.askGroups (s : State) (x : Nat) (l : List Ready) : State :=
  match (s.ctx? x).bind (·.gang) with
  | none => s
  | some g => (((l.filter fun r => r.hpkg ≠ s.pkgid && r.tag.dom ≠ 0).map fun r =>
      (r.hpkg, GangMsg.groupAsk s.pkgid r.tag.home.toNat r.tag.dom.toNat r.tag.act.toNat (literOf r.tag r.epoch / 32 * 32))).eraseDups).foldl
        (fun (s : State) q => s.sendOut q.1 (.control q.1 s.pkgid g.number q.2)) s

/-- PEN_TIMER_EXPIRY: the oldest instance of a pen, or of a group of it, has reached the block's timer class. Every instance that has
is marked: a group is due by its timer only while one of those is present (R190). A pen that holds more than 32 stays due for all that
it holds (R189). -/
def execPenTimerExpiry (core pen : Nat) (s : State) : Res :=
  .next (match s.pens.find? fun p => p.core = core && p.index = pen with
    | none => s
    | some p =>
      match s.block? p.ctx p.block with
      | none => s
      | some b =>
        let t := timerOf b.tclass
        let l := s.readyOf core p.ctx p.block
        let run := l.filter fun r => r.since + t ≤ s.cycle
        let s : State := { s with
          ready := s.ready.map fun r => if run.contains r then { r with expired := true } else r
          pens := s.pens.map fun q =>
            if q.core = core && q.index = pen && !b.aligned && !run.isEmpty then
              { q with
                due := true, dueAt := if q.due then q.dueAt else s.cycle
                keep := if 32 < l.length then some s.cycle else q.keep }
            else q }
        if b.aligned then s.askGroups p.ctx run else s)

/-! ### Issue choice and aging (R193, R194) -/

/-- The code of a flock's block. -/
def State.codeOf (s : State) (fl : Flock) : List IWord := ((s.block? fl.ctx fl.block).map (·.code)).getD []

def State.flockRank (s : State) (fl : Flock) : Rank :=
  match s.ctx? fl.ctx with
  | none => { level := 0, det := false, adm := 0, dom := 0, low := 0, since := fl.released, block := fl.block, slot := fl.slot }
  | some c => rankOf c fl.level fl.block fl.released fl.slot (fl.lanes.map fun l => (l.tag, l.epoch))

/-- Whether a pipeline may issue in this cycle: it has not issued in it, under a rail alarm nor in the one before (R193, R452). -/
def State.issueTurn (s : State) (core pipe : Nat) : Bool :=
  let slow := ((s.dies[dieOf core]?).map (·.slow)).getD false
  let last := ((s.core core).issued[pipe]?).getD 0
  last + (if slow && last ≠ 0 then 1 else 0) ≤ s.cycle

/-- The flock and index a pipeline issues (R193). -/
def State.issueChoice (s : State) (core pipe : Nat) : Option (Flock × Nat) :=
  if (s.core core).power ≠ .running || !s.issueTurn core pipe then none
  else
    match chooseBy s.flockRank (s.flocks.filter fun f =>
        f.core = core && f.pipe = pipe && (f.nextIndex (s.codeOf f)).isSome) with
    | none => none
    | some f => (f.nextIndex (s.codeOf f)).map fun j => (f, j)

/-- Whether a pen is due. -/
def State.penDue (s : State) (p : Pen) : Bool := !(s.penCands p).isEmpty

/-- Whether a pen, a flock or a resumed lane gains levels by waiting on (R194, R405). -/
def State.agedPen (s : State) (p : Pen) : Pen :=
  if s.penDue p then
    { p with level := agedLevel (s.prioOf p.ctx) p.level (s.cycle - p.served), served := agedSince p.served s.cycle }
  else p

def State.agedFlock (s : State) (f : Flock) : Flock :=
  if (f.nextIndex (s.codeOf f)).isSome then
    { f with level := agedLevel (s.prioOf f.ctx) f.level (s.cycle - f.served), served := agedSince f.served s.cycle }
  else f

/-- Whether a resumed lane may be released now: a stop of its pens holds it too (R395, R405). -/
def State.resumedDue (s : State) (r : Resumed) : Bool :=
  match s.ctx? r.ctx with
  | none => false
  | some c => !s.penStopped c r.core r.block

def State.agedResumed (s : State) (r : Resumed) : Resumed :=
  if s.resumedDue r then
    { r with level := agedLevel (s.prioOf r.ctx) r.level (s.cycle - r.served), served := agedSince r.served s.cycle }
  else r

/-- PRIORITY_AGING of a core: pens that stay due, flocks that keep a ready instruction, resumed lanes, claims of the fabric
(R194, R344). -/
def execPriorityAging (core : Nat) (s : State) : Res :=
  .next { s with
    pens := s.pens.map fun p => if p.core = core then s.agedPen p else p
    flocks := s.flocks.map fun f => if f.core = core then s.agedFlock f else f
    resumed := s.resumed.map fun r => if r.core = core then s.agedResumed r else r
    lkClaims := s.lkClaims.map fun k =>
      if k.core = core then { k with level := agedLevel (s.prioOf k.ctx) k.level (s.cycle - k.since), since := agedSince k.since s.cycle } else k }

/-- As cycles pass, what is not due, and what has nothing ready, does not age: its waiting counts from now. -/
def State.resetAges (s : State) : State :=
  { s with
    pens := s.pens.map fun p => if s.penDue p then p else { p with served := s.cycle }
    flocks := s.flocks.map fun f => if (f.nextIndex (s.codeOf f)).isSome then f else { f with served := s.cycle }
    resumed := s.resumed.map fun r => if s.resumedDue r then r else { r with served := s.cycle } }

/-- A context's pens, on some cores, and the resumed lanes that wait there fall back to PRIO as a stop begins (R395, R405). -/
def State.fallBack (s : State) (x : Nat) (on : Nat → Bool) : State :=
  { s with
    pens := s.pens.map fun p => if p.ctx = x && on p.core then { p with level := s.prioOf x, served := s.cycle } else p
    resumed := s.resumed.map fun r => if r.ctx = x && on r.core then { r with level := s.prioOf x, served := s.cycle } else r }

/-! ### Tokens on their way to the fold -/

/-- Whether an earlier held token has the name and slot of one, so that this one waits behind it (R21). -/
def State.heldAhead (s : State) (t : Transit) : Bool :=
  s.pinHeld.any fun h => h.ctx = t.ctx && h.dst = t.dst && h.tok.block = t.tok.block && h.tok.tag = t.tok.tag &&
    h.tok.slot = t.tok.slot

/-- A token is given to the fold, or waits behind one held at its sender. -/
def State.offer (s : State) (t : Transit) : State :=
  if s.heldAhead t then { s with pinHeld := s.pinHeld ++ [t] } else s.arrive t

/-- TOKEN_ARRIVAL: the core takes the token at the head of its inbound queue, in a cycle after its arrival, when those of the
same cycle stand in the order of their mesh ports and a kill notice of that cycle has been applied (R164, R174). -/
def execTokenArrival (core : Nat) (s : State) : Res :=
  .next (match (s.core core).inq with
    | [] => s
    | t :: r =>
      if (s.core core).power ≠ .running || s.cycle ≤ t.came then s
      else (s.updCore core fun k => { k with inq := r }).offer t)

/-- A token that reaches a core in a cycle stands behind those of that cycle by a lower or the same mesh port (R164). -/
def landBy (t : Transit) : List Transit → List Transit
  | [] => [t]
  | o :: r => if t.mesh < o.mesh then t :: o :: r else o :: landBy t r

/-- At a hot core a token goes to the pinfold with its stamp (R430), behind those of its context that wait for a slot (R412); of a gang
that has not started it waits there for the start (R442). -/
def State.pinHot (s : State) (t : Transit) : State :=
  match s.ctx? t.ctx with
  | none => s
  | some c =>
    if c.draining.isSome then s
    else if s.pinHeld.any (·.ctx = t.ctx) then s.pinfoldFull t.ctx [t]
    else s.pinOrHold (t.entry (c.inputsOf t.tok.block)) (if c.waitsForTick then .early else .hot) [t]

/-- A token enters the inbound queue of a core that runs, or, at a hot one, the pinfold. -/
def State.enqueue (s : State) (t : Transit) : State :=
  if (s.core t.dst).hot then s.pinHot t
  else s.updCore t.dst fun k => { k with inq := k.inq ++ [t], hot := 192 ≤ k.inq.length + 1 }

/-- A token that has landed takes its arrival stamp (R411) and goes on, by the power state of its core (R418). -/
def State.stampOne (s : State) (t : Transit) : State :=
  let k := s.core t.dst
  let t := { t with stamp := k.arrival }
  let s := s.updCore t.dst fun k => { k with arrival := k.arrival + 1 }
  match k.power with
  | .powerGated | .waking => s.updCore t.dst fun k => { k with buffer := k.buffer ++ [t] }
  | _ => s.enqueue t

/-- At the end of a cycle the tokens that landed in it go on, in the order of their mesh ports (R164, R174). -/
def State.stampLanded (s : State) : State :=
  (s.cores.flatMap (·.landed)).foldl State.stampOne { s with cores := s.cores.map fun k => { k with landed := [] } }

/-- A token reaches a core now. -/
def State.reach (s : State) (t : Transit) : State :=
  s.updCore t.dst fun k => { k with landed := landBy { t with came := s.cycle, mesh := Config.meshPort t.src t.dst } k.landed }

/-- The `k`-th token in transit reaches its core, no earlier one of its source and destination being on the way (R429): a
clock-gated core is ungated, at a power-gated one the router buffers up to 64 (R418). -/
def State.hop (s : State) (k : Nat) : State :=
  match s.transit[k]? with
  | none => s
  | some t =>
    if (s.transit.take k).any fun o => o.src = t.src && o.dst = t.dst then s
    else
      let s1 : State := { s with transit := removeAt k s.transit }
      match (s.core t.dst).power with
      | .running => s1.reach t
      | .clockGated => (s1.stir t.dst).reach t
      | _ =>
        if (s.core t.dst).buffer.length + (s.core t.dst).landed.length < 64 then s1.reach t else s

/-- CORE_COOL (R430): the queue has fallen below 64 tokens; the core takes them, then re-presents the slots that waited for
it in ascending stamp, and is no longer hot. -/
def execCoreCool (core : Nat) (s : State) : Res :=
  .next (
    let k := s.core core
    if k.hot && k.inq.length < 64 && k.power = .running && k.inq.all (·.came < s.cycle) then
      let s := s.updCore core fun k => { k with inq := [], hot := false }
      let s := k.inq.foldl State.offer s
      let mine := sortBy (·.stamp) (s.ctxs.flatMap fun c => c.pin.filter fun p => p.core = core && p.why = .hot)
      let s : State := { s with ctxs := s.ctxs.map fun c => { c with pin := c.pin.map fun p =>
        if p.core = core && p.why = .hot then { p with why := if (c.section? core).isSome then .divert else .spilled } else p } }
      mine.foldl (fun s p => if ((s.ctx? p.entry.ctx).bind (·.section? core)).isSome then s else s.represent p) s
    else s)

/-- A held token flows again, with the stamp of its arrival: to its fold, or at a hot core to the pinfold. -/
def State.flowOne (s : State) (t : Transit) : State :=
  match s.ctx? t.ctx with
  | none => s
  | some c =>
    if (s.core t.dst).hot then
      s.pinOrHold (t.entry (c.inputsOf t.tok.block)) (if c.waitsForTick then .early else .hot) [t]
    else s.arriveAt t false

/-- Held tokens of a context flow again in the order in which they were held, as long as a slot is free (R412): a clock-gated core is
ungated, one that is power-gated is woken first (R418). -/
def State.flowHeld (x : Nat) : Nat → State → State
  | 0, s => s
  | n + 1, s =>
    match (s.ctx? x).bind Ctx.pinFree, indexOf? (fun t : Transit => t.ctx = x) s.pinHeld 0 with
    | some _, some k =>
      match s.pinHeld[k]? with
      | some t =>
        match (s.core t.dst).power with
        | .powerGated => s.stir t.dst
        | .waking => s
        | .clockGated => State.flowHeld x n ((({ s with pinHeld := removeAt k s.pinHeld } : State).stir t.dst).flowOne t)
        | .running => State.flowHeld x n (({ s with pinHeld := removeAt k s.pinHeld } : State).flowOne t)
      | none => s
    | _, _ => s

/-- PINFOLD_SLOT_FREE: with a slot free, what a context's senders hold flows again (R412). -/
def execPinfoldSlotFree (ctx : Nat) (s : State) : Res := .next (State.flowHeld ctx s.pinHeld.length s)

/-- PINEXT_WRITE: the driver writes PINEXT `k` of a context (R412); a register whose SIZE is not 0 keeps its value. One of a context that
is not live keeps what is written, and a context admitted later begins with it: the spec does not say what becomes of such a write
(DESIGN CHOICE, entry 94). -/
def State.writePinext (s : State) (ctx k : Nat) (v : Word) : State :=
  let size := bits v.toNat 48 16
  let base := bits v.toNat 16 32 * 2 ^ 16
  match s.ctx? ctx with
  | some _ =>
    let s1 := s.updCtx ctx fun c => match c.pinBase[k]? with
      | some (0, _) => { c with pinBase := c.pinBase.set k (size, base) }
      | _ => c
    State.flowHeld ctx s1.pinHeld.length s1
  | none =>
    if (s.pinextOf ctx k).1 = 0 then { s with pinext := (s.pinext.filter fun e => !(e.1 = ctx && e.2.1 = k)) ++ [(ctx, k, size, base)] }
    else s

def execPinextWrite (ctx k : Nat) (v : Word) (s : State) : Res := .next (s.writePinext ctx k v)

/-! ### Releases (R132) -/

/-- The release of a firing at a scope (R132): what is dirty is written through once its accesses are performed at the scope, and
the flag says whether it is performed. -/
def State.releaseFiring (s : State) (core x fid : Nat) (sc : Scope) : State × Bool :=
  if s.beforeDone ((s.accesses.filter (·.fid = fid)).map (·.id)) then
    let s := s.release core sc
    (s, s.releaseDone sc x)
  else (s, false)

/-- The release that a held token waits for, and whether it is performed. -/
def State.heldRelease (s : State) (h : Held) : State × Bool :=
  match h.owes, h.rel with
  | some w, _ => if s.paid.contains w then ({ s with paid := s.paid.filter (· ≠ w) }, true) else (s, false)
  | none, none => (s, true)
  | none, some sc => s.releaseFiring h.src h.ctx h.fid sc

/-- RELEASE_TOKEN_DELIVERY: the `k`-th held token, first of its firing toward its core unless a unit formed it (R204), is
delivered once its release has been performed: the firing's earlier accesses at the release's scope. Further on, a release
owed to another package is performed and that package told. -/
def execReleaseTokenDelivery (k : Nat) (s : State) : Res :=
  .next (match s.held[k]? with
    | some h =>
      if !h.unit && (s.held.take k).any fun o => o.fid = h.fid && o.dst = h.dst && o.dpkg = h.dpkg && !o.unit then s
      else
        match s.heldRelease h with
        | (s, true) => ({ s with held := removeAt k s.held } : State).inject h.ctx h.src h.tok h.dpkg h.dst
        | (s, false) => s
    | none =>
      match s.owed[k - s.held.length]? with
      | none => s
      | some w =>
        match s.releaseFiring w.core w.ctx w.fid w.rel with
        | (s, false) => s
        | (s, true) =>
          let g := (((s.ctx? w.ctx).bind (·.gang)).map (·.number)).getD 0
          ({ s with owed := s.owed.filter (· ≠ w) } : State).sendOut w.dpkg (.control w.dpkg s.pkgid g (.released s.pkgid w.id)))

end Sys2Proof.Machine
end

