-- ==== Sys2Proof/Machine/System.lean ====
section
/-! DEFINITION. The system instructions (R390–R398), the dispatch of handlers (R384 step 5, R388, R389) and the effect of
responses (R391, R392, R216). -/

namespace Sys2Proof.Machine

/-! ### Traps and emulation (R395, R57) -/

/-- `trap`: the lane faults with TRAP; DETAIL holds CODE and A. -/
def execTrap (pm : Pm) (code : BitVec 13) (t0 : Target) (s : State) : Res :=
  effectOp pm t0 .none (fun s _ j ln k => s.faultLane ln.fid j 0x15 [code.zeroExtend 64, k.a.bits]) s

/-- `brk`: the lane faults with BREAK, and the context's pens stop until its record is answered; they fall back to PRIO as at a
pre-emption (R395, R405). -/
def execBrk (pm : Pm) (code : BitVec 13) (t0 : Target) (s : State) : Res :=
  effectOp pm t0 .none (fun s fl j ln k =>
    let s := s.faultLane ln.fid j 0x16 [code.zeroExtend 64, k.a.bits]
    (s.updCtx fl.ctx fun c => if c.draining.isSome then c else { c with brk := c.brk ++ [ln.fid] }).fallBack fl.ctx fun _ => true) s

/-- An emulation-class word faults the lane with EMULATE. -/
def execEmx (_k : BitVec 4) (pm : Pm) (_sub : BitVec 4) (t0 t1 : Target) (s : State) : Res :=
  effectOp pm t0 t1 (fun s _ j ln _ => s.faultLane ln.fid j 0x14 []) s

/-! ### System registers (R398) -/

def sysRegVal (c : Ctx) (r : SysReg) : Word :=
  match r with
  | .fcount => c.fcount.zeroExtend 64
  | .sickfree => BitVec.ofNat 64 (c.sick.filter (·.status = .free)).length
  | .killed => c.killed.zeroExtend 64
  | .stray => c.stray.zeroExtend 64
  | .fctl => boolWord c.fatal
  | .ecclog => c.ecclog.zeroExtend 64

def execRdsr (pm : Pm) (sr : SysReg) (t0 : Target) (s : State) : Res :=
  laneOp pm t0 .none (fun s fl _ _ _ =>
    let v : Val := { bits := ((s.ctx? fl.ctx).map (fun c => sysRegVal c sr)).getD 0 }
    (v, v)) s

/-- `wrsr`: only `fctl` can be written; the loader refuses a block with another (R398). -/
def execWrsr (pm : Pm) (sr : SysReg) (t0 : Target) (s : State) : Res :=
  effectOp pm t0 .none (fun s fl j ln k =>
    let s := if sr = .fctl then s.updCtx fl.ctx fun c => { c with fatal := bit0 k.a.bits } else s
    s.completeLane ln.fid j t0 .none Val.zero Val.zero) s

/-! ### Responses (R390, R393) -/

/-- The record a handle names (R385). -/
def State.recordOf (s : State) (h : Word) : Option Nat :=
  let n := 2 ^ s.otrecs
  if n - 64 ≤ h.toNat && h.toNat < n then some (h.toNat - (n - 64)) else none

/-- The responses a record permits (R388). -/
def Ctx.permitFor (c : Ctx) (k : Sick) : Nat :=
  permitOf k.code (((c.blocks[k.block]?).map (·.idem)).getD false && k.lane.isSome)

/-- The reservation of a record for a response: 0 `resume`, 1 `retry`. -/
def reserveOp (op : Nat) (pm : Pm) (t0 : Target) (s : State) : Res :=
  effectOp pm t0 .none (fun s fl j ln k =>
    let ret := fun (s : State) (v : Val) => s.completeLane ln.fid j t0 .none v v
    if k.a.void then ret s { bits := 1, void := true }
    else
      match s.ctx? fl.ctx, s.recordOf k.a.bits with
      | some c, some r =>
        (match c.sick[r]? with
         | some rec_ =>
           (match rec_.status with
            | .pending _ =>
              if bits (c.permitFor rec_) op 1 = 0 then ret s { bits := 2 }
              else ret (s.updCtx fl.ctx fun c => { c with sick := c.sick.set r { rec_ with status := .reserved op ln.fid, b := k.b, c := k.c } })
                { bits := 0 }
            | _ => ret s { bits := 1 })
         | none => ret s { bits := 1 })
      | _, _ => ret s { bits := 1 }) s

def execResume (pm : Pm) (t0 : Target) (s : State) : Res := reserveOp 0 pm t0 s

def execRetry (pm : Pm) (t0 : Target) (s : State) : Res := reserveOp 1 pm t0 s

/-- `abort` drains the context; the FAULT packet carries the header of R393. -/
def execAbort (pm : Pm) (t0 : Target) (s : State) : Res :=
  effectOp pm t0 .none (fun s fl j ln _ =>
    match s.ctx? fl.ctx with
    | none => s
    | some c =>
      let hdr := recHeader 0 s.tick c.seq ln.tag fl.block ln.fsize ln.lane ln.epoch fl.core false 0 2 j 0
      (s.completeLane ln.fid j t0 .none Val.zero Val.zero).drain fl.ctx (reportBytes hdr []) 0) s

/-! ### Handlers (R384 step 5, R388, R389) -/

/-- Whether a flock's lanes that have not faulted have gone on as far as R384 step 4 lets them. -/
def State.stepFour (s : State) (fl : Flock) : Bool :=
  let run := fl.lanes.filter fun l => match l.status with | .masked _ _ => false | _ => true
  if fl.aligned then
    (({ fl with parked := false } : Flock).nextIndex (s.codeOf fl)).isNone &&
      run.all fun l => s.accesses.all fun a => a.fid ≠ l.fid
  else run.isEmpty

/-- What an emulation handler is to see of a record's lane (R396). -/
def Sick.trap (c : Ctx) (k : Sick) : Option (IWord × Nat × Val × Val × Val × Bool) :=
  match k.lane with
  | none => none
  | some l =>
    match l.status with
    | .masked j _ =>
      if k.code ≠ 0x14 then none
      else match (c.codeAt k.block)[j]?, l.cells[j]? with
        | some w, some q => some (w, j, q.a, q.b, q.c, q.p)
        | _, _ => none
    | _ => none

/-- The core a handler is placed on (R389): that of the capture; for a context record, the first of the pasture that is not
pre-empted (R416). -/
def Ctx.handlerCore (c : Ctx) (k : Sick) : Nat :=
  if k.lane.isSome then k.core else ((c.pasture.find? fun p => (c.section? p).isNone)).getD k.core

/-- The handler token of record `r` as a fold entry (R389). -/
def State.handlerEntry (s : State) (c : Ctx) (r : Nat) (k : Sick) (block : Nat) : FoldEntry :=
  let home := match k.lane with | some l => l.tag.home | none => (c.rootTag 0).home
  let hpkg := match k.lane with | some l => l.hpkg | none => s.pkgid
  let core := c.handlerCore k
  let t : Token := {
    block := block, slot := 0, tag := { ctx := BitVec.ofNat 10 c.id, dom := 0, home := home, act := 0, idx := BitVec.ofNat 10 r },
    epoch := 0, payload := BitVec.ofNat 64 (2 ^ s.otrecs - 64 + r), void := false, rel := none, hpkg := hpkg,
    hrec := some { record := r, trap := k.trap c } }
  entryOf core c.id t 1 (s.core core).arrival

/-- Whether a handler token is for record `r`. -/
def FoldEntry.handles (e : FoldEntry) (r : Nat) : Bool := e.hrec.map (·.record) = some r

/-- A handler token that the yard holds because the core of its context record is pre-empted (R416). -/
def Ctx.waitsForCore (c : Ctx) (e : FoldEntry) : Bool :=
  (c.section? e.core).isSome && ((e.hrec.bind fun h => c.sick[h.record]?).bind (·.lane)).isNone

/-- A handler token finds, behind what is spilled, a frame in a set with room, a pinfold slot, or waits in the yard (R389); one of a context record waits
there for a core that is not pre-empted (R416). -/
def State.placeHandler (s : State) (c : Ctx) (r : Nat) (e : FoldEntry) (lane : Bool) : State :=
  let s := (s.updCore e.core fun k => { k with arrival := k.arrival + 1 }).representSpilled e.core c.id
  let s := { s with handlerQ := s.handlerQ.filter fun h => !(h.1 = c.id && h.2.handles r) }
  let yard := fun (s : State) => { s with handlerQ := s.handlerQ ++ [(c.id, e)] }
  let wait := fun (s : State) (why : PinWhy) => (s.pinAdd e why).getD (yard s)
  if !lane && (c.section? e.core).isSome then yard s
  else if (c.section? e.core).any fun z => z.stage ≠ 1 then wait s .divert
  else
    match s.setRoom e with
    | none => wait s .spilled
    | some t =>
      match (match t.frame1 e.core c.id e.units with | some f => some f | none => t.frame2 e.core c.id e.units) with
      | some f => (((t.foldAdd { e with place := some f }).promote e.core).rebind e.core).moved c.id
      | none => wait s .spilled

/-- HANDLER_DISPATCH: record `r` of a context gets its handler instance. -/
def execHandlerDispatch (ctx r : Nat) (s : State) : Res :=
  .next (match s.ctx? ctx with
    | none => s
    | some c =>
      match s.handlerQ.find? (fun h => h.1 = ctx && h.2.handles r), c.sick[r]? with
      | some h, some k => s.placeHandler c r { h.2 with core := c.handlerCore k } k.lane.isSome
      | some _, none => s
      | none, some k =>
        (match k.status, handlerBlock c.handler k.code with
         | .pending false, some b =>
           let ready := match k.lane, s.flock? k.flock with
             | some _, some fl => s.stepFour fl
             | _, _ => true
           if ready then
             let s := s.updCtx ctx fun c => { c with sick := c.sick.set r { k with status := .pending true, told := true } }
             s.placeHandler c r (s.handlerEntry c r k b) k.lane.isSome
           else s
         | _, _ => s)
      | none, none => s)

/-! ### A response takes effect (R391, R392) -/

/-- The lane leaves its flock (it goes on elsewhere). -/
def State.leaveFlock (s : State) (flock fid : Nat) : State :=
  (s.updFlock flock fun f => { f with lanes := f.lanes.filter (·.fid ≠ fid) }).retireFlocks

/-- The record is free. -/
def Ctx.freeRecord (c : Ctx) (r : Nat) : Ctx :=
  { c with sick := c.sick.modify r fun k => { k with status := .free, lane := k.lane.map fun l => { l with place := none } } }

/-- The index a masked lane stopped at. -/
def Lane.stoppedAt (l : Lane) : Nat := match l.status with | .masked j _ => j | _ => 0

/-- `resume` of a lane (R391). -/
def State.resumeRecord (s : State) (c : Ctx) (r : Nat) (k : Sick) (ln : Lane) : State :=
  let code := ((c.blocks[k.block]?).map (·.code)).getD []
  let j := ln.stoppedAt
  let l := resumeLane s (c.sickBase + 4096 * r) j code ln
  let l := if classOfCode k.code = 2 then
      match instrAt code j with
      | some i => l.complete j true (t0Of i) (t1Of i) k.b k.c
      | none => l
    else { l with cells := l.cells.modify j fun cell => { cell with done := false, issued := false } }
  let s := s.updCtx c.id fun c => { c.freeRecord r with brk := c.brk.filter (· ≠ ln.fid) }
  if k.algn && (s.flock? k.flock).isSome then s.updFlock k.flock fun f => f.updLane ln.fid fun _ => l
  else
    let w : Resumed := { core := k.core, ctx := c.id, block := k.block, lane := l, since := s.cycle, level := c.prio, served := s.cycle }
    let s := s.leaveFlock k.flock ln.fid
    ({ s with resumed := s.resumed ++ [w] } : State).stir k.core

/-- A lane fired again from index 0, as a new firing. -/
def refire (b : LBlock) (fid : Nat) (l : Lane) : Lane :=
  { fid := fid, lane := l.lane, fsize := l.fsize, tag := l.tag, epoch := l.epoch, hpkg := l.hpkg, frame := l.frame,
    place := l.place, cells := b.cells, hrec := l.hrec }

/-- The instance re-enters its pen as a ready instance with its retained frame (R392). -/
def State.reenter (s : State) (c : Ctx) (k : Sick) (ln : Lane) : State :=
  let s := (s.discardFiring ln.fid).leaveFlock k.flock ln.fid
  let e : FoldEntry := {
    core := k.core, ctx := c.id, block := k.block, tag := ln.tag, epoch := ln.epoch, hpkg := ln.hpkg,
    slots := ln.frame.map some, state := 0, place := ln.place, units := frameUnits ln.frame.length,
    arrival := (s.core k.core).arrival, hrec := ln.hrec }
  s.addComplete e

/-- `retry` (R392). Under ALGN a lane whose end has begun handing on its requests keeps them and is not fired again (DESIGN CHOICE, entry
106). -/
def State.retryRecord (s : State) (c : Ctx) (r : Nat) (k : Sick) (ln : Lane) : State :=
  match c.blocks[k.block]? with
  | none => s
  | some b =>
    let s := s.updCtx c.id fun c => { c.freeRecord r with brk := c.brk.filter (· ≠ ln.fid) }
    match s.flock? k.flock with
    | some fl =>
      if k.algn then
        let fids := (fl.lanes.filter (·.gave = (0, 0))).map (·.fid)
        let s := fids.foldl State.discardFiring s
        let s := s.updCtx c.id fun c => { c with
          faultq := c.faultq.filter fun f => !fids.contains f.fid
          brk := c.brk.filter fun f => !fids.contains f
          sick := c.sick.map fun q =>
            if q.status ≠ .free && (q.lane.any fun l => fids.contains l.fid) then
              { q with status := .free, lane := q.lane.map fun l => { l with place := none } } else q }
        let n := s.reqSeq
        let s : State := { s with reqSeq := n + fl.lanes.length }
        s.updFlock fl.id fun f => { f with lanes := f.lanes.mapIdx fun i l => if fids.contains l.fid then refire b (n + 1 + i) l else l }
      else s.reenter c k ln
    | none => s.reenter c k ln

/-- A C-class record answered by `resume` (R391, R400): the pause ends when the pinfold has room, else it is reported
again. -/
def State.resumeContext (s : State) (c : Ctx) (r : Nat) (k : Sick) : State :=
  let s := (s.updCtx c.id fun c => c.freeRecord r).moved c.id
  if k.code ≠ 0x11 then s
  else
    let s := s.updCtx c.id fun c => { c with paused := false }
    if c.pinFree.isSome then s
    else s.pinfoldFull c.id []

/-- A waiting fault takes a record that has become free (R384). -/
def State.fillNext (s : State) (x : Nat) : State :=
  match s.ctx? x with
  | none => s
  | some c =>
    match c.faultq with
    | [] => s
    | f :: r =>
      if c.sick.any fun k => k.status = .free then
        let s := s.updCtx x fun c => { c with faultq := r }
        (if f.entries.isSome then s.fillContextRecord x f else s.fillRecord x f).retireFlocks
      else s

/-- RESPONSE_TAKES_EFFECT: the response reserved for record `k % 64` of context `k / 64` takes effect, its firing having
ended and its accesses having been performed at package scope; for a lane of a pre-empted core, after the restore. -/
def execResponseTakesEffect (k : Nat) (s : State) : Res :=
  .next (
    let x := k / 64
    let r := k % 64
    match s.ctx? x with
    | none => s
    | some c =>
      match c.sick[r]? with
      | none => s
      | some q =>
        match q.status with
        | .leaving op fid core =>
          if s.accesses.any (·.fid = fid) || (q.lane.isSome && (c.section? q.core).isSome) then s
          else
            let s := s.release core .pkg
            let s := match q.lane with
              | none => s.resumeContext c r q
              | some ln => if op = 0 then s.resumeRecord c r q ln else s.retryRecord c r q ln
            ((List.range 64).foldl (fun s _ => s.fillNext x) s).moved x
        | _ => s)

end Sys2Proof.Machine
end

