-- ==== Sys2Proof/Machine/Engines.lean ====
section
/-! DEFINITION. What the four engines share: parameter blocks and their checks (R300–R304, R322–R324, R346, R357, R359,
R362, R462), submission (R306, R321, R347, R355), endpoints (R323), element reads and writes (R90, R239, R325), ends and
completion tokens (R308, R333, R349, R356). -/

namespace Sys2Proof.Machine

/-! ### Blocks -/

/-- A field of a block. -/
def bf (b : BitVec 512) (lo len : Nat) : Nat := bits b.toNat lo len

/-- A check of a field by its lowest bit. -/
def ck (lo : Nat) (ok : Bool) : Nat × Bool := (lo, ok)

/-- A reserved field: zero. -/
def rz (b : BitVec 512) (lo len : Nat) : Nat × Bool := (lo, bf b lo len = 0)

/-- The lowest bit of the first failing field (R462). -/
def firstBad (l : List (Nat × Bool)) : Option Nat := minBy id ((l.filter fun c => !c.2).map (·.1))

/-- The code of R87 of a matrix type (its finite variant, R89), and the bits of its elements. -/
def mxFmt : MxTy → Fmt
  | .bf16 => .bf16 | .f16 => .f16 | .b8p3 => .b8 false false .p3 | .b8p4 => .b8 false false .p4
  | .b8p5 => .b8 false false .p5 | .e2m1 => .e2m1 | .i8 => .int .i8 | .i4 => .int .i4

def mxBits (t : MxTy) : Nat := fmtBits (mxFmt t)
def mxKmax (t : MxTy) : Nat := 2048 / mxBits t
def mxInt (t : MxTy) : Bool := t = .i8 || t = .i4

def acvtFmt : AcvtTy → Fmt
  | .f32 => .f32 | .f16 => .f16 | .bf16 => .bf16 | .b8p4 => .b8 false false .p4 | .b8p5 => .b8 false false .p5

/-- ByteOf of an element of some bits, and the bytes of a row of `n` elements. -/
def elemByte (eb k : Nat) : Nat := k * eb / 8
def rowBytes (eb n : Nat) : Nat := if n = 0 then 0 else elemByte eb (n - 1) + (eb + 7) / 8

/-! ### MXU blocks (R300–R304) -/

def wK (b : BitVec 512) : Nat := bf b 31 9 + 1
def wN (b : BitVec 512) : Nat := bf b 40 8 + 1
def wSrc (b : BitVec 512) : Nat := bf b 9 1
def wScaled (b : BitVec 512) : Bool := bf b 10 1 = 1
def wBlk (b : BitVec 512) : Nat := if bf b 11 1 = 1 then 16 else 32

def wldChecks (ty : MxTy) (b : BitVec 512) : List (Nat × Bool) :=
  let pad := wSrc b = 0
  let sc := pad && wScaled b
  [ck 0 (bf b 0 4 = 3), rz b 7 1, ck 10 (!wScaled b || ty.scaled), ck 11 (bf b 11 1 = 0 || sc), rz b 12 19,
   ck 31 (wK b ≤ mxKmax ty), ck 40 (wN b ≤ 128), rz b 64 256,
   ck 320 (if pad then bf b 320 32 % 32 = 0 else bf b 320 32 = 0),
   ck 352 (if pad then bf b 352 32 % 32 = 0 && rowBytes (mxBits ty) (wK b) ≤ bf b 352 32 else bf b 352 32 = 0),
   ck 384 (sc || bf b 384 32 = 0),
   ck 416 (if sc then ceilDiv (wK b) (wBlk b) ≤ bf b 416 32 else bf b 416 32 = 0),
   ck 448 (!pad || bf b 448 64 = 0)]

/-- A range in the scratchpad (`false`) or the accumulators (`true`): offset and length. -/
abbrev Rng := Bool × Nat × Nat

/-- `n` rows of some bytes at a pitch. -/
def rowsRange (accum : Bool) (off pitch n bytes : Nat) : Rng := (accum, off, (n - 1) * pitch + bytes)

def wldRanges (ty : MxTy) (b : BitVec 512) : List Rng :=
  if wSrc b ≠ 0 then []
  else rowsRange false (bf b 320 32) (bf b 352 32) (wN b) (rowBytes (mxBits ty) (wK b)) ::
    (if wScaled b then [rowsRange false (bf b 384 32) (bf b 416 32) (wN b) (ceilDiv (wK b) (wBlk b))] else [])

/-- M, and with K, N and the scale block, the field checks of `mma` and `mmas`. -/
def mM (b : BitVec 512) : Nat := bf b 32 9 + 1

def mmaChecks (ty : MxTy) (scaled : Bool) (k n blk : Nat) (b : BitVec 512) : List (Nat × Bool) :=
  [ck 0 (bf b 0 4 = if scaled then 2 else 1), rz b 8 24, ck 32 (mM b ≤ 256), rz b 41 7, ck 64 (bf b 64 32 % 32 = 0),
   ck 96 (bf b 96 32 % 32 = 0 && rowBytes (mxBits ty) k ≤ bf b 96 32), ck 128 (bf b 128 32 % 4 = 0),
   ck 160 (bf b 160 32 % 4 = 0 && 4 * n ≤ bf b 160 32), ck 192 (scaled || bf b 192 32 = 0),
   ck 224 (if scaled then ceilDiv k blk ≤ bf b 224 32 else bf b 224 32 = 0),
   rz b 288 224]

def mmaRanges (ty : MxTy) (scaled : Bool) (k n blk : Nat) (b : BitVec 512) : List Rng :=
  [rowsRange false (bf b 64 32) (bf b 96 32) (mM b) (rowBytes (mxBits ty) k),
   rowsRange true (bf b 128 32) (bf b 160 32) (mM b) (4 * n)] ++
  (if scaled then [rowsRange false (bf b 192 32) (bf b 224 32) (mM b) (ceilDiv k blk)] else [])

/-- A reload block pairs with its `mma` (R302). -/
def reloadPairs (scaled : Bool) (b r : BitVec 512) : List (Nat × Bool) :=
  [ck 6 (bf r 6 1 = bf b 6 1), ck 10 (wScaled r = scaled), ck 48 (bf r 48 16 = bf b 48 16)]

def aclrChecks (b : BitVec 512) : List (Nat × Bool) :=
  [ck 0 (bf b 0 4 = 4), rz b 6 58, ck 64 (bf b 64 32 % 4 = 0), ck 96 (bf b 96 32 ≠ 0 && bf b 96 32 % 4 = 0), rz b 128 384]

def nN (b : BitVec 512) : Nat := bf b 48 8 + 1

/-- Whether the byte sets of two tiles of one shape intersect. -/
def tilesMeet (m n off1 p1 off2 p2 : Nat) : Bool :=
  (List.range m).any fun i => (List.range m).any fun j => overlap (off1 + i * p1, 4 * n) (off2 + j * p2, 4 * n)

def aaddChecks (b : BitVec 512) : List (Nat × Bool) :=
  let c := bf b 128 32
  let cp := bf b 160 32
  let so := bf b 192 32
  let sp := bf b 224 32
  [ck 0 (bf b 0 4 = 6), rz b 7 25, ck 32 (mM b ≤ 256), rz b 41 7, ck 48 (nN b ≤ 128), rz b 56 72, ck 128 (c % 4 = 0),
   ck 160 (cp % 4 = 0 && 4 * nN b ≤ cp),
   ck 192 (so % 4 = 0 && ((so = c && sp = cp) || 256 < mM b || !tilesMeet (mM b) (nN b) c cp so sp)),
   ck 224 (sp % 4 = 0 && 4 * nN b ≤ sp), rz b 256 256]

def aaddRanges (b : BitVec 512) : List Rng :=
  [rowsRange true (bf b 128 32) (bf b 160 32) (mM b) (4 * nN b), rowsRange true (bf b 192 32) (bf b 224 32) (mM b) (4 * nN b)]

def acvtChecks (ty : AcvtTy) (b : BitVec 512) : List (Nat × Bool) :=
  let e := fmtBits (acvtFmt ty) / 8
  let pad := bf b 10 1 = 0
  [ck 0 (bf b 0 4 = 5), ck 6 (bf b 6 3 ≤ 4), rz b 12 20, ck 32 (mM b ≤ 256), rz b 41 7, ck 48 (nN b ≤ 128), rz b 56 8, rz b 64 224,
   ck 288 (bf b 288 32 % 4 = 0), ck 320 (bf b 320 32 % 4 = 0 && 4 * nN b ≤ bf b 320 32),
   ck 384 (!pad || bf b 384 32 % e = 0), ck 416 (!pad || (bf b 416 32 % e = 0 && nN b * e ≤ bf b 416 32)),
   ck 448 (!pad || bf b 448 64 = 0)]

def acvtRanges (ty : AcvtTy) (b : BitVec 512) : List Rng :=
  rowsRange true (bf b 288 32) (bf b 320 32) (mM b) (4 * nN b) ::
  (if bf b 10 1 = 0 then [rowsRange false (bf b 384 32) (bf b 416 32) (mM b) (nN b * (fmtBits (acvtFmt ty) / 8))] else [])

/-! ### Endpoints (R323) -/

/-- An endpoint's fields. -/
structure Endpoint where
  kind : Nat
  fmt  : Nat
  here : Bool
  core : Nat
  loc  : Nat
  deriving DecidableEq, Repr

def endpointAt (b : BitVec 512) (o : Nat) : Endpoint :=
  { kind := bf b (o + 48) 2, fmt := bf b (o + 50) 6, here := bf b (o + 47) 1 = 1, core := bf b (o + 56) 8, loc := bf b (o + 64) 64 }

def Endpoint.isObj (e : Endpoint) : Bool := e.kind = 0
def Endpoint.cur (e : Endpoint) : Word := BitVec.ofNat 64 e.loc
def Endpoint.off (e : Endpoint) : Nat := bits e.loc 0 32
def Endpoint.pitch (e : Endpoint) : Nat := bits e.loc 32 32
def Endpoint.fmt? (e : Endpoint) : Option Fmt := if e.isObj then none else Fmt.ofBits (BitVec.ofNat 6 e.fmt)

/-- Its own field checks, `n` being the pasture's size. -/
def endpointChecks (n : Nat) (b : BitVec 512) (o : Nat) : List (Nat × Bool) :=
  let e := endpointAt b o
  [rz b o 47, ck (o + 48) (e.kind ≠ 3),
   ck (o + 50) (if e.isObj then e.fmt = 0 else (Fmt.ofBits (BitVec.ofNat 6 e.fmt)).isSome),
   ck (o + 56) (if e.isObj || e.here then e.core = 0 else e.core < n)]

/-- A pair of formats that a command may not join, where both are given by FMT. -/
def badPair (s d : Endpoint) (ok : Fmt → Fmt → Bool) : Bool :=
  match s.fmt?, d.fmt? with
  | some f, some g => !ok f g
  | _, _ => false

/-- Equal formats are copied, others converted (R325). -/
def pairOk (f g : Fmt) : Bool := f = g || cvtLegal g f

/-- Formats that `cpyr` reduces from, and into (R328). -/
def smallFmt (f : Fmt) : Bool := f = .e2m1 || f = .e8m0 || (match f with | .b8 _ _ _ => true | _ => false)
def cpyrSrcOk (op : CpyrOp) (f : Fmt) : Bool :=
  if op = .addBf16 then f = .bf16 else f = .f32 || f = .f16 || f = .bf16 || smallFmt f
def cpyrDst (op : CpyrOp) : Fmt := if op = .addBf16 then .bf16 else .f32

def intFmt (f : Fmt) (np : Nat) : Bool := match f with | .int t => np ≤ t.bits | _ => false
/-- Formats whose values FP32 holds (R329). -/
def threshFmt (f : Fmt) : Bool :=
  f = .f32 || f = .f16 || f = .bf16 || smallFmt f ||
  (match f with | .int t => t.bits ≤ 16 | _ => false)

/-! ### Copy blocks (R322, R324) -/

/-- The copy commands. -/
inductive CopyKind where
  | cpy | cpyg | cpys
  | cpyr (op : CpyrOp)
  | planes (toPlanes : Bool)
  | cpyt
  | host (toHost : Bool)
  | cpyf
  deriving DecidableEq, Repr

def copyKind (i : Instr) : Option CopyKind :=
  match i with
  | .cpy _ _ _ => some .cpy
  | .cpyg _ _ _ => some .cpyg
  | .cpys _ _ _ => some .cpys
  | .cpyr _ op _ _ => some (.cpyr op)
  | .cpybsToplanes _ _ _ => some (.planes true)
  | .cpybsFromplanes _ _ _ => some (.planes false)
  | .cpyt _ _ _ => some .cpyt
  | .cpyhTohost _ _ _ => some (.host true)
  | .cpyhFromhost _ _ _ => some (.host false)
  | .cpyf _ _ _ => some .cpyf
  | _ => none

def CopyKind.cmd : CopyKind → Nat
  | .cpy => 8 | .cpyg => 9 | .cpys => 10 | .cpyr _ => 11 | .planes _ => 12 | .cpyt => 13 | .host _ => 14 | .cpyf => 15

def cE0 (b : BitVec 512) : Nat := bf b 48 16 + 1
def cE1 (b : BitVec 512) : Nat := bf b 32 16 + 1
def cSrc (b : BitVec 512) : Endpoint := endpointAt b 256
def cDst (b : BitVec 512) : Endpoint := endpointAt b 384
def cFillSrc (b : BitVec 512) : Bool := bf b 13 1 = 1
def cNp (b : BitVec 512) : Nat := bf b 192 6 + 1
def cMode (b : BitVec 512) : Nat := bf b 201 1

def copyFlags (k : CopyKind) (b : BitVec 512) : List (Nat × Bool) :=
  let conv := match k with | .cpy | .cpyg | .cpys | .host _ => true | _ => false
  let idx := k = .cpyg || k = .cpys
  let isR := match k with | .cpyr _ => true | _ => false
  [ck 0 (bf b 0 4 = k.cmd), ck 6 (if conv then bf b 6 3 ≤ 4 else bf b 6 3 = 0), ck 9 (conv || bf b 9 1 = 0),
   ck 10 (idx || bf b 10 1 = 0), ck 11 (idx || bf b 11 1 = 0), ck 12 (isR || bf b 12 1 = 0),
   ck 13 (k = .host true || bf b 13 1 = 0), rz b 15 17, ck 32 (k ≠ .cpyt || bf b 32 16 = 0), rz b 64 128]

def copyFields (k : CopyKind) (n : Nat) (b : BitVec 512) : List (Nat × Bool) :=
  match k with
  | .cpy => [rz b 192 64]
  | .cpyg | .cpys => [ck 224 (bf b 224 32 % 4 = 0)]
  | .cpyr _ => [rz b 192 32]
  | .planes outward => [rz b 198 3, ck 201 (outward || cMode b = 0), rz b 202 22, ck 224 (cMode b = 0 || bf b 224 32 % 4 = 0)]
  | .cpyt => [rz b 192 32, ck 224 (bf b 224 12 + cE0 b ≤ 4096), rz b 236 6, rz b 244 3,
      ck 248 (if bf b 247 1 = 1 then bf b 248 8 = 0 else bf b 248 8 < n)]
  | .host outward => if outward && cFillSrc b then [] else [rz b 192 64]
  | .cpyf => []

/-- The checks that formats given by FMT decide, and the refusal of R328 under DET. -/
def copyFormats (k : CopyKind) (det : Bool) (b : BitVec 512) : List (Nat × Bool) :=
  let s := cSrc b
  let d := cDst b
  let is := fun (e : Endpoint) (p : Fmt → Bool) => match e.fmt? with | some f => p f | none => true
  match k with
  | .cpy | .cpyg | .cpys => [ck 434 (!badPair s d pairOk)]
  | .host outward => [ck 434 (outward && cFillSrc b || !badPair s d pairOk)]
  | .cpyr op => [ck 306 (is s (cpyrSrcOk op)), ck 432 (!(det && op = .addF32) || d.isObj), ck 434 (is d (· = cpyrDst op))]
  | .planes true =>
    [ck 306 (is s fun f => if cMode b = 1 then threshFmt f else intFmt f (cNp b)), ck 434 (is d (· = .int .n64))]
  | .planes false => [ck 306 (is s (· = .int .n64)), ck 434 (is d fun f => intFmt f (cNp b))]
  | .cpyt => [ck 306 (is s (· = .int .n8))]
  | .cpyf => []

def copyChecks (k : CopyKind) (n : Nat) (det : Bool) (b : BitVec 512) : List (Nat × Bool) :=
  copyFlags k b ++ copyFields k n b ++
  (if k = .cpyf || (k = .host true && cFillSrc b) then [rz b 256 128] else endpointChecks n b 256) ++
  (if k = .cpyt then [rz b 384 128] else endpointChecks n b 384) ++ copyFormats k det b

/-- The format bits of a region endpoint. -/
def Endpoint.ebits (e : Endpoint) : Nat := (e.fmt?.map fmtBits).getD 8

/-- The range of a region endpoint: `rows` rows of `n` elements. -/
def Endpoint.range (e : Endpoint) (rows n : Nat) : List Rng :=
  if e.isObj || rows = 0 then [] else [rowsRange (e.kind = 2) e.off e.pitch rows (rowBytes e.ebits n)]

/-- The ranges of a copy command's source and destination. -/
def copySrcRange (k : CopyKind) (b : BitVec 512) : List Rng :=
  match k with
  | .cpyf => []
  | .cpyg => (cSrc b).range (bf b 192 32) (cE0 b)
  | .cpyt => if (cSrc b).isObj then [] else [((cSrc b).kind = 2, (cSrc b).off, 16 * cE0 b)]
  | .host true => if cFillSrc b then [] else (cSrc b).range (cE1 b) (cE0 b)
  | .planes false => if (cSrc b).isObj then [] else [((cSrc b).kind = 2, (cSrc b).off, 8 * (ceilDiv (cE1 b) 64 * cE0 b * cNp b))]
  | _ => (cSrc b).range (cE1 b) (cE0 b)

def copyDstRange (k : CopyKind) (b : BitVec 512) : List Rng :=
  match k with
  | .cpyt => []
  | .cpys => (cDst b).range (bf b 192 32) (cE0 b)
  | .planes true => if (cDst b).isObj then [] else [((cDst b).kind = 2, (cDst b).off, 8 * (ceilDiv (cE1 b) 64 * cE0 b * cNp b))]
  | _ => (cDst b).range (cE1 b) (cE0 b)

/-- Ranges that always lie on the issuing core. -/
def copyOwnRanges (k : CopyKind) (b : BitVec 512) : List Rng :=
  match k with
  | .cpyg | .cpys => [(false, bf b 224 32, 4 * cE1 b)]
  | .planes true => if cMode b = 1 then [(false, bf b 224 32, 4 * cNp b)] else []
  | _ => []

/-! ### Fabric and trough blocks (R346, R357, R359, R362) -/

def rFirst (b : BitVec 512) : Nat := bf b 48 12
def rNcell (b : BitVec 512) : Nat := bf b 64 12 + 1
def rNpin (b : BitVec 512) : Nat := bf b 80 9 + 1
def rNout (b : BitVec 512) : Nat := bf b 100 12 + 1
def rG (b : BitVec 512) : Nat := bf b 112 16 + 1

/-- Whether bytes `o` .. `o + len − 1` meet one of `g` ranges of `w` bytes at a pitch. -/
def meetsRows (o len off pitch g w : Nat) : Bool :=
  if pitch = 0 then overlap (o, len) (off, w)
  else
    let k := if o < off + w then 0 else (o - w - off) / pitch + 1
    k < g && overlap (o, len) (off + k * pitch, w)

def lkrunChecks (b : BitVec 512) : List (Nat × Bool) :=
  let g := rG b
  let clash := (g ≠ 1 && bf b 224 32 < 8 * rNout b) ||
    (List.range g).any fun i => meetsRows (bf b 192 32 + i * bf b 224 32) (8 * rNout b) (bf b 128 32) (bf b 160 32) g (8 * rNpin b)
  [ck 0 (bf b 0 4 = 7), rz b 6 42, rz b 60 4, ck 64 (rFirst b + rNcell b ≤ 4096), rz b 76 4, rz b 89 11,
   ck 128 (bf b 128 32 % 8 = 0), ck 160 (bf b 160 32 % 8 = 0), ck 192 (bf b 192 32 % 8 = 0 && !clash),
   ck 224 (bf b 224 32 % 8 = 0), rz b 256 256]

/-- The ranges of a run: each group's input planes, then its output planes (R340, R347). -/
def lkrunRanges (b : BitVec 512) : List Rng :=
  (List.range (rG b)).flatMap fun g =>
    [(false, bf b 128 32 + g * bf b 160 32, 8 * rNpin b), (false, bf b 192 32 + g * bf b 224 32, 8 * rNout b)]

def vLen (b : BitVec 512) : Nat := bf b 33 15 + 1
def vFmt (b : BitVec 512) : Fmt := if bf b 16 2 = 0 then .f32 else if bf b 16 2 = 1 then .bf16 else .int .i8
def vCap (b : BitVec 512) : Nat := if bf b 16 2 = 0 then 8192 else if bf b 16 2 = 1 then 16384 else 32768

def tvecChecks (n : Nat) (b : BitVec 512) : List (Nat × Bool) :=
  let tn := bf b 20 4
  [ck 0 (bf b 0 4 = 1), ck 6 (bf b 6 3 ≤ 3), rz b 10 6, ck 16 (bf b 16 2 ≠ 3), ck 20 (tn ≤ 9 && bf b 24 9 + 2 ^ tn ≤ 512),
   ck 24 (bf b 24 9 % 2 ^ tn = 0), ck 33 (vLen b ≤ vCap b), rz b 64 192, rz b 384 128] ++
  endpointChecks n b 256 ++
  [ck 306 (match (cSrc b).fmt? with | some f => f = vFmt b || cvtLegal (vFmt b) f | none => true)]

def tvecRanges (b : BitVec 512) : List Rng := (cSrc b).range 1 (vLen b)

def gK (b : BitVec 512) : Nat := bf b 17 15 + 1
def gM (b : BitVec 512) : Nat := bf b 32 16 + 1
def gDst (b : BitVec 512) : Endpoint := endpointAt b 320
def gDstFmt (ty : MxTy) : Fmt := if ty = .i8 then .int .i32 else .f32

def tgemvChecks (ty : MxTy) (scaled : Bool) (n : Nat) (b : BitVec 512) : List (Nat × Bool) :=
  [ck 0 (bf b 0 4 = if scaled then 3 else 2), rz b 6 3, rz b 12 5, rz b 64 224] ++ endpointChecks n b 320 ++
  [ck 370 (match (gDst b).fmt? with | some f => f = gDstFmt ty | none => true)]

def tgemvRanges (b : BitVec 512) : List Rng := (gDst b).range 1 (gM b)

/-- A VLD block pairs with its command (R359). -/
def vldPairs (b r : BitVec 512) : List (Nat × Bool) := [ck 18 (bf r 18 2 = bf b 10 2), ck 48 (bf r 48 16 = bf b 48 16)]

def dP (b : BitVec 512) : Nat := bf b 26 6 + 1
def dSint (b : BitVec 512) : Bool := bf b 11 1 = 1
def tredSrcOk (b : BitVec 512) (f : Fmt) : Bool := if dSint b then f = .int .i32 else f = .f32
def tredDstOk (b : BitVec 512) (f : Fmt) : Bool := if dSint b then f = .int .i32 else f = .f32 || f = .bf16 || f = .f16

def tredChecks (n : Nat) (b : BitVec 512) : List (Nat × Bool) :=
  let is := fun (e : Endpoint) (p : Fmt → Bool) => match e.fmt? with | some f => p f | none => true
  [ck 0 (bf b 0 4 = 4), ck 6 (bf b 6 3 ≤ 3), rz b 12 14, rz b 48 208] ++ endpointChecks n b 256 ++ endpointChecks n b 384 ++
  [ck 306 (is (cSrc b) (tredSrcOk b)), ck 434 (is (cDst b) (tredDstOk b))]

/-! ### Submission (R306, R321, R347, R355) -/

/-- The engine of a word, its fault code and the room of its queue. -/
def engineOf (i : Instr) : Engine :=
  match classOf i with | .mxu => .mxu | .copy => .copy | .fabric => .fabric | _ => .trough
def paramCode : Engine → Nat
  | .mxu => 0x20 | .copy => 0x28 | .fabric => 0x2C | .trough => 0x2E
def queueRoom : Engine → Nat
  | .mxu => 64 | .copy => 128 | .fabric => 32 | .trough => 64

/-- Physical core of an endpoint: package and core. -/
def State.epCore (s : State) (c : Ctx) (core : Nat) (e : Endpoint) : Nat × Nat :=
  if e.here then (s.pkgid, core) else ((s.logical c)[e.core]?).getD (s.pkgid, core)

/-- What submission checks of a word's block, `reload` being the raw reload block if one is named in range: the checks
of the block, of the reload block, and the ranges on the issuing core of each. -/
structure Plan where
  own     : List (Nat × Bool)
  again   : List (Nat × Bool) := []
  ranges  : List Rng
  ranges2 : List Rng := []

def State.planOf (s : State) (c : Ctx) (core : Nat) (i : Instr) (b : BitVec 512) (r : Option (BitVec 512)) : Plan :=
  let n := (s.logical c).length
  let onHere := fun (e : Endpoint) (l : List Rng) => if s.epCore c core e = (s.pkgid, core) then l else []
  let mm := fun (ty : MxTy) (sc : Bool) =>
    match r with
    | some w => ({ own := mmaChecks ty sc (wK w) (wN w) (wBlk w) b, again := wldChecks ty w ++ reloadPairs sc b w,
                   ranges := mmaRanges ty sc (wK w) (wN w) (wBlk w) b, ranges2 := wldRanges ty w } : Plan)
    | none => { own := mmaChecks ty sc 1 1 32 b, ranges := mmaRanges ty sc 1 1 32 b }
  let tg := fun (ty : MxTy) (sc : Bool) =>
    match r with
    | some w => ({ own := tgemvChecks ty sc n b, again := tvecChecks n w ++ vldPairs b w,
                   ranges := onHere (gDst b) (tgemvRanges b), ranges2 := onHere (cSrc w) (tvecRanges w) } : Plan)
    | none => { own := tgemvChecks ty sc n b, ranges := onHere (gDst b) (tgemvRanges b) }
  match i with
  | .mma _ ty _ _ => mm ty false
  | .mmas _ ty _ _ => mm ty true
  | .wld _ ty _ _ => { own := wldChecks ty b, ranges := wldRanges ty b }
  | .aclr _ _ _ => { own := aclrChecks b, ranges := [(true, bf b 64 32, bf b 96 32)] }
  | .acvt _ ty _ _ => { own := acvtChecks ty b, ranges := acvtRanges ty b }
  | .aadd _ _ _ => { own := aaddChecks b, ranges := aaddRanges b }
  | .lkrun _ _ _ _ => { own := lkrunChecks b, ranges := lkrunRanges b }
  | .tvec _ _ _ => { own := tvecChecks n b, ranges := onHere (cSrc b) (tvecRanges b) }
  | .tgemv _ ty _ _ => tg ty false
  | .tgemvs _ ty _ _ => tg ty true
  | .tred _ _ _ => { own := tredChecks n b, ranges := onHere (cSrc b) ((cSrc b).range (dP b) (gM b)) ++ onHere (cDst b) ((cDst b).range 1 (gM b)) }
  | i =>
    match copyKind i with
    | some k => { own := copyChecks k n c.det b,
                  ranges := copyOwnRanges k b ++ onHere (cSrc b) (copySrcRange k b) ++ onHere (cDst b) (copyDstRange k b) }
    | none => { own := [], ranges := [] }

/-- The offset of a reload or VLD block, when the word has one. -/
def reloadAt (i : Instr) (b : BitVec 512) : Option Nat :=
  let some? := fun n => if n = 0xFFFFFFFF then none else some n
  match i with
  | .mma _ _ _ _ => some? (bf b 256 32)
  | .mmas _ _ _ _ => some? (bf b 256 32)
  | .tgemv _ _ _ _ => some? (bf b 288 32)
  | .tgemvs _ _ _ _ => some? (bf b 288 32)
  | _ => none

/-- The slot of a fabric word, and the DETAIL item it adds. -/
def slotOf (i : Instr) : Option Nat :=
  match i with
  | .lkctx _ sl _ _ => some sl.toNat
  | .lkrun _ sl _ _ => some sl.toNat
  | _ => none

/-- Whether a context holds a slot that it is not releasing (R344). -/
def State.holdsSlot (s : State) (x core slot : Nat) : Bool :=
  s.lkSlots.any fun k => k.core = core && k.slot = slot && k.ctx = x && !k.releasing

/-- 64 bytes of a scratchpad region. -/
def State.padBlock (s : State) (base off : Nat) : BitVec 512 := BitVec.ofNat 512 (s.rdNat (base + off) 64)

/-- The scope of a scope code. -/
def scopeOfCode (n : Nat) : Scope := if n = 0 then .core else if n = 1 then .die else if n = 2 then .pkg else .gang

/-- The first range that leaves its region. -/
def State.rangeBad (s : State) (x core : Nat) (l : List Rng) : Option Rng :=
  l.find? fun r => (s.regionOf x core r.1).2 < r.2.1 + r.2.2

/-- Commands that take a place in a core's queue of an engine: accepted and not completed. -/
def State.queued (s : State) (core : Nat) (e : Engine) : List EngineCmd :=
  s.cmds.filter fun k => k.core = core && k.engine = e

/-- Whether an engine's queue of a core has a free entry. -/
def State.queueOpen (s : State) (core : Nat) (e : Engine) : Bool := (s.queued core e).length < queueRoom e

/-- What the checks of R306 come to: a fault with its DETAIL, or the block and reload block. A run's slot is judged with its
block, once the queue has a free entry: at acceptance (R347). -/
def State.checkBlock (s : State) (c : Ctx) (core : Nat) (i : Instr) (off : Nat) :
    Except (Nat × List Word) (BitVec 512 × Option (BitVec 512)) :=
  let (base, size) := s.regionOf c.id core false
  let code := paramCode (engineOf i)
  let b := s.padBlock base off
  let slotItem := match i with | .lkrun _ sl _ _ => [w64 sl.toNat] | _ => []
  let param := fun (o : Nat) (blk : BitVec 512) (bit : Nat) =>
    (Except.error (code, [w64 o, w64 (bf blk 0 64), w64 bit] ++ slotItem) : Except (Nat × List Word) (BitVec 512 × Option (BitVec 512)))
  let region := fun (o at0 n : Nat) =>
    (Except.error (0x0B, [w64 o, w64 at0, w64 n]) : Except (Nat × List Word) (BitVec 512 × Option (BitVec 512)))
  if size < off + 64 then region off off 64
  else if off % 64 ≠ 0 then param off b 512
  else
    let ro := reloadAt i b
    let r := match ro with | some o => if o + 64 ≤ size && o % 64 = 0 then some (s.padBlock base o) else none | none => none
    let p := s.planOf c core i b r
    match firstBad p.own with
    | some bit => param off b bit
    | none =>
      match ro, r with
      | some o, none => if size < o + 64 then region off o 64 else param o (s.padBlock base o) 512
      | _, _ =>
        match r, firstBad p.again with
        | some w, some bit => param (ro.getD 0) w bit
        | _, _ =>
          let noSlot := match i with
            | .lkrun _ sl _ _ => s.queueOpen core .fabric && !s.holdsSlot c.id core sl.toNat
            | _ => false
          if noSlot then param off b 513
          else
            match s.rangeBad c.id core p.ranges, s.rangeBad c.id core p.ranges2 with
            | some g, _ => region off g.2.1 g.2.2
            | none, some g => region (ro.getD 0) g.2.1 g.2.2
            | none, none => .ok (b, r)

/-- Whether an access of a lower lane of the same instruction still waits: lanes are accepted in ascending order (R310). -/
def State.behindLane (s : State) (a : Access) : Bool :=
  s.accesses.any fun o => o.id < a.id && o.flock = a.flock && o.idx = a.idx

/-- The scope of the release before acceptance: SCOPE, for a trough command the package whatever SCOPE names (R307, R363);
with no block to read, the narrowest. -/
def releaseScope (e : Engine) (block : Option (BitVec 512)) : Scope :=
  match block with
  | none => .core
  | some b => if e = .trough then .pkg else scopeOfCode (bf b 4 2)

/-- One try to submit access `a` of an engine word (R306): a fault, acceptance, or it waits. -/
def State.submit (s : State) (a : Access) : State :=
  match s.ctx? a.ctx, s.lane? a.fid with
  | some c, some ln =>
    if c.draining.isSome then s.deliverAccess a { bits := 0 }
    else if s.behindLane a then s
    else
    let e := engineOf a.instr
    let off := a.a.bits.toNat
    let (base, size) := s.regionOf a.ctx a.core false
    let sc := releaseScope e (if size < off + 64 || off % 64 ≠ 0 then none else some (s.padBlock base off))
    if !s.beforeDone a.before then s
    else
      let s1 := s.release a.core sc
      if !s1.releaseDone sc a.ctx then s1 else
      match s1.checkBlock c a.core a.instr off with
      | .error (code, d) => s1.faultAccess a code d
      | .ok (b, r) =>
        if a.b.bits ≠ 0 && !c.contOk a.b.bits then s1.faultAccess a 0x05 [a.b.bits]
        else if !s1.queueOpen a.core e then s1
        else
          let k : EngineCmd := {
            id := s1.cmdSeq + 1, engine := e, instr := a.instr, core := a.core, ctx := a.ctx, fid := a.fid,
            liter := literOf ln.tag ln.epoch, cont := a.b.bits, block := b, reload := r, scope := scopeOfCode (bf b 4 2),
            slot := (slotOf a.instr).getD 0 }
          ({ s1 with cmdSeq := s1.cmdSeq + 1, cmds := s1.cmds ++ [k] } : State).deliverAccess a { bits := 0 }
  | _, _ => s

/-- An engine word: a void-marked latch submits nothing; else each lane submits its command (R305, R306). -/
def engineOp (i : Instr) (pm : Pm) (s : State) : Res :=
  effectOp pm (t0Of i) (t1Of i) (fun s fl j ln k =>
    if k.a.void || k.b.void then s.deliverNow ln j i { bits := 1, void := true }
    else
      let (s, a) := s.newAccess i .scratch .ready fl j ln k
      s.submit a) s

def execMma (pm : Pm) (ty : MxTy) (t0 t1 : Target) (s : State) : Res := engineOp (.mma pm ty t0 t1) pm s
def execMmas (pm : Pm) (ty : MxTy) (t0 t1 : Target) (s : State) : Res := engineOp (.mmas pm ty t0 t1) pm s
def execWld (pm : Pm) (ty : MxTy) (t0 t1 : Target) (s : State) : Res := engineOp (.wld pm ty t0 t1) pm s
def execAclr (pm : Pm) (t0 t1 : Target) (s : State) : Res := engineOp (.aclr pm t0 t1) pm s
def execAcvt (pm : Pm) (ty : AcvtTy) (t0 t1 : Target) (s : State) : Res := engineOp (.acvt pm ty t0 t1) pm s
def execAadd (pm : Pm) (t0 t1 : Target) (s : State) : Res := engineOp (.aadd pm t0 t1) pm s
def execCpy (pm : Pm) (t0 t1 : Target) (s : State) : Res := engineOp (.cpy pm t0 t1) pm s
def execCpyg (pm : Pm) (t0 t1 : Target) (s : State) : Res := engineOp (.cpyg pm t0 t1) pm s
def execCpys (pm : Pm) (t0 t1 : Target) (s : State) : Res := engineOp (.cpys pm t0 t1) pm s
def execCpyr (pm : Pm) (op : CpyrOp) (t0 t1 : Target) (s : State) : Res := engineOp (.cpyr pm op t0 t1) pm s
def execCpybsToplanes (pm : Pm) (t0 t1 : Target) (s : State) : Res := engineOp (.cpybsToplanes pm t0 t1) pm s
def execCpybsFromplanes (pm : Pm) (t0 t1 : Target) (s : State) : Res := engineOp (.cpybsFromplanes pm t0 t1) pm s
def execCpyt (pm : Pm) (t0 t1 : Target) (s : State) : Res := engineOp (.cpyt pm t0 t1) pm s
def execCpyhTohost (pm : Pm) (t0 t1 : Target) (s : State) : Res := engineOp (.cpyhTohost pm t0 t1) pm s
def execCpyhFromhost (pm : Pm) (t0 t1 : Target) (s : State) : Res := engineOp (.cpyhFromhost pm t0 t1) pm s
def execCpyf (pm : Pm) (t0 t1 : Target) (s : State) : Res := engineOp (.cpyf pm t0 t1) pm s
def execLkrun (pm : Pm) (sl : BitVec 2) (t0 t1 : Target) (s : State) : Res := engineOp (.lkrun pm sl t0 t1) pm s
def execTvec (pm : Pm) (t0 t1 : Target) (s : State) : Res := engineOp (.tvec pm t0 t1) pm s
def execTgemv (pm : Pm) (ty : MxTy) (t0 t1 : Target) (s : State) : Res := engineOp (.tgemv pm ty t0 t1) pm s
def execTgemvs (pm : Pm) (ty : MxTy) (t0 t1 : Target) (s : State) : Res := engineOp (.tgemvs pm ty t0 t1) pm s
def execTred (pm : Pm) (t0 t1 : Target) (s : State) : Res := engineOp (.tred pm t0 t1) pm s

/-- The endpoints of a command's blocks, those that its kind has (R322, R357, R359, R362). -/
def EngineCmd.endpoints (k : EngineCmd) : List Endpoint :=
  let b := k.block
  match k.instr with
  | .tvec _ _ _ => [cSrc b]
  | .tgemv _ _ _ _ | .tgemvs _ _ _ _ => gDst b :: (match k.reload with | some w => [cSrc w] | none => [])
  | .tred _ _ _ => [cSrc b, cDst b]
  | i =>
    match copyKind i with
    | none => []
    | some .cpyf => [cDst b]
    | some .cpyt => [cSrc b]
    | some (.host true) => if cFillSrc b then [cDst b] else [cSrc b, cDst b]
    | some _ => [cSrc b, cDst b]

/-! ### A run of a command

A command runs access by access. Each try goes over it from its start: what it has done already it takes from the log
(`todo`), and from there on it makes accesses, until it ends, or until it must wait (`wait`). Between two tries anything else
may happen: an object's chunk is translated under the record that then stands (R240), and another agent's write falls
between two sectors of its reads (R266). -/

/-- A command under way: the state it has made so far, what is still to be gone over again, whether it must wait, and the
status that stops it. -/
structure Run where
  s    : State
  k    : EngineCmd
  todo : List (List Nat) := []
  wait : Bool := false
  stop : Option (Nat × Nat) := none

def runOf (s : State) (k : EngineCmd) : Run := { s := s, k := k, todo := k.log.reverse }

def Run.fail (r : Run) (status detail : Nat) : Run := if r.stop.isSome then r else { r with stop := some (status, detail) }

/-- Whether a run goes on. -/
def Run.going (r : Run) : Bool := r.stop.isNone && !r.wait

/-- One access: what it brought is taken from the log, or it is made now, unless the step under way has made as many as it
may. An access that another package has failed ends the command. -/
def Run.once (r : Run) (f : Run → Run × List Nat) : Run × List Nat :=
  if !r.going then (r, [])
  else
    match r.todo with
    | l :: rest => ({ r with todo := rest }, l)
    | [] =>
      match r.k.broken.find? (·.1 ≠ 9) with
      | some b => (r.fail b.1 b.2.1, [])
      | none =>
        if r.k.fuel = some 0 then ({ r with wait := true }, [])
        else
          let (r, l) := f { r with k := { r.k with fuel := r.k.fuel.map (· - 1) } }
          if r.going then ({ r with k := { r.k with log := l :: r.k.log, data := [] } }, l) else (r, l)

/-- A step that brings no value. -/
def Run.does (r : Run) (f : Run → Run) : Run := (r.once fun r => (f r, [])).1

/-- The record of a handle as it now stands: the core's cached one, else what a walk finds (R240, R241), its permissions
checked (R229). A MOVING one parks the command until its PUBLISH. -/
def Run.walked (r : Run) (h : Nat) (u : Use) : Run × Option ObjRec :=
  let core := r.k.core
  let x := r.k.ctx
  let got := match r.s.orcHit core x h with
    | some o => (r.s.orcUse core x h, Walked.use o)
    | none =>
      match r.s.walk x h with
      | .use o => ((r.s.chargeUnits (r.s.recBytes x h)).orcInstall core x h o, Walked.use o)
      | w => (r.s.chargeUnits (r.s.recBytes x h), w)
  if (r.s.orcHit core x h).isNone && !r.s.unitsFor (r.s.recBytes x h) then ({ r with wait := true }, none)
  else match got with
  | (s, .use o) => if o.permits { u with eng := true } then ({ r with s := s }, some o) else (r.fail 3 h, none)
  | (_, .moving) => ({ r with k := { r.k with parked := some h }, wait := true }, none)
  | (_, .bad _) => (r.fail 8 h, none)

/-- The record under which a command began; `none` when the run has stopped. -/
def Run.record (r : Run) (cur : Word) (u : Use) : Run × Option ObjRec :=
  let h := curHandle cur
  if !r.going then (r, none)
  else
    match r.k.recs.find? (·.1 == h) with
    | some (_, o) => if o.permits { u with eng := true } then (r, some o) else (r.fail 3 h, none)
    | none =>
      match r.walked h u with
      | (r, some o) => ({ r with k := { r.k with recs := r.k.recs ++ [(h, o)] } }, some o)
      | (r, none) => (r, none)

/-- Whether two records of a handle have elements of one form; a move changes BASE, extents, strides and layout (R245). -/
def ObjRec.sameForm (a b : ObjRec) : Bool := a.format = b.format && a.scale = b.scale

/-- The record under which the next access is translated: a chunk that comes after a SHOOT walks afresh and goes on under what it
finds (R240, R246, R247). One whose elements are of another form than the command began under, which R245 does not provide for, ends
it with FORMAT (DESIGN CHOICE, entry 58). -/
def Run.recordNow (r : Run) (h : Nat) (o : ObjRec) (u : Use) : Run × Option ObjRec :=
  match r.walked h u with
  | (r, some n) => if n.sameForm o then (r, some n) else (r.fail 0x22 h, none)
  | (r, none) => (r, none)

/-- An endpoint made ready: an object with the record the command began under, its cursor and use, or a region with its first
byte. -/
inductive Place where
  | obj (handle : Nat) (o : ObjRec) (cur : Word) (u : Use)
  | reg (fmt : Fmt) (base off pitch : Nat)
  deriving DecidableEq, Repr

/-- The coordinates of a cursor; `none`: every element is out of shape. -/
def curCoords (o : ObjRec) (cur : Word) : Option (List Nat) := if curOos cur then none else o.coords (curOffset cur)

/-- Whether a core other than the issuing one can be reached: it runs, and the context's regions are not given up under
pre-emption there (R413, R418). -/
def State.reachable (s : State) (x own core : Nat) : Bool :=
  core = own || ((s.core core).power = .running && !((s.ctx? x).bind (·.section? core)).any (·.stage = 3))

/-- Whether a command names a region of its context on a core (R313, R335, R366): of those of the two, scratchpad and accumulator, that
`sel` takes. -/
def State.cmdNames (s : State) (c : Ctx) (core : Nat) (sel : Bool → Bool) (k : EngineCmd) : Bool :=
  let p := s.planOf c k.core k.instr k.block k.reload
  k.ctx = c.id && ((k.core = core && (p.ranges ++ p.ranges2).any fun r => sel r.1) ||
    k.endpoints.any fun e => !e.isObj && sel (e.kind = 2) && s.epCore c k.core e = (s.pkgid, core))

/-- An endpoint's place; a range outside a region on another core ends the command with BOUNDS. -/
def Run.place (r : Run) (e : Endpoint) (u : Use) (ranges : List Rng) : Run × Option Place :=
  if !r.going then (r, none)
  else if e.isObj then
    match r.record e.cur u with
    | (r, some o) => (r, some (.obj (curHandle e.cur) o e.cur u))
    | (r, none) => (r, none)
  else
    match r.s.ctx? r.k.ctx with
    | none => (r, none)
    | some c =>
      let (p, core) := r.s.epCore c r.k.core e
      if p = r.s.pkgid && !r.s.reachable r.k.ctx r.k.core core then ({ r with wait := true }, none)
      else
        let (base, _) := r.s.regionOf r.k.ctx core (e.kind = 2)
        if p ≠ r.s.pkgid || (r.s.rangeBad r.k.ctx core ranges).isSome then (r.fail 0x23 e.core, none)
        else (r, some (.reg (e.fmt?.getD .f32) base e.off e.pitch))

/-- The format and scale of a place. -/
def Place.fmt : Place → Option Fmt
  | .obj _ o _ _ => o.fmt
  | .reg f _ _ _ => some f
def Place.scaled : Place → Bool
  | .obj _ o _ _ => o.scale ≠ 0
  | .reg _ _ _ _ => false
def Place.handle : Place → Nat
  | .obj h _ _ _ => h
  | .reg _ _ _ _ => 0
def Place.isObj : Place → Bool
  | .obj _ _ _ _ => true
  | .reg _ _ _ _ => false

/-- A source element: its code and scale, or nothing (void). -/
inductive Elem where
  | code (n scale : Nat)
  | void
  deriving DecidableEq, Repr

/-- What the log holds of an element. -/
def Elem.ofLog : List Nat → Elem
  | [c, s] => .code c s
  | _ => .void

/-- The offset of element (i0, i1) of an object place, if in shape. -/
def objOffset (o : ObjRec) (at0 : Option (List Nat)) (i0 i1 : Nat) : Option Nat :=
  match at0 with
  | none => none
  | some l =>
    if o.rank = 1 && i1 ≠ 0 then none
    else
      let at1 := l.mapIdx fun k v => if k = 0 then v + i0 else if k = 1 then v + i1 else v
      if (List.range o.rank).all fun k => at1[k]?.getD 0 < o.extOf k then some (o.offset at1) else none

/-- Residency and lasting errors of some bytes (R239, R402); a granule that the device is retiring is waited for (R242). -/
def Run.resident (r : Run) (h : Nat) (o : ObjRec) (bytes : List Nat) : Run :=
  match r.s.firstAbsent r.k.core r.k.ctx h o.rmap (if o.rmap = 0 then [] else granulesOf o bytes) with
  | (s, some (g, 2)) => if s.retiring r.k.ctx h g then { r with s := s, wait := true } else ({ r with s := s }).fail 4 h
  | (s, some _) => ({ r with s := s }).fail 2 h
  | (s, none) => if bytes.any s.lastingAt then ({ r with s := s }).fail 4 h else { r with s := s }

/-- A read of an object's bytes that meets a planted error (R402): cured and counted, or its granule retired, or its block
listed; bytes of the scale plane have no granule. -/
def Run.meetOne (r : Run) (h : Nat) (o : ObjRec) (bytes : List Nat) (plane : Bool) : Run :=
  match r.s.errors.find? (fun e => bytes.contains e.addr && r.s.meets r.k.core e) with
  | none => r
  | some e =>
    let cured := fun (s : State) => s.updCtx r.k.ctx fun c => { c with ecclog := satInc c.ecclog }
    let s : State := { r.s with errors := r.s.errors.filter (· ≠ e) }
    if e.l1.isSome then
      (if s.dirtyAt r.k.core e.addr then ({ r with s := s }).fail 4 h else { r with s := cured (s.dropClean r.k.core e.addr) })
    else if !e.lasting then { r with s := cured s }
    else if o.rmap ≠ 0 && !plane then
      let g := (e.addr - o.base) / 2 ^ (12 + o.gran)
      { r with s := s.retire r.k.ctx h o.rmap g [(o.base + g * 2 ^ (12 + o.gran), 2 ^ (12 + o.gran))], wait := true }
    else ({ r with s := s.listLasting e.addr }).fail 4 h

/-- A read of an object's bytes: a block of the lasting list ends the command (R402), and every planted error is met. -/
def Run.meet (r : Run) (h : Nat) (o : ObjRec) (bytes : List Nat) (plane : Bool) : Run :=
  if bytes.any r.s.lastingAt then r.fail 4 h
  else (List.range r.s.errors.length).foldl (fun r _ => if r.going then r.meetOne h o bytes plane else r) r

/-- Whether a record's memory lies in another package (R439). -/
def Run.far (r : Run) (o : ObjRec) : Bool := r.s.farRec o

/-- One request of a command to another package: its number is kept where its response will look. -/
def State.engineReq (s : State) (k : EngineCmd) (p addr : Nat) (op : RemoteOp) : State × Nat :=
  let id := s.reqSeq + 1
  let w : RemoteWrite := { id := id, ctx := k.ctx, dpkg := p, addr := addr, core := k.core }
  let out := match op with | .read _ => false | _ => true
  let s : State := { s with reqSeq := id, remoteOut := if out then s.remoteOut ++ [w] else s.remoteOut }
  (s.sendOut p (.memReq { id := id, spkg := s.pkgid, score := k.core, dpkg := p, addr := addr, op := op }), id)

/-- What a command sends another package, for row `row` and element `elem`; with no path it ends with HOST_LINK. -/
def Run.send (r : Run) (h : Nat) (o : ObjRec) (addr : Nat) (op : RemoteOp) (row elem : Nat) : Run :=
  if !r.s.pathTo o.pkg then ({ r with s := r.s.countRoute o.pkg }).fail 0x30 0
  else
    let (s, id) := r.s.engineReq r.k o.pkg addr op
    let plain := match op with | .write _ _ => true | _ => false
    { r with s := s, k := { r.k with writes := r.k.writes ++ [(id, row, elem, h)],
                                     posted := if plain then r.k.posted ++ [id] else r.k.posted } }

/-- The host port by which the window of an object is reached (R331, R431). -/
def windowPortOf (o : ObjRec) : Nat := if Config.windowPort o.base then 10 else 0

/-- Whether the port of a host window is down (R331, R432). -/
def State.windowDown (s : State) (o : ObjRec) : Bool := ((s.ports[windowPortOf o]?).map (·.state)) = some 2

/-- A byte behind a host window as a command reads it: its own writes on the way included. -/
def State.hostByte (s : State) (cmd a : Nat) : Byte :=
  ((((s.hostWrites.filter (·.cmd = cmd)).flatMap (·.data)).reverse.find? (·.1 == a)).map (·.2)).getD (s.rd a)

/-- Bytes of another package's memory: those that the core's L1 holds under SHRD (R255, R439), the rest by a response that comes. -/
def Run.fetchFar (r : Run) (h : Nat) (o : ObjRec) (l : List Nat) : Run × List Byte :=
  let shrd := o.coh = 2
  let come := fun a => (r.k.data.find? fun d => d.1 = o.pkg && d.2.1 = a).map (·.2.2)
  let held := fun a => if shrd then r.s.farByte r.k.core o.pkg a else none
  let got := l.map fun a => match held a with | some b => some b | none => come a
  if got.all (·.isSome) then
    let new := if shrd then l.filterMap fun a => (come a).map fun b => (a, b) else []
    ({ r with s := new.foldl (fun s x => s.farFill r.k.core r.k.ctx o.pkg x) r.s }, got.map (·.getD 0))
  else if !r.s.pathTo o.pkg then (({ r with s := r.s.countRoute o.pkg }).fail 0x30 0, [])
  else
    let (s, id) := r.s.engineReq r.k o.pkg (l.headD 0) (.read l.length)
    ({ r with s := s, k := { r.k with reads := r.k.reads ++ [(id, l.headD 0, o.pkg, h)] }, wait := true }, [])

/-- Bytes of an object: of this package by the core's L1 or at home, as far as the stacks' budgets let it (R453); of another package;
of a host window by its port. -/
def Run.fetch (r : Run) (h : Nat) (o : ObjRec) (l : List Nat) (plane : Bool) : Run × List Byte :=
  if !r.going then (r, [])
  else if r.far o then r.fetchFar h o l
  else if o.kind = 2 then (if r.s.windowDown o then (r.fail 0x30 0, []) else (r, l.map (r.s.hostByte r.k.id)))
  else
    let r := if r.s.unitsFor l then r.meet h o l plane else { r with wait := true }
    if !r.going then (r, [])
    else
      let (s, bs) := (r.s.chargeUnits l).loadBytes r.k.core r.k.ctx o.coh l
      ({ r with s := s }, bs)

/-- A read of region bytes in which an error is planted ends the command with ECC_LASTING (R402, R309). -/
def Run.readBytes (r : Run) (addr n : Nat) : Run :=
  match r.s.errors.find? fun e => e.l1.isNone && addr ≤ e.addr && e.addr < addr + n with
  | none => r
  | some e => ({ r with s := { r.s with errors := r.s.errors.filter (· ≠ e) } }).fail 4 0

/-- What a copy is about to overwrite is remembered, as it stood before its first write (R326). -/
def Run.remember (r : Run) (l : List Nat) (old : List Byte) : Run :=
  if r.k.engine ≠ .copy then r
  else { r with k := { r.k with was := r.k.was ++ (List.zip l old).filter fun x => r.k.was.all (·.1 ≠ x.1) } }

/-- What a copy reads of bytes that it has itself written: what stands there or what stood there before the command, which of
the two is free (R326). -/
def Run.either (r : Run) (l : List Nat) (bs : List Byte) : Run × List Byte :=
  if !l.any fun a => r.k.was.any (·.1 == a) then (r, bs)
  else
    let early := Config.choice r.s.freeCount % 2 = 1
    ({ r with s := { r.s with freeCount := r.s.freeCount + 1 } },
      (List.zip l bs).map fun x => if early then ((r.k.was.find? (·.1 == x.1)).map (·.2)).getD x.2 else x.2)

/-- The 32-byte sectors of some region bytes are read, each once and whole (R266). -/
def Run.sense (r : Run) (addr n : Nat) : Run :=
  (List.range ((addr + n - 1) / 32 - addr / 32 + 1)).foldl (fun r i =>
    let q := addr / 32 + i
    if r.k.sectors.any (·.1 == q) then r
    else { r with k := { r.k with sectors := (q, r.s.rdN (32 * q) 32) :: r.k.sectors } }) r

/-- A byte of a sector that has been read. -/
def Run.sensed (r : Run) (a : Nat) : Byte := ((r.k.sectors.find? (·.1 == a / 32)).bind (·.2[a % 32]?)).getD 0

/-- `n` bytes of a region, as one access. -/
def Run.bytesAt (r : Run) (addr n : Nat) : Run × Nat :=
  let (r, l) := r.once fun r =>
    let r := (r.readBytes addr n).sense addr n
    let l := (List.range n).map (addr + ·)
    let (r, bs) := r.either l (l.map r.sensed)
    (r, [natLE bs])
  (r, l.headD 0)

/-- A nibble of a byte for a 4-bit element, or the whole (R90). -/
def pickNibble (eb i0 n : Nat) : Nat := if eb = 4 then n / (if i0 % 2 = 1 then 16 else 1) % 16 else n

/-- Element `k` of a region's row (R90). -/
def Run.padElem (r : Run) (row eb k : Nat) : Run × Nat :=
  let (r, n) := r.bytesAt (row + elemByte eb k) ((eb + 7) / 8)
  (r, pickNibble eb k n)

/-- Bytes of a region, read sector by sector, each by an access of its own (R266). -/
def Run.readSpan (r : Run) (addr n : Nat) : Run :=
  if n = 0 then r
  else (List.range ((addr + n - 1) / 32 - addr / 32 + 1)).foldl (fun r i => r.does fun r =>
    let q := addr / 32 + i
    let lo := max addr (32 * q)
    let len := min (addr + n) (32 * q + 32) - lo
    (r.readBytes lo len).sense lo len) r

/-- `n` bytes, and an element of a row (R90), of sectors that have been read. -/
def Run.spanNat (r : Run) (addr n : Nat) : Nat := natLE ((List.range n).map fun i => r.sensed (addr + i))
def Run.spanElem (r : Run) (row eb k : Nat) : Nat := pickNibble eb k (r.spanNat (row + elemByte eb k) ((eb + 7) / 8))

/-- A 32-bit word of the accumulators as it stands now (R311). -/
def Run.wordAt (r : Run) (addr : Nat) : Run × Nat :=
  let (r, l) := r.once fun r =>
    let r := r.readBytes addr 4
    (r, [r.s.rdNat addr 4])
  (r, l.headD 0)

/-- A word of the accumulators is written whole. -/
def Run.setWord (r : Run) (addr v : Nat) : Run := r.does fun r => { r with s := r.s.wrN addr (bytesLE 4 v) }

/-- Values read one after another. -/
def Run.gather {α : Type} (r : Run) (n : Nat) (f : Run → Nat → Run × α) : Run × List α :=
  (List.range n).foldl (fun acc i =>
    let (r, v) := f acc.1 i
    (r, acc.2 ++ [v])) (r, [])

/-- What an element out of shape reads as (R301, R325): FILL's code under fill, which takes the scale 1.0 of R301 and R361
also where a copy or `tvec` reads it (DESIGN CHOICE, entry 95), nothing under void, else status OOS. -/
def Run.outside (r : Run) (h : Nat) (o : ObjRec) : Run × List Nat :=
  if o.oospol = 1 then (r, [o.fill.toNat % 2 ^ min 32 o.ebits, 127]) else if o.oospol = 2 then (r, []) else (r.fail 1 h, [])

/-- Element (i0, i1) of an object, read now, with its scale where the command takes it (`plane`). -/
def Run.readObj (r : Run) (h : Nat) (o : ObjRec) (cur : Word) (i0 i1 : Nat) (plane : Bool := true) : Run × List Nat :=
  match objOffset o (curCoords o cur) i0 i1 with
  | none => r.outside h o
  | some e =>
    let l := o.elemAddrs e
    let r := if r.far o then r else r.resident h o l
    let (r, bs) := r.fetch h o l false
    let (r, bs) := if r.far o then (r, bs) else r.either l bs
    let v := pickNibble o.ebits e (natLE bs)
    if o.scale = 0 || !plane then (r, [v, 127])
    else
      let (r, sb) := r.fetch h o [o.scaleAddr e] true
      (r, [v, natLE sb])

/-- Element (i0, i1) of a source (R325). -/
def Run.read (r : Run) (p : Place) (i0 i1 : Nat) (plane : Bool := true) : Run × Elem :=
  match p with
  | .reg f base off pitch =>
    let (r, v) := r.padElem (base + off + i1 * pitch) (fmtBits f) i0
    (r, .code v 127)
  | .obj h o cur u =>
    let (r, l) := r.once fun r =>
      match r.recordNow h o u with
      | (r, some o) => r.readObj h o cur i0 i1 plane
      | (r, none) => (r, [])
    (r, .ofLog l)

/-- What a destination element is: bytes with the nibble, its object's record, and its number (R105, R325); or nothing
(discarded). -/
def Run.target (r : Run) (p : Place) (i0 i1 : Nat) : Run × Option (List Nat × Option Bool × Option (Nat × ObjRec) × Nat) :=
  match p with
  | .reg f base off pitch =>
    let eb := fmtBits f
    let at1 := off + i1 * pitch + elemByte eb i0
    (r, some ((List.range ((eb + 7) / 8)).map (fun i => base + at1 + i), if eb = 4 then some (i0 % 2 = 1) else none, none,
      if eb = 4 then 2 * at1 + i0 % 2 else at1 / (eb / 8)))
  | .obj h o cur u =>
    match r.recordNow h o u with
    | (r, none) => (r, none)
    | (r, some o) =>
      match objOffset o (curCoords o cur) i0 i1 with
      | none => if o.oospol = 0 then (r.fail 1 h, none) else (r, none)
      | some e =>
        let l := o.elemAddrs e
        let r := if r.far o then r else r.resident h o l
        if r.going then (r, some (l, if o.ebits = 4 then some (e % 2 = 1) else none, some (h, o), e)) else (r, none)

/-- Bytes are written to a region, to an object of this package or a host window, or sent to another package. -/
def Run.store (r : Run) (o : Option (Nat × ObjRec)) (l : List Nat) (bs : List Byte) (row elem : Nat) : Run :=
  let plain := fun r : Run => { r with s := (List.zip l bs).foldl (fun s x => s.wr x.1 x.2) r.s }
  match o with
  | none => plain (r.remember l (l.map r.s.rd))
  | some (h, o) =>
    if r.far o then
      -- bytes that the L1 holds take the new value, which the request brings to their owner
      ({ r with s := (List.zip l bs).foldl (fun s x => s.farPut r.k.core o.pkg x) r.s }).send h o (l.headD 0)
        (.write bs (bs.map fun _ => true)) row elem
    else if o.kind = 2 then
      (if r.s.windowDown o then r.fail 0x30 0
       else { r with s := { r.s with hostWrites := r.s.hostWrites ++
          [{ cmd := r.k.id, port := windowPortOf o, row := row, data := List.zip l bs }] } })
    else if !r.s.unitsFor l then { r with wait := true }
    else
      let r := r.remember l (r.s.loadBytes r.k.core r.k.ctx o.coh l).2
      { r with s := (r.s.chargeUnits l).storeBytes r.k.core r.k.ctx o.coh l bs }

/-- An element is written, its code given by its number; of a 4-bit one the other nibble stays. The flag says that it was
not discarded. -/
def Run.writeBy (r : Run) (p : Place) (i0 i1 row : Nat) (code : Nat → Nat) : Run × Bool :=
  let (r, l) := r.once fun r =>
    match r.target p i0 i1 with
    | (r, none) => (r, [0])
    | (r, some (l, nib, o, elem)) =>
      match nib with
      | none => (r.store o l (bytesLE l.length (code elem)) row elem, [1])
      | some hi =>
        let (r, old) := match o with | some (h, o) => r.fetch h o l false | none => (r, l.map r.s.rd)
        let v := natLE old
        if !r.going then (r, [0])
        else (r.store o l (bytesLE 1 (if hi then v % 16 + 16 * (code elem % 16) else v / 16 * 16 + code elem % 16)) row elem, [1])
  (r, l.headD 0 = 1)

/-- The code of an element is written. -/
def Run.write (r : Run) (p : Place) (i0 i1 row code : Nat) : Run := (r.writeBy p i0 i1 row fun _ => code).1

/-- The value of a source element as an exact number. -/
def elemVal (f : Fmt) (code scale : Nat) : XNum :=
  if scale = 255 then .nan else (decodeFmt f code).mul (XNum.dyadic false 1 ((scale : Int) - 127))

/-- A rounding mode by its code: `.rsr` draws the bits of an element (R105). -/
def Run.mode (r : Run) (rnd elem : Nat) : Mode :=
  if rnd = 0 then .rne else if rnd = 1 then .rz else if rnd = 2 then .rdn else if rnd = 3 then .rup
  else
    match r.s.ctx? r.k.ctx with
    | some c => srMode c.seed c.det c.id r.k.liter (w64 elem)
    | none => .rne

/-- Rounding an exact value into any format. -/
def roundFmt (f : Fmt) (m : Mode) (sat : Bool) (x : XNum) : Nat :=
  match f with
  | .f32 => roundTo ffF32 m sat x
  | .f16 => roundTo ffF16 m sat x
  | .bf16 => roundTo ffBf16 m sat x
  | .e2m1 => roundTo ffE2m1 m sat x
  | .e8m0 => roundE8m0 m sat x
  | .b8 u i p => roundTo (ffB8 u i p) m sat x
  | .int t => (BitVec.ofInt 64 (toIntClamped t m x)).toNat % 2 ^ t.bits

/-- A scaled element as FP32 (R108). -/
def scaledCode (sf : Fmt) (code scale : Nat) : Nat := roundTo ffF32 .rne false (elemVal sf code scale)

/-- A source element brought into a destination format (R325). -/
def convElem (df sf : Fmt) (scaled : Bool) (m : Mode) (sat : Bool) (code scale : Nat) : Nat :=
  if scaled then
    let v := scaledCode sf code scale
    if df = .f32 then v else convert df .f32 m sat v
  else if df = sf then code else convert df sf m sat code

/-! ### Ends and completion -/

def State.setCmd (s : State) (k : EngineCmd) : State := { s with cmds := s.cmds.map fun c => if c.id = k.id then k else c }

/-- The end of a try to run a command: what it did stands; it waits as it is, or has ended with status, DETAIL and `done`
rows. -/
def Run.finish (r : Run) (done : Nat) : State :=
  let k := { r.k with started := true, fuel := none }
  if r.wait then r.s.setCmd k
  else
    let (st, d) := r.stop.getD (0, 0)
    (r.s.setCmd { k with ended := some (st, d, done), data := [], log := [], recs := [], sectors := [], was := [] }).moved k.ctx

/-- Rows processed one after another while the run goes on; how many were finished. -/
def rowLoop (f : Run → Nat → Run) : List Nat → Run → Nat → Run × Nat
  | [], r, n => (r, n)
  | i :: rest, r, n =>
    let r := f r i
    if r.going then rowLoop f rest r (n + 1) else (r, n)

/-- Elements of a row. -/
def elemLoop (f : Run → Nat → Run) (n : Nat) (r : Run) : Run := (List.range n).foldl (fun r i => if r.going then f r i else r) r

/-- The first command of an engine's queue on a core that has not ended. -/
def State.headCmd (s : State) (core : Nat) (e : Engine) : Option EngineCmd :=
  (s.queued core e).find? (·.ended.isNone)

/-- Whether a command waits for nothing: no PUBLISH and no answer of another package. -/
def EngineCmd.free (k : EngineCmd) : Bool := k.parked.isNone && k.reads.isEmpty

/-- The head of an engine's queue, if it is the command a step performs and waits for nothing. -/
def State.headIf (s : State) (core : Nat) (e : Engine) (p : Instr → Bool) (f : EngineCmd → State) : Res :=
  .next (match s.headCmd core e with
    | none => s
    | some k => if p k.instr && k.free then f k else s)

/-- CMD as its completion reports it. -/
def cmdCode (k : EngineCmd) : Nat := bf k.block 0 4

/-- The payload of R308, R356. -/
def completion (k : EngineCmd) (st d done : Nat) : Word :=
  w64 (at_ (d % 2 ^ 32) 32 + at_ (min done 0xFFFF) 16 + (if k.engine = .trough then at_ 1 12 else 0) + at_ (cmdCode k) 8 + st)

/-- What a command reports: what it ended with, unless an access that it had sent failed; then the status of the lowest such
row, for a refused arrival with the lowest refused offset, and no row from there on counts (R328, R333, R439). -/
def EngineCmd.outcome (k : EngineCmd) (st d done : Nat) : Nat × Nat × Nat :=
  match minBy (·.2.2) k.broken with
  | none => (st, d, done)
  | some (c, e, row) =>
    (c, if c = 9 then ((minBy (fun n => n) ((k.broken.filter (·.1 = 9)).map (·.2.1))).getD e) % 2 ^ 32 else e, min done row)

/-- The completion token of a command goes to its continuation. -/
def State.engineToken (s : State) (k : EngineCmd) (v : Word) (rel : Option Scope) : State :=
  match s.ctx? k.ctx with
  | none => s
  | some c =>
    let src := 2048 + 4 * k.core + (match k.engine with | .mxu => 0 | .copy => 1 | .fabric => 2 | .trough => 3)
    s.contTo c src k.core k.cont v rel (some (s.pkgid, k.core))

/-- Whether a command has ended and everything it did has been answered, but that below gang scope plain writes to another package are
performed once they have been sent (R440). -/
def State.cmdDone (s : State) (k : EngineCmd) : Bool :=
  k.ended.isSome && (k.writes.all fun w => k.scope ≠ .gang && k.posted.contains w.1) &&
  (s.arrivals.all fun a => (a.rsp.map (·.1)) ≠ some k.id) && s.hostWrites.all (·.cmd ≠ k.id)

/-- The completion of a command: it gives up its place, releases at SCOPE and sends its token; a drained context's is
discarded (R313). -/
def State.completeCmd (s : State) (k : EngineCmd) : State :=
  let s1 := s.release k.core k.scope
  if !s1.releaseDone k.scope k.ctx then s1
  else
    let s := (({ s1 with cmds := s1.cmds.filter fun c => c.id ≠ k.id } : State).updCore k.core fun z => { z with idleAt := s.cycle }).moved k.ctx
    match k.ended, (s.ctx? k.ctx).map (·.draining.isSome) with
    | some (st, d, done), some false =>
      let (st, d, done) := k.outcome st d done
      if k.cont = 0 then s else s.engineToken k (completion k st d done) (some k.scope)
    | _, _ => s

/-- The first ended command of an engine on a core completes. -/
def State.complete (s : State) (core : Nat) (e : Engine) : State :=
  match (s.queued core e).find? s.cmdDone with
  | none => s
  | some k => s.completeCmd k

/-- Any command whose completion is due completes: those of a copy engine (R334) and of troughs (R365) do so in any order. -/
def State.completeAny (s : State) (id : Nat) : State :=
  match s.cmds.find? (·.id == id) with
  | none => s
  | some k => if (k.engine = .copy || k.engine = .trough) && s.cmdDone k then s.completeCmd k else s

end Sys2Proof.Machine
end

