-- ==== Sys2Proof/Machine/Mxu.lean ====
section
/-! DEFINITION. The matrix unit at work (R297–R299, R301, R309–R317): loads, products, conversions, sums, completions. -/

namespace Sys2Proof.Machine

/-! ### The sum of R314 -/

/-- Floor(|t| / 2^e) of n/d. -/
def floorDiv2 (n d : Nat) (e : Int) : Nat := if e < 0 then n * 2 ^ e.natAbs / d else n / (d * 2 ^ e.natAbs)

/-- The result of R314 over exact terms, a NaN term standing for every NaN case of a single term. -/
def alignedSum (terms : List XNum) : Nat :=
  let infs := terms.filterMap fun t => match t with | .inf n => some n | _ => none
  if terms.any XNum.isNaN || (infs.contains true && infs.contains false) then 0x7FC00000
  else
    match infs with
    | n :: _ => if n then 0xFF800000 else 0x7F800000
    | [] =>
      let fs := terms.filterMap fun t => match t with | .fin g n d => if n = 0 then none else some (g, n, d) | _ => none
      match fs with
      | [] => if terms.all XNum.neg && !terms.isEmpty then 0x80000000 else 0
      | f :: _ =>
        let emax := fs.foldl (fun m t => max m (floorLog2 t.2.1 t.2.2)) (floorLog2 f.2.1 f.2.2)
        let q := emax - 48
        let s := fs.foldl (fun (acc : Int) t => acc + sgn t.1 (floorDiv2 t.2.1 t.2.2 q)) 0
        if s = 0 then 0 else roundTo ffF32 .rne false (XNum.dyadic (s < 0) s.natAbs q)

/-- The result of R315. -/
def intSum (l : List Int) : Nat := (BitVec.ofInt 32 (l.foldl (· + ·) 0)).toNat

/-- The integer an element code stands for. -/
def codeInt (t : Ity) (code : Nat) : Int := intVal t (BitVec.ofNat 64 code)

/-! ### Banks and loads (R297–R301) -/

def State.bank? (s : State) (core bank : Nat) : Option MxuBank := s.banks.find? fun b => b.core = core && b.bank = bank

def State.setBank (s : State) (b : MxuBank) : State :=
  { s with banks := s.banks.filter (fun c => !(c.core = b.core && c.bank = b.bank)) ++ [b] }

/-- The bank a load describes, before its contents. -/
def bankTag (k : EngineCmd) (ty : MxTy) (w : BitVec 512) (sblk : Nat) : MxuBank :=
  { core := k.core, bank := bf w 6 1, valid := false, ctx := k.ctx, wid := bf w 48 16, sub := ty, scaled := wScaled w,
    sblk := sblk, k := wK w, n := wN w, w := [], scales := [] }

/-- Whether two banks bear one tag. -/
def MxuBank.sameTag (a b : MxuBank) : Bool :=
  a.ctx = b.ctx && a.wid = b.wid && a.sub = b.sub && a.scaled = b.scaled && a.sblk = b.sblk && a.k = b.k && a.n = b.n

/-- A bank is filled and becomes VALID. -/
def Run.fillBank (r : Run) (b : MxuBank) : Run := r.does fun r => { r with s := r.s.setBank { b with valid := true } }

/-- The load that a block describes. The bank is INVALID from its start, and stays so when the load ends in an error. -/
def Run.load (r : Run) (ty : MxTy) (w : BitVec 512) : Run :=
  let r := r.does fun r => { r with s := r.s.setBank (bankTag r.k ty w 0) }
  let eb := mxBits ty
  if wSrc w = 0 then
    let (base, _) := r.s.regionOf r.k.ctx r.k.core false
    let (r, ws) := r.gather (wN w) fun r n =>
      let row := base + bf w 320 32 + n * bf w 352 32
      let r := r.readSpan row (rowBytes eb (wK w))
      (r, (List.range (wK w)).map (r.spanElem row eb))
    let (r, scales) := r.gather (wN w) fun r n =>
      let row := base + bf w 384 32 + n * bf w 416 32
      let r := if wScaled w then r.readSpan row (ceilDiv (wK w) (wBlk w)) else r
      (r, (List.range (wK w)).map fun k => if wScaled w then r.spanNat (row + k / wBlk w) 1 else 127)
    r.fillBank { bankTag r.k ty w (if wScaled w then wBlk w else 0) with w := ws, scales := scales }
  else
    let cur := BitVec.ofNat 64 (bf w 448 64)
    match r.record cur { read := true } with
    | (r, none) => r
    | (r, some o) =>
      if o.rank < 2 || o.fmt ≠ some (mxFmt ty) || (wScaled w && o.scale = 0) then r.fail 0x22 (curHandle cur)
      else
        let p := Place.obj (curHandle cur) o cur { read := true }
        let (r, cols) := r.gather (wN w) fun r n => r.gather (wK w) fun r k =>
          match r.read p k n (wScaled w) with
          | (r, .code c sc) => (r, (c, sc))
          | (r, .void) => (r, (0, 127))
        r.fillBank { bankTag r.k ty w (if wScaled w then (if o.scale = 2 then 16 else 32) else 0) with
          w := cols.map (·.map (·.1)), scales := cols.map (·.map (·.2)) }

/-- The tag that the bank would have, for the reuse rule: an object's block size comes from its record as it stands. -/
def Run.loadTag (r : Run) (ty : MxTy) (w : BitVec 512) : MxuBank :=
  let h := curHandle (BitVec.ofNat 64 (bf w 448 64))
  let o := (r.s.orcHit r.k.core r.k.ctx h).getD (r.s.tableRec r.k.ctx h)
  bankTag r.k ty w (if !wScaled w then 0 else if wSrc w = 0 then wBlk w else if o.scale = 2 then 16 else 32)

def mxTyOf (i : Instr) : MxTy :=
  match i with
  | .mma _ t _ _ => t
  | .mmas _ t _ _ => t
  | .wld _ t _ _ => t
  | .tgemv _ t _ _ => t
  | .tgemvs _ t _ _ => t
  | _ => .bf16

/-- `wld`: the bank is used again, or loaded (R298, R301). -/
def wldRun (s : State) (k : EngineCmd) : State :=
  let ty := mxTyOf k.instr
  let (r, reuse) := (runOf s k).once fun r =>
    (r, [b2n (bf k.block 8 1 = 0 && (r.s.bank? k.core (bf k.block 6 1)).any fun b => b.valid && b.sameTag (r.loadTag ty k.block))])
  if reuse = [1] then (r.fail 0 1).finish 1
  else
    let r := r.load ty k.block
    r.finish (if r.stop.isNone then 1 else 0)

/-- WLD_EXEC. -/
def execWldExec (core : Nat) (s : State) : Res :=
  s.headIf core .mxu (fun i => match i with | .wld _ _ _ _ => true | _ => false) (wldRun s)

/-! ### Products (R299, R302, R306, R309, R314, R315) -/

/-- R299 for a command. -/
def bankOk (k : EngineCmd) (scaled : Bool) (b : MxuBank) : Bool :=
  b.valid && b.ctx = k.ctx && b.wid = bf k.block 48 16 && b.sub = mxTyOf k.instr && b.scaled = scaled

/-- The bank a command streams through: as it stands, after the reload, or none with the status. -/
def Run.bank (r : Run) (scaled : Bool) : Run × Option MxuBank :=
  let now := fun (r : Run) => r.s.bank? r.k.core (bf r.k.block 6 1)
  let (r, ok) := r.once fun r => (r, [b2n ((now r).any (bankOk r.k scaled))])
  let r := if ok = [1] then r
    else match r.k.reload with
      | some w => r.load (mxTyOf r.k.instr) w
      | none => r.fail 0x21 0
  (r, if r.going then now r else none)

/-- One result word from the activations and scales of its row. -/
def mmaWord (b : MxuBank) (ty : MxTy) (scaled : Bool) (a sa : Nat → Nat) (n : Nat) (old : Option Nat) : Nat :=
  let w := fun k => ((b.w[n]?.getD [])[k]?).getD 0
  if mxInt ty then
    let t : Ity := if ty = .i8 then .i8 else .i4
    intSum ((List.range b.k).map (fun k => codeInt t (a k) * codeInt t (w k)) ++ (old.map (codeInt .i32)).toList)
  else
    let f := mxFmt ty
    let sw := fun k => if scaled then ((b.scales[n]?.getD [])[k]?).getD 127 else 127
    alignedSum ((List.range b.k).map (fun k => (elemVal f (a k) (sa k)).mul (elemVal f (w k) (sw k))) ++
      (old.map (decodeFmt .f32)).toList)

/-- Row `m` of a product: its activations are read sector by sector, then each word is read, under ACC, and written (R311). -/
def Run.mmaRow (r : Run) (b : MxuBank) (scaled : Bool) (m : Nat) : Run :=
  let blk := r.k.block
  let ty := mxTyOf r.k.instr
  let (base, _) := r.s.regionOf r.k.ctx r.k.core false
  let (abase, _) := r.s.regionOf r.k.ctx r.k.core true
  let row := base + bf blk 64 32 + m * bf blk 96 32
  let srow := base + bf blk 192 32 + m * bf blk 224 32
  let r := r.readSpan row (rowBytes (mxBits ty) b.k)
  let r := if scaled then r.readSpan srow (ceilDiv b.k b.sblk) else r
  let sa := fun k => if scaled then r.spanNat (srow + k / b.sblk) 1 else 127
  let a := r.spanElem row (mxBits ty)
  elemLoop (fun r n =>
    let at1 := abase + bf blk 128 32 + m * bf blk 160 32 + 4 * n
    let (r, old) := if bf blk 7 1 = 1 then (r.wordAt at1).map id some else (r, none)
    r.setWord at1 (mmaWord b ty scaled a sa n old)) b.n r

/-- `mma` and `mmas`. The ranges that the bank's K and N reach are judged once the bank has passed (R306, R309). -/
def mmaRun (scaled : Bool) (s : State) (k : EngineCmd) : State :=
  match (runOf s k).bank scaled with
  | (r, none) => r.finish 0
  | (r, some b) =>
    let ty := mxTyOf k.instr
    let late := !(mmaChecks ty scaled b.k b.n (max b.sblk 1) k.block).all (·.2) ||
      (s.rangeBad k.ctx k.core (mmaRanges ty scaled b.k b.n (max b.sblk 1) k.block)).isSome
    if late then (r.fail 0x23 0).finish 0
    else
      let (r, done) := rowLoop (fun r m => r.mmaRow b scaled m) (List.range (mM k.block)) r 0
      r.finish done

/-- MMA_EXEC. -/
def execMmaExec (core : Nat) (s : State) : Res :=
  s.headIf core .mxu (fun i => match i with | .mma _ _ _ _ => true | _ => false) (mmaRun false s)

/-- MMAS_EXEC. -/
def execMmasExec (core : Nat) (s : State) : Res :=
  s.headIf core .mxu (fun i => match i with | .mmas _ _ _ _ => true | _ => false) (mmaRun true s)

/-! ### Clears, conversions, sums (R312, R316, R317) -/

/-- `aclr`. -/
def aclrRun (s : State) (k : EngineCmd) : State :=
  let (abase, _) := s.regionOf k.ctx k.core true
  (elemLoop (fun r i => r.setWord (abase + bf k.block 64 32 + 4 * i) 0) (bf k.block 96 32 / 4) (runOf s k)).finish 1

/-- ACLR_EXEC. -/
def execAclrExec (core : Nat) (s : State) : Res :=
  s.headIf core .mxu (fun i => match i with | .aclr _ _ _ => true | _ => false) (aclrRun s)

/-- `acvt` of one word into its destination. -/
def Run.convert (r : Run) (ty : AcvtTy) (p : Place) (m n : Nat) : Run :=
  let b := r.k.block
  let (abase, _) := r.s.regionOf r.k.ctx r.k.core true
  let (r, v) := r.wordAt (abase + bf b 288 32 + m * bf b 320 32 + 4 * n)
  let x := (if bf b 11 1 = 1 then XNum.ofRat (codeInt .i32 v) 1 else decodeFmt .f32 v).mul (decodeFmt .f32 (bf b 352 32))
  (r.writeBy p n m m fun elem => roundFmt (acvtFmt ty) (r.mode (bf b 6 3) elem) (bf b 9 1 = 1) x).1

/-- `acvt`. -/
def acvtRun (s : State) (k : EngineCmd) : State :=
  let ty := match k.instr with | .acvt _ t _ _ => t | _ => .f32
  let b := k.block
  let cur := BitVec.ofNat 64 (bf b 448 64)
  let start := fun (r : Run) (p : Place) =>
    let (r, done) := rowLoop (fun r m => elemLoop (fun r n => r.convert ty p m n) (nN b) r) (List.range (mM b)) r 0
    r.finish done
  if bf b 10 1 = 0 then
    let (base, _) := s.regionOf k.ctx k.core false
    start (runOf s k) (.reg (acvtFmt ty) base (bf b 384 32) (bf b 416 32))
  else
    match (runOf s k).record cur { write := true } with
    | (r, none) => r.finish 0
    | (r, some o) =>
      if o.rank < 2 || o.fmt ≠ some (acvtFmt ty) || o.scale ≠ 0 then (r.fail 0x22 (curHandle cur)).finish 0
      else start r (.obj (curHandle cur) o cur { write := true })

/-- ACVT_EXEC. -/
def execAcvtExec (core : Nat) (s : State) : Res :=
  s.headIf core .mxu (fun i => match i with | .acvt _ _ _ _ => true | _ => false) (acvtRun s)

/-- `aadd` of one word. -/
def Run.addWord (r : Run) (m n : Nat) : Run :=
  let b := r.k.block
  let (abase, _) := r.s.regionOf r.k.ctx r.k.core true
  let d := abase + bf b 128 32 + m * bf b 160 32 + 4 * n
  let from_ := abase + bf b 192 32 + m * bf b 224 32 + 4 * n
  let (r, c) := r.wordAt d
  let (r, v) := if from_ = d then (r, c) else r.wordAt from_
  r.setWord d (if bf b 6 1 = 1 then intSum [codeInt .i32 c, codeInt .i32 v] else (fadd .f32 .rne (w64 c) (w64 v)).toNat)

/-- `aadd`. -/
def aaddRun (s : State) (k : EngineCmd) : State :=
  let (r, done) := rowLoop (fun r m => elemLoop (fun r n => r.addWord m n) (nN k.block) r) (List.range (mM k.block)) (runOf s k) 0
  r.finish done

/-- AADD_EXEC. -/
def execAaddExec (core : Nat) (s : State) : Res :=
  s.headIf core .mxu (fun i => match i with | .aadd _ _ _ => true | _ => false) (aaddRun s)

/-- The run of an MXU command. -/
def mxuRun (s : State) (k : EngineCmd) : State :=
  match k.instr with
  | .mma _ _ _ _ => mmaRun false s k
  | .mmas _ _ _ _ => mmaRun true s k
  | .wld _ _ _ _ => wldRun s k
  | .aclr _ _ _ => aclrRun s k
  | .acvt _ _ _ _ => acvtRun s k
  | .aadd _ _ _ => aaddRun s k
  | _ => s

/-- MXU_COMPLETION (R307–R309). -/
def execMxuCompletion (core : Nat) (s : State) : Res := .next (s.complete core .mxu)

end Sys2Proof.Machine
end

