-- ==== Sys2Proof/Machine/Copy.lean ====
section
/-! DEFINITION. The copy engine at work (R325–R334): moves, gathers and scatters, reductions, bit planes, table streams,
host windows, fills. -/

namespace Sys2Proof.Machine

/-! ### Moves (R325–R327, R331, R332) -/

/-- Whether a place's object is a host window. -/
def Place.hostWin : Place → Bool
  | .obj _ o _ _ => o.kind = 2
  | .reg _ _ _ _ => false

/-- Both places of a command, source first; `none` for a source that is a value. -/
def Run.places (r : Run) (ck : CopyKind) (srcUse dstUse : Use) (noSrc : Bool) : Run × Option Place × Option Place :=
  let b := r.k.block
  let (r, s) := if noSrc then (r, none) else r.place (cSrc b) srcUse (copySrcRange ck b)
  let (r, d) := r.place (cDst b) dstUse (copyDstRange ck b)
  (r, s, d)

/-- The format rules of R325 that an object's format decides. -/
def Run.pairFormats (r : Run) (s d : Place) : Run :=
  if !r.going then r
  else
    match s.fmt, d.fmt with
    | some f, some g =>
      let src := if s.scaled then Fmt.f32 else f
      if d.scaled then r.fail 0x22 d.handle
      else if pairOk src g then r
      else r.fail 0x22 (if s.isObj then s.handle else d.handle)
    | _, _ => r

/-- One element moved from source row `sr` to destination row `dr`, the command's row `row`. -/
def Run.moveElem (r : Run) (s d : Place) (i sr dr row : Nat) : Run :=
  match r.read s i sr, s.fmt, d.fmt with
  | (r, .code c sc), some sf, some df =>
    let b := r.k.block
    (r.writeBy d i dr row fun elem => convElem df sf s.scaled (r.mode (bf b 6 3) elem) (bf b 9 1 = 1) c sc).1
  | (r, _), _, _ => r

/-- Rows of a move: the command's row with its source and destination rows, `none` when skipped. -/
abbrev RowMap := List (Nat × Option (Nat × Nat))

def straight (n : Nat) : RowMap := (List.range n).map fun i => (i, some (i, i))

def Run.moveRows (r : Run) (s d : Place) (rows : RowMap) : State :=
  let (r, done) := rowLoop (fun r j => match rows[j]? with
    | some (row, some (sr, dr)) => elemLoop (fun r i => r.moveElem s d i sr dr row) (cE0 r.k.block) r
    | _ => r) (List.range rows.length) r 0
  r.finish done

/-- Host windows are for `cpyh` alone (R230, R325). -/
def Run.noHost (r : Run) (l : List (Option Place)) : Run :=
  l.foldl (fun r p => match p with | some q => if r.going && q.hostWin then r.fail 3 q.handle else r | none => r) r

/-- A use by a copy that other packages' records allow (R439). -/
def useRead : Use := { read := true, remote := true, host := true }
def useWrite : Use := { write := true, remote := true, host := true }

/-- A plain move along a row map (`cpy`, `cpyg`, `cpys`). -/
def Run.moves (r : Run) (ck : CopyKind) (rows : RowMap) : State :=
  let (r, sp, dp) := r.places ck useRead useWrite false
  let r := r.noHost [sp, dp]
  match sp, dp with
  | some sp, some dp =>
    let r := r.pairFormats sp dp
    if r.going then r.moveRows sp dp rows else r.finish 0
  | _, _ => r.finish 0

/-- The index list of a command, read sector by sector before anything else (R327). -/
def Run.indexList (r : Run) : Run × List Nat :=
  let b := r.k.block
  let at0 := (r.s.regionOf r.k.ctx r.k.core false).1 + bf b 224 32
  let r := r.readSpan at0 (4 * cE1 b)
  (r, (List.range (cE1 b)).map fun i => r.spanNat (at0 + 4 * i) 4)

/-- Its classification: the row map, or the first position out of bound. -/
def classify (b : BitVec 512) (scatter : Bool) (l : List Nat) : Except Nat RowMap :=
  l.zipIdx.foldl (fun acc (x, i) =>
    match acc with
    | .error e => .error e
    | .ok m =>
      if bf b 10 1 = 1 && x = 0xFFFFFFFF then .ok (m ++ [(i, none)])
      else if bf b 192 32 ≤ x then (if bf b 11 1 = 1 then .ok (m ++ [(i, none)]) else .error i)
      else .ok (m ++ [(i, some (if scatter then (i, x) else (x, i)))])) (.ok [])

def Run.indexed (r : Run) (scatter : Bool) (ck : CopyKind) : State :=
  let (r, l) := r.indexList
  if !r.going then r.finish 0
  else
    match classify r.k.block scatter l with
    | .error i => (r.fail 0x24 i).finish 0
    | .ok rows => r.moves ck rows

/-- The low bits of VALUE in every element. -/
def Run.fillRows (r : Run) (d : Place) : State :=
  let v := bf r.k.block 192 64
  let eb := (d.fmt.map fmtBits).getD 8
  let (r, done) := rowLoop (fun r j => elemLoop (fun r i => r.write d i j j (v % 2 ^ eb)) (cE0 r.k.block) r)
    (List.range (cE1 r.k.block)) r 0
  r.finish done

/-- `cpyf` (R332): a host-window destination ends with PERM. -/
def Run.fills (r : Run) (ck : CopyKind) : State :=
  match r.places ck {} { write := true } true with
  | (r, _, some d) => if r.going then r.fillRows d else r.finish 0
  | (r, _, none) => r.finish 0

/-- `cpyh` (R331): one endpoint is a host window; each access passes its port, and with that down the transfer ends with
HOST_LINK, what was acknowledged staying written. -/
def Run.hosts (r : Run) (ck : CopyKind) (outward : Bool) : State :=
  let fill := outward && cFillSrc r.k.block
  let (r, sp, dp) := r.places ck { read := true, host := !outward } { write := true, host := outward } fill
  match (if outward then dp else sp), (if fill then some none else sp.map some), dp with
  | some w, some src, some d =>
    if !r.going then r.finish 0
    else if !w.hostWin then (r.fail 0x26 w.handle).finish 0
    else
      match src with
      | none => if d.scaled then (r.fail 0x22 d.handle).finish 0 else r.fillRows d
      | some sp =>
        let r := r.pairFormats sp d
        if r.going then r.moveRows sp d (straight (cE1 r.k.block)) else r.finish 0
  | _, _, _ => r.finish 0

/-! ### Reductions (R328) -/

/-- The number an atomic bears for an operation (R276, R278). -/
def cpyrAtomic : CpyrOp → Nat
  | .addF32 => 16 | .minF32 => 17 | .maxF32 => 18 | .addBf16 => 20

/-- The new value of a destination element. -/
def cpyrNew (op : CpyrOp) (d x : Nat) : Nat := (atomNew (cpyrAtomic op) false d x 0).getD d

/-- One source value combined into its destination element: at the bank, at the home L2, in another package, or as an arrival
of an ordered-reduction unit. -/
def Run.reduce (r : Run) (op : CpyrOp) (det : Bool) (d : Place) (i row x : Nat) : Run :=
  r.does fun r =>
    match r.target d i row with
    | (r, none) => r
    | (r, some (l, _, o, elem)) =>
      let b := r.k.block
      let ordered := det && op = .addF32
      match o with
      | none =>
        let r := r.remember l (l.map r.s.rd)
        { r with s := r.s.wrN (l.headD 0) (bytesLE l.length (cpyrNew op (r.s.rdNat (l.headD 0) l.length) x)) }
      | some (h, o) =>
        if r.far o then
          r.send h o (l.headD 0)
            (if ordered then .ordered (bf b 224 32) (bf b 12 1 = 1) (BitVec.ofNat 32 x) else .atomic (cpyrAtomic op) false (w64 x) 0) row elem
        else
          let s := r.s.flushLines r.k.core none l
          if ordered then
            let a : RedArrival := { die := dieOf r.k.core, ctx := r.k.ctx, addr := l.headD 0, key := bf b 224 32, last := bf b 12 1 = 1,
                                    x := BitVec.ofNat 32 x, acc := none, stalled := false, rsp := some (r.k.id, elem, row) }
            { r with s := { s with arrivals := s.arrivals ++ [a] } }
          else
            let r := { r with s := s }.remember l (l.map (s.homeView (dieOf r.k.core) (l.headD 0)).rd)
            { r with s := (s.atomicHome (dieOf r.k.core) l (cpyrAtomic op) false x 0).1 }

/-- `cpyr`. -/
def Run.reduces (r : Run) (ck : CopyKind) (op : CpyrOp) : State :=
  let det := r.s.isDet r.k.ctx
  let (r, sp, dp) := r.places ck useRead { useWrite with read := true } false
  let r := r.noHost [sp, dp]
  match sp, dp with
  | some sp, some d =>
    let r :=
      if !r.going then r
      else if !(sp.scaled && op ≠ .addBf16) && !((sp.fmt.map (cpyrSrcOk op)).getD false) then r.fail 0x22 sp.handle
      else if d.scaled || d.fmt ≠ some (cpyrDst op) then r.fail 0x22 d.handle else r
    let one := fun (r : Run) (j i : Nat) =>
      match r.read sp i j with
      | (r, .void) => r
      | (r, .code v sc) => r.reduce op det d i j (convElem (cpyrDst op) (sp.fmt.getD .f32) sp.scaled .rne false v sc)
    if !r.going then r.finish 0
    else
      let (r, done) := rowLoop (fun r j => elemLoop (fun r i => one r j i) (cE0 r.k.block) r) (List.range (cE1 r.k.block)) r 0
      r.finish done
  | _, _ => r.finish 0

/-! ### Bit planes (R329) -/

/-- Word `w` of the planes' place: element (d0 + w, d1) of an object, or byte OFF + 8w. -/
def Place.plane : Place → Place
  | .obj h o cur u => .obj h o cur u
  | .reg _ base off _ => .reg (.int .n64) base off 0

/-- The planes of one element under a mode: bit j for j below NP. -/
def planeBits (f : Fmt) (scaled : Bool) (mode np : Nat) (th : List Nat) (code scale : Nat) : Nat :=
  if mode = 0 then code % 2 ^ np
  else
    let v := decodeFmt .f32 (if scaled then convElem .f32 f true .rne false code scale
      else match f with
        | .int t => roundTo ffF32 .rne false (XNum.ofRat (codeInt t code) 1)
        | f => convElem .f32 f false .rne false code 127)
    (List.range np).foldl (fun m j =>
      let t := decodeFmt .f32 (th[j]?.getD 0)
      if !t.isNaN && !v.isNaN && !v.lt t then m + 2 ^ j else m) 0

/-- The thresholds of a command, read at its start. -/
def Run.thresholds (r : Run) : Run × List Nat :=
  let b := r.k.block
  let at0 := (r.s.regionOf r.k.ctx r.k.core false).1 + bf b 224 32
  if cMode b = 1 then
    let r := r.readSpan at0 (4 * cNp b)
    (r, (List.range (cNp b)).map fun j => r.spanNat (at0 + 4 * j) 4)
  else (r, [])

/-- The planes of feature `f` for the samples of group `g`, one mask a plane. -/
def Run.planeGroup (r : Run) (sp : Place) (th : List Nat) (g f : Nat) : Run × List Nat :=
  let b := r.k.block
  let np := cNp b
  (List.range 64).foldl (fun (acc : Run × List Nat) i =>
    if cE1 b ≤ 64 * g + i then acc
    else
      match acc.1.read sp f (64 * g + i) with
      | (r, .void) => (r, acc.2)
      | (r, .code c sc) =>
        let m := planeBits (sp.fmt.getD .f32) sp.scaled (cMode b) np th c sc
        (r, acc.2.mapIdx fun j w => w + bits m j 1 * 2 ^ i)) (r, List.replicate np 0)

/-- `.toplanes`: DONE counts words. -/
def Run.toPlanes (r : Run) (sp dp : Place) : State :=
  let b := r.k.block
  let np := cNp b
  let (r, th) := r.thresholds
  let cells := (List.range (ceilDiv (cE1 b) 64)).flatMap fun g => (List.range (cE0 b)).map fun f => (g, f)
  let (r, done) := cells.foldl (fun (acc : Run × Nat) (c : Nat × Nat) =>
    let (r, ws) := acc.1.planeGroup sp th c.1 c.2
    let first := (c.1 * cE0 b + c.2) * np
    if !r.going then (r, acc.2)
    else rowLoop (fun r j => r.write dp.plane (first + j) 0 (first + j) (ws[j]?.getD 0)) (List.range np) r acc.2) (r, 0)
  r.finish done

/-- `.fromplanes`: row s of the destination is sample s. -/
def Run.fromPlanes (r : Run) (sp dp : Place) : State :=
  let b := r.k.block
  let np := cNp b
  let one := fun (r : Run) (j f : Nat) =>
    let (r, v) := (List.range np).foldl (fun (acc : Run × Nat) p =>
      match acc.1.read sp.plane ((j / 64 * cE0 b + f) * np + p) 0 with
      | (r, .code w _) => (r, acc.2 + bits w (j % 64) 1 * 2 ^ p)
      | (r, .void) => (r, acc.2)) (r, 0)
    r.write dp f j j v
  let (r, done) := rowLoop (fun r j => elemLoop (fun r f => one r j f) (cE0 b) r) (List.range (cE1 b)) r 0
  r.finish done

/-- `cpybs`. -/
def Run.bitPlanes (r : Run) (ck : CopyKind) (outward : Bool) : State :=
  let b := r.k.block
  let (r, sp, dp) := r.places ck { read := true } { write := true } false
  match sp, dp with
  | some sp, some d =>
    let srcOk := if outward then (if cMode b = 1 then sp.scaled || (sp.fmt.map threshFmt).getD false
        else !sp.scaled && (sp.fmt.map (intFmt · (cNp b))).getD false)
      else !sp.scaled && sp.fmt = some (.int .n64)
    let dstOk := !d.scaled && (if outward then d.fmt = some (.int .n64) else (d.fmt.map (intFmt · (cNp b))).getD false)
    let r := if !r.going then r else if !srcOk then r.fail 0x22 sp.handle else if !dstOk then r.fail 0x22 d.handle else r
    if !r.going then r.finish 0 else if outward then r.toPlanes sp d else r.fromPlanes sp d
  | _, _ => r.finish 0

/-! ### Table-load streams (R330) -/

/-- The core whose slot a stream fills. -/
def State.streamCore (s : State) (k : EngineCmd) : Nat :=
  if bf k.block 247 1 = 1 then k.core
  else ((s.ctx? k.ctx).bind fun c => ((s.logical c)[bf k.block 248 8]?).map fun p => if p.1 = s.pkgid then p.2 else Config.numCores).getD k.core

/-- A record of a slot is written. -/
def State.setRecord (s : State) (core slot idx : Nat) (v : BitVec 128) : State :=
  { s with lkSlots := s.lkSlots.map fun k => if k.core = core && k.slot = slot then
      { k with records := (k.records.filter fun r => r.1 ≠ idx) ++ (if v = 0 then [] else [(idx, v)]) } else k }

/-- Whether a slot of a context stands in the save area of a core where it is pre-empted (R348). -/
def State.slotSaved (s : State) (x core slot : Nat) : Bool :=
  ((s.ctx? x).bind (·.section? core)).any fun z => z.slots.any (·.1 == slot)

/-- The slot a stream fills: one that is saved is waited for, as is a core that does not run (R413, R418); one that the
context does not hold ends the command. -/
def Run.streamSlot (r : Run) : Run :=
  let slot := bf r.k.block 242 2
  let tgt := r.s.streamCore r.k
  if !r.going then r
  else if tgt < Config.numCores && (r.s.slotSaved r.k.ctx tgt slot || !(tgt = r.k.core || (r.s.core tgt).power = .running)) then
    { r with wait := true }
  else if !r.s.holdsSlot r.k.ctx tgt slot then r.fail 0x25 slot else r

/-- Record `i` of a stream, written whole; with a void byte it is not written. -/
def Run.streamRecord (r : Run) (sp : Place) (i : Nat) : Run :=
  let b := r.k.block
  let (r, v) := (List.range 16).foldl (fun (acc : Run × Option Nat) j =>
    match acc.1.read sp (16 * i + j) 0, acc.2 with
    | (r, .code c _), some v => (r, some (v + c * 2 ^ (8 * j)))
    | (r, _), _ => (r, none)) (r, some 0)
  match v with
  | none => r
  | some v => r.does fun r =>
    let r := r.streamSlot
    if r.going then { r with s := r.s.setRecord (r.s.streamCore r.k) (bf b 242 2) (bf b 224 12 + i) (BitVec.ofNat 128 v) } else r

/-- `cpyt`. -/
def Run.streams (r : Run) (ck : CopyKind) : State :=
  match r.place (cSrc r.k.block) { read := true } (copySrcRange ck r.k.block) with
  | (r, none) => r.finish 0
  | (r, some sp) =>
    let flat := match sp with | .obj _ o _ _ => o.kind = 1 | .reg _ _ _ _ => true
    if r.going && !flat then (r.fail 0x26 sp.handle).finish 0
    else
      let r := r.does Run.streamSlot
      let (r, done) := if r.going then rowLoop (fun r i => r.streamRecord sp i) (List.range (cE0 r.k.block)) r 0 else (r, 0)
      r.finish done

/-! ### Which command runs -/

/-- Whether a command may run now: started already and waiting for nothing, or first of those not started, with AFTER
satisfied (R334). -/
def State.copyReady (s : State) (core : Nat) (k : EngineCmd) : Bool :=
  k.ended.isNone && k.free &&
  (k.started ||
    ((s.queued core .copy).filter fun o => o.id < k.id).all fun o =>
      (o.started || o.ended.isSome) && (bf k.block 14 1 = 0 || o.ctx ≠ k.ctx))

/-- The run of a copy command. -/
def copyRun (s : State) (k : EngineCmd) : State :=
  let r := runOf s k
  match copyKind k.instr with
  | none => s
  | some ck =>
    match ck with
    | .cpy => r.moves ck (straight (cE1 k.block))
    | .cpyg => r.indexed false ck
    | .cpys => r.indexed true ck
    | .cpyr op => r.reduces ck op
    | .planes outward => r.bitPlanes ck outward
    | .cpyt => r.streams ck
    | .host outward => r.hosts ck outward
    | .cpyf => r.fills ck

/-- The command of a kind that the engine of a core performs. -/
def State.copyStep (s : State) (core : Nat) (p : CopyKind → Bool) : Res :=
  .next (match (s.queued core .copy).find? (fun k => s.copyReady core k && (copyKind k.instr).any p) with
    | none => s
    | some k => copyRun s k)

/-- CPY_EXEC. -/
def execCpyExec (core : Nat) (s : State) : Res := s.copyStep core (· = .cpy)

/-- CPYG_EXEC. -/
def execCpygExec (core : Nat) (s : State) : Res := s.copyStep core (· = .cpyg)

/-- CPYS_EXEC. -/
def execCpysExec (core : Nat) (s : State) : Res := s.copyStep core (· = .cpys)

/-- CPYR_EXEC. -/
def execCpyrExec (core : Nat) (s : State) : Res := s.copyStep core (fun c => match c with | .cpyr _ => true | _ => false)

/-- CPYBS_EXEC. -/
def execCpybsExec (core : Nat) (s : State) : Res := s.copyStep core (fun c => match c with | .planes _ => true | _ => false)

/-- CPYT_EXEC. -/
def execCpytExec (core : Nat) (s : State) : Res := s.copyStep core (· = .cpyt)

/-- CPYH_EXEC. -/
def execCpyhExec (core : Nat) (s : State) : Res := s.copyStep core (fun c => match c with | .host _ => true | _ => false)

/-- CPYF_EXEC. -/
def execCpyfExec (core : Nat) (s : State) : Res := s.copyStep core (· = .cpyf)

/-- COPY_COMPLETION (R333). -/
def execCopyCompletion (core : Nat) (s : State) : Res := .next (s.complete core .copy)

end Sys2Proof.Machine
end

