-- ==== Sys2Proof/Machine/Fabric.lean ====
section
/-! DEFINITION. The lookup fabric (R338–R350): claims and releases, cycles of claims, records written by lanes, runs. -/

namespace Sys2Proof.Machine

/-! ### Claims and releases (R343, R344) -/

/-- The answer of the fabric to a claim or release: STATUS, DETAIL; the token carries no release. -/
def State.lkAnswer (s : State) (x core : Nat) (cont : Word) (st d : Nat) : State :=
  (s.answerCont x (2048 + 4 * core + 2) core cont (w64 (at_ d 32 + at_ (if st = 0 then 1 else 0) 16 + st)) none).moved x

/-- The runs counted on a slot: accepted and not completed, of its holder. -/
def State.countedRuns (s : State) (x core slot : Nat) : List EngineCmd :=
  s.cmds.filter fun k => k.engine = .fabric && k.core = core && k.slot = slot && k.ctx = x

/-- Whether a slot is held by nobody. -/
def State.slotFree (s : State) (core slot : Nat) : Bool := !s.lkSlots.any fun k => k.core = core && k.slot = slot

/-- Whether a claim could only join the wait list: the slot is another's, is being released, or others wait for it. -/
def State.claimWaits (s : State) (x core slot : Nat) : Bool :=
  if s.slotFree core slot then s.lkClaims.any fun c => c.core = core && c.slot = slot
  else s.lkSlots.any fun k => k.core = core && k.slot = slot && (k.ctx ≠ x || k.releasing)

/-- A free slot is granted, cleared (R342, R344). -/
def State.grantSlot (s : State) (x core slot : Nat) (cont : Word) : State :=
  let k : LkSlot := { core := core, slot := slot, ctx := x, releasing := false, records := [] }
  ({ s with lkSlots := s.lkSlots ++ [k] } : State).lkAnswer x core cont 0 0

/-- Service of a claim (R344): waiting, granted, or held already. -/
def State.serveClaim (s : State) (x core slot : Nat) (cont : Word) : State :=
  if s.claimWaits x core slot then
    let c : LkClaim := { core := core, cmd := s.cmdSeq + 1, ctx := x, slot := slot, cont := cont, level := s.prioOf x, since := s.cycle }
    { s with cmdSeq := s.cmdSeq + 1, lkClaims := s.lkClaims ++ [c] }
  else if s.slotFree core slot then s.grantSlot x core slot cont
  else s.lkAnswer x core cont 0 1

/-- Service of a release: the slot is releasing, or LKF_SLOT. Runs accepted later cannot name it, so those counted are
exactly those of its acceptance. -/
def State.serveReleaseSlot (s : State) (x core slot : Nat) (cont : Word) : State :=
  if s.holdsSlot x core slot then
    { s with lkSlots := s.lkSlots.map fun k => if k.core = core && k.slot = slot then { k with releasing := true, cont := cont } else k }
  else s.lkAnswer x core cont 0x25 slot

/-- The place `lkctx` waits in: an access that LKF_CLAIM or LKF_RELEASE serves. -/
def lkOp (a : Access) : Nat := bits a.a.bits.toNat 0 1

/-- `lkctx`: the request is submitted when the instruction executes (R343). -/
def execLkctx (pm : Pm) (sl : BitVec 2) (t0 t1 : Target) (s : State) : Res :=
  effectOp pm t0 t1 (fun s fl j ln k =>
    let i := Instr.lkctx pm sl t0 t1
    if k.a.void || k.b.void then s.deliverNow ln j i { bits := 1, void := true }
    else if k.a.bits.toNat / 2 ≠ 0 then s.faultLane ln.fid j 0x2C [k.a.bits, w64 sl.toNat]
    else if k.b.bits ≠ 0 && !((s.ctx? fl.ctx).any fun c => c.contOk k.b.bits) then s.faultLane ln.fid j 0x05 [k.b.bits]
    else
      let (s, a) := s.newAccess i .scratch .ready fl j ln k
      s.updAccess a.id fun a => { a with handle := sl.toNat }) s

/-- Whether the fabric of a core can accept a request: from the cycle after its issue on, so that those of one cycle stand against one
another (R353); lanes in ascending order (R310), and no claim that would have to wait
while 16 wait. -/
def State.lkOpen (s : State) (core : Nat) (a : Access) : Bool :=
  (match a.instr with | .lkctx _ _ _ _ => a.core = core | _ => false) && a.born < s.cycle && !s.behindLane a &&
  (lkOp a = 1 || !s.claimWaits a.ctx core a.handle || (s.lkClaims.filter fun c => c.core = core && !c.saved).length < 16)

/-- The request that the fabric serves next: the first that it can accept; but of those of one cycle for one slot the holder's
release before a claim, and of claims of a free slot that of the highest priority (R344, R353). -/
def State.lkHead (s : State) (core : Nat) : Option Access :=
  let can := s.accesses.filter (s.lkOpen core)
  match can with
  | [] => none
  | a :: _ =>
    let same := can.filter fun b => b.born = a.born && b.handle = a.handle
    if lkOp a = 1 then some a
    else
      match same.find? fun b => lkOp b = 1 && s.holdsSlot b.ctx core b.handle with
      | some b => some b
      | none => if s.slotFree core a.handle then minBy (fun b => 64 - s.prioOf b.ctx) (same.filter fun b => lkOp b = 0) else some a

def State.serveLk (s : State) (core op : Nat) : State :=
  match s.lkHead core with
  | none => s
  | some a =>
    if lkOp a ≠ op then s
    else if ((s.ctx? a.ctx).map (·.draining.isSome)).getD true then s.deliverAccess a { bits := 0 }
    else
      let s := s.deliverAccess a { bits := 0 }
      if op = 0 then s.serveClaim a.ctx core a.handle a.b.bits else s.serveReleaseSlot a.ctx core a.handle a.b.bits

/-- LKF_CLAIM. -/
def execLkfClaim (core : Nat) (s : State) : Res := .next (s.serveLk core 0)

/-- LKF_RELEASE. -/
def execLkfRelease (core : Nat) (s : State) : Res := .next (s.serveLk core 1)

/-- The waiting claim that takes a freed slot: highest effective priority, then the earliest accepted. -/
def State.nextClaim (s : State) (core slot : Nat) : Option LkClaim :=
  minBy (fun c => (64 - c.level) * 2 ^ 64 + c.cmd) (s.lkClaims.filter fun c => c.core = core && c.slot = slot)

/-- A pre-empted context's saved slot is held again under its own number, its records written back (R413). -/
def State.reclaimSlot (s : State) (x core slot : Nat) : State :=
  match ((s.ctx? x).bind (·.section? core)).bind fun z => z.slots.find? (·.1 == slot) with
  | none => s
  | some (_, at0) =>
    let recs := (List.range 4096).filterMap fun i =>
      let v := s.rdNat (at0 + 16 + 16 * i) 16
      if v = 0 then none else some (i, BitVec.ofNat 128 v)
    let k : LkSlot := { core := core, slot := slot, ctx := x, releasing := false, records := recs }
    ({ s with lkSlots := s.lkSlots ++ [k] } : State).updCtx x fun c => { c with
      saved := replaceFirst (·.core == core) (fun z => { z with slots := z.slots.filter (·.1 ≠ slot) }) c.saved }

/-- LKF_SLOT_FREE: a releasing slot with no counted run left is freed, the release is answered, and a waiting claim takes
the slot, cleared; a slot that a freed context left goes to a waiting claim likewise. -/
def execLkfSlotFree (core slot : Nat) (s : State) : Res :=
  .next (
    let grant := fun (s : State) =>
      match s.nextClaim core slot with
      | none => s
      | some c =>
        let s : State := { s with lkClaims := s.lkClaims.filter (· ≠ c) }
        if c.saved then s.reclaimSlot c.ctx core slot else s.grantSlot c.ctx core slot c.cont
    match s.lkSlots.find? fun k => k.core = core && k.slot = slot with
    | none => grant s
    | some k =>
      if k.releasing && (s.countedRuns k.ctx core slot).isEmpty then
        let s : State := { s with lkSlots := s.lkSlots.filter (· ≠ k) }
        grant (s.lkAnswer k.ctx core k.cont 0 0)
      else s)

/-! ### Claim cycles (R345) -/

/-- Which context each waiting claim waits on, a restored context's claims of its saved slots among them (R413); not on a context that is
pre-empted on the core, whose slot the yard saves (R353). -/
def State.waitsOn (s : State) : List (Nat × Nat) :=
  s.lkClaims.filterMap fun c =>
    (s.lkSlots.find? fun k => k.core = c.core && k.slot = c.slot && k.ctx ≠ c.ctx &&
      !((s.ctx? k.ctx).bind (·.section? c.core)).isSome).map fun k => (c.ctx, k.ctx)

/-- The contexts reachable from some along waits. -/
def waitReach (edges : List (Nat × Nat)) : Nat → List Nat → List Nat
  | 0, l => l
  | n + 1, l => waitReach edges n (l ++ (edges.filter fun e => l.contains e.1).map (·.2)).eraseDups

/-- CLAIM_CYCLE: in a cycle of waits, the claim of the context with the latest admission number is refused: of those that have a claim to
refuse, since a saved slot had been granted (R345). -/
def execClaimCycle (s : State) : Res :=
  .next (
    let e := s.waitsOn
    let from_ := fun x => waitReach e e.length ((e.filter fun w => w.1 = x).map (·.2))
    let adm := fun x => ((s.ctx? x).map (·.admission)).getD 0
    let inCycle := ((e.map (·.1)).eraseDups).filter fun x => (from_ x).contains x
    match inCycle with
    | [] => s
    | x0 :: _ =>
      -- the contexts of one cycle reach each other
      let ring := inCycle.filter fun y => (from_ x0).contains y && (from_ y).contains x0
      let refusable := fun (c : LkClaim) => !c.saved && s.lkSlots.any fun k =>
        k.core = c.core && k.slot = c.slot && k.ctx ≠ c.ctx && ring.contains k.ctx
      let ring' := ring.filter fun y => s.lkClaims.any fun c => c.ctx = y && refusable c
      let x := ring'.foldl (fun m y => if adm m < adm y then y else m) (ring'.headD x0)
      match s.lkClaims.find? fun c => c.ctx = x && refusable c with
      | none => s
      | some c => ({ s with lkClaims := s.lkClaims.filter (· ≠ c) } : State).lkAnswer c.ctx c.core c.cont 0x2A c.slot)

/-! ### `lkst` (R350) -/

def execLkst (pm : Pm) (t0 t1 : Target) (s : State) : Res :=
  effectOp pm t0 t1 (fun s fl j ln k =>
    let i := Instr.lkst pm t0 t1
    let place := k.c.bits.toNat
    let slot := bits place 12 2
    if k.a.void || k.b.void || k.c.void then s.deliverNow ln j i { bits := 1, void := true }
    else if place / 2 ^ 14 ≠ 0 || !s.holdsSlot fl.ctx fl.core slot then s.faultLane ln.fid j 0x2C [k.c.bits, w64 slot]
    else (s.setRecord fl.core slot (bits place 0 12) (k.b.bits ++ k.a.bits)).deliverNow ln j i { bits := 0 }) s

/-! ### Runs (R338–R340, R348) -/

/-- The fields of a cell record. -/
def cellNin (v : BitVec 128) : Nat := bits v.toNat 60 3
def cellOut (v : BitVec 128) : Bool := v.getLsbD 63
def cellSel (v : BitVec 128) (k : Nat) : Nat := bits v.toNat (10 * k) 10
def cellTt (v : BitVec 128) (i : Nat) : Bool := v.getLsbD (64 + i)

/-- A slot's record (one never written is zero). -/
def LkSlot.record (k : LkSlot) (i : Nat) : BitVec 128 := ((k.records.find? (·.1 == i)).map (·.2)).getD 0

/-- Whether a record of a run is bad by itself (R348). -/
def cellBad (first c npin : Nat) (v : BitVec 128) : Bool :=
  cellNin v = 7 || (List.range 6).any fun k =>
    let s := cellSel v k
    if cellNin v ≤ k then s ≠ 0
    else if s < 512 then npin ≤ s
    else c < first + (s - 512) + 1

/-- The first bad record of a run. -/
def badCell (b : BitVec 512) (k : LkSlot) : Option Nat :=
  let first := rFirst b
  let n := rNcell b
  let step := fun (acc : Option Nat × Nat) (c : Nat) =>
    match acc with
    | (some x, m) => (some x, m)
    | (none, m) =>
      let v := k.record c
      let m := if cellOut v then m + 1 else m
      if cellBad first c (rNpin b) v || rNout b < m || (c + 1 = first + n && m < rNout b) then (some c, m) else (none, m)
  ((List.range n).map (· + first)).foldl step (none, 0) |>.1

/-- The output of a cell from its six input planes. -/
def cellPlane (v : BitVec 128) (ins : List Nat) : Nat :=
  (List.range 64).foldl (fun m b =>
    let i := (List.range 6).foldl (fun i k => i + bits (ins[k]?.getD 0) b 1 * 2 ^ k) 0
    if cellTt v i then m + 2 ^ b else m) 0

/-- One group (R340): the output planes in record order. A selector that names no plane, of a record that came while the run
was under way, reads an unknown one (R353). -/
def runGroup (b : BitVec 512) (k : LkSlot) (ins : List Nat) : List Nat :=
  let first := rFirst b
  let outs := ((List.range (rNcell b)).map (· + first)).foldl (fun (outs : List Nat) c =>
    let v := k.record c
    let sel := fun j =>
      let s := cellSel v j
      let plane := if s < 512 then ins[s]? else if first + (s - 512) < c then outs[c - 1 - (s - 512) - first]? else none
      if cellNin v ≤ j then 0 else plane.getD (Config.latePlane c j)
    outs ++ [cellPlane v ((List.range 6).map sel)]) []
  (outs.zipIdx.filter fun (_, i) => cellOut (k.record (first + i))).map (·.1)

/-- The slot that a run names, while its context holds it. -/
def State.slotOfRun (s : State) (q : EngineCmd) : Option LkSlot :=
  s.lkSlots.find? fun k => k.core = q.core && k.slot = q.slot && k.ctx = q.ctx

/-- The records of a run, each read whole as it then stands (R330, R353). -/
def Run.records (r : Run) : Run × LkSlot :=
  let b := r.k.block
  let (r, l) := r.gather (rNcell b) fun r i =>
    let c := rFirst b + i
    let (r, l) := r.once fun r =>
      (r, [((r.s.slotOfRun r.k).map fun z => (z.record c).toNat).getD 0])
    (r, (c, BitVec.ofNat 128 (l.headD 0)))
  (r, { core := r.k.core, slot := r.k.slot, ctx := r.k.ctx, releasing := false, records := l })

/-- Group `g` of a run: its input planes, its records, then its output planes in ascending number (R340, R348). -/
def Run.group (r : Run) (g : Nat) : Run :=
  let b := r.k.block
  let (base, _) := r.s.regionOf r.k.ctx r.k.core false
  let ip := base + bf b 128 32 + g * bf b 160 32
  let op := base + bf b 192 32 + g * bf b 224 32
  let r := r.readSpan ip (8 * rNpin b)
  let (r, k) := r.records
  let outs := (runGroup b k ((List.range (rNpin b)).map fun p => r.spanNat (ip + 8 * p) 8)).take (rNout b)
  outs.zipIdx.foldl (fun r w => r.does fun r => { r with s := r.s.wrN (op + 8 * w.2) (bytesLE 8 w.1) }) r

/-- `lkrun`: every record is checked before anything is written (R348). -/
def lkrunRun (s : State) (q : EngineCmd) : State :=
  let r := runOf s q
  if (s.slotOfRun q).isNone then (r.fail 0x25 q.slot).finish 0
  else
    let (r, k) := r.records
    match badCell q.block k with
    | some c => (if r.going then r.fail 0x27 c else r).finish 0
    | none =>
      let (r, done) := rowLoop Run.group (List.range (rG q.block)) r 0
      r.finish done

/-- LKRUN_EXEC. -/
def execLkrunExec (core : Nat) (s : State) : Res :=
  s.headIf core .fabric (fun i => match i with | .lkrun _ _ _ _ => true | _ => false) (lkrunRun s)

/-- LKRUN_COMPLETION (R349). -/
def execLkrunCompletion (core : Nat) (s : State) : Res := .next (s.complete core .fabric)

end Sys2Proof.Machine
end

