-- ==== Sys2Proof/Machine/Trough.lean ====
section
/-! DEFINITION. The bank troughs (R354–R366): vectors, matrix-vector products, reductions. And MEM_ACCESS_PERFORMED, which
also tries the submissions of engine words again (R306). -/

namespace Sys2Proof.Machine

/-! ### Vectors (R354, R358) -/

def State.buffer? (s : State) (t vb : Nat) : Option TroughBuffer := s.buffers.find? fun b => b.trough = t && b.buf = vb

def State.setBuffer (s : State) (b : TroughBuffer) : State :=
  { s with buffers := s.buffers.filter (fun c => !(c.trough = b.trough && c.buf = b.buf)) ++ [b] }

/-- The troughs a `tvec` block names. -/
def vTroughs (b : BitVec 512) : List Nat := (List.range (2 ^ bf b 20 4)).map (· + bf b 24 9)

/-- The order in which troughs come to their parts of a command (R365). -/
def EngineCmd.partOrder (k : EngineCmd) (l : List Nat) : List Nat := sortBy (Config.troughKey k.id) l

/-- A buffer of a load, VALID with the vector or INVALID. -/
def State.setVector (s : State) (k : EngineCmd) (b : BitVec 512) (v : Option (List Nat)) (t : Nat) : State :=
  s.setBuffer { trough := t, buf := bf b 18 2, ctx := k.ctx, valid := v.isSome, vid := bf b 48 16, vfmt := bf b 16 2, elems := v.getD [] }

/-- Every buffer of a load is set, each by one access, as a trough does its part as one; parts on different troughs run concurrently
(R365). -/
def Run.setVectors (r : Run) (b : BitVec 512) (v : List Nat) : Run :=
  (r.k.partOrder (vTroughs b)).foldl (fun r t => r.does fun r => { r with s := r.s.setVector r.k b (some v) t }) r

/-- A load that has ended with an error leaves every buffer it named INVALID (R358). -/
def Run.spoil (r : Run) (b : BitVec 512) : Run :=
  if r.stop.isSome then { r with s := (vTroughs b).foldl (fun s t => s.setVector r.k b none t) r.s } else r

/-- An element of a vector in its format: converted under R102 also where the formats are equal; a scaled one counts as FP32. -/
def vectorElem (vf sf : Fmt) (scaled : Bool) (m : Mode) (sat : Bool) (code scale : Nat) : Nat :=
  if scaled then convert vf .f32 m sat (scaledCode sf code scale) else convert vf sf m sat code

/-- Whether a source may be loaded in a format. -/
def Place.loads (p : Place) (vf : Fmt) : Bool :=
  match p.fmt with
  | none => false
  | some f => pairOk (if p.scaled then .f32 else f) vf

/-- The load that a `tvec` block describes: the source is read once, converted, and written to every buffer. -/
def Run.vector (r : Run) (b : BitVec 512) : Run :=
  if !r.going then r
  else match r.place (cSrc b) { read := true } (tvecRanges b) with
  | (r, none) => r.spoil b
  | (r, some p) =>
    if r.going && !p.loads (vFmt b) then (r.fail 0x22 p.handle).spoil b
    else
      let (r, l) := r.gather (vLen b) fun r i =>
        match r.read p i 0 with
        | (r, .void) => (r, 0)
        | (r, .code c sc) => (r, vectorElem (vFmt b) (p.fmt.getD .f32) p.scaled (r.mode (bf b 6 3) 0) (bf b 9 1 = 1) c sc)
      (r.setVectors b l).spoil b

/-- `tvec`. -/
def tvecRun (s : State) (k : EngineCmd) : State :=
  let r := (runOf s k).vector k.block
  r.finish (if r.stop.isNone then 1 else 0)

/-- TVEC_EXEC. -/
def execTvecExec (core : Nat) (s : State) : Res :=
  s.headIf core .trough (fun i => match i with | .tvec _ _ _ => true | _ => false) (tvecRun s)

/-! ### Products (R359–R361) -/

/-- The format of a vector by its code (R354). -/
def vecFmt (n : Nat) : Fmt := if n = 0 then .f32 else if n = 1 then .bf16 else .int .i8

/-- The check of R360 of one trough. -/
def vectorFits (k : EngineCmd) (v : TroughBuffer) : Bool :=
  v.valid && v.ctx = k.ctx && v.vid = bf k.block 48 16 && gK k.block ≤ v.elems.length &&
  (if mxTyOf k.instr = .i8 then v.vfmt = 2 else v.vfmt ≤ 1)

/-- The troughs that hold rows of a command. -/
def gTroughs (o : ObjRec) (r0 m : Nat) : List Nat :=
  let n := 2 ^ o.tn
  sortBy id (((List.range (min m n)).map fun i => o.first + (r0 + i) % n).eraseDups)

/-- The lowest trough that fails the check, if any. -/
def State.vectorFail (s : State) (k : EngineCmd) (l : List Nat) : Option Nat :=
  l.find? fun t => !(s.buffer? t (bf k.block 10 2)).any (vectorFits k)

/-- The vectors that the troughs of a command hold, by trough, in the order of their parts: the format's code, then the elements;
nothing where the check fails. A trough does its part of a command as one (R365), so that what it held at the check is what its rows
meet. -/
def Run.vectors (r : Run) (l : List Nat) : Run × List (Nat × List Nat) :=
  let l := r.k.partOrder l
  let (r, vs) := r.gather l.length fun r i =>
    let (r, v) := r.once fun r =>
      (r, (((r.s.buffer? (l[i]?.getD 0) (bf r.k.block 10 2)).filter (vectorFits r.k)).map fun v => v.vfmt :: v.elems).getD [])
    (r, (l[i]?.getD 0, v))
  (r, vs)

/-- The check of R360, after the reload where it fails and VLD names a block. -/
def Run.checked (r : Run) (l : List Nat) : Run × List (Nat × List Nat) :=
  let bad := fun (vs : List (Nat × List Nat)) => minBy (·.1) (vs.filter (·.2.isEmpty))
  let (r, vs) := r.vectors l
  let (r, vs) := match bad vs, r.k.reload with
    | some _, some w => (r.vector w).vectors l
    | _, _ => (r, vs)
  match bad vs with
  | some v => (if r.going then r.fail 0x29 v.1 else r, vs)
  | none => (r, vs)

/-- Before troughs read an object, the dirty lines of it are written back (R363). -/
def State.pushObject (s : State) (o : ObjRec) : State :=
  s.drainBridge fun w => o.spans.any fun x => x.1 ≤ w.addr && w.addr < x.1 + x.2

/-- Bytes of an object as the troughs read them: from DRAM, sector by sector (R363), a sector not read before as far as its stack's budget
lets it (R453). -/
def Run.troughRead (r : Run) (h : Nat) (o : ObjRec) (l : List Nat) (plane : Bool) : Run :=
  if l.all fun a => r.k.sectors.any (·.1 == a / 32) then r
  else if !r.s.unitsFor l then { r with wait := true }
  else (({ r with s := r.s.chargeUnits l } : Run).meet h o l plane).sense (l.headD 0) l.length

/-- One weight as the troughs read it, under the record that then stands (R368). -/
def Run.weight (r : Run) (h : Nat) (o : ObjRec) (cur : Word) (i0 i1 : Nat) : Run × Elem :=
  let (r, l) := r.once fun r =>
    match r.recordNow h o { read := true } with
    | (r, none) => (r, [])
    | (r, some o) =>
      match objOffset o (curCoords o cur) i0 i1 with
      | none => r.outside h o
      | some e =>
        let l := o.elemAddrs e
        let r := (r.resident h o l).troughRead h o l false
        let v := pickNibble o.ebits e (natLE (l.map r.sensed))
        if o.scale = 0 then (r, [v, 127])
        else
          let r := r.troughRead h o [o.scaleAddr e] true
          (r, [v, (r.sensed (o.scaleAddr e)).toNat])
  (r, .ofLog l)

/-- The destination word that ACC adds. -/
def Run.incoming (r : Run) (p : Place) (m : Nat) : Run × Nat :=
  let (r, l) := r.once fun r =>
    match r.target p m 0 with
    | (r, none) => (r, [0])
    | (r, some (l, _, some (h, o), _)) =>
      let (r, bs) := r.fetch h o l false
      (r, [natLE bs])
    | (r, some (l, _, none, _)) => (r.readBytes (l.headD 0) l.length, [natLE (l.map r.s.rd)])
  (r, l.headD 0)

/-- Results written one after another, and how many from the first on were written (R356). -/
def countLoop (f : Run → Nat → Run × Bool) (n : Nat) (r : Run) : Run × Nat :=
  (List.range n).foldl (fun acc m =>
    if !acc.1.going then acc
    else
      let (r, wrote) := f acc.1 m
      (r, if wrote && acc.2 = m then m + 1 else acc.2)) (r, 0)

/-- A sum of R361: of terms, with the incoming word under ACC. -/
def troughSum (int : Bool) (old : Option Nat) (df : Fmt) (terms : List XNum) (ints : List Int) : Nat :=
  if int then intSum (ints ++ (old.map (codeInt .i32)).toList)
  else alignedSum (terms ++ (old.map (decodeFmt df)).toList)

/-- Row `m` of a product, and whether it was written. -/
def Run.gemvRow (r : Run) (h : Nat) (o : ObjRec) (cur : Word) (d : Place) (vs : List (Nat × List Nat)) (m : Nat) : Run × Bool :=
  let b := r.k.block
  let ty := mxTyOf r.k.instr
  let r0 := ((curCoords o cur).bind (·[1]?)).getD 0
  let v := ((vs.find? (·.1 == o.first + (r0 + m) % 2 ^ o.tn)).map (·.2)).getD []
  let x := fun k => v[k + 1]?.getD 0
  let (r, ws) := r.gather (gK b) fun r k => let (r, e) := r.weight h o cur k m
                                            (r, (k, e))
  let (r, old) := if bf b 9 1 = 1 then (r.incoming d m).map id some else (r, none)
  let val := troughSum (mxInt ty) old .f32
    (ws.filterMap fun (k, e) => match e with
      | .code c sc => some ((elemVal (mxFmt ty) c sc).mul (decodeFmt (vecFmt (v.headD 0)) (x k)))
      | .void => none)
    (ws.filterMap fun (k, e) => match e with | .code c _ => some (codeInt .i8 c * codeInt .i8 (x k)) | .void => none)
  r.writeBy d m 0 m fun _ => val

/-- `tgemv` and `tgemvs`. -/
def gemvRun (scaled : Bool) (s : State) (k : EngineCmd) : State :=
  let b := k.block
  let ty := mxTyOf k.instr
  let cur := BitVec.ofNat 64 (bf b 448 64)
  let h := curHandle cur
  match (runOf s k).record cur { read := true } with
  | (r, none) => r.finish 0
  | (r, some o) =>
    let ok := o.kind = 0 && o.smode = 1 && o.fmt = some (mxFmt ty) && (o.scale ≠ 0) = scaled && o.coh ≠ 1
    if !ok then (r.fail 0x22 h).finish 0
    else
      match r.place (gDst b) { write := true, read := bf b 9 1 = 1 } (tgemvRanges b) with
      | (r, none) => r.finish 0
      | (r, some d) =>
        let r := if r.going && (d.scaled || d.fmt ≠ some (gDstFmt ty)) then r.fail 0x22 d.handle else r
        let (r, vs) := r.checked (gTroughs o (((curCoords o cur).bind (·[1]?)).getD 0) (gM b))
        let r := r.does fun r => { r with s := r.s.pushObject o }
        let (r, done) := countLoop (fun r m => r.gemvRow h o cur d vs m) (gM b) r
        r.finish done

/-- TGEMV_EXEC. -/
def execTgemvExec (core : Nat) (s : State) : Res :=
  s.headIf core .trough (fun i => match i with | .tgemv _ _ _ _ => true | _ => false) (gemvRun false s)

/-- TGEMVS_EXEC. -/
def execTgemvsExec (core : Nat) (s : State) : Res :=
  s.headIf core .trough (fun i => match i with | .tgemvs _ _ _ _ => true | _ => false) (gemvRun true s)

/-! ### Reductions (R362) -/

/-- Result `m` of a reduction, and whether it was written. -/
def Run.reduceRow (r : Run) (sp d : Place) (m : Nat) : Run × Bool :=
  let b := r.k.block
  let (r, parts) := r.gather (dP b) fun r p => r.read sp m p
  let codes := parts.filterMap fun e => match e with | .code c _ => some c | .void => none
  let df := d.fmt.getD .f32
  let (r, old) := if bf b 10 1 = 1 then (r.incoming d m).map id some else (r, none)
  let v := troughSum (dSint b) old df (codes.map (decodeFmt .f32)) (codes.map (codeInt .i32))
  let val := if dSint b then v else roundFmt df (r.mode (bf b 6 3) 0) (bf b 9 1 = 1) (decodeFmt .f32 v)
  r.writeBy d m 0 m fun _ => val

/-- `tred`. -/
def tredRun (s : State) (k : EngineCmd) : State :=
  let b := k.block
  let (r, sp) := (runOf s k).place (cSrc b) { read := true } ((cSrc b).range (dP b) (gM b))
  let (r, dp) := r.place (cDst b) { write := true, read := bf b 10 1 = 1 } ((cDst b).range 1 (gM b))
  match sp, dp with
  | some sp, some d =>
    let r := if !r.going then r
      else if sp.scaled || !((sp.fmt.map (tredSrcOk b)).getD false) then r.fail 0x22 sp.handle
      else if d.scaled || !((d.fmt.map (tredDstOk b)).getD false) then r.fail 0x22 d.handle else r
    let (r, done) := countLoop (fun r m => r.reduceRow sp d m) (gM b) r
    r.finish done
  | _, _ => r.finish 0

/-- TRED_EXEC. -/
def execTredExec (core : Nat) (s : State) : Res :=
  s.headIf core .trough (fun i => match i with | .tred _ _ _ => true | _ => false) (tredRun s)

/-- TROUGH_COMPLETION (R356). -/
def execTroughCompletion (core : Nat) (s : State) : Res := .next (s.complete core .trough)

/-! ### Commands access by access -/

/-- The run of a command of any engine. -/
def engineRun (s : State) (k : EngineCmd) : State :=
  match k.instr with
  | .lkrun _ _ _ _ => lkrunRun s k
  | .tvec _ _ _ => tvecRun s k
  | .tgemv _ _ _ _ => gemvRun false s k
  | .tgemvs _ _ _ _ => gemvRun true s k
  | .tred _ _ _ => tredRun s k
  | _ => if k.engine = .copy then copyRun s k else mxuRun s k

/-- The troughs on which a command has a part, those of its reload among them; `tred` runs in a stack's base die (R362). -/
def State.partsOf (s : State) (k : EngineCmd) : List Nat :=
  let weights := fun (_ : Unit) =>
    let h := curHandle (BitVec.ofNat 64 (bf k.block 448 64))
    let o := (s.orcHit k.core k.ctx h).getD (s.tableRec k.ctx h)
    (List.range (2 ^ min o.tn 9)).map (o.first + ·) ++ (match k.reload with | some w => vTroughs w | none => [])
  match k.instr with
  | .tvec _ _ _ => vTroughs k.block
  | .tgemv _ _ _ _ => weights ()
  | .tgemvs _ _ _ _ => weights ()
  | _ => []

/-- Whether a command may run: any one of a copy engine that is ready; of a core's trough commands one that shares no trough with an
earlier one (R365); else the head of its queue. -/
def State.cmdDue (s : State) (k : EngineCmd) : Bool :=
  if k.engine = .copy then s.copyReady k.core k
  else if k.engine = .trough then
    k.free && k.ended.isNone && (((s.queued k.core .trough).filter (·.ended.isNone)).takeWhile (·.id ≠ k.id)).all fun o =>
      (s.partsOf o).all fun t => !(s.partsOf k).contains t
  else k.free && s.headCmd k.core k.engine = some k

/-- A command makes up to `n` further accesses. -/
def State.engineStep (s : State) (id n : Nat) : State :=
  match s.cmds.find? (·.id == id) with
  | none => s
  | some k => if s.cmdDue k then engineRun s { k with fuel := some n } else s

/-! ### MEM_ACCESS_PERFORMED -/

/-- The access at `k` is performed, or its engine command is submitted again (R33, R306). -/
def execMemAccessPerformed (k : Nat) (s : State) : Res :=
  .next (match s.accesses[k]? with
    | none => s
    | some a =>
      match classOf a.instr, a.instr with
      | _, .lkctx _ _ _ _ => s
      | .mxu, _ => s.submit a
      | .copy, _ => s.submit a
      | .fabric, _ => s.submit a
      | .trough, _ => s.submit a
      | _, _ => s.performIf a)

end Sys2Proof.Machine
end

