-- ==== Sys2Proof/Machine/Arrivals.lean ====
section
/-! DEFINITION. The ordered-reduction units (R259, R280) and the object-table commands (R238, R240, R246), with the answer
to a residency fetch (R286). -/

namespace Sys2Proof.Machine

/-! ### Ordered arrivals -/

/-- An arrival of an engine command was refused: status ORDER_KEY with the element's offset and row (R328). -/
def EngineCmd.refusedAt (k : EngineCmd) (off row : Nat) : EngineCmd := { k with broken := k.broken ++ [(9, off, row)] }

/-- What the sender of an arrival learns: it is accepted, or refused by a target whose NEXT is given. -/
def State.arrivalDone (s : State) (a : RedArrival) (refused : Option Nat) : State :=
  match a.acc with
  | some id =>
    match s.accesses.find? (·.id == id), refused with
    | none, _ => s
    | some q, some n => s.faultAccess q 0x09 [w64 a.addr, w64 a.key, w64 n]
    | some q, none =>
      let s := match q.instr with
        | .fatom _ _ _ ord sc => if ord = Order.acq || ord = Order.ar then s.acquire q.core (some (q.scopeOf sc)) else s
        | _ => s
      s.deliverAccess q { bits := 0 }
  | none =>
    match a.rsp, refused with
    | some (0, req, p), f =>
      let m : MemRsp := { id := req, dpkg := p, spkg := s.pkgid, fault := f.map fun _ => 9, data := bytesLE 4 (f.getD 0) }
      s.sendOut p (.memRsp m)
    | some (c, off, row), some _ =>
      { s with cmds := s.cmds.map fun k => if k.id = c then k.refusedAt off row else k }
    | _, _ => s

def RedTarget.is (t : RedTarget) (die ctx addr : Nat) : Bool := t.die = die && t.ctx = ctx && t.addr = addr

/-- The target is kept as `t`, or its entry is freed; what stands buffered then is discarded and counted STRAY (R280). -/
def State.setTarget (s : State) (t : RedTarget) : State :=
  { s with targets := s.targets.map fun u => if u.is t.die t.ctx t.addr then t else u }

def State.freeTarget (s : State) (t : RedTarget) : State :=
  ({ s with targets := s.targets.filter fun u => !u.is t.die t.ctx t.addr } : State).updCtx t.ctx fun c =>
    { c with stray := satInc c.stray t.buffered.length }

/-- The loop of R259 from the arrival with key NEXT: the word is updated, NEXT advances, and buffered arrivals follow. -/
def State.applyFrom (t : RedTarget) (last : Bool) (x : BitVec 32) : Nat → State → State
  | 0, s => s
  | n + 1, s =>
    let old := w64 (s.rdNat t.addr 4)
    let s := s.wrN t.addr (bytesLE 4 (fadd .f32 .rne old (x.zeroExtend 64)).toNat)
    let t1 := { t with next := t.next + 1 }
    if last then s.freeTarget t1
    else
      match t.buffered.find? (·.1 == t1.next) with
      | none => s.setTarget t1
      | some (_, last', x') => State.applyFrom { t1 with buffered := t.buffered.filter (·.1 ≠ t1.next) } last' x' n s

/-- The service of the arrival at `k` by the unit of its home: applied, buffered, refused, or stalled. An arrival of a
context that drains is taken without effect. -/
def State.serveArrival (s : State) (k : Nat) (a : RedArrival) : State :=
  let taken := fun (s : State) => ({ s with arrivals := removeAt k s.arrivals } : State).moved a.ctx
  if a.ctx < 1024 && ((s.ctx? a.ctx).map (·.draining.isSome)).getD true then (taken s).arrivalDone a none
  else
    -- it comes behind the writes that its die queued toward the home (R258)
    let s := s.homeView a.die a.addr
    let die := homeDie a.addr
    let stall := fun (s : State) => ({ s with arrivals := s.arrivals.modify k fun x => { x with stalled := true } } : State)
    let slice := s.targets.filter (·.die = die)
    let found := slice.find? (·.is die a.ctx a.addr)
    if found.isNone && 1024 ≤ slice.length then stall s
    else
      let t := found.getD { die := die, ctx := a.ctx, addr := a.addr, next := 0, buffered := [] }
      let s : State := if found.isNone then { s with targets := s.targets ++ [t] } else s
      if a.key < t.next || t.buffered.any (·.1 == a.key) then (taken s).arrivalDone a (some t.next)
      else if t.next < a.key then
        if 64 ≤ t.buffered.length || 16384 ≤ slice.foldl (fun n u => n + u.buffered.length) 0 then stall s
        else ((taken s).setTarget { t with buffered := t.buffered ++ [(a.key, a.last, a.x)] }).arrivalDone a none
      else ((taken s).applyFrom t a.last a.x (t.buffered.length + 1)).arrivalDone a none

/-- Whether the stack of an arrival's word serves it (R453); a lane's has been charged when it was sent. -/
def State.arrivalFree (s : State) (a : RedArrival) : Bool := a.acc.isSome || s.unitsFor [a.addr]

/-- An arrival is tried where its stack serves it. -/
def State.tryArrival (s : State) (k : Nat) (a : RedArrival) : State :=
  if !s.arrivalFree a then s else (if a.acc.isSome then s else s.chargeUnits [a.addr]).serveArrival k a

/-- ORDERED_ARRIVAL. -/
def execOrderedArrival (k : Nat) (s : State) : Res :=
  .next (match s.arrivals[k]? with
    | some a => if a.stalled then s else s.tryArrival k a
    | none => s)

/-- ORDERED_ARRIVAL_UNSTALL: a stalled arrival is tried again. -/
def execOrderedArrivalUnstall (k : Nat) (s : State) : Res :=
  .next (match s.arrivals[k]? with
    | some a => if a.stalled then s.tryArrival k a else s
    | none => s)

/-! ### The object-table registers (R238) -/

/-- A write of OTPOOL. -/
def State.writeOtpool (s : State) (v : Word) : State :=
  let n := bits v.toNat 0 5
  if s.ctxs.isEmpty && 10 ≤ n && n ≤ 19 then { s with otpool := w64 (at_ (bits v.toNat 16 32) 16 + n) }
  else { s with otBadw := true }

def execOtpoolWrite (v : Word) (s : State) : Res := .next (s.writeOtpool v)

/-- A write of OTCMD: 16 commands are queued at most. -/
def State.writeOtcmd (s : State) (v : Word) : State :=
  let op := bits v.toNat 60 4
  if op = 0 || 3 < op then { s with otBadw := true }
  else if 16 ≤ (s.otq.filter fun c => !c.started).length then { s with otOvf := true }
  else
    let c : OtCmd := { op := op, ctx := bits v.toNat 50 10, handle := bits v.toNat 31 19, granule := bits v.toNat 3 28 }
    { s with otq := s.otq ++ [c] }

def State.otDone (s : State) : State := { s with otq := s.otq.drop 1, otSeq := s.otSeq + 1 }

/-- A SHOOT or SHOOTRES reaches every agent: cached copies of the record, or of the granule's residency word, go. What was
translated before has still to be performed. -/
def State.startShoot (s : State) (c : OtCmd) : State :=
  let r := s.tableRec c.ctx c.handle
  let mine := fun (e : OrcEntry) => e.ctx = c.ctx && e.handle = c.handle
  let spans := r.spans ++ (s.orc.filter mine).flatMap fun e => e.rec_.spans
  let c' := { c with
    started := true, since := s.reqSeq, waiting := s.enabledCores,
    span := if c.op = 1 then spans.eraseDups else [(r.base + c.granule * 2 ^ (12 + r.gran), 2 ^ (12 + r.gran))],
    pkg := if s.farRec r then some r.pkg else none }
  { s with
    unpublished := if c.op ≠ 1 then s.unpublished
      else s.unpublished.filter (· ≠ (c.ctx, c.handle)) ++ (if r.state = 2 then [(c.ctx, c.handle)] else [])
    orc := if c.op = 1 then s.orc.filter fun e => !mine e else s.orc
    resWords := s.resWords.filter fun w => !(w.ctx = c.ctx && w.handle = c.handle && (c.op = 1 || w.word = c.granule / 32))
    -- what a command has read of HBM under the old record is not used again (R368)
    cmds := s.cmds.map fun k =>
      if c.op = 1 && k.ctx = c.ctx && k.recs.any (·.1 == c.handle) then
        { k with sectors := k.sectors.filter fun q => Config.hbmTop ≤ 32 * q.1 } else k
    otq := c' :: s.otq.drop 1 }

/-- A PUBLISH reaches every agent: the translations that wait on the record, of lanes and of engines, walk again. -/
def State.startPublish (s : State) (c : OtCmd) : State :=
  let mine := fun (x h : Nat) => x = c.ctx && h = c.handle
  { s with
    unpublished := s.unpublished.filter (· ≠ (c.ctx, c.handle))
    accesses := s.accesses.map fun a => if a.phase = .moving && mine a.ctx a.handle then { a with phase := .walking } else a
    cmds := s.cmds.map fun k => if k.parked.any (mine k.ctx) then { k with parked := none } else k
    otq := { c with started := true, waiting := s.enabledCores } :: s.otq.drop 1 }

/-- One step of a broadcast command at the head of the queue: it starts, or ends once every core has acknowledged (its
engines and its parts of troughs with it). -/
def State.broadcast (s : State) (op : Nat) : State :=
  match s.otq with
  | [] => s
  | c :: _ =>
    if c.op ≠ op then s
    else if !c.started then (if op = 2 then s.startPublish c else s.startShoot c)
    else if c.waiting.isEmpty then s.otDone else s

/-- SHOOT. -/
def execShoot (s : State) : Res := .next (s.broadcast 1)

/-- SHOOTRES. -/
def execShootres (s : State) : Res := .next (s.broadcast 3)

/-- PUBLISH. -/
def execPublish (s : State) : Res := .next (s.broadcast 2)

/-- Whether an access translated before a command, under its record (its granule), has still to be performed at package
scope. -/
def OtCmd.holds (c : OtCmd) (core : Nat) (a : Access) : Bool :=
  a.core = core && a.ctx = c.ctx && a.handle = c.handle && a.id ≤ c.since && a.err.isNone && a.space = .hbm && !a.bytes.isEmpty &&
  (c.op = 1 || a.bytes.any fun b => c.span.any fun g => g.1 ≤ b && b < g.1 + g.2) &&
  (match a.phase with
   | .ready => true
   | .atUnit => true
   | .remote _ => !plainStore a.instr
   | _ => false)

/-- Whether an ordered arrival that a core's engine has sent under the record is not yet taken by its unit (R240, R328). -/
def OtCmd.holdsArrival (c : OtCmd) (s : State) (core : Nat) (r : RedArrival) : Bool :=
  match r.rsp with
  | some (id, _, _) =>
    (s.cmds.any fun k => k.id = id && k.core = core && k.ctx = c.ctx) && c.span.any fun g => g.1 ≤ r.addr && r.addr < g.1 + g.2
  | none => false

/-- The accesses of a firing that R34 holds behind one which is to fault with ECC_LASTING: they have begun nothing, and its fault drops
them. -/
def State.behindErr (s : State) (fid : Nat) : List Access :=
  (sortBy (·.idx) (s.accesses.filter (·.fid = fid))).foldl (fun l a =>
    if a.err.isSome || (a.phase = .ready && a.part.isEmpty && l.any fun o => o.overlaps a) then l ++ [a] else l) []

/-- Whether a core may acknowledge: no access of it and no chunk of its engines that was translated under the record is
unperformed, but for accesses that will not be; a PUBLISH asks for neither. -/
def State.mayAck (s : State) (c : OtCmd) (core : Nat) : Bool :=
  c.started && c.waiting.contains core && (c.op = 2 ||
    (s.accesses.all (fun a => !c.holds core a || (s.behindErr a.fid).contains a) && s.arrivals.all (fun r => !c.holdsArrival s core r) &&
     s.cmds.all fun k => !(k.core = core && k.ctx = c.ctx && k.reads.any fun q => q.2.2.2 = c.handle)))

/-- A core acknowledges what it may of the device's own SHOOTRES; where all have, the accesses that met the error fault. -/
def State.ackOwn (s : State) (core : Nat) : State :=
  let l := s.ownShoots.map fun c => if s.mayAck c core then { c with waiting := c.waiting.filter (· ≠ core) } else c
  let ended := l.filter (·.waiting.isEmpty)
  let hit := fun (a : Access) => a.err.isSome && ended.any fun c =>
    c.ctx = a.ctx && c.handle = a.handle && w64 c.granule = ((a.err.getD []).getD 2 0)
  (s.accesses.filter hit).foldl (fun s a => s.faultAccess a 0x04 (a.err.getD []))
    { s with ownShoots := l.filter fun c => !c.waiting.isEmpty }

/-- SHOOT_ACK (R240): the core's accesses under the record have been performed and its engines' chunks are done; under SHOOT
its L1 writes the object's dirty bytes back and gives up the lines. -/
def execShootAck (core : Nat) (s : State) : Res :=
  .next (match s.otq with
    | [] => s.ackOwn core
    | c :: rest =>
      if !s.mayAck c core then s.ackOwn core
      else
        let s := s.ackOwn core
        let s1 : State := { s with otq := { c with waiting := c.waiting.filter (· ≠ core) } :: rest }
        if c.op ≠ 1 then s1
        else
          let hit := fun (k : Sector) => k.core = core && k.pkg = c.pkg && c.span.any fun g => overlap g (k.addr / 64 * 64, 64)
          let s2 := (s1.writeBack .pkg hit).drainBridge fun w => w.src = dieOf core
          { s2 with l1 := s2.l1.filter fun k => !hit k })

/-! ### The answer to a residency fetch (R285, R286) -/

/-- A write of RESANS: the granule's code is read afresh and the fetch answered. -/
def State.writeResans (s : State) (v : Word) : State :=
  let x := bits v.toNat 50 10
  let req := bits v.toNat 16 16
  match s.fetches.find? fun f => f.ctx = x && f.req = req with
  | none => { s with otBadw := true }
  | some f =>
    if bits v.toNat 60 4 ≠ 1 then { s with otBadw := true }
    else
      let s : State := { s with fetches := s.fetches.filter (· ≠ f) }
      (s.answerCont x (257 + Config.numPorts) f.core f.cont (w64 (s.granuleState f.rmap f.granule)) (some .pkg)).moved x

def execAnswer (v : Word) (s : State) : Res := .next (s.writeResans v)

end Sys2Proof.Machine
end

