-- ==== Sys2Proof/Machine/BlockInput.lean ====
section
/-! DEFINITION. The block-input instructions (R68–R73): the frame, the constants, lane registers, special registers,
immediates. -/

namespace Sys2Proof.Machine

/-- Frame payload of slot n (R68): never void-marked. -/
def execLdf (pm : Pm) (n : BitVec 4) (t0 t1 : Target) (s : State) : Res :=
  laneOp pm t0 t1 (fun _ _ _ ln _ =>
    let v : Val := { bits := (ln.frame[n.toNat]?.map (·.1)).getD 0 }
    (v, v)) s

/-- Void bit of slot n (R68). -/
def execLdfv (pm : Pm) (n : BitVec 4) (t0 t1 : Target) (s : State) : Res :=
  laneOp pm t0 t1 (fun _ _ _ ln _ =>
    let v : Val := { bits := boolWord ((ln.frame[n.toNat]?.map (·.2)).getD false) }
    (v, v)) s

/-- Constant word n, zero-extended (R69). -/
def execLdk (pm : Pm) (n : BitVec 4) (t0 t1 : Target) (s : State) : Res :=
  laneOp pm t0 t1 (fun s fl _ _ _ =>
    let v : Val := { bits := (((s.block? fl.ctx fl.block).bind (·.consts[n.toNat]?)).getD 0).zeroExtend 64 }
    (v, v)) s

/-- Lane register xk with its void mark (R70, R30, R143). An unwritten register reads a free value; the context's
count of draws on the core then advances. -/
def execGetx (pm : Pm) (t0 : Target) (x : BitVec 6) (s : State) : Res :=
  match laneOp pm t0 .none (fun s fl j ln _ =>
    let v := ln.readReg x.toNat j (s.unwritten fl.ctx fl.core ln.lane)
    (v, v)) s with
  | .next t => .next (match (t.focus.bind fun f => t.flock? f.flock) with
    | some fl => t.draw fl.ctx fl.core
    | none => t)
  | .fault f => .fault f
  | .refused r => .refused r

/-- What an emulation handler sees of the trapping word (R396), as it was captured. What a handler writes over the record's
bytes does not change it: the spec does not say whether these registers follow the record (DESIGN CHOICE, entry 88). -/
def emulated (ln : Lane) : Option (IWord × Nat × Val × Val × Val × Bool) := ln.hrec.bind (·.trap)

/-- The value of a special register (R71, R396). -/
def specialReg (s : State) (fl : Flock) (ln : Lane) (sr : SpecialReg) : Word :=
  let c := s.ctx? fl.ctx
  let em := emulated ln
  match sr with
  | .ctx => ln.tag.ctx.zeroExtend 64
  | .dom => ln.tag.dom.zeroExtend 64
  | .home => ln.tag.home.zeroExtend 64
  | .act => ln.tag.act.zeroExtend 64
  | .idx => ln.tag.idx.zeroExtend 64
  | .liter => BitVec.ofNat 64 (literOf ln.tag ln.epoch)
  | .lane => BitVec.ofNat 64 ln.lane
  | .fsize => BitVec.ofNat 64 ln.fsize
  | .core => BitVec.ofNat 64 fl.core
  | .die => BitVec.ofNat 64 (dieOf fl.core)
  | .pkg => BitVec.ofNat 64 s.pkgid
  | .pasture =>
    let l := (c.map s.logical).getD []
    BitVec.ofNat 64 (((indexOf? (· == (s.pkgid, fl.core)) l 0).getD 0) + at_ l.length 16)
  | .tick => BitVec.ofNat 64 s.tick
  | .seed => (c.map (·.seed)).getD 0
  | .prio => BitVec.ofNat 64 ((c.map (·.prio)).getD 0)
  | .detmode => boolWord ((c.map (·.det)).getD false)
  | .frec =>
    match ln.hrec with
    | some h => BitVec.ofNat 64 (2 ^ (bits s.otpool.toNat 0 5) - 64 + h.record)
    | none => 0
  | .eword => match em with | some (w, _, _) => w.zeroExtend 64 | none => 0
  | .ea => match em with | some (_, _, a, _) => a.bits | none => 0
  | .eb => match em with | some (_, _, _, b, _) => b.bits | none => 0
  | .ec => match em with | some (_, _, _, _, c, _) => c.bits | none => 0
  | .ep =>
    match em with
    | some (_, j, a, b, c, p) =>
      BitVec.ofNat 64 (b2n p + at_ (b2n a.void) 1 + at_ (b2n b.void) 2 + at_ (b2n c.void) 3 + at_ j 4)
    | none => 0

/-- A special register (R71). -/
def execGets (pm : Pm) (sr : SpecialReg) (t0 : Target) (s : State) : Res :=
  laneOp pm t0 .none (fun s fl _ ln _ =>
    let v : Val := { bits := specialReg s fl ln sr }
    (v, v)) s

/-- IMM13, sign-extended (R72). -/
def execMovi (pm : Pm) (t0 : Target) (imm : BitVec 13) (s : State) : Res :=
  valueOp pm readsNone t0 .none (fun _ _ _ _ => both (simm13 imm)) s

/-- A × 2^13 + IMM13 (R72). -/
def execMovhi (pm : Pm) (t0 : Target) (imm : BitVec 13) (s : State) : Res :=
  valueOp pm readsA t0 .none (fun a _ _ _ => both (movhiVal a imm)) s

/-- A unchanged (R73). -/
def execNop (pm : Pm) (t0 t1 : Target) (s : State) : Res :=
  valueOp pm readsA t0 t1 (fun a _ _ _ => both a) s

end Sys2Proof.Machine
end

