-- ==== Sys2Proof/Machine/CrossLane.lean ====
section
/-! DEFINITION. The cross-lane instructions (R210–R217): results formed over the active lanes of an aligned flock. -/

namespace Sys2Proof.Machine

/-- The active lanes at `j`, in ascending lane order, with their cells (R211): running, performing the effect, A not
void-marked. -/
def activeLanes (pm : Pm) (j : Nat) (fl : Flock) : List (Nat × Cell) :=
  sortBy (·.1) ((fl.lanes.filter fun l => l.status = .running).filterMap fun l =>
    match l.cells[j]? with
    | some k => if performs pm k.p && !k.a.void then some (l.lane, k) else none
    | none => none)

/-- A cross-lane word: its unmarked results are a function of the active lanes, the lane's number and its cell. -/
def crossOp (pm : Pm) (t0 t1 : Target) (f : List (Nat × Cell) → Nat → Cell → Word × Word) (s : State) : Res :=
  laneOp pm t0 t1 (fun _ fl j ln k =>
    let w := f (activeLanes pm j fl) ln.lane k
    ({ bits := w.1 }, { bits := w.2 })) s

/-- A of the source lane, or the lane's own where the source lies outside or is not active (R213). -/
def shuffleFrom (act : List (Nat × Cell)) (src : Int) (k : Cell) : Word :=
  if 0 ≤ src && src < 32 then
    match act.find? fun x => (x.1 : Int) = src with
    | some (_, c) => c.a.bits
    | none => k.a.bits
  else k.a.bits

def execShfl (pm : Pm) (t0 t1 : Target) (s : State) : Res :=
  crossOp pm t0 t1 (fun act _ k => both (shuffleFrom act (bits k.b.bits.toNat 0 5) k)) s

def execShfx (pm : Pm) (t0 t1 : Target) (s : State) : Res :=
  crossOp pm t0 t1 (fun act i k => both (shuffleFrom act (Nat.xor i (bits k.b.bits.toNat 0 5)) k)) s

def execShup (pm : Pm) (t0 t1 : Target) (s : State) : Res :=
  crossOp pm t0 t1 (fun act i k => both (shuffleFrom act ((i : Int) - k.b.bits.toNat) k)) s

def execShdn (pm : Pm) (t0 t1 : Target) (s : State) : Res :=
  crossOp pm t0 t1 (fun act i k => both (shuffleFrom act ((i : Int) + k.b.bits.toNat) k)) s

def execBallot (pm : Pm) (t0 t1 : Target) (s : State) : Res :=
  crossOp pm t0 t1 (fun act _ _ =>
    both (BitVec.ofNat 64 (act.foldl (fun m x => if bit0 x.2.a.bits then m + 2 ^ x.1 else m) 0))) s

def execVany (pm : Pm) (t0 t1 : Target) (s : State) : Res :=
  crossOp pm t0 t1 (fun act _ _ => both (boolWord (act.any fun x => bit0 x.2.a.bits))) s

def execVall (pm : Pm) (t0 t1 : Target) (s : State) : Res :=
  crossOp pm t0 t1 (fun act _ _ => both (boolWord (act.all fun x => bit0 x.2.a.bits))) s

/-- Identity and combination of R215. -/
def combine (op : RedOp) (l : List Word) : Word :=
  match op with
  | .addI64 => l.foldl (fun x y => x + y) 0
  | .addF32 => sumF32 l
  | .minI64 => l.foldl (fun x y => if y.slt x then y else x) 0x7FFFFFFFFFFFFFFF
  | .maxI64 => l.foldl (fun x y => if x.slt y then y else x) 0x8000000000000000
  | .and => l.foldl (fun x y => x &&& y) (BitVec.allOnes 64)
  | .or => l.foldl (fun x y => x ||| y) 0

/-- The values of the active lanes below a number, and up to it. -/
def lanesBelow (act : List (Nat × Cell)) (i : Nat) : List Word := (act.filter fun x => x.1 < i).map (·.2.a.bits)
def lanesUpTo (act : List (Nat × Cell)) (i : Nat) : List Word := (act.filter fun x => x.1 ≤ i).map (·.2.a.bits)

def execScan (pm : Pm) (op : RedOp) (t0 t1 : Target) (s : State) : Res :=
  crossOp pm t0 t1 (fun act i _ => (combine op (lanesUpTo act i), combine op (lanesBelow act i))) s

def execRedl (pm : Pm) (op : RedOp) (t0 t1 : Target) (s : State) : Res :=
  crossOp pm t0 t1 (fun act _ _ => both (combine op (act.map (·.2.a.bits)))) s

/-- The lanes of a group with their A at `j` and its mark, what R217 lets a cross-lane result depend on. -/
def groupValues (j : Nat) (fl : Flock) : List (Nat × Word × Bool) :=
  fl.lanes.filterMap fun l => l.cells[j]?.map fun k => (l.lane, k.a.bits, k.a.void)

/-- The lowest active lane's A (R214). Where no lane is active, a lane that performs its effect with a void-marked A
(R211) receives a value the spec does not state: a free value that the group's lanes and their values fix (R217). -/
def execBcast (pm : Pm) (t0 t1 : Target) (s : State) : Res :=
  laneOp pm t0 t1 (fun _ fl j _ _ =>
    let w := match activeLanes pm j fl with
      | [] => Config.noBroadcast (groupValues j fl)
      | x :: _ => x.2.a.bits
    ({ bits := w }, { bits := w })) s

end Sys2Proof.Machine
end

