-- ==== Sys2Proof/Machine/Preempt.lean ====
section
/-! DEFINITION. Pre-emption and restore (R405–R416), with the saving of fabric slots (R348). -/

namespace Sys2Proof.Machine

/-! ### The yard's decision (R185) -/

/-- The queue heads that are not admissible, from the highest priority down to the first that is, each with the cores held
before it. -/
def State.holders (s : State) : List Nat → List Nat → List (Queued × List Nat)
  | [], _ => []
  | p :: rest, held =>
    match s.queues.find? (·.prio == p) with
    | none => s.holders rest held
    | some q =>
      match s.admissible q held with
      | some _ => []
      | none => (q, held) :: s.holders rest (held ++ s.pastureOf q.header)

/-- What is kept of a context's regions on a core when the segments of its frame region are given up, and of the other two those that
`takes` names (R405, R413). -/
def Region.kept (r : Region) (takes : Bool × Bool) : Region :=
  { r with frames := 0, scratch := if takes.1 then 0 else r.scratch, accum := if takes.2 then 0 else r.accum }

/-- Whether a launch waits for room on a core even when the pre-emptions under way there have ended. -/
def State.lacksRoom (s : State) (q : Queued) (core : Nat) : Bool :=
  let after := fun c : Ctx => match c.section? core with
    | some z => { c with regions := c.regions.filterMap fun r =>
        if r.core ≠ core || 3 ≤ z.stage then some r else if z.stage = 1 then none else some (r.kept z.takes) }
    | none => c
  let t := ({ s with ctxs := s.ctxs.map after } : State).updCore core fun k => { k with leaving := [] }
  let (scratch, accum) := s.imageRegions q
  (fitRegion core (lhFrames q.header) scratch accum (t.usedShed core) (t.usedAccum core)).isNone

/-- Whether context `c` may be pre-empted on a core for a holder. -/
def State.mayPreempt (s : State) (c : Ctx) (core : Nat) : Bool :=
  c.draining.isNone && c.regions.any (·.core = core) && (c.section? core).isNone && s.freeCtx.isSome && s.carveTwo.isSome &&
  !s.gangHeld.contains core && (s.holders prioDown []).any fun (q, held) =>
    c.prio < q.prio && (s.pastureOf q.header).contains core && !held.contains core && s.lacksRoom q core

/-- PREEMPTION (R405 steps 1 and 3): the pens stop and fall back to PRIO; from now on tokens are diverted. -/
def execPreemption (ctx core : Nat) (s : State) : Res :=
  .next (match s.ctx? ctx with
    | none => s
    | some c =>
      if !s.mayPreempt c core then s
      else
        let z : Section := {
          core := core, stage := 1, addr := 0, size := 0, entries := [], readies := [], resumed := [], flocks := [], tokens := [],
          filters := [], notices := [], scratch := none, accum := none, region := none, slots := [] }
        let s := s.updCtx ctx fun c => { c with saved := c.saved ++ [z] }
        { s with
          pens := s.pens.map fun p => if p.core = core && p.ctx = ctx then { p with level := c.prio, served := s.cycle } else p
          resumed := s.resumed.map fun r => if r.core = core && r.ctx = ctx then { r with level := c.prio, served := s.cycle } else r })

/-! ### The dump (R405 steps 4–6, R406, R409) -/

/-- A flock whose lanes wait under R216: it is parked (R405 step 2). -/
def State.parkable (s : State) (fl : Flock) : Bool :=
  fl.aligned && fl.lanes.any Lane.isMasked && s.stepFour fl && fl.lanes.all fun l => match l.status with
    | .masked _ r => r.isSome
    | .running => true
    | .ended => false

/-- Whether step 2 has ended: the flocks have, or are parked, and no question to a unit is open. -/
def State.flocksEnded (s : State) (x core : Nat) : Bool :=
  (s.flocks.all fun f => !(f.core = core && f.ctx = x) ||
    -- a write of its that another package has still to answer may fault one of its lanes (R439)
    (s.parkable f && s.remoteOut.all fun w => !(w.post.any fun q => f.lanes.any (·.fid = q.fid)))) && s.eldest.all fun e => !(e.1.core = core && e.1.ctx = x)

/-- Which of a context's two regions on a core the yard needs the segments of (R405 step 5): the scratchpad region, the accumulator
region. The frame region's segments are given up in any case (R413). -/
def State.regionsTaken (s : State) (c : Ctx) (core : Nat) : Bool × Bool :=
  let want := (s.holders prioDown []).find? fun (q, held) => c.prio < q.prio && (s.pastureOf q.header).contains core && !held.contains core
  match want with
  | none => (false, false)
  | some (q, _) =>
    let fits := fun takes => !(s.updCtx c.id fun c => { c with
      saved := c.saved.filter (·.core ≠ core)
      regions := c.regions.map fun r => if r.core = core then r.kept takes else r } : State).lacksRoom q core
    (([(false, false), (false, true), (true, false)] : List (Bool × Bool)).find? fits).getD (true, true)

/-- Whether step 5 may save regions: no command names one that is saved, and what its lanes stored there is performed. -/
def State.drained (s : State) (c : Ctx) (core : Nat) (takes : Bool × Bool) : Bool :=
  s.cmds.all (fun k => !s.cmdNames c core (fun accum => if accum then takes.2 else takes.1) k) &&
  s.accesses.all fun a => !(a.core = core && a.ctx = c.id && a.phase = .ready && a.space ≠ .hbm)

/-- Sixteen bytes of a ready instance in the layout of R163, then its frame. -/
def readyBytes (r : Ready) : List Byte :=
  let e : FoldEntry := {
    core := r.core, ctx := r.ctx, block := r.block, tag := r.tag, epoch := r.epoch, hpkg := r.hpkg, slots := r.frame.map some,
    state := 0, place := r.place, units := frameUnits r.frame.length, arrival := r.arrival }
  entryBytes e none ++ frameBytes e

/-- A captured token (R411). -/
def capturedBytes (core x inputs : Nat) (t : Nat × Token) : List Byte :=
  entryBytes { entryOf core x t.2 inputs t.1 with state := 1 } none ++ bytesLE 8 t.1 ++ bytesLE 8 t.2.payload.toNat

def filterBytes (f : Filter) : List Byte := bytesLE 4 f.dom ++ bytesLE 4 f.home ++ bytesLE 4 f.act ++ bytesLE 4 f.h

/-- The stopping index of a lane (R406): where it is masked, or the lowest cross-lane word that it waits before. -/
def Lane.parkedAt (code : List IWord) (l : Lane) : Nat :=
  match l.status with
  | .masked j _ => j
  | _ =>
    let waits := fun j => !((l.cells[j]?).map (·.issued)).getD true && (instrAt code j).any fun i => classOf i = .cross
    ((List.range code.length).find? waits).getD code.length

/-- A lane image (R406): 3 KiB. -/
def laneImage (code : List IWord) (block : Nat) (free : Nat → Word) (l : Lane) : List Byte :=
  let j := l.parkedAt code
  let head := bytesLE 8 l.tag.toBits.toNat ++ bytesLE 4 block ++ bytesLE 4 l.lane ++ bytesLE 4 l.fsize ++ bytesLE 4 l.epoch.toNat ++ bytesLE 4 j
  ((head ++ List.replicate 128 0).take 128 ++ laneBody code l j free ++ List.replicate 3072 0).take 3072

/-- A saved fabric slot: descriptor and 4,096 records (R409). -/
def slotBytes (k : LkSlot) : List Byte :=
  bytesLE 16 k.slot ++ (List.range 4096).flatMap fun i => bytesLE 16 (k.record i).toNat

/-- The fold entries that a section lists, spilled ones among them, in ascending ARRIVAL (R405, R409). -/
def Section.listed (c : Ctx) (z : Section) : List FoldEntry :=
  sortBy (·.arrival) (z.entries ++ (c.pin.filter fun p => p.core = z.core && p.why = .spilled).map (·.entry))

/-- The parked flocks that a section lists: code, block, release cycle, lanes; a resumed lane that waited for a slot is one. -/
def Section.parkedFlocks (z : Section) : List (Nat × Nat × List Lane) :=
  z.flocks.map (fun f => (f.block, f.released, f.lanes)) ++ z.resumed.map fun r => (r.block, r.since, [r.lane])

/-- The section's header (R409); where its fields stand in the 64 bytes is the model's choice. -/
def sectionHeader (c : Ctx) (z : Section) (slots : Nat) (sizes : Nat × Nat) : List Byte :=
  bytesLE 4 c.id ++ bytesLE 4 z.core ++ bytesLE 4 (z.listed c).length ++ bytesLE 4 z.readies.length ++ bytesLE 4 z.tokens.length ++
  bytesLE 4 z.filters.length ++ bytesLE 4 z.parkedFlocks.length ++ bytesLE 4 slots ++ bytesLE 4 sizes.1 ++ bytesLE 4 sizes.2 ++
  List.replicate 24 0

/-- The parts of a section before the regions. -/
def State.sectionParts (s : State) (c : Ctx) (z : Section) : List Byte :=
  let l := z.listed c
  l.flatMap (fun e => entryBytes e (if e.state = 1 then e.dup else nextDup z.entries e)) ++ l.flatMap frameBytes ++
  z.readies.flatMap readyBytes ++
  z.tokens.flatMap (fun t => capturedBytes z.core c.id (c.inputsOf t.2.block) t) ++ z.filters.flatMap filterBytes ++
  z.parkedFlocks.flatMap fun f =>
    bytesLE 8 f.2.2.length ++ bytesLE 8 f.2.1 ++ f.2.2.flatMap (laneImage (c.codeAt f.1) f.1 (s.unwritten c.id z.core))

/-- Slots of a context on a core that other contexts' claims need, free of counted commands (R348). -/
def State.neededSlots (s : State) (x core : Nat) : List LkSlot :=
  s.lkSlots.filter fun k => k.core = core && k.ctx = x && !k.releasing && (s.countedRuns x core k.slot).isEmpty &&
    s.lkClaims.any fun c => c.core = core && c.slot = k.slot && c.ctx ≠ x

/-- What the dump gathers from a core. -/
def State.gather (s : State) (c : Ctx) (core : Nat) (z : Section) : Section :=
  let x := c.id
  { z with
    entries := sortBy (·.arrival) (s.fold.filter fun e => e.core = core && e.ctx = x)
    readies := sortBy (·.seq) (s.ready.filter fun r => r.core = core && r.ctx = x)
    pens := s.pens.filter fun p => p.core = core && p.ctx = x
    resumed := s.resumed.filter fun r => r.core = core && r.ctx = x
    flocks := (s.flocks.filter fun f => f.core = core && f.ctx = x).map fun f => { f with parked := true }
    filters := s.filters.filter fun f => f.core = core && f.ctx = x
    region := c.regions.find? (·.core = core) }

/-- Step 6: what the context had on the core is freed. -/
def State.releaseCore (s : State) (x core : Nat) : State :=
  { s with
    fold := s.fold.filter fun e => !(e.core = core && e.ctx = x)
    ready := s.ready.filter fun r => !(r.core = core && r.ctx = x)
    pens := s.pens.filter fun p => !(p.core = core && p.ctx = x)
    resumed := s.resumed.filter fun r => !(r.core = core && r.ctx = x)
    flocks := s.flocks.filter fun f => !(f.core = core && f.ctx = x)
    filters := s.filters.filter fun f => !(f.core = core && f.ctx = x) }

def Ctx.setSection (c : Ctx) (z : Section) : Ctx := { c with saved := replaceFirst (·.core == z.core) (fun _ => z) c.saved }

/-- What a section holds besides its parts: the two regions' bytes, and saved slots. -/
structure SavedBytes where
  scratch : List Byte
  accum   : List Byte
  slots   : List (Nat × List Byte)

/-- The bytes of the regions that are saved, as they stand on the core, with no slot. -/
def State.regionBytes (s : State) (x core : Nat) (takes : Bool × Bool) : SavedBytes :=
  let read := fun (g : Nat × Nat) => s.rdN g.1 g.2
  { scratch := if takes.1 then read (s.regionOf x core false) else [], accum := if takes.2 then read (s.regionOf x core true) else []
    slots := [] }

/-- What a section written before holds. -/
def State.savedBytes (s : State) (z : Section) : SavedBytes :=
  let part := fun (at0 : Option Nat) (n : Nat) => match at0 with | some a => s.rdN a n | none => []
  { scratch := part z.scratch (65536 * (z.region.map (·.scratch)).getD 0), accum := part z.accum (32768 * (z.region.map (·.accum)).getD 0),
    slots := z.slots.map fun k => (k.1, s.rdN k.2 65552) }

/-- A section is written: in its place, or, where that is too small, in another with room for `spare` bytes more; `none` where
the save pool has none. -/
def State.writeSection (s : State) (c : Ctx) (z : Section) (w : SavedBytes) (spare : Nat) : Option State :=
  let parts := s.sectionParts c z
  let body := parts ++ w.scratch ++ w.accum ++ w.slots.flatMap (·.2)
  let need := 64 + body.length
  let place := if z.size ≠ 0 && need ≤ z.size then some (s, z.addr, z.size)
    else ((if z.size = 0 then s else s.uncarve z.addr).carve (need + spare)).map fun (t, a) => (t, a, need + spare)
  place.map fun (t, at0, size) =>
    let o := at0 + 64 + parts.length
    let z := { z with
      addr := at0, size := size, written := z.tokens.length, scratch := if w.scratch.isEmpty then none else some o
      accum := if w.accum.isEmpty then none else some (o + w.scratch.length)
      slots := w.slots.mapIdx fun i k => (k.1, o + w.scratch.length + w.accum.length + 65552 * i) }
    (t.wrN at0 (sectionHeader c z w.slots.length (w.scratch.length, w.accum.length) ++ body)).updCtx c.id fun c => c.setSection z

/-- Step 5 begins: the section gets a place, with room for the completions still to come (R416). -/
def State.dumpBegin (s : State) (c : Ctx) (core : Nat) (z : Section) : State :=
  let slots := s.neededSlots c.id core
  let n := 64 + (s.sectionParts c (s.gather c core z)).length + (if z.takes.1 then (s.regionOf c.id core false).2 else 0) +
    (if z.takes.2 then (s.regionOf c.id core true).2 else 0) +
    65552 * slots.length + 32 * (s.cmds.filter fun k => k.ctx = c.id && k.core = core).length
  match s.carve n with
  | none => s
  | some (s, at0) => s.updCtx c.id fun c => c.setSection { z with addr := at0, size := n }

/-- What a context keeps of its regions on a core that it gives up: those that are not saved (R413). -/
def Section.keptRegion (z : Section) : List Region :=
  match z.region with
  | some r => if z.takes = (true, true) then [] else [r.kept z.takes]
  | none => []

/-- What it gives up. -/
def Section.goneRegion (z : Section) : List Region :=
  match z.region with
  | some r => [{ r with scratch := if z.takes.1 then r.scratch else 0, accum := if z.takes.2 then r.accum else 0 }]
  | none => []

/-- Steps 5 and 6: the section is written and the core released, its segments under R254. -/
def State.dump (s : State) (c : Ctx) (core : Nat) (z : Section) : State :=
  let x := c.id
  let z := { s.gather c core z with stage := 3 }
  let slots := s.neededSlots x core
  match s.writeSection c z { s.regionBytes x core z.takes with slots := slots.map fun k => (k.slot, slotBytes k) } 0 with
  | none => s
  | some s =>
    let s : State := { s.releaseCore x core with lkSlots := s.lkSlots.filter fun k => !slots.contains k }
    let s := s.repartition core z.goneRegion
    ((s.updCtx x fun c => { c with regions := c.regions.filter (·.core ≠ core) ++ z.keptRegion }).promote core).rebind core

/-- A slot saved after the section was written is appended to it (R409). -/
def State.dumpSlot (s : State) (c : Ctx) (z : Section) (k : LkSlot) : State :=
  let w := s.savedBytes z
  match s.writeSection c z { w with slots := w.slots ++ [(k.slot, slotBytes k)] } 0 with
  | none => s
  | some s => { s with lkSlots := s.lkSlots.filter (· ≠ k) }

/-- A region that was kept is saved after all where a launch has come to need its segments. -/
def State.dumpMore (s : State) (c : Ctx) (z : Section) (more : Bool × Bool) : State :=
  let w := s.savedBytes z
  let b := s.regionBytes c.id z.core more
  let new := { z with takes := (z.takes.1 || more.1, z.takes.2 || more.2) }
  match s.writeSection c new { w with scratch := if more.1 then b.scratch else w.scratch, accum := if more.2 then b.accum else w.accum } 0 with
  | none => s
  | some t =>
    let gone := (c.regions.filter (·.core = z.core)).map fun r =>
      { r with scratch := if more.1 then r.scratch else 0, accum := if more.2 then r.accum else 0 }
    (t.repartition z.core gone).updCtx c.id fun c => { c with regions := c.regions.filter (·.core ≠ z.core) ++ new.keptRegion }

/-- PREEMPT_DUMP: the next of the steps that is due. -/
def execPreemptDump (ctx core : Nat) (s : State) : Res :=
  .next (match s.ctx? ctx with
    | none => s
    | some c =>
      match c.section? core with
      | none => s
      | some z =>
        if z.stage = 1 then
          if s.flocksEnded ctx core then s.updCtx ctx fun c => c.setSection { z with stage := 2, takes := s.regionsTaken c core } else s
        else if z.stage = 2 then
          if !(s.flocksEnded ctx core && s.drained c core z.takes) then s
          else if z.size = 0 then s.dumpBegin c core z else s.dump c core z
        else if z.stage ≠ 3 then
          -- a slot held again that another context claims meanwhile is saved again (R353)
          match s.neededSlots ctx core with
          | [] => s
          | k :: _ => s.dumpSlot c z k
        else if z.written ≠ z.tokens.length then (s.writeSection c z (s.savedBytes z) 0).getD s
        else
          let now := s.regionsTaken c core
          let more := (now.1 && !z.takes.1, now.2 && !z.takes.2)
          match s.neededSlots ctx core with
          | [] => if (more.1 || more.2) && s.drained c core more then s.dumpMore c z more else s
          | k :: _ => s.dumpSlot c z k)

/-! ### The restore (R413, R414) -/

/-- Whether no launch of higher priority holds the core: one that waits in its queue, or a gang's before its tick (R185). -/
def State.notHeld (s : State) (c : Ctx) (core : Nat) : Bool :=
  ((s.holders prioDown []).all fun (q, _) => q.prio ≤ c.prio || !(s.pastureOf q.header).contains core) &&
  s.ctxs.all fun d => d.prio ≤ c.prio || !(d.waitsForTick && d.pasture.contains core)

/-- Step 1: the frame region and the regions that were saved are carved again and the saved bytes written back; one that was not saved has
kept its segments; the segments change hands under R254. -/
def State.recarve (s : State) (c : Ctx) (z : Section) : Option State :=
  match z.region with
  | none => none
  | some r =>
    let need := fun (taken : Bool) (n : Nat) => if taken then n else 0
    match fitRegion z.core r.frames (need z.takes.1 r.scratch) (need z.takes.2 r.accum) (s.usedShed z.core) (s.usedAccum z.core) with
    | none => none
    | some g =>
      let r := { r with frameSeg := g.frameSeg, scrSeg := if z.takes.1 then g.scrSeg else r.scrSeg, accSeg := if z.takes.2 then g.accSeg else r.accSeg }
      let back := fun (s : State) (from_ : Option Nat) (dst n : Nat) => match from_ with
        | none => s
        | some a => (s.clearMem dst n).wrN dst (s.rdN a n)
      let s := (s.updCtx c.id fun c => { c.setSection { z with stage := 4 } with regions := c.regions.filter (·.core ≠ z.core) ++ [r] }).repartition z.core []
      let s := back s z.scratch (shedAddr z.core (65536 * r.scrSeg)) (65536 * r.scratch)
      some (back s z.accum (accumAddr z.core (32768 * r.accSeg)) (32768 * r.accum))

/-- A saved slot is reclaimed, or waits among the claims of its number. -/
def State.wantSlot (s : State) (c : Ctx) (core slot : Nat) : State :=
  if s.lkClaims.any fun k => k.saved && k.ctx = c.id && k.core = core && k.slot = slot then s
  else if s.slotFree core slot && !s.claimWaits c.id core slot then s.reclaimSlot c.id core slot
  else
    let k : LkClaim := { core := core, cmd := s.cmdSeq + 1, ctx := c.id, slot := slot, level := c.prio, since := s.cycle, saved := true }
    { s with cmdSeq := s.cmdSeq + 1, lkClaims := s.lkClaims ++ [k] }

/-- A restored entry takes its place in the fold; in a full set it evicts, or goes to the pinfold (R165). -/
def State.putEntry (s : State) (e : FoldEntry) : State :=
  match s.setRoom e with
  | some s => s.foldAdd e
  | none => s.pinOrHold e .spilled e.held

/-- A parked flock is resident again in a free slot. -/
def State.putFlock (s : State) (f : Flock) : State :=
  match s.freeSlot f.core with
  | none => s
  | some (p, k) =>
    { s with flocks := s.flocks ++ [{ f with pipe := p, slot := k, parked := false, level := s.prioOf f.ctx, served := s.cycle }] }

/-- A captured token, as it meets the fold in its turn. -/
def State.presentCaptured (s : State) (e : FoldEntry) : State :=
  if s.filtered e.core e.ctx e.hpkg e.tag e.epoch then s.updCtx e.ctx fun c => { c with killed := satInc c.killed }
  else
    match s.present e with
    | some s => ((s.promote e.core).rebind e.core).moved e.ctx
    | none => s.pinOrHold e .spilled e.held

/-- Captured tokens and the core's pinfold slots are presented again, in ascending stamp. -/
def State.representAll (s : State) (x core : Nat) (tokens : List (Nat × Token)) : State :=
  match s.ctx? x with
  | none => s
  | some c =>
    let pins := c.pin.filter fun p => p.core = core && p.why ≠ .hot
    let s := s.updCtx x fun c => { c with pin := c.pin.map fun p => if p.core = core && p.why = .divert then { p with why := .spilled } else p }
    let caps : List (Nat × (FoldEntry ⊕ PinSlot)) := tokens.map fun t => (t.1, .inl (entryOf core x t.2 (c.inputsOf t.2.block) t.1))
    let all := sortBy (·.1) (caps ++ pins.map fun p => (p.stamp, .inr { p with why := .divert }))
    all.foldl (fun (s : State) x => match x.2 with
      | .inl e => s.presentCaptured e
      | .inr p => s.represent p) s

/-- Whether a recorded notice kills something saved with a stamp. -/
def Section.dead (x : Nat) (z : Section) (hpkg : Nat) (t : Tag) (e : BitVec 22) (stamp : Nat) : Bool :=
  z.notices.any fun n => n.killsAt x hpkg t e stamp

/-- What the recorded notices leave of a section (R414), and how many tokens they kill. -/
def Section.spare (x : Nat) (z : Section) : Section × Nat :=
  let dead := fun (e : FoldEntry) => z.dead x e.hpkg e.tag e.epoch e.arrival
  let deadR := fun (r : Ready) => z.dead x r.hpkg r.tag r.epoch r.arrival
  let deadT := fun (t : Nat × Token) => z.dead x t.2.hpkg t.2.tag t.2.epoch t.1
  ({ z with entries := z.entries.filter (!dead ·), readies := z.readies.filter (!deadR ·), tokens := z.tokens.filter (!deadT ·) },
    sumBy FoldEntry.count (z.entries.filter dead) + sumBy (·.frame.length) (z.readies.filter deadR) + (z.tokens.filter deadT).length)

/-- Steps 2 to 4. The stop still holds. -/
def State.reinstate (s : State) (c : Ctx) (z : Section) : State :=
  let s : State := { s with filters := s.filters ++ z.filters }
  let s := z.notices.foldl State.applyNotice s
  let (z, killed) := z.spare c.id
  let s := s.countKilled c.id killed
  let s := z.entries.foldl State.putEntry s
  let seq := s.nextSeq
  let s : State := { s with
    ready := s.ready ++ z.readies.mapIdx fun i r => { r with since := s.cycle, seq := seq + i, expired := false }
    pens := s.pens ++ (z.pens.filter fun p => s.pens.all fun q => q.core ≠ p.core || q.index ≠ p.index).map fun p =>
      { p with due := false, keep := none, empty := none }
    resumed := s.resumed ++ z.resumed }
  let s := z.flocks.foldl State.putFlock s
  let s := s.representAll c.id z.core z.tokens
  let s := s.updCtx c.id fun c => c.setSection { z with
    stage := 5, entries := [], readies := [], resumed := [], flocks := [], tokens := [], filters := [], notices := [], pens := [] }
  ((s.promote z.core).rebind z.core).moved c.id

/-- Step 5: the stop is lifted; what came since step 4 is presented; ages count from now, in the order in which the instances became
ready. -/
def State.lift (s : State) (c : Ctx) (z : Section) : State :=
  let s := s.updCtx c.id fun c => { c with saved := c.saved.filter (·.core ≠ z.core) }
  let s := z.notices.foldl State.applyNotice s
  let (z, killed) := z.spare c.id
  let s := s.countKilled c.id killed
  let s := (((s.representAll c.id z.core z.tokens).uncarve z.addr).promote z.core).rebind z.core
  let mine := fun (core x : Nat) => core = z.core && x = c.id
  (({ s with
    ready := s.ready.map fun r => if mine r.core r.ctx then { r with since := s.cycle, order := r.seq + 1, expired := false } else r
    pens := s.pens.map fun p =>
      if mine p.core p.ctx then { p with level := c.prio, served := s.cycle, due := false, keep := none } else p
    resumed := s.resumed.map fun r => if mine r.core r.ctx then { r with level := c.prio, served := s.cycle } else r } : State).stir
    z.core).moved c.id

/-- RESTORE: the next of the steps that is due. The contents come back once the change of segments has taken effect and the
parked flocks find slots, and the filters places; the stop ends once every saved fabric slot is held again. -/
def execRestore (ctx core : Nat) (s : State) : Res :=
  .next (match s.ctx? ctx with
    | none => s
    | some c =>
      match c.section? core with
      | none => s
      | some z =>
        let claimed := fun (s : State) => z.slots.foldl (fun s k => s.wantSlot c core k.1) s
        if z.stage = 3 then
          if s.notHeld c core then ((s.recarve c z).map claimed).getD s else s
        else if z.stage = 4 then
          let owed := ((z.notices.filter fun n => n.upto.isNone && !s.hasFilter core n.home n.ctx n.dom n.act n.hpkg).map fun n =>
            (n.home, n.dom, n.act, n.hpkg)).eraseDups.length
          let room := (s.flocks.filter (·.core = core)).length + z.flocks.length ≤ Config.numPipes * Config.slotsPerPipe &&
            ((s.filters.filter (·.core = core)).length + z.filters.length + owed ≤ 256 || z.filters.length + owed = 0)
          if room && !(s.core core).parts then s.reinstate c z else claimed s
        else if z.stage = 5 then (if z.slots.isEmpty then s.lift c z else claimed s)
        else s)

end Sys2Proof.Machine
end

