-- ==== Sys2Proof/Machine/Power.lean ====
section
/-! DEFINITION. Core power states (R417, R418, R454), the shed interleave (R253, R254), power and temperature (R452, R453,
R455) and the clearing of a lasting error (R402). -/

namespace Sys2Proof.Machine

/-- Cycles of a millisecond and of a microsecond (R5). -/
def cyclesPerMs : Nat := 2400000
def cyclesPerUs : Nat := 2400

/-! ### Clock gating and power gating -/

/-- No resident flock, no ready instance, no engine command queued or running (R417). -/
def State.coreIdle (s : State) (core : Nat) : Bool :=
  s.flocks.all (·.core ≠ core) && s.ready.all (·.core ≠ core) && s.cmds.all (·.core ≠ core)

/-- CLOCK_GATE: 256 cycles of idleness. -/
def execClockGate (core : Nat) (s : State) : Res :=
  .next (
    let k := s.core core
    if k.power = .running && s.coreIdle core && k.inq.isEmpty && k.landed.isEmpty && k.idleAt + 256 ≤ s.cycle then
      s.updCore core fun k => { k with power := .clockGated, gatedAt := s.cycle }
    else s)

/-- POWER_GATE: the core has been clock-gated for 1 ms, no pre-emption is under way on it (R416) and the shepherd is not
restarting (R458): dirty L1 bytes are written back; the L1, the record cache and the weight banks lose their contents. -/
def execPowerGate (core : Nat) (s : State) : Res :=
  .next (
    let k := s.core core
    if k.power = .clockGated && s.fwState = 1 && k.gatedAt + cyclesPerMs ≤ s.cycle && s.ctxs.all fun c => (c.section? core).all (3 ≤ ·.stage) then
      let s := s.writeBack .pkg fun x => x.core = core
      let s := s.updCore core fun k => { k with power := .powerGated }
      { s with
        l1 := s.l1.filter (·.core ≠ core), orc := s.orc.filter (·.core ≠ core), resWords := s.resWords.filter (·.core ≠ core)
        banks := s.banks.map fun b => if b.core = core then { b with valid := false } else b }
    else s)

/-- Whether a command of another core that may run reaches a region of this one, or a slot of its fabric. -/
def State.farAccess (s : State) (core : Nat) : Bool :=
  s.cmds.any fun k => k.core ≠ core && s.cmdDue k &&
    ((s.ctxs.any fun c => s.cmdNames c core (fun _ => true) k) || (copyKind k.instr = some .cpyt && s.streamCore k = core))

/-- POWER_WAKE: a buffered token or a remote access starts a wake; at a clock-gated core it ungates. -/
def execPowerWake (core : Nat) (s : State) : Res :=
  .next (
    let k := s.core core
    let due := (k.power = .powerGated && !k.buffer.isEmpty) || s.farAccess core
    if (k.power = .powerGated || k.power = .clockGated) && due then s.stir core else s)

/-- WAKE_COMPLETE: the core runs; the buffered tokens enter in buffer order. -/
def execWakeComplete (core : Nat) (s : State) : Res :=
  .next (
    let k := s.core core
    if k.power = .waking then
      k.buffer.foldl State.enqueue (s.updCore core fun k => { k with power := .running, buffer := [], idleAt := s.cycle })
    else s)

/-! ### The shed interleave -/

/-- SHEDCTL_WRITE. -/
def State.writeShedctl (s : State) (core : Nat) (v : Word) : State :=
  s.updCore core fun k => { k with ilvPend := some (v.getLsbD 0) }

def execShedctlWrite (core : Nat) (v : Word) (s : State) : Res := .next (s.writeShedctl core v)

/-- Whether a command of a context that is pre-empted on a core is queued or runs there: no segment of it may be reassigned (R313, R335,
R366). -/
def State.givesUp (s : State) (core : Nat) : Bool :=
  s.cmds.any fun k => k.core = core && ((s.ctx? k.ctx).bind (·.section? core)).isSome

/-- SHED_RECONFIGURATION (R254): no flock is resident and nothing queued at a bank port is left; a new setting of ILV and a new
partition apply, and regions given up are free. -/
def execShedReconfiguration (core : Nat) (s : State) : Res :=
  .next (
    if s.flocks.all (·.core ≠ core) && s.accesses.all (fun a => a.core ≠ core || a.space = .hbm) && !s.givesUp core then
      s.updCore core fun k => { k with ilv := k.ilvPend.getD k.ilv, ilvPend := none, parts := false, leaving := [] }
    else s)

/-! ### Rails, budgets, temperatures -/

/-- CURRENT_ALARM (R452): the rail current of a die has exceeded its figure for 1 µs. -/
def execCurrentAlarm (die : Nat) (s : State) : Res :=
  .next { s with alarm := true, dies := s.dies.modify die fun d => { d with slow := true, lowAt := s.cycle } }

/-- RAIL_ALARM_CLEAR: the current has stayed below the figure for 100 µs. -/
def execRailAlarmClear (die : Nat) (s : State) : Res :=
  .next { s with dies := s.dies.modify die fun d => if d.slow && d.lowAt + 100 * cyclesPerUs ≤ s.cycle then { d with slow := false } else d }

/-- Units a stack may serve in a window: its budget, or 2^14 while heat holds it. -/
def Stack.allowance (k : Stack) : Nat := if k.hot then 2 ^ 14 else k.budget.toNat

/-- POWER_ARBITER, every millisecond while the shepherd runs (R453, R458): the mean power that it measured of the compute dies and of the
stacks, within the cap (R452), and the budgets, none below 2^14 units. -/
def execPowerArbiter (dieW stackW : Nat) (budgets : List Nat) (s : State) : Res :=
  .next (
    if s.fwState ≠ 1 || s.cycle < s.arbiterAt + cyclesPerMs then s
    else { s with
      arbiterAt := s.arbiterAt + cyclesPerMs, watts := min (dieW + stackW) (min s.pwrcap 3600)
      memStacks := s.memStacks.mapIdx fun i k => match budgets[i]? with
        | some b => { k with budget := BitVec.ofNat 32 (min (max (2 ^ 14) b) 0xFFFFFFFF) }
        | none => k })

/-- BUDGET_WINDOW: at the start of each millisecond window the count is reloaded. -/
def execBudgetWindow (stack : Nat) (s : State) : Res :=
  .next { s with memStacks := s.memStacks.modify stack fun k =>
    if k.window + cyclesPerMs ≤ s.cycle then { k with left := k.allowance, window := k.window + cyclesPerMs } else k }

/-- The refresh interval of a layer in picoseconds (R455). -/
def refreshOf (temp : Nat) : Nat := if temp ≤ 85 then 3900000 else if temp ≤ 95 then 1950000 else 975000

/-- The refresh interval of a stack's layer: of one without a reading yet, that of a cool one. -/
def Stack.interval (k : Stack) (layer : Nat) : Nat := k.refresh[layer]?.getD (refreshOf 0)

/-- A list with a value at an index, and a given one before it where it was shorter. -/
def setAt (d : Nat) (l : List Nat) (i v : Nat) : List Nat := (l ++ List.replicate (i + 1 - l.length) d).set i v

/-- PWRSTAT.HOT: the highest reading of a layer (R459). -/
def hottest (l : List Stack) : Nat := l.foldl (fun m k => k.temps.foldl max m) 0

/-- REFRESH_TEMPERATURE: a layer's reading, its interval, and the hold of the stack's budget above 105 °C until every layer
is at or below 100 °C. -/
def execRefreshTemperature (stack layer temp : Nat) (s : State) : Res :=
  let l := s.memStacks.modify stack fun k =>
    let temps := setAt 0 k.temps layer temp
    let hot := if 105 < temp then true else if temps.all (· ≤ 100) then false else k.hot
    { k with temps := temps, refresh := setAt (refreshOf 0) k.refresh layer (refreshOf temp), hot := hot,
             left := if hot then min k.left (2 ^ 14) else k.left }
  .next { s with memStacks := l, hotLayer := hottest l % 4096 }

/-- LASTING_LIST_CLEAR: the 64-byte block leaves its home's list. -/
def execLastingListClear (addr : Nat) (s : State) : Res :=
  .next { s with dies := s.dies.modify (homeDie addr) fun d => { d with lasting := d.lasting.filter (· ≠ addr / 64) } }

end Sys2Proof.Machine
end

