-- ==== Sys2Proof/Machine/Device.lean ====
section
/-! DEFINITION. The device registers, read and written (R6, R183, R238, R248, R253, R286, R408, R412, R418, R433, R437,
R443, R459), the firmware commands (R438, R457, R458) and bring-up (R456). -/

namespace Sys2Proof.Machine

/-! ### Addresses -/

def regOtpool : Nat := 0x0E0000010000
def regShedctl : Nat := 0x0E0000020000
def regSavepool : Nat := 0x0E0000030000
def regPinext : Nat := 0x0E0000031000
def regCpwrstat : Nat := 0x0E0000039000
def regPinstat : Nat := 0x0E000003A000
def regLinkstat : Nat := 0x0E0000040000
def regPkgid : Nat := 0x0E0000040100
def regDefseed : Nat := 0x0E0000050000
def regStkbud : Nat := 0x0E0000050100
def regRoute : Nat := 0x0E0000100000

/-- The index of an 8-byte register of a row of `n` that starts at `base`. -/
def regIndex (base n a : Nat) : Option Nat := if base ≤ a && a < base + 8 * n && (a - base) % 8 = 0 then some ((a - base) / 8) else none

/-! ### Reading -/

def powerCode : Power → Nat
  | .running => 0 | .clockGated => 1 | .powerGated => 2 | .waking => 3

def State.readOt (s : State) (k : Nat) : Nat :=
  if k = 0 then s.otpool.toNat
  else if k = 2 then at_ (b2n !s.otq.isEmpty) 63 + at_ (b2n s.otOvf) 62 + at_ (b2n s.otBadw) 61 + s.otSeq.toNat
  else 0

def State.readPinext (s : State) (k : Nat) : Nat :=
  match (s.ctx? (k / 4)).bind (·.pinBase[k % 4]?) with
  | some (size, base) => at_ size 48 + base % 2 ^ 48
  | none => let e := s.pinextOf (k / 4) (k % 4); at_ e.1 48 + e.2 % 2 ^ 48

def State.readPinstat (s : State) (x : Nat) : Nat :=
  match s.ctx? x with
  | none => 0
  | some c => at_ (b2n (s.pinHeld.any (·.ctx == x) || (c.pinFree.isNone && s.handlerQ.any fun h => h.1 = x && !c.waitsForCore h.2))) 63 + at_ (b2n c.paused) 62 + c.pin.length

def State.readCore (s : State) (k : Nat) : Nat :=
  let c := s.core k
  at_ c.wakes.toNat 32 + at_ c.buffer.length 2 + powerCode c.power

def State.readLink (s : State) (k : Nat) : Nat :=
  match s.ports[k]? with
  | none => 0
  | some p => at_ p.state 62 + at_ (b2n (k = 0 || k = 10)) 61 + at_ p.drops.toNat 32 + p.resends.toNat

def State.readPkg (s : State) (k : Nat) : Nat :=
  if k = 0 then s.pkgid
  else if k = 1 then s.peerwin.toNat
  else if k = 2 then at_ (b2n s.sync) 63 + at_ s.root 32 + (BitVec.ofInt 16 s.offset).toNat
  else at_ s.noroute.toNat 32 + s.routes.length

def State.readFw (s : State) (k : Nat) : Nat :=
  if k = 0 then s.defseed.toNat
  else if k = 1 then s.pwrcap
  else if k = 2 then at_ (b2n s.alarm) 63 + at_ s.hotLayer 32 + s.watts
  else if k = 3 then at_ s.fwSvn.toNat 48 + at_ s.fwState 24 + at_ s.fwSlot 16 + at_ s.fwLasterr 8 + at_ (b2n s.fwCmd.isSome) 7
  else 0

/-- The value of a device register; an offset that none occupies reads zero (R248). -/
def State.readReg (s : State) (a : Nat) : Nat :=
  match regIndex regOtpool 4 a, regIndex regShedctl 256 a, regIndex regSavepool 1 a, regIndex regPinext 4096 a with
  | some k, _, _, _ => s.readOt k
  | _, some k, _, _ => at_ (b2n (s.core k).ilvPend.isSome) 63 + b2n ((s.core k).ilvPend.getD (s.core k).ilv)
  | _, _, some _, _ => s.savepool.toNat + b2n s.saveBadw
  | _, _, _, some k => s.readPinext k
  | none, none, none, none =>
    match regIndex regCpwrstat 256 a, regIndex regPinstat 1024 a, regIndex regLinkstat Config.numPorts a, regIndex regPkgid 4 a with
    | some k, _, _, _ => s.readCore k
    | _, some k, _, _ => s.readPinstat k
    | _, _, some k, _ => s.readLink k
    | _, _, _, some k => s.readPkg k
    | none, none, none, none =>
      match regIndex regDefseed 5 a, regIndex regStkbud 16 a, regIndex regRoute 32768 a with
      | some k, _, _ => s.readFw k
      | _, some k, _ => ((s.memStacks[k]?).map (·.budget.toNat)).getD 0
      | _, _, some p => (match s.route? p with | some k => 128 + k | none => 0)
      | none, none, none => 0

/-! ### Writing -/

/-- OTSTAT: OVF and BADW are cleared by ones. -/
def State.writeOtstat (s : State) (v : Word) : State :=
  { s with otOvf := s.otOvf && !v.getLsbD 62, otBadw := s.otBadw && !v.getLsbD 61 }

/-- SAVEPOOL (R408): ignored, with BADW, while a context is live; BADW is cleared by a one. -/
def State.writeSavepool (s : State) (v : Word) : State :=
  if s.ctxs.isEmpty then
    { s with savepool := w64 (at_ (bits v.toNat 48 8) 48 + at_ (bits v.toNat 30 18) 30), saveBadw := s.saveBadw && !v.getLsbD 0 }
  else { s with saveBadw := true }

/-- FWCMD (R458, R459): ignored with LASTERR 5 while a command runs; unassigned operations are ignored. -/
def State.writeFwcmd (s : State) (v : Word) : State :=
  if s.fwCmd.isSome then { s with fwLasterr := 5 }
  else if 1 ≤ bits v.toNat 60 4 && bits v.toNat 60 4 ≤ 4 then { s with fwCmd := some v } else s

def State.writeFw (s : State) (k : Nat) (v : Word) : State :=
  if k = 0 then { s with defseed := v, seedWas := some (s.cycle, s.seedNow) }
  else if k = 1 then { s with pwrcap := max 1200 (min 3600 (bits v.toNat 0 12)) }
  else if k = 2 then { s with alarm := s.alarm && !v.getLsbD 63 }
  else if k = 4 then s.writeFwcmd v
  else s

def State.writeLink (s : State) (k : Nat) (v : Word) : State :=
  { s with ports := s.ports.modify k fun p => { p with drops := p.drops &&& ~~~(BitVec.ofNat 16 (bits v.toNat 32 16)) } }

/-- PEERWIN's writable bits. -/
def peerwinOf (v : Word) : Word := w64 (at_ (bits v.toNat 63 1) 63 + at_ (bits v.toNat 30 18) 30 + bits v.toNat 0 12)

def State.writePkg (s : State) (k : Nat) (v : Word) : State :=
  if k = 1 then { s with peerwin := peerwinOf v }
  else if k = 3 then { s with noroute := s.noroute &&& ~~~(BitVec.ofNat 32 (bits v.toNat 32 32)) }
  else s

def State.writeOt (s : State) (k : Nat) (v : Word) : State :=
  if k = 0 then s.writeOtpool v else if k = 1 then s.writeOtcmd v else if k = 2 then s.writeOtstat v else s.writeResans v

/-- A write of a device register; read-only fields and unoccupied offsets discard it. -/
def State.writeReg (s : State) (a : Nat) (v : Word) : State :=
  match regIndex regOtpool 4 a, regIndex regShedctl 256 a, regIndex regSavepool 1 a, regIndex regPinext 4096 a with
  | some k, _, _, _ => s.writeOt k v
  | _, some k, _, _ => s.writeShedctl k v
  | _, _, some _, _ => s.writeSavepool v
  | _, _, _, some k => s.writePinext (k / 4) (k % 4) v
  | none, none, none, none =>
    match regIndex regLinkstat Config.numPorts a, regIndex regPkgid 4 a, regIndex regDefseed 5 a with
    | some k, _, _ => s.writeLink k v
    | _, some k, _ => s.writePkg k v
    | _, _, some k => s.writeFw k v
    | none, none, none => s

/-- REGISTER_WRITE. -/
def execRegisterWrite (addr : Nat) (v : Word) (s : State) : Res := .next (s.writeReg addr v)

/-! ### Firmware commands -/

/-- The command that runs, if it has an operation. -/
def State.fwRuns (s : State) (op : Nat) : Option Nat :=
  match s.fwCmd with
  | none => none
  | some v => if bits v.toNat 60 4 = op then some (bits v.toNat 12 36 * 4096) else none

/-- The route entries of a topology block. -/
def State.topoRoutes (s : State) (a e : Nat) : List Nat := (List.range e).map fun i => s.rdNat (a + 16 + 4 * i) 4

/-- Whether a topology block is refused (R438). -/
def topoBad (w0 : Nat) (l : List Nat) : Bool :=
  bits w0 15 1 ≠ 0 || bits w0 31 33 ≠ 0 ||
  l.any (fun e => bits e 15 1 ≠ 0 || bits e 21 11 ≠ 0 || bits e 0 15 = bits w0 0 15 || bits e 16 5 = 0 || bits e 16 5 = 10 || 19 < bits e 16 5) ||
  (l.map fun e => bits e 0 15).eraseDups.length ≠ l.length

/-- TOPO (R438). -/
def execTopo (s : State) : Res :=
  .next (match s.fwRuns 4 with
    | none => s
    | some a =>
      let s1 : State := { s with fwCmd := none }
      let w0 := s.rdNat a 8
      let w1 := s.rdNat (a + 8) 8
      let l := s.topoRoutes a (bits w0 16 15)
      if !s.ctxs.isEmpty then { s1 with fwLasterr := 6 }
      else if topoBad w0 l || w64 w1 ≠ peerwinOf (w64 w1) then { s1 with fwLasterr := 4 }
      else
        { s1 with
          -- where this package was the time root, it is so under its new number (R443)
          root := if s.root = s.pkgid then bits w0 0 15 else s.root
          pkgid := bits w0 0 15, peerwin := w64 w1, routes := l.map fun e => (bits e 0 15, bits e 16 5)
          ports := s.ports.mapIdx fun k p => if k = 0 || k = 10 then p else { p with state := 3, replay := [] } })

/-- What the acceptance of an image comes to (R457): 0, or the LASTERR code of R459. -/
def imageVerdict (image : Nat) : Nat :=
  let v := Config.imageCheck image % 4
  if v = 3 then 4 else if v ≠ 0 then v else if (Config.imageVersion image).toNat < Config.fusedVersion.toNat then 3 else 0

/-- The image staged at an address: the bytes from there to the end of the staging buffer; `none` outside it. -/
def State.staged (s : State) (a : Nat) : Option Nat :=
  let b := Config.stagingBuffer
  if b.1 ≤ a && a < b.1 + b.2 then some (Config.stagedImage (s.rdN a (b.1 + b.2 - a))) else none

/-- VERIFY (R457, R458): an accepted image goes into the slot that is not running; for one that is not, the reason is recorded. An address
outside the staging buffer is a bad form. -/
def execVerify (s : State) : Res :=
  .next (match s.fwRuns 1 with
    | none => s
    | some a =>
      let s1 : State := { s with fwCmd := none }
      match s.staged a with
      | none => { s1 with fwLasterr := 4 }
      | some i => if imageVerdict i = 0 then { s1 with fwOther := some i } else { s1 with fwLasterr := imageVerdict i })

/-- ACTIVATE: the shepherd restarts from the other slot: it boots, and once more, it runs; with no verified image there, LASTERR is
4 and nothing changes. -/
def execActivate (s : State) : Res :=
  .next (match s.fwRuns 2 with
    | none => s
    | some _ =>
      match s.fwOther with
      | none => { s with fwCmd := none, fwLasterr := 4 }
      | some v =>
        if s.fwState ≠ 0 then { s with fwState := 0 }
        else { s with fwCmd := none, fwOther := s.fwImage, fwImage := some v, fwSvn := Config.imageVersion v, fwSlot := 1 - s.fwSlot, fwState := 1 })

/-- ATTEST (R458): the statement at ADDR + 64. -/
def execAttest (s : State) : Res :=
  .next (match s.fwRuns 3 with
    | none => s
    | some a =>
      let map := (List.range 256).foldl (fun n c => if (s.core c).enabled then n + 2 ^ c else n) 0
      let part := if (List.range 256).all fun c => (s.core c).enabled then 0x9A else 0x9B
      let body := [part, 0] ++ bytesLE 2 s.pkgid ++ List.replicate 4 0 ++ bytesLE 32 map ++ s.rdN a 48 ++ bytesLE 8 s.fwSvn.toNat ++
        (List.range 48).map (Config.digestByte (s.fwImage.getD 0)) ++ (List.range 48).map Config.baseDigestByte ++
        (List.range (0x80C - 0xC0)).map (Config.attestByte s.fwCount)
      ({ s with fwCmd := none, fwCount := s.fwCount + 1 } : State).wrN (a + 64) body)

/-! ### Bring-up -/

/-- Steps 1 to 5 of bring-up (R456): the image of slot A is verified, else that of slot B; with neither the package is in recovery. The lists
are cleared and the ports trained. -/
def State.bringUp (s : State) : State :=
  let a := imageVerdict (Config.slotImage 0)
  let b := imageVerdict (Config.slotImage 1)
  let run := fun (k : Nat) (other : Option Nat) (s : State) =>
    { s with fwState := 1, fwSlot := k, fwImage := some (Config.slotImage k), fwSvn := Config.imageVersion (Config.slotImage k), fwOther := other }
  let s : State := { s with
    broughtUp := true, fwLasterr := if a ≠ 0 then a else b
    dies := s.dies.map fun d => { d with lasting := [] }
    ports := s.ports.map fun p => { p with state := 1, ackAt := s.cycle } }
  if a = 0 then run 0 (if b = 0 then some (Config.slotImage 1) else none) s
  else if b = 0 then run 1 none s
  else { s with fwState := 2 }

/-- Whether an image of a slot has been accepted at reset. -/
def slotsVerify : Bool := imageVerdict (Config.slotImage 0) = 0 || imageVerdict (Config.slotImage 1) = 0

/-- RESET (R456): steps 1 to 5, and then, the next time, step 6: the launch port opens, which it never does where neither slot verified
(R457). -/
def execReset (s : State) : Res :=
  .next (
    if !s.broughtUp then s.bringUp
    else if slotsVerify then { s with isOpen := true } else s)

end Sys2Proof.Machine
end

