-- ==== Sys2Proof/Machine/Float.lean ====
section
/-! DEFINITION. The floating-point and conversion instructions (R111–R127): each a value of its latches; `cvtsr` also of the seed. -/

namespace Sys2Proof.Machine

/-- Floating-point add, rounded once (R111). -/
def execFadd (pm : Pm) (rm : Rnd) (ty : FTy) (t0 : Target) (t1 : Target) (s : State) : Res :=
  valueOp pm readsAB t0 t1 (fun a b _ _ => both (fadd ty rm a b)) s

/-- Floating-point subtract (R111). -/
def execFsub (pm : Pm) (rm : Rnd) (ty : FTy) (t0 : Target) (t1 : Target) (s : State) : Res :=
  valueOp pm readsAB t0 t1 (fun a b _ _ => both (fsub ty rm a b)) s

/-- Floating-point multiply (R111). -/
def execFmul (pm : Pm) (rm : Rnd) (ty : FTy) (t0 : Target) (t1 : Target) (s : State) : Res :=
  valueOp pm readsAB t0 t1 (fun a b _ _ => both (fmul ty rm a b)) s

/-- Fused multiply-add with one rounding (R111). -/
def execFfma (pm : Pm) (rm : Rnd) (ty : FTy) (t0 : Target) (t1 : Target) (s : State) : Res :=
  valueOp pm readsABC t0 t1 (fun a b c _ => both (ffma ty rm a b c)) s

/-- Floating-point minimum that skips a single NaN (R113). -/
def execFmin (pm : Pm) (ty : FTy) (t0 : Target) (t1 : Target) (s : State) : Res :=
  valueOp pm readsAB t0 t1 (fun a b _ _ => both (fminmax false ty a b)) s

/-- Floating-point maximum that skips a single NaN (R113). -/
def execFmax (pm : Pm) (ty : FTy) (t0 : Target) (t1 : Target) (s : State) : Res :=
  valueOp pm readsAB t0 t1 (fun a b _ _ => both (fminmax true ty a b)) s

/-- Clears the sign bit (R114). -/
def execFabs (pm : Pm) (ty : FTy) (t0 : Target) (t1 : Target) (s : State) : Res :=
  valueOp pm readsA t0 t1 (fun a _ _ _ => both (fsign false ty a)) s

/-- Inverts the sign bit (R114). -/
def execFneg (pm : Pm) (ty : FTy) (t0 : Target) (t1 : Target) (s : State) : Res :=
  valueOp pm readsA t0 t1 (fun a _ _ _ => both (fsign true ty a)) s

/-- Floating-point compare under eq, lt, le or un (R115). -/
def execFcmp (pm : Pm) (c : FCond) (ty : FTy) (t0 : Target) (t1 : Target) (s : State) : Res :=
  valueOp pm readsAB t0 t1 (fun a b _ _ => withComplement (fcmp c ty a b)) s

/-- Delivers a one-hot class mask of A (R116). -/
def execFclass (pm : Pm) (ty : FTy) (t0 : Target) (t1 : Target) (s : State) : Res :=
  valueOp pm readsA t0 t1 (fun a _ _ _ => both (fclass ty a)) s

/-- Floating-point divide (R111). -/
def execFdiv (pm : Pm) (rm : Rnd) (ty : FTy) (t0 : Target) (t1 : Target) (s : State) : Res :=
  valueOp pm readsAB t0 t1 (fun a b _ _ => both (fdiv ty rm a b)) s

/-- Floating-point square root (R111). -/
def execFsqrt (pm : Pm) (rm : Rnd) (ty : FTy) (t0 : Target) (t1 : Target) (s : State) : Res :=
  valueOp pm readsA t0 t1 (fun a _ _ _ => both (fsqrt ty rm a)) s

/-- Table-based FP32 reciprocal estimate (R118). -/
def execFrcpe (pm : Pm) (t0 : Target) (t1 : Target) (s : State) : Res :=
  valueOp pm readsA t0 t1 (fun a _ _ _ => both (frcpe a)) s

/-- Table-based FP32 reciprocal square-root estimate (R119). -/
def execFrsqe (pm : Pm) (t0 : Target) (t1 : Target) (s : State) : Res :=
  valueOp pm readsA t0 t1 (fun a _ _ _ => both (frsqe a)) s

/-- FP32 base-2 exponential (R120). -/
def execFexp2 (pm : Pm) (t0 : Target) (t1 : Target) (s : State) : Res :=
  valueOp pm readsA t0 t1 (fun a _ _ _ => both (fexp2 a)) s

/-- FP32 base-2 logarithm (R120). -/
def execFlog2 (pm : Pm) (t0 : Target) (t1 : Target) (s : State) : Res :=
  valueOp pm readsA t0 t1 (fun a _ _ _ => both (flog2 a)) s

/-- FP32 sine (R120). -/
def execFsin (pm : Pm) (t0 : Target) (t1 : Target) (s : State) : Res :=
  valueOp pm readsA t0 t1 (fun a _ _ _ => both (fsin a)) s

/-- FP32 cosine (R120). -/
def execFcos (pm : Pm) (t0 : Target) (t1 : Target) (s : State) : Res :=
  valueOp pm readsA t0 t1 (fun a _ _ _ => both (fcos a)) s

/-- FP32 hyperbolic tangent (R120). -/
def execFtanh (pm : Pm) (t0 : Target) (t1 : Target) (s : State) : Res :=
  valueOp pm readsA t0 t1 (fun a _ _ _ => both (ftanh a)) s

/-- Rounds to an integral value in the given direction (R117). -/
def execFround (pm : Pm) (rm : Rnd) (ty : FTy) (t0 : Target) (t1 : Target) (s : State) : Res :=
  valueOp pm readsA t0 t1 (fun a _ _ _ => both (fround ty rm a)) s

/-- Converts between format codes under the rounding of the opcode and SAT (R126). -/
def execCvt (rm : Rnd) (pm : Pm) (sat : Bool) (dst : Fmt) (src : Fmt) (t0 : Target) (s : State) : Res :=
  valueOp pm readsA t0 .none (fun a _ _ _ => both (cvtVal dst src (rndMode rm) sat a)) s

/-- Packed-pair add (R122). -/
def execHadd2 (pm : Pm) (rm : Rnd) (ty : FTy) (t0 : Target) (t1 : Target) (s : State) : Res :=
  valueOp pm readsAB t0 t1 (fun a b _ _ => both (halves (fun x y _ => fadd ty rm x y) a b 0)) s

/-- Packed-pair multiply (R122). -/
def execHmul2 (pm : Pm) (rm : Rnd) (ty : FTy) (t0 : Target) (t1 : Target) (s : State) : Res :=
  valueOp pm readsAB t0 t1 (fun a b _ _ => both (halves (fun x y _ => fmul ty rm x y) a b 0)) s

/-- Packed-pair fused multiply-add (R122). -/
def execHfma2 (pm : Pm) (rm : Rnd) (ty : FTy) (t0 : Target) (t1 : Target) (s : State) : Res :=
  valueOp pm readsABC t0 t1 (fun a b c _ => both (halves (fun x y z => ffma ty rm x y z) a b c)) s

/-- Packed-pair maximum (R122). -/
def execHmax2 (pm : Pm) (ty : FTy) (t0 : Target) (t1 : Target) (s : State) : Res :=
  valueOp pm readsAB t0 t1 (fun a b _ _ => both (halves (fun x y _ => fminmax true ty x y) a b 0)) s

/-- Four-element 8-bit dot product plus C (R123). -/
def execDot4 (pm : Pm) (ty : Dot4Ty) (t0 : Target) (t1 : Target) (s : State) : Res :=
  valueOp pm readsABC t0 t1 (fun a b c _ => both (dot4 ty a b c)) s

/-- Converts with stochastic rounding (R127): SrBits takes the seed, CTX, the logical iteration, and the block and index
of the instruction. -/
def execCvtsr (pm : Pm) (sat : Bool) (dst : Fmt) (src : Fmt) (t0 : Target) (s : State) : Res :=
  laneOp pm t0 .none (fun s fl j ln k =>
    let c := s.ctx? fl.ctx
    let m := srMode ((c.map (·.seed)).getD 0) ((c.map (·.det)).getD false) fl.ctx (literOf ln.tag ln.epoch)
      (BitVec.ofNat 64 (2 ^ 63 + 64 * fl.block + j))
    let v : Val := { bits := cvtVal dst src m sat k.a.bits, void := readsA.void k }
    (v, v)) s

end Sys2Proof.Machine
end

