-- ==== Sys2Proof/Machine/Links.lean ====
section
/-! DEFINITION. The ports (R431–R434), host reads and writes (R435), memory requests between packages and their responses
(R425, R439, R440), and the exchange of time (R443). -/

namespace Sys2Proof.Machine

/-! ### Messages (R425, R426) -/

/-- SCORE of an agent of this package, numbered as in entry 20: its core; 255 for the yard, the shepherd, a port or an L2. -/
def agentCore (src : Nat) : Nat :=
  if src < 256 then src
  else if 512 ≤ src && src < 768 then src - 512
  else if 2048 ≤ src && src < 3072 then (src - 2048) / 4
  else 255

/-- CLASS of a message. -/
def msgClass (m : LinkMsg) : Nat :=
  match m with
  | .token _ _ _ _ _ _ => 0
  | .request _ _ _ r => if isReleaseReq r then 2 else 1
  | .memReq _ => 3
  | .memRsp _ => 4
  | .control _ _ _ _ => 5
  | .time _ _ => 5
  | .host _ => 6
  | .toHost _ => 6

/-- The flits of a message: one for a token, one and its data for a write and a response; the spec gives no others. -/
def msgFlits (m : LinkMsg) : Nat :=
  let free := fun n => 1 + Config.flits (msgClass m) n % 64
  match m with
  | .token _ _ _ _ _ _ => 1
  | .memReq q => (match q.op with | .write l _ => 1 + (l.length + 31) / 32 | _ => free 0)
  | .memRsp q => 1 + (q.data.length + 31) / 32
  | .toHost h => free h.body.length
  | .host p => free p.body.length
  | _ => free 0

/-- The common header: bits 63:0 of a message's first flit (R425). -/
def msgHeader (dpkg dcore spkg score cls nflit : Nat) : BitVec 64 :=
  BitVec.ofNat 64 (at_ (dpkg % 2 ^ 15) 49 + at_ (dcore % 256) 41 + at_ (spkg % 2 ^ 15) 26 + at_ (score % 256) 18 + at_ (cls % 8) 15 +
    at_ (nflit % 64) 9)

/-- A token's one flit (R426): GANG stands for the context between packages. -/
def tokenFlit (dpkg dcore spkg src gang : Nat) (t : Token) : BitVec 256 :=
  let between := dpkg ≠ spkg
  BitVec.ofNat 256 (at_ (if t.void then 0 else t.payload.toNat) 192 + at_ t.tag.toBits.toNat 152 + at_ t.epoch.toNat 130 +
    at_ (t.block % 4096) 118 + at_ (t.slot % 8) 115 + at_ (b2n t.void) 114 + at_ (b2n t.rel.isSome) 113 +
    at_ ((t.rel.map scopeNum).getD 0) 111 + at_ (t.hpkg % 2 ^ 15) 96 + at_ (if between then gang % 2 ^ 16 else 0) 80 +
    at_ (if between && gang % 2 ^ 16 ≠ 0 then 0 else t.tag.ctx.toNat) 64 +
    (msgHeader dpkg dcore spkg (agentCore src) 0 0).toNat)

/-- The common header of a message (R425): of a token as in its flit, of a request to a unit, a memory request or response and a gang's
CONTROL message by the packages and cores that it names. The destination core of a memory request and of a CONTROL message, for an L2
and for the yard, is none that R425 names: a free value. Messages of a host port and of the time exchange, which stay on one link,
name no packages. -/
def headerOf (m : LinkMsg) : Option (BitVec 64) :=
  let h := fun dpkg dcore spkg score => some (msgHeader dpkg dcore spkg score (msgClass m) (msgFlits m - 1))
  match m with
  | .token dpkg dcore spkg src _ _ => h dpkg dcore spkg (agentCore src)
  | .request dpkg dcore _ r => h dpkg dcore r.opkg r.origin
  | .memReq q => h q.dpkg (Config.homeCore q.addr) q.spkg q.score
  | .memRsp q => h q.dpkg q.dcore q.spkg 255
  | .control dpkg spkg _ _ => h dpkg (Config.homeCore 0) spkg 255
  | .time _ _ | .host _ | .toHost _ => none

/-! ### Frames -/

def State.port (s : State) (k : Nat) : Port := s.ports[k]?.getD {}

def State.updPort (s : State) (k : Nat) (f : Port → Port) : State := { s with ports := s.ports.modify k f }

def isHostPort (k : Nat) : Bool := k = 0 || k = 10

def Port.drop (p : Port) : Port := { p with drops := BitVec.ofNat 16 (min (p.drops.toNat + 1) 0xFFFF) }

/-- An acknowledgement number names the next frame awaited: the frames before it leave the replay buffer. -/
def State.ackFrames (s : State) (port : Nat) (ack : BitVec 16) : State :=
  s.updPort port fun p =>
    match p.replay with
    | [] => p
    | f :: _ =>
      let n := (ack - f.seq).toNat
      if 0 < n && n ≤ p.replay.length then { p with replay := p.replay.drop n, failed := 0, ackAt := s.cycle } else p

/-- Whether a packet to the device is well formed (R434, R435). -/
def hpOk (p : HostPkt) : Bool :=
  let len := hpLen p
  let arg := hpArg p
  let form := arg.getLsbD 63
  bits p.header.toNat 8 8 = 0 && len = p.body.length && bits arg.toNat 57 6 = 0 &&
  (if hpType p = 1 then
     let ntok := bits (natLE (p.body.take 64)) 425 7
     arg = 0 && 64 ≤ len && len ≤ 1088 && (len - 64) % 16 = 0 && (64 < ntok || len = 64 + 16 * ntok)
   else if hpType p = 2 then len = (if form then 8 else 0) && (!form || bits arg.toNat 44 4 = 0)
   else if hpType p = 3 then
     bits arg.toNat 48 9 = 0 && (if form then 9 ≤ len && len ≤ 264 && bits arg.toNat 44 4 = 0 else 1 ≤ len && len ≤ 256)
   else false)

/-- The package a message is for; time messages and host packets stay where they arrive. -/
def msgDest (m : LinkMsg) : Option Nat :=
  match m with
  | .token d _ _ _ _ _ => some d
  | .request d _ _ _ => some d
  | .memReq q => some q.dpkg
  | .memRsp q => some q.dpkg
  | .control d _ _ _ => some d
  | .time _ _ => none
  | .host _ => none
  | .toHost _ => none

/-- A received message: a host packet is queued or dropped and counted; one for another package goes on by the route
table; any other waits to be taken. -/
def State.receive (s : State) (port : Nat) (m : LinkMsg) : State :=
  let keep := s.updPort port fun p => { p with inbox := p.inbox ++ [m] }
  match m with
  | .host p => if isHostPort port && hpOk p then keep else s.updPort port Port.drop
  | .toHost _ => s
  | m => match msgDest m with
    | some d => if d = s.pkgid then keep else s.sendOut d m
    | none => keep

/-- LINK_FRAME: a frame in sequence whose CRC checks is accepted and acknowledged; where a CRC fails its sender is asked to send again. -/
def execLinkFrame (port : Nat) (f : LinkFrame) (s : State) : Res :=
  .next (
    if (s.port port).state ≠ 1 then s
    else if !f.crcOk then s.updPort port fun p => { p with naks := p.naks + 1 }
    else
      let s := s.ackFrames port f.ack
      if f.seq ≠ (s.port port).rxSeq then s
      else f.msgs.foldl (fun s m => s.receive port m) (s.updPort port fun p => { p with rxSeq := p.rxSeq + 1, ackSent := p.rxSeq + 1 }))

/-- How many messages, from the first on, fit into some flits. -/
def packed : Nat → List LinkMsg → Nat
  | _, [] => 0
  | room, m :: r => if msgFlits m ≤ room then packed (room - msgFlits m) r + 1 else 0

/-- The elements of a list that satisfy a test go, `n` of them at most. -/
def dropSome {α : Type} (p : α → Bool) : Nat → List α → List α
  | _, [] => []
  | 0, l => l
  | n + 1, a :: r => if p a then dropSome p n r else a :: dropSome p (n + 1) r

/-- Some messages in `n` frames, the last flits in the last one, join the replay buffer. -/
def State.frameUp (s : State) (port n : Nat) (ms : List LinkMsg) : State :=
  s.updPort port fun p => { p with
    replay := p.replay ++ (List.range n).map fun i =>
      { seq := p.txSeq + BitVec.ofNat 16 i, ack := p.rxSeq, crcOk := true, msgs := if i + 1 = n then ms else [], since := s.cycle }
    txSeq := p.txSeq + BitVec.ofNat 16 n
    ackAt := if p.replay.isEmpty then s.cycle else p.ackAt }

/-- A port forms a frame of 8 flits of up to `n` messages, the first that are queued for it, while its replay buffer of 512 has
room; a longer message takes several frames (R431). -/
def State.transmit (s : State) (port n : Nat) : State :=
  let p := s.port port
  let host := isHostPort port
  let mine := fun h : HostOut => h.port = port
  let toward := fun q : Nat × LinkMsg => s.route? q.1 = some port
  let queue := if host then (s.hostOut.filter mine).map LinkMsg.toHost else (s.netOut.filter toward).map (·.2)
  let k := max 1 (min n (packed 8 queue))
  let frames := (msgFlits (queue.headD (.time 0 0)) + 7) / 8
  let frames := if packed 8 queue = 0 then frames else 1
  if p.state ≠ 1 || queue.isEmpty || 512 < p.replay.length + frames then s
  else
    let s1 : State := if host then { s with hostOut := dropSome mine k s.hostOut } else { s with netOut := dropSome toward k s.netOut }
    s1.frameUp port frames (queue.take k)

/-- The frames of a port from the first unacknowledged one on are sent again (R431). -/
def State.resend (s : State) (port : Nat) : State :=
  if (s.port port).state = 1 && !(s.port port).replay.isEmpty then
    s.updPort port fun p => { p with
      resends := p.resends + BitVec.ofNat 32 p.replay.length, failed := p.failed + 1
      replay := p.replay.map fun f => { f with since := s.cycle } }
  else s

/-- RESEND_TIMEOUT: no acknowledgement within 2 µs of the sending of the oldest frame not acknowledged. -/
def execResendTimeout (port : Nat) (s : State) : Res :=
  .next (if (s.port port).replay.head?.any fun f => f.since + 2 * cyclesPerUs ≤ s.cycle then s.resend port else s)

/-! ### A port goes down (R432) -/

/-- A read of a command that fails ends it: no row from the one it was made for on counts, which is the one that the command has
come to, and its other requests are of no use (R328, R439). -/
def EngineCmd.readLost (k : EngineCmd) (code detail : Nat) : EngineCmd :=
  { k with broken := k.broken ++ [(code, detail, 2 ^ 32)], reads := [], data := [] }

/-- A request without an answer to come (R432): the lane faults LINK_DOWN, or the engine command ends with HOST_LINK; rows
written before stay written. A lane's write is one too while its firing has not ended; after that it stands lost. -/
def State.loseRequest (s : State) (id p : Nat) : State :=
  match s.remoteOut.find? (·.id == id), s.accesses.find? (fun a => a.phase = .remote id) with
  | _, some a => s.faultAccess a 0x30 [w64 a.handle, w64 p]
  | some w, none =>
    let gone : State := { s with remoteOut := s.remoteOut.filter (·.id ≠ id) }
    (match w.post with
     | some q =>
       if (s.lane? q.fid).isSome then gone.faultStore q 0x30 [w64 q.handle, w64 p]
       else { s with remoteOut := s.remoteOut.map fun w => if w.id = id then { w with lost := true } else w }
     | none =>
       if s.cmds.any fun k => k.writes.any (·.1 == id) then
         { gone with cmds := s.cmds.map fun k =>
             match k.writes.find? (·.1 == id) with
             | some w => { k with writes := k.writes.filter (·.1 ≠ id), broken := k.broken ++ [(0x30, 0, w.2.1)] }
             | none => k }
       else { s with remoteOut := s.remoteOut.map fun w => if w.id = id then { w with lost := true } else w })
  | none, none => { s with cmds := s.cmds.map fun k => if k.reads.any (·.1 == id) then k.readLost 0x30 0 else k }

/-- Requests to a package that await their answers. -/
def State.outstanding (s : State) (toward : Nat → Bool) : List (Nat × Nat) :=
  (s.accesses.filterMap fun a => match a.phase, a.pkg with
    | .remote id, some p => if toward p then some (id, p) else none
    | _, _ => none) ++
  (s.cmds.flatMap fun k => (k.reads.filter fun r => toward r.2.2.1).map fun r => (r.1, r.2.2.1)) ++
  (s.remoteOut.filter fun w => toward w.dpkg && !w.lost).map fun w => (w.id, w.dpkg)

/-- The gang of a message that is lost. -/
def gangOf (m : LinkMsg) : Option Nat :=
  match m with
  | .token _ _ _ _ g _ => some g
  | .request _ _ g _ => some g
  | .control _ _ g _ => some g
  | _ => none

/-- A member drains with GANG_LOST, naming the package and its code (R442). -/
def State.gangLost (s : State) (c : Ctx) (p code : Nat) : State := s.captureContext c.id 0x32 [w64 p, w64 code] true

def State.ctxOfGang (s : State) (g : Nat) : Option Ctx := s.ctxs.find? fun c => (c.gang.map (·.number)) = some g

/-- The `k`-th write to a host window, first of its port, reaches the host's memory. -/
def State.hostAcked (s : State) (k : Nat) : State :=
  match s.hostWrites[k]? with
  | none => s
  | some w =>
    if (s.hostWrites.take k).any (·.port = w.port) then s
    else ({ s with hostWrites := removeAt k s.hostWrites } : State).wrAll w.data

/-- A host port is lost under the commands that use its windows (R331): writes not acknowledged go, and the commands end with
HOST_LINK. -/
def State.loseWindow (s : State) (port : Nat) : State :=
  let gone := s.hostWrites.filter (·.port = port)
  let uses := fun k : EngineCmd => k.ended.isNone && k.recs.any fun r => r.2.kind = 2 && windowPortOf r.2 = port
  { s with
    hostWrites := s.hostWrites.filter (·.port ≠ port)
    cmds := s.cmds.map fun k =>
      let rows := (gone.filter (·.cmd = k.id)).map (·.row)
      if rows.isEmpty && !uses k then k else { k with broken := k.broken ++ [(0x30, 0, (minBy id rows).getD (2 ^ 32))] } }

/-- What is queued for or held toward packages behind a down port, and what awaits their answers, is lost (R432): requests first, then
the gangs of lost tokens, requests and CONTROL messages. -/
def State.loseToward (s : State) (port : Nat) (lost : List LinkMsg) : State :=
  let mine := fun q => s.route? q = some port
  let heldGangs := (s.held.filter fun h => h.dpkg ≠ s.pkgid && mine h.dpkg).filterMap fun h =>
    ((s.ctx? h.ctx).bind (·.gang)).map (·.number)
  let gangs := (((lost ++ (s.netOut.filter fun n => mine n.1).map (·.2)).filterMap gangOf) ++ heldGangs).eraseDups
  let s1 : State := { s with netOut := s.netOut.filter fun n => !mine n.1 }
  gangs.foldl (fun s g => match s.ctxOfGang g with
    | some c => s.gangLost c s.pkgid 0x30
    | none => s) ((s1.outstanding mine).foldl (fun s r => s.loseRequest r.1 r.2) s1)

/-- PORT_DOWN: 256 resends in a row have failed, or no acknowledgement has come for 100 µs. -/
def execPortDown (port : Nat) (s : State) : Res :=
  .next (
    let p := s.port port
    let due := 256 ≤ p.failed || (!p.replay.isEmpty && p.ackAt + 100 * cyclesPerUs ≤ s.cycle)
    if p.state ≠ 1 || !due then s
    else
      let lost := p.replay.flatMap (·.msgs)
      let s1 := s.updPort port fun p => { p with state := 2, replay := [], failed := 0 }
      if isHostPort port then
        let back := (lost.filterMap fun m => match m with | .toHost h => some h | _ => none) ++ s.hostOut.filter (·.port = port)
        back.foldl (fun s h => s.toHost h.port h.type h.cookie h.arg h.body) (({ s1 with hostOut := s1.hostOut.filter (·.port ≠ port) } : State).loseWindow port)
      else s1.loseToward port lost)

/-- A message queued for a port that is down is lost as at once (R432): the first such port's messages. -/
def State.discardDown (s : State) : State :=
  match (List.range Config.numPorts).find? fun k => !isHostPort k && (s.port k).state = 2 &&
      (s.netOut.any (fun n => s.route? n.1 = some k) ||
       s.held.any fun h => h.dpkg ≠ s.pkgid && s.route? h.dpkg = some k && ((s.ctx? h.ctx).bind (·.gang)).isSome) with
  | some k => s.loseToward k []
  | none => s

/-- PORT_RETRAINED: the port is up; packets held for a host are sent. -/
def execPortRetrained (port : Nat) (s : State) : Res :=
  .next (
    let p := s.port port
    if p.state = 2 || p.state = 3 then
      { s.updPort port (fun p => { p with
          state := 1, holdq := [], rxSeq := 0, txSeq := 0, failed := 0, ackAt := s.cycle, ackSent := 0 }) with
        hostOut := s.hostOut ++ p.holdq }
    else s)

/-! ### Messages taken from a port -/

/-- The first message of a port's inbox that satisfies a test, taken. -/
def State.takeMsg (s : State) (port : Nat) (p : LinkMsg → Bool) : Option (LinkMsg × State) :=
  let l := (s.port port).inbox
  match indexOf? p l 0 with
  | none => none
  | some k => (l[k]?).map fun m => (m, s.updPort port fun q => { q with inbox := removeAt k q.inbox })

/-- A gang's counts of tokens between members (R442): one more received. -/
def State.gangReceived (s : State) (x : Nat) : State :=
  s.updCtx x fun c => { c with gang := c.gang.map fun g => { g with received := g.received + 1 } }

/-- A TOKEN for this package goes to its core, its CTX replaced by the member's own (R442). -/
def State.deliverToken (s : State) (m : LinkMsg) : State :=
  match m with
  | .token _ core spkg src g t =>
    (match s.ctxOfGang g with
     | none => s
     | some c =>
       let t := { t with tag := { t.tag with ctx := BitVec.ofNat 10 c.id } }
       let s := s.gangReceived c.id
       { s with transit := s.transit ++ [{ src := 4096 + 4096 * spkg + src, dst := core, ctx := c.id, tok := t }] })
  | _ => s

/-- The package whose firing waits for a request to enter its unit's queue is told (R152). -/
def State.tellEntered (s : State) (g : Nat) (r : UnitReq) : State :=
  match r.asks with
  | some id => s.sendOut r.opkg (.control r.opkg s.pkgid g (.entered id))
  | none => s

/-- A GRANT or RELEASE for a unit of this package joins its queue (R152). -/
def State.deliverRequest (s : State) (m : LinkMsg) : State :=
  match m with
  | .request _ core g r =>
    let s := s.tellEntered g r
    (match s.ctxOfGang g with
     | none => s
     | some c =>
       let own := fun t : Tag => { t with ctx := BitVec.ofNat 10 c.id }
       let r := { r with ctx := c.id, tag := own r.tag, tok := r.tok.map fun t => { t with tag := own t.tag }, fid := 0, asks := none }
       (s.gangReceived c.id).enterQueue core r)
  | _ => s

/-- The oldest TOKEN (`cls` 0), GRANT (1) or RELEASE (2) of a port goes on into the package. -/
def State.deliver (s : State) (port cls : Nat) : State :=
  let of := fun m : LinkMsg => match m with
    | .token _ _ _ _ _ _ => cls = 0
    | .request _ _ _ r => (match r.mode with | .inl _ => cls = 1 | .inr _ => cls = 2)
    | _ => false
  match s.takeMsg port of with
  | none => s
  | some (m, s1) =>
    match m with
    | .request _ core _ _ => if s.unitRoom core (cls = 2) then s1.deliverRequest m else s
    | _ => s1.deliverToken m

/-! ### Memory requests between packages (R439) -/

/-- Whether peers may reach an address (R437). -/
def State.peerMay (s : State) (a : Nat) : Bool :=
  s.peerwin.getLsbD 63 && bits s.peerwin.toNat 0 12 * 2 ^ 30 ≤ a && a < (bits s.peerwin.toNat 30 18 + 1) * 2 ^ 30

def reqBytes (q : MemReq) : Nat :=
  match q.op with
  | .read n => n
  | .write l _ => l.length
  | .atomic op w64 _ _ => if w64 then 8 else if op = 20 then 2 else 4
  | .ordered _ _ _ => 4

/-- The bytes of a request. -/
def reqAddrs (q : MemReq) : List Nat := (List.range (reqBytes q)).map (q.addr + ·)

/-- A request's service at the home L2s of this package, entered by the die of the port: the fault code or the data. -/
def State.serveReq (s : State) (die : Nat) (q : MemReq) : State × Option Nat × List Byte :=
  let l := reqAddrs q
  let reads := match q.op with | .write _ _ => false | _ => true
  let e := if reads then s.errors.find? fun e => e.l1.isNone && l.contains e.addr else none
  if l.any fun a => !s.peerMay a then (s, some 3, [])
  else if l.any s.lastingAt then (s, some 4, [])
  else if e.any (·.lasting) then
    -- an error that the retry does not cure (R402)
    let s := { s with errors := s.errors.filter fun x => some x ≠ e }
    (l.foldl (fun s a => if e.any (·.addr = a) then s.listLasting a else s) s, some 4, [])
  else
    let s := { s with errors := s.errors.filter fun x => some x ≠ e }
    match q.op with
    | .read _ =>
      let s := l.foldl (fun s a => s.homeView die a) s
      (s, none, l.map s.rd)
    | .write bs mask => ((List.zip (List.zip l bs) mask).foldl (fun s x => if x.2 then s.homeWrite die x.1.1 x.1.2 else s) s, none, [])
    | .atomic op w64 b c =>
      let (s, old) := s.atomicHome die l op w64 b.toNat c.toNat
      (s, none, bytesLE l.length old)
    | .ordered _ _ _ => (s, none, [])

/-- MEMREQ: the request is checked, performed and answered, as far as the budgets of its stacks let it (R453); an ordered arrival is
answered by its unit, which charges it. -/
def execMemreq (port : Nat) (s : State) : Res :=
  .next (match s.takeMsg port (fun m => match m with | .memReq q => s.unitsFor (reqAddrs q) | _ => false) with
    | some (.memReq q, s) =>
      let s := match q.op with | .ordered _ _ _ => s | _ => s.chargeUnits (reqAddrs q)
      let (s, fault, data) := s.serveReq (port / 5) q
      (match q.op, fault with
       | .ordered key last x, none =>
         let a : RedArrival := { die := port / 5, ctx := 1024 + q.spkg, addr := q.addr, key := key, last := last, x := x, acc := none,
                                 stalled := false, rsp := some (0, q.id, q.spkg) }
         { s with arrivals := s.arrivals ++ [a] }
       | _, _ =>
         s.sendOut q.spkg (.memRsp { id := q.id, dpkg := q.spkg, dcore := q.score, spkg := s.pkgid, fault := fault, data := data }))
    | _ => s)

/-- The response to a load: one byte of a misaligned one, which then goes on (R144); the code of a scaled element, which still needs
its scale byte; or its bytes. -/
def State.remoteLoaded (s : State) (a : Access) (p : Nat) (bs : List Byte) : State :=
  let got := fun (l : List Nat) => if a.orphan then (s, bs) else s.remoteGot a p l bs
  match a.one, a.scaleAt, a.got with
  | some i, _, _ =>
    let (s, bs) := got [a.bytes[i]?.getD 0]
    s.updAccess a.id fun a => { a with phase := .ready, one := none, part := a.part ++ [(i, bs.headD 0)] }
  | none, none, _ =>
    let (s, bs) := got a.bytes
    s.deliverAccess a { bits := loadValue a (a.withPart bs) 0 }
  | none, some x, none =>
    let (s, bs) := got a.bytes
    (s.updAccess a.id fun a => { a with got := some (w64 (natLE bs)) }).sendRemote { a with bytes := [x] } p (.read 1)
  | none, some x, some w =>
    let (s, bs) := got [x]
    s.deliverAccess a { bits := loadValue a (bytesLE a.bytes.length w.toNat) (natLE bs) }

/-- The response to an access of a lane. -/
def State.accessAnswered (s : State) (a : Access) (r : MemRsp) : State :=
  let p := a.pkg.getD 0
  match r.fault with
  | some 9 => s.faultAccess a 0x09 [w64 (a.bytes.headD 0), w64 (bits a.c.bits.toNat 0 32), w64 (natLE r.data)]
  | some c => s.faultAccess a 0x31 [w64 a.handle, w64 c, w64 (curOffset a.a.bits)]
  | none =>
    match a.instr with
    | .ld _ _ _ _ => s.remoteLoaded a p r.data
    | .st _ _ _ _ =>
      let (s, bs) := s.remoteGot a p a.bytes r.data
      let a := { a with got := some (w64 (natLE bs)) }
      (s.updAccess a.id fun _ => a).performStore a
    | .redo _ _ _ _ => s.deliverAccess a { bits := 0 }
    | i =>
      match atomicOf i with
      | some (_, _, ord, _) =>
        let s := if ord = Order.acq || ord = Order.ar then s.acquire a.core (some .gang) else s
        s.deliverAccess a { bits := if s.isDet a.ctx && r.data.isEmpty then 0 else w64 (natLE r.data) }
      | none => s.deliverAccess a { bits := 0 }

/-- The response to a request of an engine command. -/
def EngineCmd.answered (k : EngineCmd) (r : MemRsp) : EngineCmd :=
  match k.reads.find? (·.1 == r.id), k.writes.find? (·.1 == r.id) with
  | some (_, addr, p, h), _ =>
    let k := { k with reads := k.reads.filter (·.1 ≠ r.id) }
    (match r.fault with
     | some c => k.readLost c h
     | none => { k with data := k.data ++ r.data.mapIdx fun i b => (p, addr + i, b) })
  | none, some (_, row, elem, h) =>
    let k := { k with writes := k.writes.filter (·.1 ≠ r.id) }
    (match r.fault with
     | some 9 => k.refusedAt elem row
     | some c => { k with broken := k.broken ++ [(c, h, row)] }
     | none => k)
  | none, none => k

/-- MEMRSP: the response reaches its access or command; a write is then performed at gang scope (R440), or its lane faults
REMOTE_FAULT while its firing has not ended (R439). -/
def execMemrsp (port : Nat) (s : State) : Res :=
  .next (match s.takeMsg port (fun m => match m with | .memRsp _ => true | _ => false) with
    | some (.memRsp r, s) =>
      let post := (s.remoteOut.find? (·.id == r.id)).bind (·.post)
      let s : State := { s with remoteOut := s.remoteOut.filter (·.id ≠ r.id) }
      (match s.accesses.find? (fun a => a.phase = .remote r.id), post, r.fault with
       | some a, _, _ => s.accessAnswered a r
       | none, some w, some c => s.faultStore w 0x31 [w64 w.handle, w64 c, w64 w.offset]
       | none, _, _ => { s with cmds := s.cmds.map fun k => k.answered r })
    | _ => s)

/-! ### Host reads and writes (R435) -/

/-- What an access of a host port comes to: it waits, or a status with the addresses (`none` for an element out of shape)
and what a byte out of shape reads as. -/
inductive HostAccess where
  | waits
  | status (code : Nat)
  | bytes (l : List Nat)
  | outside (fill : BitVec 32) (bits : Nat)

/-- Whether every byte lies in the firmware staging buffer. -/
def inStaging (a n : Nat) : Bool := Config.stagingBuffer.1 ≤ a && a + n ≤ Config.stagingBuffer.1 + Config.stagingBuffer.2

def isReg (a : Nat) : Bool := Config.regLow ≤ a && a < Config.regTop

/-- FORM 1: translation as by an engine, without permission checks. -/
def State.hostObject (s : State) (sel : Nat) (o n : Nat) : HostAccess :=
  match s.ctx? (bits sel 0 10) with
  | none => .status 8
  | some _ =>
    if bits sel 29 35 ≠ 0 then .status 8
    else
      match s.walk (bits sel 0 10) (bits sel 10 19) with
      | .moving => .waits
      | .bad _ => .status 8
      | .use r =>
        if s.farRec r then .status 3
        else if (r.coverFor n o).any fun e => (r.coords e).isNone then
          (if r.oospol = 0 then .status 1 else .outside (if r.oospol = 1 then r.fill else 0) r.ebits)
        else
          let l := r.bytesFor n o
          match (if r.rmap = 0 then none else (granulesOf r l).find? fun g => s.granuleState r.rmap g ≠ 1) with
          | some g => .status (if s.granuleState r.rmap g = 2 then 4 else 2)
          | none => if l.any s.lastingAt then .status 4 else .bytes l

/-- FORM 0. -/
def State.hostPhysical (s : State) (a n : Nat) : HostAccess :=
  if isReg a || isReg (a + n - 1) then (if n = 8 && a % 8 = 0 then .bytes [a] else .status 0x0C)
  else if !s.isOpen && !inStaging a n then .status 3
  else .bytes ((List.range n).map (a + ·))

/-- The access a packet asks for, with its number of bytes; FORM 1 waits for bring-up too (R456). -/
def State.hostAccess (s : State) (p : HostPkt) (n : Nat) : HostAccess :=
  let arg := (hpArg p).toNat
  if bits arg 63 1 = 0 then s.hostPhysical (bits arg 0 48) n
  else if !s.isOpen then .status 3
  else s.hostObject (natLE (p.body.take 8)) (bits arg 0 44) n

/-- The cores whose windows some bytes lie in. -/
def windowCores (l : List Nat) : List Nat :=
  ((l.filter fun a => Config.winLow ≤ a && a < Config.winTop).map fun a => (a - Config.winLow) / Config.winStride).eraseDups

def State.stirIfGated (s : State) (c : Nat) : State := if (s.core c).power = .running then s else s.stir c

/-- A window access reaches its core: a clock-gated one is ungated; at a power-gated one the access waits for the wake. -/
def State.wakeFor (s : State) (l : List Nat) : State × Bool :=
  let cs := windowCores l
  (cs.foldl State.stirIfGated s, cs.any fun c => (s.core c).power = .powerGated || (s.core c).power = .waking)

/-- The bytes out of shape read as. -/
def fillBytes (fill : BitVec 32) (ebits n : Nat) : List Byte :=
  let one := if ebits = 4 then [BitVec.ofNat 8 (bits fill.toNat 0 4 * 17)] else bytesLE (ebits / 8) (fill.toNat % 2 ^ min 32 ebits)
  ((List.range n).flatMap fun _ => one).take n

/-- The device's read and write of some bytes for a host port, behind the writes queued toward their homes. -/
def State.hostRead (s : State) (l : List Nat) : State × List Byte :=
  let s := l.foldl (fun (s : State) a => s.drainBridge fun w => w.dst = homeDie a && a < Config.hbmTop) s
  (s, l.map s.rd)

def State.hostWrite (s : State) (l : List Nat) (bs : List Byte) : State :=
  (List.zip l bs).foldl (fun (s : State) x => (s.drainBridge fun w => w.dst = homeDie x.1 && x.1 < Config.hbmTop).wr x.1 x.2) s

/-- A host read that meets a planted error (R402): a cured one is counted where an object of a context is read; else the granule is
retired or the block listed, and the read ends with status 4. -/
def State.hostMeets (s : State) (p : HostPkt) (l : List Nat) : State × Bool :=
  match s.errors.find? fun e => e.l1.isNone && l.contains e.addr with
  | none => (s, false)
  | some e =>
    let s : State := { s with errors := s.errors.filter (· ≠ e) }
    let sel := natLE (p.body.take 8)
    let x := bits sel 0 10
    let h := bits sel 10 19
    match (hpArg p).getLsbD 63, e.lasting, s.walk x h with
    | true, false, _ => (s.updCtx x fun c => { c with ecclog := satInc c.ecclog }, false)
    | false, false, _ => (s, false)
    | true, true, .use r =>
      let g := (e.addr - r.base) / 2 ^ (12 + r.gran)
      (if r.rmap = 0 then s.listLasting e.addr
       else s.retire x h r.rmap g [(r.base + g * 2 ^ (12 + r.gran), 2 ^ (12 + r.gran))], true)
    | _, true, _ => (s.listLasting e.addr, true)

/-- WREAD. -/
def execWread (port : Nat) (s : State) : Res :=
  .next (match s.hostHead port 2 with
    | none => s
    | some p =>
      let n := bits (hpArg p).toNat 48 9 + 1
      let answer := fun (s : State) (st : Nat) (body : List Byte) => (s.popInbox port).toHost port 0x85 (hpCookie p) (w64 st) body
      match s.hostAccess p n with
      | .waits => s
      | .status c => answer s c []
      | .outside f e => answer s 0 (fillBytes f e n)
      | .bytes l =>
        if isReg (l.headD 0) then answer s 0 (bytesLE 8 (s.readReg (l.headD 0)))
        else
          let (s, wait) := s.wakeFor l
          if wait || !s.unitsFor l then s
          else
            match (s.chargeUnits l).hostMeets p l with
            | (s, true) => answer s 4 []
            | (s, false) =>
              let (s, bs) := s.hostRead l
              answer s 0 bs)

/-- WWRITE. -/
def execWwrite (port : Nat) (s : State) : Res :=
  .next (match s.hostHead port 3 with
    | none => s
    | some p =>
      let data := if (hpArg p).getLsbD 63 then p.body.drop 8 else p.body
      let answer := fun (s : State) (st : Nat) => (s.popInbox port).toHost port 0x86 (hpCookie p) (w64 st) []
      match s.hostAccess p data.length with
      | .waits => s
      | .status c => answer s c
      | .outside _ _ => answer s 0
      | .bytes l =>
        if isReg (l.headD 0) then answer (s.writeReg (l.headD 0) (w64 (natLE data))) 0
        else
          let (s, wait) := s.wakeFor l
          if wait || !s.unitsFor l then s else answer ((s.chargeUnits l).hostWrite l data) 0)

/-! ### Time (R443) -/

/-- The lowest root that this package knows of: itself, until an exchange has named a lower one and while that lasts. -/
def State.knownRoot (s : State) : Nat := if s.sync then min s.root s.pkgid else s.pkgid

/-- A time message goes out by a port: the root as known here, and this package's tick. -/
def State.timeSend (s : State) (port : Nat) : State :=
  let p := s.port port
  if p.state ≠ 1 || isHostPort port || 512 ≤ p.replay.length then s
  else s.frameUp port 1 [.time s.knownRoot (w64 s.tick)]

/-- TIME_EXCHANGE: a root below every known one is taken, with the port it came by as the way to it; from there on the tick is slewed
toward what comes by that port. The root itself is synchronised by any exchange. What comes otherwise, of a root above the known one or
by another way, is no exchange along the tree (DESIGN CHOICE, entry 109). -/
def execTimeExchange (port : Nat) (s : State) : Res :=
  .next (match s.takeMsg port (fun m => match m with | .time _ _ => true | _ => false) with
    | some (.time root tick, s) =>
      let off : Int := (s.tick : Int) - tick.toNat
      if root < s.knownRoot || (root = s.knownRoot && root < s.pkgid && s.rootPort = port) then
        { s with sync := true, lastTime := s.cycle, root := root, rootPort := port, offset := max (-32768) (min 32767 off),
                 slew := if off < 0 then 1 else if 0 < off then -1 else 0 }
      else if s.knownRoot = s.pkgid then { s with sync := true, lastTime := s.cycle, root := s.pkgid, offset := 0, slew := 0 }
      else s
    | _ => s)

/-- SYNC_LOSS: no exchange for 1 ms. A gang member that falls out before its tick has missed it, also where it is synchronised again by
then. -/
def execSyncLoss (s : State) : Res :=
  .next (
    if s.sync && s.lastTime + cyclesPerMs ≤ s.cycle then
      { s with
        sync := false, slew := 0
        ctxs := s.ctxs.map fun c => { c with gang := c.gang.map fun g => { g with lapsed := g.lapsed || !g.started } }
        queues := s.queues.map fun q => { q with lapsed := q.lapsed || lhGang q.header ≠ 0 } }
    else s)

end Sys2Proof.Machine
end

