-- ==== Sys2Proof/Machine/Gang.lean ====
section
/-! DEFINITION. Gangs (R441, R442): the start tick, missed ticks and loss, drovers, aligned groups, completion rounds, and
kill notices between members (R161). -/

namespace Sys2Proof.Machine

def State.updGang (s : State) (x : Nat) (f : Gang → Gang) : State := s.updCtx x fun c => { c with gang := c.gang.map f }

/-! ### Start, missed tick, loss -/

/-- A drain with GANG_TICK, naming the package that missed the tick. -/
def State.gangTick (s : State) (c : Ctx) (p tick : Nat) : State :=
  s.captureContext c.id 0x33 [w64 p, w64 tick] true

/-- The tokens that came before the start meet the fold, on each core in ascending stamp. -/
def State.presentEarly (s : State) (x : Nat) : State :=
  match s.ctx? x with
  | none => s
  | some c =>
    let mine := sortBy (·.stamp) (c.pin.filter (·.why = .early))
    let s := s.updCtx x fun c => { c with pin := c.pin.map fun p =>
      if p.why = .early then { p with why := if (c.section? p.core).isSome then .divert else .spilled } else p }
    mine.foldl (fun (s : State) p => if (c.section? p.core).isSome then s else s.represent p) s

/-- A launch that has not been admitted by its tick ends, and every member is told. -/
def State.missQueued (s : State) (k : Nat) (q : Queued) : State :=
  let g := lhGang q.header
  let tick := lhTick q.header
  let others := ((s.gangMembers (s.imageHdr q.image)).map (·.1)).filter (· ≠ s.pkgid)
  let s := others.foldl (fun (s : State) p => s.sendOut p (.control p s.pkgid g (.missed s.pkgid tick))) s
  ({ s with queues := removeAt k s.queues } : State).failLaunch q 0 4095 255 0x33 [w64 s.pkgid, w64 tick]

/-- The tick of a refused gang launch has come: every other member is told (R441). -/
def State.missRefused (s : State) (k : Nat) : State :=
  match s.refused[k]? with
  | some (g, tick, others) =>
    if tick ≤ s.tick then
      others.foldl (fun (s : State) p => s.sendOut p (.control p s.pkgid g (.missed s.pkgid tick)))
        { s with refused := removeAt k s.refused }
    else s
  | none => s

/-- Whether every other member has told its cores, which placement needs (R179, R180; entry 45). -/
def Gang.allTold (g : Gang) (me : Nat) : Bool := g.members.all fun m => m.1 = me || g.pastures.any (·.1 == m.1)

/-- GANG_START of context `ctx`; from 1,024 on, of the queued launch `ctx` − 1,024, and from 8,192 on of the refused launch
`ctx` − 8,192, which have then missed their tick. -/
def execGangStart (ctx : Nat) (s : State) : Res :=
  .next (
    if 8192 ≤ ctx then s.missRefused (ctx - 8192)
    else if 1024 ≤ ctx then
      match s.queues[ctx - 1024]? with
      | some q => if lhGang q.header ≠ 0 && lhTick q.header ≤ s.tick then s.missQueued (ctx - 1024) q else s
      | none => s
    else
      match s.ctx? ctx with
      | none => s
      | some c =>
        match c.gang with
        | none => s
        | some g =>
          if g.started || c.draining.isSome || s.tick < g.tick || !g.allTold s.pkgid then s
          else if !s.sync || g.lapsed then (s.tellOthers ctx (.missed s.pkgid g.tick)).gangTick c s.pkgid g.tick
          else ((s.injectEntries ctx).updGang ctx fun g => { g with started := true }).presentEarly ctx)

/-! ### Drovers, aligned groups and completion rounds -/

/-- Every rank of a gang satisfies a test. -/
def Gang.every (g : Gang) (p : Nat → Bool) : Bool := (List.range g.members.length).all p

/-- Rank 0 closes a round that every member has reported. -/
def State.closeRound (s : State) (x : Nat) : State :=
  match (s.ctx? x).bind (·.gang) with
  | none => s
  | some g =>
    if !g.every fun r => g.reports.any (·.1 == r) then s
    else
      let sum := fun (f : Nat × Nat × Nat × Nat → Nat) => g.reports.foldl (fun n t => n + f t) 0
      let totals := (sum (·.2.2.1), sum (·.2.2.2))
      let ok := g.reports.all (·.2.1 == 0) && totals.1 = totals.2
      if ok && g.lastRound = some totals then
        (s.tellOthers x .complete).updGang x fun g => { g with complete := true, reports := [] }
      else s.updGang x fun g => { g with lastRound := if ok then some totals else none, reports := [] }

/-- Rank 0 learns of its own components, announces drovers and aligned groups, and opens a completion round. -/
def State.leadGang (s : State) (c : Ctx) (g : Gang) : State :=
  let heard := g.heard ++ (c.compList.filter c.holdsHere).map fun k => (0, k)
  let aligned := (g.alignedHeard.filter (·.1 ≠ 0)) ++ (c.compList.filter (s.alignedHere c)).map fun k => (0, k)
  let drovers := c.compList.filter fun k => g.every fun r => heard.contains (r, k)
  let groups := c.compList.filter fun k => g.every fun r => aligned.contains (r, k)
  let s := (drovers.filter fun k => !g.drovers.contains k).foldl (fun s k => s.tellOthers c.id (.droverAll k)) s
  let s := (c.compList.filter fun k => groups.contains k != g.alignedAll.contains k).foldl
    (fun s k => s.tellOthers c.id (.alignedAll k (groups.contains k))) s
  let s := s.updGang c.id fun g => { g with heard := heard.eraseDups, alignedHeard := aligned, drovers := drovers, alignedAll := groups }
  if !g.reports.isEmpty || g.complete then s
  else
    let s := (s.tellOthers c.id (.report 0 0 0 0)).updGang c.id fun g => { g with reports := [(0, s.occupancy c, g.sent, g.received)] }
    s.closeRound c.id

/-- A member tells rank 0 which components hold their drover and where every instance waits in an aligned group. -/
def State.reportGang (s : State) (c : Ctx) (g : Gang) : State :=
  let lead := (g.members.headD (s.pkgid, 0)).1
  let tell := fun (s : State) (m : GangMsg) => s.sendOut lead (.control lead s.pkgid g.number m)
  let new := (c.compList.filter c.holdsHere).filter fun k => !g.heard.contains (g.rank, k)
  let changed := c.compList.filter fun k => s.alignedHere c k != g.alignedHeard.contains (g.rank, k)
  let now := (c.compList.filter (s.alignedHere c)).map fun k => (g.rank, k)
  let s1 := new.foldl (fun s k => tell s (.drover g.rank k)) s
  let s2 := changed.foldl (fun s1 k => tell s1 (.aligned g.rank k (s.alignedHere c k))) s1
  s2.updGang c.id fun g => { g with heard := g.heard ++ new.map (fun k => (g.rank, k)), alignedHeard := now }

def State.gangReport (s : State) (x : Nat) : State :=
  match s.ctx? x with
  | none => s
  | some c =>
    match c.gang with
    | none => s
    | some g => if c.draining.isSome || !g.started then s else if g.rank = 0 then s.leadGang c g else s.reportGang c g

/-! ### CONTROL messages -/

/-- A member's cores, told before this one has a context of the gang. -/
def State.noteCores (s : State) (g p : Nat) (l : List Nat) : State :=
  { s with gangCores := (s.gangCores.filter fun t => !(t.1 = g && t.2.1 = p)) ++ [(g, p, l)] }

/-- A message about a gang that has no context here: a member's cores are noted, loss and missed ticks end a launch that waits in
a queue. -/
def State.controlQueued (s : State) (g : Nat) (m : GangMsg) : State :=
  match m with
  | .pasture p l => s.noteCores g p l
  | m =>
  match indexOf? (fun q : Queued => lhGang q.header = g) s.queues 0 with
  | none => s
  | some k =>
    match s.queues[k]? with
    | none => s
    | some q =>
      let s1 : State := { s with queues := removeAt k s.queues }
      match m with
      | .lost p code => s1.failLaunch q 0 4095 255 0x32 [w64 p, w64 code]
      | .missed p tick => s1.failLaunch q 0 4095 255 0x33 [w64 p, w64 tick]
      | _ => s

/-- A message about a live gang. Loss and missed ticks of a draining member are counted (R444). -/
def State.controlLive (s : State) (c : Ctx) (g : Gang) (m : GangMsg) : State :=
  let count := s.updCtx c.id fun c => { c with fcount := satInc c.fcount }
  match m with
  | .lost p code => if c.draining.isSome then count else s.gangLost c p code
  | .missed p tick => if c.draining.isSome then count else s.gangTick c p tick
  | .drover r k => s.updGang c.id fun g => { g with heard := (g.heard ++ [(r, k)]).eraseDups }
  | .droverAll k => s.updGang c.id fun g => { g with drovers := (g.drovers ++ [k]).eraseDups }
  | .aligned r k yes => s.updGang c.id fun g => { g with
      alignedHeard := (g.alignedHeard.filter (· ≠ (r, k))) ++ if yes then [(r, k)] else [] }
  | .alignedAll k yes => s.updGang c.id fun g => { g with alignedAll := (g.alignedAll.filter (· ≠ k)) ++ if yes then [k] else [] }
  | .report r tree sent received =>
    if g.rank = 0 then
      (s.updGang c.id fun g => { g with reports := g.reports ++ [(r, tree, sent, received)] }).closeRound c.id
    else
      let lead := (g.members.headD (s.pkgid, 0)).1
      s.sendOut lead (.control lead s.pkgid g.number (.report g.rank (s.occupancy c) g.sent g.received))
  | .complete => s.updGang c.id fun g => { g with complete := true }
  | .kill hpkg home dom act h =>
    { s with notices := s.notices ++ c.pasture.map fun k =>
        { core := k, home := home, ctx := c.id, dom := dom, act := act, h := h, hpkg := hpkg } }
  | .killAck _ home dom act => s.takeAck home c.id dom act
  | .withdraw p home dom act => s.withdraw c.id home dom act p
  | .pasture p l => s.updGang c.id fun g => { g with pastures := (g.pastures.filter (·.1 ≠ p)) ++ [(p, l)] }
  | .eldestAsk p core stamp home dom act l =>
    s.sendOut p (.control p s.pkgid g.number (.eldestSay core stamp (s.isBase home c.id dom act l)))
  | .eldestSay core stamp yes =>
    { s with eldest := s.eldest.map fun e =>
        if e.1.ctx = c.id && e.1.core = core && e.1.arrival = stamp && e.1.asked then (e.1, some yes) else e }
  | .groupAsk p home dom act l =>
    let mask := (List.range 32).foldl (fun n i => if s.closedHere c.id home dom act (l + i) then n + 2 ^ i else n) 0
    s.sendOut p (.control p s.pkgid g.number (.groupSay s.pkgid home dom act l (BitVec.ofNat 32 mask)))
  | .groupSay p home dom act l mask =>
    s.updGang c.id fun g => { g with never :=
      (g.never.filter fun n => !(n.1 = p && n.2.1 = home && n.2.2.1 = dom && n.2.2.2.1 = act && n.2.2.2.2.1 = l)) ++
        [(p, home, dom, act, l, mask)] }
  | .entered id => { s with asking := s.asking.filter (·.1 ≠ id) }
  | .released p id => { s with paid := s.paid ++ [(p, id)] }

/-- GANG_CONTROL. -/
def execGangControl (port : Nat) (s : State) : Res :=
  .next (match s.takeMsg port (fun m => match m with | .control _ _ _ _ => true | _ => false) with
    | some (.control _ _ n m, s) =>
      (match s.ctxOfGang n with
       | none => s.controlQueued n m
       | some c => match c.gang with
         | some g => s.controlLive c g m
         | none => s)
    | _ => s)

end Sys2Proof.Machine
end

