-- ==== Sys2Proof/Machine/Integer.lean ====
section
/-! DEFINITION. The integer, bit, predicate and packing instructions (R72–R86): each a value of its latches. -/

namespace Sys2Proof.Machine

/-- Wrapping integer add (R74). -/
def execAdd (pm : Pm) (ty : Ity) (t0 : Target) (t1 : Target) (s : State) : Res :=
  valueOp pm readsAB t0 t1 (fun a b _ _ => both (addVal ty a b)) s

/-- Saturating integer add (R74). -/
def execAddSat (pm : Pm) (ty : Ity) (t0 : Target) (t1 : Target) (s : State) : Res :=
  valueOp pm readsAB t0 t1 (fun a b _ _ => both (addSatVal ty a b)) s

/-- Wrapping integer subtract (R74). -/
def execSub (pm : Pm) (ty : Ity) (t0 : Target) (t1 : Target) (s : State) : Res :=
  valueOp pm readsAB t0 t1 (fun a b _ _ => both (subVal ty a b)) s

/-- Saturating integer subtract (R74). -/
def execSubSat (pm : Pm) (ty : Ity) (t0 : Target) (t1 : Target) (s : State) : Res :=
  valueOp pm readsAB t0 t1 (fun a b _ _ => both (subSatVal ty a b)) s

/-- Adds a sign-extended 13-bit immediate to A on 64 bits (R75). -/
def execAddi (pm : Pm) (t0 : Target) (imm : BitVec 13) (s : State) : Res :=
  valueOp pm readsA t0 .none (fun a _ _ _ => both (a + simm13 imm)) s

/-- Integer multiply, low w bits (R74). -/
def execMul (pm : Pm) (ty : Ity) (t0 : Target) (t1 : Target) (s : State) : Res :=
  valueOp pm readsAB t0 t1 (fun a b _ _ => both (mulVal ty a b)) s

/-- Integer multiply, high w bits (R74). -/
def execMulh (pm : Pm) (ty : Ity) (t0 : Target) (t1 : Target) (s : State) : Res :=
  valueOp pm readsAB t0 t1 (fun a b _ _ => both (mulhVal ty a b)) s

/-- Integer multiply-add a × b + c (R74). -/
def execMadd (pm : Pm) (ty : Ity) (t0 : Target) (t1 : Target) (s : State) : Res :=
  valueOp pm readsABC t0 t1 (fun a b c _ => both (maddVal ty a b c)) s

/-- Integer divide, giving the quotient on T0 and the remainder on T1 (R76). -/
def execDiv (pm : Pm) (ty : Ity) (t0 : Target) (t1 : Target) (s : State) : Res :=
  valueOp pm readsAB t0 t1 (fun a b _ _ => divVal ty a b) s

/-- Integer remainder (R76). -/
def execRem (pm : Pm) (ty : Ity) (t0 : Target) (t1 : Target) (s : State) : Res :=
  valueOp pm readsAB t0 t1 (fun a b _ _ => both (remVal ty a b)) s

/-- Integer minimum (R74). -/
def execMin (pm : Pm) (ty : Ity) (t0 : Target) (t1 : Target) (s : State) : Res :=
  valueOp pm readsAB t0 t1 (fun a b _ _ => both (minVal ty a b)) s

/-- Integer maximum (R74). -/
def execMax (pm : Pm) (ty : Ity) (t0 : Target) (t1 : Target) (s : State) : Res :=
  valueOp pm readsAB t0 t1 (fun a b _ _ => both (maxVal ty a b)) s

/-- Signed absolute value (R74). -/
def execAbs (pm : Pm) (ty : Ity) (t0 : Target) (t1 : Target) (s : State) : Res :=
  valueOp pm readsA t0 t1 (fun a _ _ _ => both (absVal ty a)) s

/-- Integer negation (R74). -/
def execNeg (pm : Pm) (ty : Ity) (t0 : Target) (t1 : Target) (s : State) : Res :=
  valueOp pm readsA t0 t1 (fun a _ _ _ => both (negVal ty a)) s

/-- Bitwise AND on 64 bits (R77). -/
def execAnd (pm : Pm) (t0 : Target) (t1 : Target) (s : State) : Res :=
  valueOp pm readsAB t0 t1 (fun a b _ _ => both (a &&& b)) s

/-- Bitwise OR on 64 bits (R77). -/
def execOr (pm : Pm) (t0 : Target) (t1 : Target) (s : State) : Res :=
  valueOp pm readsAB t0 t1 (fun a b _ _ => both (a ||| b)) s

/-- Bitwise XOR on 64 bits (R77). -/
def execXor (pm : Pm) (t0 : Target) (t1 : Target) (s : State) : Res :=
  valueOp pm readsAB t0 t1 (fun a b _ _ => both (a ^^^ b)) s

/-- A AND NOT B (R77). -/
def execAndn (pm : Pm) (t0 : Target) (t1 : Target) (s : State) : Res :=
  valueOp pm readsAB t0 t1 (fun a b _ _ => both (a &&& ~~~b)) s

/-- Bitwise NOT of A (R77). -/
def execNot (pm : Pm) (t0 : Target) (t1 : Target) (s : State) : Res :=
  valueOp pm readsA t0 t1 (fun a _ _ _ => both (~~~a)) s

/-- Variable shift left (R78). -/
def execShl (pm : Pm) (w : Width) (t0 : Target) (t1 : Target) (s : State) : Res :=
  valueOp pm readsAB t0 t1 (fun a b _ _ => both (shlVal w a b.toNat)) s

/-- Variable logical shift right (R78). -/
def execShr (pm : Pm) (w : Width) (t0 : Target) (t1 : Target) (s : State) : Res :=
  valueOp pm readsAB t0 t1 (fun a b _ _ => both (shrVal w a b.toNat)) s

/-- Variable arithmetic shift right (R78). -/
def execSar (pm : Pm) (w : Width) (t0 : Target) (t1 : Target) (s : State) : Res :=
  valueOp pm readsAB t0 t1 (fun a b _ _ => both (sarVal w a b.toNat)) s

/-- Variable rotate left (R78). -/
def execRotl (pm : Pm) (w : Width) (t0 : Target) (t1 : Target) (s : State) : Res :=
  valueOp pm readsAB t0 t1 (fun a b _ _ => both (rotlVal w a b.toNat)) s

/-- Immediate shift left (R79). -/
def execShli (pm : Pm) (t0 : Target) (w : Width) (amt : BitVec 6) (s : State) : Res :=
  valueOp pm readsA t0 .none (fun a _ _ _ => both (shlVal w a amt.toNat)) s

/-- Immediate logical shift right (R79). -/
def execShri (pm : Pm) (t0 : Target) (w : Width) (amt : BitVec 6) (s : State) : Res :=
  valueOp pm readsA t0 .none (fun a _ _ _ => both (shrVal w a amt.toNat)) s

/-- Immediate arithmetic shift right (R79). -/
def execSari (pm : Pm) (t0 : Target) (w : Width) (amt : BitVec 6) (s : State) : Res :=
  valueOp pm readsA t0 .none (fun a _ _ _ => both (sarVal w a amt.toNat)) s

/-- Immediate rotate left (R79). -/
def execRotli (pm : Pm) (t0 : Target) (w : Width) (amt : BitVec 6) (s : State) : Res :=
  valueOp pm readsA t0 .none (fun a _ _ _ => both (rotlVal w a amt.toNat)) s

/-- Counts leading zeros (R80). -/
def execClz (pm : Pm) (w : Width) (t0 : Target) (t1 : Target) (s : State) : Res :=
  valueOp pm readsA t0 t1 (fun a _ _ _ => both (clzVal w a)) s

/-- Counts trailing zeros (R80). -/
def execCtz (pm : Pm) (w : Width) (t0 : Target) (t1 : Target) (s : State) : Res :=
  valueOp pm readsA t0 t1 (fun a _ _ _ => both (ctzVal w a)) s

/-- Counts set bits (R80). -/
def execPopc (pm : Pm) (w : Width) (t0 : Target) (t1 : Target) (s : State) : Res :=
  valueOp pm readsA t0 t1 (fun a _ _ _ => both (popcVal w a)) s

/-- Reverses the bits of the width (R80). -/
def execBrev (pm : Pm) (w : Width) (t0 : Target) (t1 : Target) (s : State) : Res :=
  valueOp pm readsA t0 t1 (fun a _ _ _ => both (brevVal w a)) s

/-- Reverses the bytes of the width (R80). -/
def execBswap (pm : Pm) (w : Width) (t0 : Target) (t1 : Target) (s : State) : Res :=
  valueOp pm readsA t0 t1 (fun a _ _ _ => both (bswapVal w a)) s

/-- Extracts a bit field of A, signed or unsigned (R81). -/
def execBfx (pm : Pm) (sg : Bool) (t0 : Target) (t1 : Target) (s : State) : Res :=
  valueOp pm readsAB t0 t1 (fun a b _ _ => both (bfxVal sg a b)) s

/-- Inserts the low bits of B into a field of A (R81). -/
def execBfi (pm : Pm) (t0 : Target) (t1 : Target) (s : State) : Res :=
  valueOp pm readsABC t0 t1 (fun a b c _ => both (bfiVal a b c)) s

/-- Sign-extends from the source width (R82). -/
def execSext (pm : Pm) (w : Width) (t0 : Target) (t1 : Target) (s : State) : Res :=
  valueOp pm readsA t0 t1 (fun a _ _ _ => both (sextVal w a)) s

/-- Zero-extends from the source width (R82). -/
def execZext (pm : Pm) (w : Width) (t0 : Target) (t1 : Target) (s : State) : Res :=
  valueOp pm readsA t0 t1 (fun a _ _ _ => both (zextVal w a)) s

/-- Compares A and B on 64 bits; the condition goes to T0 and its complement to T1 (R83). -/
def execCmp (pm : Pm) (c : Cond) (t0 : Target) (t1 : Target) (s : State) : Res :=
  valueOp pm readsAB t0 t1 (fun a b _ _ => withComplement (condHolds c a b)) s

/-- Compares A with a 10-bit immediate (R83). -/
def execCmpi (pm : Pm) (t0 : Target) (c : Cond) (imm : BitVec 10) (s : State) : Res :=
  valueOp pm readsA t0 .none (fun a _ _ _ => both (boolWord (condHolds c a (simm10 imm)))) s

/-- Delivers A if P is true, and B otherwise (R84). -/
def execSel (pm : Pm) (t0 : Target) (t1 : Target) (s : State) : Res :=
  valueOp pm readsAB t0 t1 (fun a b _ p => both (if p then a else b)) s

/-- A[0] AND B[0] (R85). -/
def execPand (pm : Pm) (t0 : Target) (t1 : Target) (s : State) : Res :=
  valueOp pm readsAB t0 t1 (fun a b _ _ => both (boolWord (bit0 a && bit0 b))) s

/-- A[0] OR B[0] (R85). -/
def execPor (pm : Pm) (t0 : Target) (t1 : Target) (s : State) : Res :=
  valueOp pm readsAB t0 t1 (fun a b _ _ => both (boolWord (bit0 a || bit0 b))) s

/-- A[0] XOR B[0] (R85). -/
def execPxor (pm : Pm) (t0 : Target) (t1 : Target) (s : State) : Res :=
  valueOp pm readsAB t0 t1 (fun a b _ _ => both (boolWord (bit0 a != bit0 b))) s

/-- NOT A[0] (R85). -/
def execPnot (pm : Pm) (t0 : Target) (t1 : Target) (s : State) : Res :=
  valueOp pm readsA t0 t1 (fun a _ _ _ => both (boolWord (!bit0 a))) s

/-- Packs the low halves of A and B (R86). -/
def execPack2 (pm : Pm) (h : Half) (t0 : Target) (t1 : Target) (s : State) : Res :=
  valueOp pm readsAB t0 t1 (fun a b _ _ => both (pack2Val h a b)) s

/-- Splits A into its low half on T0 and its high half on T1 (R86). -/
def execUnpk (pm : Pm) (h : Half) (t0 : Target) (t1 : Target) (s : State) : Res :=
  valueOp pm readsA t0 t1 (fun a _ _ _ => unpkVal h a) s

end Sys2Proof.Machine
end

