-- ==== Sys2Proof/Machine/Sends.lean ====
section
/-! DEFINITION. The send-class instructions (R129–R137, R200–R209). Executing one checks its tag or continuation, and
faults the lane there; what it emits is formed from its latches when the firing ends (Firing.lean, R36, R387). -/

namespace Sys2Proof.Machine

/-- A send: a check that fails faults the lane at the send (R137, R154); else it has executed. -/
def sendOp (i : Instr) (pm : Pm) (s : State) : Res :=
  effectOp pm .none .none (fun s fl j ln k =>
    match s.ctx? fl.ctx with
    | none => s
    | some c =>
      match s.emits c (senderOf fl ln) i k with
      | .ok _ => s.completeLane ln.fid j .none .none Val.zero Val.zero
      | .error (code, d) => s.faultLane ln.fid j code d) s

def execSend (pm : Pm) (tm : Tm) (slot : BitVec 3) (blk : BitVec 12) (rel : Option Scope) (close : Bool) (s : State) : Res :=
  sendOp (.send pm tm slot blk rel close) pm s

def execSendx (pm : Pm) (rel : Option Scope) (close : Bool) (s : State) : Res :=
  sendOp (.sendx pm rel close) pm s

def execSendv (pm : Pm) (tm : Tm) (slot : BitVec 3) (blk : BitVec 12) (rel : Option Scope) (close : Bool) (s : State) : Res :=
  sendOp (.sendv pm tm slot blk rel close) pm s

/-- `steer` is always performed (R134). -/
def execSteer (tm : Tm) (slot : BitVec 3) (blk : BitVec 12) (rel : Option Scope) (void : Bool) (s : State) : Res :=
  sendOp (.steer tm slot blk rel void) .always s

/-- The TM code a continuation holds (R135). -/
def tmCode : Tm → Nat
  | .same => 0 | .next => 1 | .enter => 2 | .leave => 4 | .expl => 5

/-- `cont` writes its continuation to a lane register (R136). -/
def execCont (pm : Pm) (tm : Tm) (slot : BitVec 3) (blk : BitVec 12) (x : BitVec 4) (s : State) : Res :=
  laneOp pm (.reg (x.zeroExtend 6)) .none (fun _ _ _ ln _ =>
    ({ bits := contValue (tmCode tm) slot.toNat blk.toNat ln.tag }, Val.zero)) s

def execEnter (pm : Pm) (slot : BitVec 3) (blk : BitVec 12) (rel : Option Scope) (close : Bool) (s : State) : Res :=
  sendOp (.enter pm slot blk rel close) pm s

def execEntermAnd (pm : Pm) (slot : BitVec 3) (blk : BitVec 12) (rel : Option Scope) (close : Bool) (s : State) : Res :=
  sendOp (.entermAnd pm slot blk rel close) pm s

def execEntermOr (pm : Pm) (slot : BitVec 3) (blk : BitVec 12) (rel : Option Scope) (close : Bool) (s : State) : Res :=
  sendOp (.entermOr pm slot blk rel close) pm s

def execNext (pm : Pm) (slot : BitVec 3) (blk : BitVec 12) (rel : Option Scope) (close : Bool) (s : State) : Res :=
  sendOp (.next pm slot blk rel close) pm s

def execLeave (pm : Pm) (slot : BitVec 3) (blk : BitVec 12) (rel : Option Scope) (close : Bool) (s : State) : Res :=
  sendOp (.leave pm slot blk rel close) pm s

/-- `dkill` delivers A unchanged when it executes; its request is made at the end of the firing (R208). -/
def execDkill (pm : Pm) (t0 t1 : Target) (s : State) : Res :=
  valueOp pm readsA t0 t1 (fun a _ _ _ => both a) s

end Sys2Proof.Machine
end

