-- ==== Sys2Proof/Machine/Dispatch.lean ====
section
/-! DEFINITION. Dispatch: one arm per constructor of `Instr`, each one call of its meaning. -/

namespace Sys2Proof.Machine

def exec (i : Instr) (s : State) : Host.Outcome State Fault Refusal :=
  match i with
  | .ldf pm n t0 t1 => Sys2Proof.Machine.execLdf pm n t0 t1 s
  | .ldfv pm n t0 t1 => Sys2Proof.Machine.execLdfv pm n t0 t1 s
  | .ldk pm n t0 t1 => Sys2Proof.Machine.execLdk pm n t0 t1 s
  | .getx pm t0 x => Sys2Proof.Machine.execGetx pm t0 x s
  | .gets pm sr t0 => Sys2Proof.Machine.execGets pm sr t0 s
  | .movi pm t0 imm => Sys2Proof.Machine.execMovi pm t0 imm s
  | .movhi pm t0 imm => Sys2Proof.Machine.execMovhi pm t0 imm s
  | .nop pm t0 t1 => Sys2Proof.Machine.execNop pm t0 t1 s
  | .send pm tm slot blk rel close => Sys2Proof.Machine.execSend pm tm slot blk rel close s
  | .sendx pm rel close => Sys2Proof.Machine.execSendx pm rel close s
  | .sendv pm tm slot blk rel close => Sys2Proof.Machine.execSendv pm tm slot blk rel close s
  | .steer tm slot blk rel void => Sys2Proof.Machine.execSteer tm slot blk rel void s
  | .cont pm tm slot blk x => Sys2Proof.Machine.execCont pm tm slot blk x s
  | .enter pm slot blk rel close => Sys2Proof.Machine.execEnter pm slot blk rel close s
  | .entermAnd pm slot blk rel close => Sys2Proof.Machine.execEntermAnd pm slot blk rel close s
  | .entermOr pm slot blk rel close => Sys2Proof.Machine.execEntermOr pm slot blk rel close s
  | .next pm slot blk rel close => Sys2Proof.Machine.execNext pm slot blk rel close s
  | .leave pm slot blk rel close => Sys2Proof.Machine.execLeave pm slot blk rel close s
  | .dkill pm t0 t1 => Sys2Proof.Machine.execDkill pm t0 t1 s
  | .spawn pm t0 t1 => Sys2Proof.Machine.execSpawn pm t0 t1 s
  | .add pm ty t0 t1 => Sys2Proof.Machine.execAdd pm ty t0 t1 s
  | .addSat pm ty t0 t1 => Sys2Proof.Machine.execAddSat pm ty t0 t1 s
  | .sub pm ty t0 t1 => Sys2Proof.Machine.execSub pm ty t0 t1 s
  | .subSat pm ty t0 t1 => Sys2Proof.Machine.execSubSat pm ty t0 t1 s
  | .addi pm t0 imm => Sys2Proof.Machine.execAddi pm t0 imm s
  | .mul pm ty t0 t1 => Sys2Proof.Machine.execMul pm ty t0 t1 s
  | .mulh pm ty t0 t1 => Sys2Proof.Machine.execMulh pm ty t0 t1 s
  | .madd pm ty t0 t1 => Sys2Proof.Machine.execMadd pm ty t0 t1 s
  | .div pm ty t0 t1 => Sys2Proof.Machine.execDiv pm ty t0 t1 s
  | .rem pm ty t0 t1 => Sys2Proof.Machine.execRem pm ty t0 t1 s
  | .min pm ty t0 t1 => Sys2Proof.Machine.execMin pm ty t0 t1 s
  | .max pm ty t0 t1 => Sys2Proof.Machine.execMax pm ty t0 t1 s
  | .abs pm ty t0 t1 => Sys2Proof.Machine.execAbs pm ty t0 t1 s
  | .neg pm ty t0 t1 => Sys2Proof.Machine.execNeg pm ty t0 t1 s
  | .and pm t0 t1 => Sys2Proof.Machine.execAnd pm t0 t1 s
  | .or pm t0 t1 => Sys2Proof.Machine.execOr pm t0 t1 s
  | .xor pm t0 t1 => Sys2Proof.Machine.execXor pm t0 t1 s
  | .andn pm t0 t1 => Sys2Proof.Machine.execAndn pm t0 t1 s
  | .not pm t0 t1 => Sys2Proof.Machine.execNot pm t0 t1 s
  | .shl pm w t0 t1 => Sys2Proof.Machine.execShl pm w t0 t1 s
  | .shr pm w t0 t1 => Sys2Proof.Machine.execShr pm w t0 t1 s
  | .sar pm w t0 t1 => Sys2Proof.Machine.execSar pm w t0 t1 s
  | .rotl pm w t0 t1 => Sys2Proof.Machine.execRotl pm w t0 t1 s
  | .shli pm t0 w amt => Sys2Proof.Machine.execShli pm t0 w amt s
  | .shri pm t0 w amt => Sys2Proof.Machine.execShri pm t0 w amt s
  | .sari pm t0 w amt => Sys2Proof.Machine.execSari pm t0 w amt s
  | .rotli pm t0 w amt => Sys2Proof.Machine.execRotli pm t0 w amt s
  | .clz pm w t0 t1 => Sys2Proof.Machine.execClz pm w t0 t1 s
  | .ctz pm w t0 t1 => Sys2Proof.Machine.execCtz pm w t0 t1 s
  | .popc pm w t0 t1 => Sys2Proof.Machine.execPopc pm w t0 t1 s
  | .brev pm w t0 t1 => Sys2Proof.Machine.execBrev pm w t0 t1 s
  | .bswap pm w t0 t1 => Sys2Proof.Machine.execBswap pm w t0 t1 s
  | .bfx pm sg t0 t1 => Sys2Proof.Machine.execBfx pm sg t0 t1 s
  | .bfi pm t0 t1 => Sys2Proof.Machine.execBfi pm t0 t1 s
  | .sext pm w t0 t1 => Sys2Proof.Machine.execSext pm w t0 t1 s
  | .zext pm w t0 t1 => Sys2Proof.Machine.execZext pm w t0 t1 s
  | .cmp pm c t0 t1 => Sys2Proof.Machine.execCmp pm c t0 t1 s
  | .cmpi pm t0 c imm => Sys2Proof.Machine.execCmpi pm t0 c imm s
  | .sel pm t0 t1 => Sys2Proof.Machine.execSel pm t0 t1 s
  | .pand pm t0 t1 => Sys2Proof.Machine.execPand pm t0 t1 s
  | .por pm t0 t1 => Sys2Proof.Machine.execPor pm t0 t1 s
  | .pxor pm t0 t1 => Sys2Proof.Machine.execPxor pm t0 t1 s
  | .pnot pm t0 t1 => Sys2Proof.Machine.execPnot pm t0 t1 s
  | .pack2 pm h t0 t1 => Sys2Proof.Machine.execPack2 pm h t0 t1 s
  | .unpk pm h t0 t1 => Sys2Proof.Machine.execUnpk pm h t0 t1 s
  | .fadd pm rm ty t0 t1 => Sys2Proof.Machine.execFadd pm rm ty t0 t1 s
  | .fsub pm rm ty t0 t1 => Sys2Proof.Machine.execFsub pm rm ty t0 t1 s
  | .fmul pm rm ty t0 t1 => Sys2Proof.Machine.execFmul pm rm ty t0 t1 s
  | .ffma pm rm ty t0 t1 => Sys2Proof.Machine.execFfma pm rm ty t0 t1 s
  | .fmin pm ty t0 t1 => Sys2Proof.Machine.execFmin pm ty t0 t1 s
  | .fmax pm ty t0 t1 => Sys2Proof.Machine.execFmax pm ty t0 t1 s
  | .fabs pm ty t0 t1 => Sys2Proof.Machine.execFabs pm ty t0 t1 s
  | .fneg pm ty t0 t1 => Sys2Proof.Machine.execFneg pm ty t0 t1 s
  | .fcmp pm c ty t0 t1 => Sys2Proof.Machine.execFcmp pm c ty t0 t1 s
  | .fclass pm ty t0 t1 => Sys2Proof.Machine.execFclass pm ty t0 t1 s
  | .fdiv pm rm ty t0 t1 => Sys2Proof.Machine.execFdiv pm rm ty t0 t1 s
  | .fsqrt pm rm ty t0 t1 => Sys2Proof.Machine.execFsqrt pm rm ty t0 t1 s
  | .frcpe pm t0 t1 => Sys2Proof.Machine.execFrcpe pm t0 t1 s
  | .frsqe pm t0 t1 => Sys2Proof.Machine.execFrsqe pm t0 t1 s
  | .fexp2 pm t0 t1 => Sys2Proof.Machine.execFexp2 pm t0 t1 s
  | .flog2 pm t0 t1 => Sys2Proof.Machine.execFlog2 pm t0 t1 s
  | .fsin pm t0 t1 => Sys2Proof.Machine.execFsin pm t0 t1 s
  | .fcos pm t0 t1 => Sys2Proof.Machine.execFcos pm t0 t1 s
  | .ftanh pm t0 t1 => Sys2Proof.Machine.execFtanh pm t0 t1 s
  | .fround pm rm ty t0 t1 => Sys2Proof.Machine.execFround pm rm ty t0 t1 s
  | .cvt rm pm sat dst src t0 => Sys2Proof.Machine.execCvt rm pm sat dst src t0 s
  | .cvtsr pm sat dst src t0 => Sys2Proof.Machine.execCvtsr pm sat dst src t0 s
  | .hadd2 pm rm ty t0 t1 => Sys2Proof.Machine.execHadd2 pm rm ty t0 t1 s
  | .hmul2 pm rm ty t0 t1 => Sys2Proof.Machine.execHmul2 pm rm ty t0 t1 s
  | .hfma2 pm rm ty t0 t1 => Sys2Proof.Machine.execHfma2 pm rm ty t0 t1 s
  | .hmax2 pm ty t0 t1 => Sys2Proof.Machine.execHmax2 pm ty t0 t1 s
  | .dot4 pm ty t0 t1 => Sys2Proof.Machine.execDot4 pm ty t0 t1 s
  | .shfl pm t0 t1 => Sys2Proof.Machine.execShfl pm t0 t1 s
  | .shfx pm t0 t1 => Sys2Proof.Machine.execShfx pm t0 t1 s
  | .shup pm t0 t1 => Sys2Proof.Machine.execShup pm t0 t1 s
  | .shdn pm t0 t1 => Sys2Proof.Machine.execShdn pm t0 t1 s
  | .ballot pm t0 t1 => Sys2Proof.Machine.execBallot pm t0 t1 s
  | .vany pm t0 t1 => Sys2Proof.Machine.execVany pm t0 t1 s
  | .vall pm t0 t1 => Sys2Proof.Machine.execVall pm t0 t1 s
  | .scan pm op t0 t1 => Sys2Proof.Machine.execScan pm op t0 t1 s
  | .redl pm op t0 t1 => Sys2Proof.Machine.execRedl pm op t0 t1 s
  | .bcast pm t0 t1 => Sys2Proof.Machine.execBcast pm t0 t1 s
  | .curs pm d t0 t1 => Sys2Proof.Machine.execCurs pm d t0 t1 s
  | .cursi pm t0 d imm => Sys2Proof.Machine.execCursi pm t0 d imm s
  | .ld pm w t0 t1 => Sys2Proof.Machine.execLd pm w t0 t1 s
  | .st pm w t0 t1 => Sys2Proof.Machine.execSt pm w t0 t1 s
  | .ldsp pm w t0 t1 => Sys2Proof.Machine.execLdsp pm w t0 t1 s
  | .stsp pm w t0 t1 => Sys2Proof.Machine.execStsp pm w t0 t1 s
  | .lda pm w t0 t1 => Sys2Proof.Machine.execLda pm w t0 t1 s
  | .sta pm w t0 t1 => Sys2Proof.Machine.execSta pm w t0 t1 s
  | .atom pm op t0 w64 ord sc => Sys2Proof.Machine.execAtom pm op t0 w64 ord sc s
  | .cas pm t0 w64 ord sc => Sys2Proof.Machine.execCas pm t0 w64 ord sc s
  | .fatom pm op t0 ord sc => Sys2Proof.Machine.execFatom pm op t0 ord sc s
  | .redo pm t0 relOrd sc => Sys2Proof.Machine.execRedo pm t0 relOrd sc s
  | .fence pm sc t0 t1 => Sys2Proof.Machine.execFence pm sc t0 t1 s
  | .pref pm lv t0 t1 => Sys2Proof.Machine.execPref pm lv t0 t1 s
  | .hqry pm q t0 t1 => Sys2Proof.Machine.execHqry pm q t0 t1 s
  | .arrive pm t0 t1 => Sys2Proof.Machine.execArrive pm t0 t1 s
  | .waitb pm t0 t1 => Sys2Proof.Machine.execWaitb pm t0 t1 s
  | .hresFetch pm t0 t1 => Sys2Proof.Machine.execHresFetch pm t0 t1 s
  | .hresRelease pm t0 t1 => Sys2Proof.Machine.execHresRelease pm t0 t1 s
  | .mma pm ty t0 t1 => Sys2Proof.Machine.execMma pm ty t0 t1 s
  | .mmas pm ty t0 t1 => Sys2Proof.Machine.execMmas pm ty t0 t1 s
  | .wld pm ty t0 t1 => Sys2Proof.Machine.execWld pm ty t0 t1 s
  | .aclr pm t0 t1 => Sys2Proof.Machine.execAclr pm t0 t1 s
  | .acvt pm ty t0 t1 => Sys2Proof.Machine.execAcvt pm ty t0 t1 s
  | .aadd pm t0 t1 => Sys2Proof.Machine.execAadd pm t0 t1 s
  | .cpy pm t0 t1 => Sys2Proof.Machine.execCpy pm t0 t1 s
  | .cpyg pm t0 t1 => Sys2Proof.Machine.execCpyg pm t0 t1 s
  | .cpys pm t0 t1 => Sys2Proof.Machine.execCpys pm t0 t1 s
  | .cpyr pm op t0 t1 => Sys2Proof.Machine.execCpyr pm op t0 t1 s
  | .cpybsToplanes pm t0 t1 => Sys2Proof.Machine.execCpybsToplanes pm t0 t1 s
  | .cpybsFromplanes pm t0 t1 => Sys2Proof.Machine.execCpybsFromplanes pm t0 t1 s
  | .cpyt pm t0 t1 => Sys2Proof.Machine.execCpyt pm t0 t1 s
  | .cpyhTohost pm t0 t1 => Sys2Proof.Machine.execCpyhTohost pm t0 t1 s
  | .cpyhFromhost pm t0 t1 => Sys2Proof.Machine.execCpyhFromhost pm t0 t1 s
  | .cpyf pm t0 t1 => Sys2Proof.Machine.execCpyf pm t0 t1 s
  | .lkctx pm sl t0 t1 => Sys2Proof.Machine.execLkctx pm sl t0 t1 s
  | .lkrun pm sl t0 t1 => Sys2Proof.Machine.execLkrun pm sl t0 t1 s
  | .lkst pm t0 t1 => Sys2Proof.Machine.execLkst pm t0 t1 s
  | .tvec pm t0 t1 => Sys2Proof.Machine.execTvec pm t0 t1 s
  | .tgemv pm ty t0 t1 => Sys2Proof.Machine.execTgemv pm ty t0 t1 s
  | .tgemvs pm ty t0 t1 => Sys2Proof.Machine.execTgemvs pm ty t0 t1 s
  | .tred pm t0 t1 => Sys2Proof.Machine.execTred pm t0 t1 s
  | .trap pm code t0 => Sys2Proof.Machine.execTrap pm code t0 s
  | .brk pm code t0 => Sys2Proof.Machine.execBrk pm code t0 s
  | .rdsr pm sr t0 => Sys2Proof.Machine.execRdsr pm sr t0 s
  | .wrsr pm sr t0 => Sys2Proof.Machine.execWrsr pm sr t0 s
  | .resume pm t0 => Sys2Proof.Machine.execResume pm t0 s
  | .retry pm t0 => Sys2Proof.Machine.execRetry pm t0 s
  | .abort pm t0 => Sys2Proof.Machine.execAbort pm t0 s
  | .emx k pm sub t0 t1 => Sys2Proof.Machine.execEmx k pm sub t0 t1 s
  | .launch port => Sys2Proof.Machine.execLaunch port s
  | .launchAdmission => Sys2Proof.Machine.execLaunchAdmission s
  | .tokenArrival k => Sys2Proof.Machine.execTokenArrival k s
  | .penTimerExpiry core pen => Sys2Proof.Machine.execPenTimerExpiry core pen s
  | .flockRelease core => Sys2Proof.Machine.execFlockRelease core s
  | .priorityAging core => Sys2Proof.Machine.execPriorityAging core s
  | .memAccessPerformed k => Sys2Proof.Machine.execMemAccessPerformed k s
  | .releaseTokenDelivery k => Sys2Proof.Machine.execReleaseTokenDelivery k s
  | .spawnSubmission k => Sys2Proof.Machine.execSpawnSubmission k s
  | .spawnAnswer k => Sys2Proof.Machine.execSpawnAnswer k s
  | .nextGrant core => Sys2Proof.Machine.execNextGrant core s
  | .enterGrant core => Sys2Proof.Machine.execEnterGrant core s
  | .entermGrant core => Sys2Proof.Machine.execEntermGrant core s
  | .explicitGrant core => Sys2Proof.Machine.execExplicitGrant core s
  | .contTokenGrant core => Sys2Proof.Machine.execContTokenGrant core s
  | .leaveServe core => Sys2Proof.Machine.execLeaveServe core s
  | .closeServe core => Sys2Proof.Machine.execCloseServe core s
  | .dkillServe core => Sys2Proof.Machine.execDkillServe core s
  | .killNotice k => Sys2Proof.Machine.execKillNotice k s
  | .killNoticeAck k => Sys2Proof.Machine.execKillNoticeAck k s
  | .eldestQuery core k => Sys2Proof.Machine.execEldestQuery core k s
  | .eldestAnswer core k => Sys2Proof.Machine.execEldestAnswer core k s
  | .spillRepresent core ctx => Sys2Proof.Machine.execSpillRepresent core ctx s
  | .quiescenceDetect ctx => Sys2Proof.Machine.execQuiescenceDetect ctx s
  | .droverForward ctx comp => Sys2Proof.Machine.execDroverForward ctx comp s
  | .launchComplete ctx => Sys2Proof.Machine.execLaunchComplete ctx s
  | .orderedArrival k => Sys2Proof.Machine.execOrderedArrival k s
  | .orderedArrivalUnstall k => Sys2Proof.Machine.execOrderedArrivalUnstall k s
  | .barrierArrival k => Sys2Proof.Machine.execBarrierArrival k s
  | .barrierRegistration k => Sys2Proof.Machine.execBarrierRegistration k s
  | .otpoolWrite v => Sys2Proof.Machine.execOtpoolWrite v s
  | .shoot => Sys2Proof.Machine.execShoot s
  | .publish => Sys2Proof.Machine.execPublish s
  | .shootres => Sys2Proof.Machine.execShootres s
  | .shootAck core => Sys2Proof.Machine.execShootAck core s
  | .walk k => Sys2Proof.Machine.execWalk k s
  | .answer v => Sys2Proof.Machine.execAnswer v s
  | .wldExec core => Sys2Proof.Machine.execWldExec core s
  | .mmaExec core => Sys2Proof.Machine.execMmaExec core s
  | .mmasExec core => Sys2Proof.Machine.execMmasExec core s
  | .aclrExec core => Sys2Proof.Machine.execAclrExec core s
  | .acvtExec core => Sys2Proof.Machine.execAcvtExec core s
  | .aaddExec core => Sys2Proof.Machine.execAaddExec core s
  | .mxuCompletion core => Sys2Proof.Machine.execMxuCompletion core s
  | .cpyExec core => Sys2Proof.Machine.execCpyExec core s
  | .cpygExec core => Sys2Proof.Machine.execCpygExec core s
  | .cpysExec core => Sys2Proof.Machine.execCpysExec core s
  | .cpyrExec core => Sys2Proof.Machine.execCpyrExec core s
  | .cpybsExec core => Sys2Proof.Machine.execCpybsExec core s
  | .cpytExec core => Sys2Proof.Machine.execCpytExec core s
  | .cpyhExec core => Sys2Proof.Machine.execCpyhExec core s
  | .cpyfExec core => Sys2Proof.Machine.execCpyfExec core s
  | .copyCompletion core => Sys2Proof.Machine.execCopyCompletion core s
  | .lkfClaim core => Sys2Proof.Machine.execLkfClaim core s
  | .lkfRelease core => Sys2Proof.Machine.execLkfRelease core s
  | .lkfSlotFree core slot => Sys2Proof.Machine.execLkfSlotFree core slot s
  | .claimCycle => Sys2Proof.Machine.execClaimCycle s
  | .lkrunExec core => Sys2Proof.Machine.execLkrunExec core s
  | .lkrunCompletion core => Sys2Proof.Machine.execLkrunCompletion core s
  | .tvecExec core => Sys2Proof.Machine.execTvecExec core s
  | .tgemvExec core => Sys2Proof.Machine.execTgemvExec core s
  | .tgemvsExec core => Sys2Proof.Machine.execTgemvsExec core s
  | .tredExec core => Sys2Proof.Machine.execTredExec core s
  | .troughCompletion core => Sys2Proof.Machine.execTroughCompletion core s
  | .handlerDispatch ctx r => Sys2Proof.Machine.execHandlerDispatch ctx r s
  | .responseTakesEffect k => Sys2Proof.Machine.execResponseTakesEffect k s
  | .drainComplete ctx => Sys2Proof.Machine.execDrainComplete ctx s
  | .preemption ctx core => Sys2Proof.Machine.execPreemption ctx core s
  | .preemptDump ctx core => Sys2Proof.Machine.execPreemptDump ctx core s
  | .restore ctx core => Sys2Proof.Machine.execRestore ctx core s
  | .pinfoldSlotFree ctx => Sys2Proof.Machine.execPinfoldSlotFree ctx s
  | .pinextWrite ctx k v => Sys2Proof.Machine.execPinextWrite ctx k v s
  | .clockGate core => Sys2Proof.Machine.execClockGate core s
  | .powerGate core => Sys2Proof.Machine.execPowerGate core s
  | .powerWake core => Sys2Proof.Machine.execPowerWake core s
  | .wakeComplete core => Sys2Proof.Machine.execWakeComplete core s
  | .shedctlWrite core v => Sys2Proof.Machine.execShedctlWrite core v s
  | .shedReconfiguration core => Sys2Proof.Machine.execShedReconfiguration core s
  | .coreCool core => Sys2Proof.Machine.execCoreCool core s
  | .linkFrame port f => Sys2Proof.Machine.execLinkFrame port f s
  | .resendTimeout port => Sys2Proof.Machine.execResendTimeout port s
  | .portDown port => Sys2Proof.Machine.execPortDown port s
  | .wread port => Sys2Proof.Machine.execWread port s
  | .wwrite port => Sys2Proof.Machine.execWwrite port s
  | .memreq port => Sys2Proof.Machine.execMemreq port s
  | .memrsp port => Sys2Proof.Machine.execMemrsp port s
  | .topo => Sys2Proof.Machine.execTopo s
  | .verify => Sys2Proof.Machine.execVerify s
  | .activate => Sys2Proof.Machine.execActivate s
  | .attest => Sys2Proof.Machine.execAttest s
  | .registerWrite addr v => Sys2Proof.Machine.execRegisterWrite addr v s
  | .gangStart ctx => Sys2Proof.Machine.execGangStart ctx s
  | .gangControl port => Sys2Proof.Machine.execGangControl port s
  | .timeExchange port => Sys2Proof.Machine.execTimeExchange port s
  | .syncLoss => Sys2Proof.Machine.execSyncLoss s
  | .powerArbiter dieW stackW budgets => Sys2Proof.Machine.execPowerArbiter dieW stackW budgets s
  | .budgetWindow stack => Sys2Proof.Machine.execBudgetWindow stack s
  | .currentAlarm die => Sys2Proof.Machine.execCurrentAlarm die s
  | .refreshTemperature stack layer temp => Sys2Proof.Machine.execRefreshTemperature stack layer temp s
  | .reset => Sys2Proof.Machine.execReset s
  | .portRetrained port => Sys2Proof.Machine.execPortRetrained port s
  | .railAlarmClear die => Sys2Proof.Machine.execRailAlarmClear die s
  | .lastingListClear addr => Sys2Proof.Machine.execLastingListClear addr s

end Sys2Proof.Machine
end

