-- ==== Sys2Proof/Machine/Issue.lean ====
section
/-! DEFINITION. What one happening does: an issue (R193), the passing of cycles (R5, R71), the happenings no row of the opcode
table names; what the part may do next when nothing outside decides; and placing one word where the next step issues it. -/

namespace Sys2Proof.Machine

/-! ### After every happening -/

/-- Firings that may end do (R36), flocks in the order of their release, lanes in ascending order. -/
def State.endFirings (s : State) : State :=
  (s.flocks.flatMap fun f => f.lanes.map (·.fid)).foldl State.tryEnd s

/-- Barrier waiters whose word has changed phase are released (R260). -/
def State.wakeWaiters : Nat → State → State
  | 0, s => s
  | n + 1, s => State.wakeWaiters n s.waiterCheck

/-- Cores on which instances wait for the ready list or for a pen. -/
def State.penCores (s : State) : List Nat :=
  ((s.fold.filter fun e => e.state = 0 && e.complete).map (·.core) ++ s.ready.map (·.core) ++ s.pens.map (·.core)).eraseDups

/-- As places in ready lists and pens become free, waiting instances take them (R188). -/
def State.refill (s : State) : State := s.penCores.foldl (fun s k => (s.promote k).rebind k) s

/-- As slots of pinfolds become free, the tokens held for them flow (R412). -/
def State.flowAll (s : State) : State :=
  ((s.pinHeld.map (·.ctx)).eraseDups).foldl (fun s x => State.flowHeld x s.pinHeld.length s) s

/-- What follows at once from a happening. -/
def State.settle (s : State) : State :=
  let s := s.discardDown.endFirings
  ((s.wakeWaiters s.waiters.length).flushOutbox.representFreed.flowAll).refill

/-! ### Issue (R193) -/

/-- The flock of an issue waits anew from this cycle at its own priority (R194), and its pipeline has issued (R193). -/
def State.afterIssue (s : State) (fl : Flock) : State :=
  ((({ s with focus := none } : State).updFlock fl.id fun f => { f with served := s.cycle, level := s.prioOf fl.ctx }).updCore fl.core
    fun k => { k with issued := (k.issued ++ List.replicate (Config.numPipes - k.issued.length) 0).set fl.pipe (s.cycle + 1) }).moved fl.ctx

/-- The word at index `j` of a flock is decoded and executed for its lanes. -/
def State.issueWord (s : State) (fl : Flock) (j : Nat) : Res :=
  match (s.codeOf fl)[j]? with
  | none => .fault .noInstruction
  | some w =>
    match decode w with
    | .error e => .refused (.undecodable w e)
    | .ok i =>
      match exec i { s with focus := some { flock := fl.id, idx := j } } with
      | .next t => .next (t.afterIssue fl)
      | .fault r => .fault r
      | .refused r => .refused r

/-- A pipeline issues, if it has something ready. -/
def State.issue (s : State) (core pipe : Nat) : Res :=
  match s.issueChoice core pipe with
  | none => .next s
  | some (fl, j) => s.issueWord fl j

/-! ### Time (R5, R71, R443) -/

/-- `n` cycles of 2.4 GHz pass: the device tick of 1 GHz, with its slew, advances by 5/12 of them. -/
def State.elapse (s : State) (n : Nat) : State :=
  let s := s.stampLanded
  let c := s.cycle + n
  let f := s.tickFrac + 5 * (1000 + s.slew).toNat * n
  let s : State := { s with
    cycle := c, tick := s.tick + f / 12000, tickFrac := f % 12000
    cores := s.cores.mapIdx fun i k => if s.coreIdle i then k else { k with idleAt := c } }
  s.resetAges

/-! ### Happenings of the memory system and of the environment -/

/-- A line leaves an L1 (R255). -/
def State.evict (s : State) (core addr : Nat) : State :=
  let hit := fun (x : Sector) => x.core = core && x.addr / 64 = addr / 64
  let s := s.writeBack .pkg hit
  { s with l1 := s.l1.filter fun x => !hit x }

/-- The oldest queued write from one die to another reaches its home (R258). -/
def State.bridgeOne (s : State) (src dst : Nat) : State :=
  match indexOf? (fun w : BridgeWrite => w.src = src && w.dst = dst) s.bridge 0 with
  | none => s
  | some k =>
    match s.bridge[k]? with
    | none => s
    | some w => ({ s with bridge := removeAt k s.bridge } : State).wrAll w.data

/-- An error in a fold, a frame, a record cache or a domain unit: ECC_LASTING of class C, fatal (R402). -/
def State.unitError (s : State) (x : Nat) : State :=
  s.captureContext x 0x04 [] true

/-- Reset is applied (R456): all but the fuses and the model's own inputs is as after reset. -/
def State.powerOn (s : State) : State :=
  { State.reset with
    agenda := s.agenda, freeCount := s.freeCount, cores := s.cores.map fun k => { enabled := k.enabled } }

/-- Whether an instruction has a word (R51–R57); the all-zero word is none (R56). -/
def hasWord (i : Instr) : Bool := encode i ≠ 0#32

/-- One happening. A word is executed by an issue alone. -/
def State.happen (s : State) (h : Happening) : Res :=
  match h with
  | .issue core pipe => s.issue core pipe
  | .event i => if hasWord i then .next s else exec i s
  | .elapse n => .next (s.elapse n)
  | .engine id n => .next (s.engineStep id n)
  | .engineDone id => .next (s.completeAny id)
  | .hop k => .next (s.hop k)
  | .evict core addr => .next (s.evict core addr)
  | .accessByte k i => .next (s.performByte k i)
  | .bridge src dst => .next (s.bridgeOne src dst)
  | .memoryError addr lasting => .next { s with errors := s.errors ++ [{ addr := addr, lasting := lasting }] }
  | .l1Error core addr => .next { s with errors := s.errors ++ [{ addr := addr, lasting := true, l1 := some core }] }
  | .unitError ctx => .next (s.unitError ctx)
  | .hostAck k => .next (s.hostAcked k)
  | .hostStore addr b => .next (if Config.hostLow ≤ addr && addr < Config.hostTop then s.wr addr b else s)
  | .portAck port ack => .next (s.ackFrames port ack)
  | .portNak port => .next (s.resend port)
  | .transmit port n => .next (s.transmit port n)
  | .deliver port cls => .next (s.deliver port cls)
  | .timeSend port => .next (s.timeSend port)
  | .gangReport ctx => .next (s.gangReport ctx)
  | .powerOn => .next s.powerOn

/-- One happening and what follows at once from it. -/
def State.take (s : State) (h : Happening) : Res :=
  match s.happen h with
  | .next t => .next t.settle
  | .fault r => .fault r
  | .refused r => .refused r

/-! ### What may happen next

Whatever the part or its surroundings may do of themselves; one that is not enabled changes nothing. -/

/-- The happenings of one core. -/
def coreHappenings (c : Nat) : List Happening :=
  (List.range Config.numPipes).map (.issue c) ++
  ([.flockRelease c, .priorityAging c, .tokenArrival c, .coreCool c, .nextGrant c, .enterGrant c, .entermGrant c, .explicitGrant c,
    .contTokenGrant c, .leaveServe c, .closeServe c, .dkillServe c, .shootAck c, .wldExec c, .mmaExec c, .mmasExec c, .aclrExec c,
    .acvtExec c, .aaddExec c, .mxuCompletion c, .cpyExec c, .cpygExec c, .cpysExec c, .cpyrExec c, .cpybsExec c, .cpytExec c,
    .cpyhExec c, .cpyfExec c, .copyCompletion c, .lkfClaim c, .lkfRelease c, .lkfSlotFree c 0, .lkfSlotFree c 1, .lkfSlotFree c 2,
    .lkfSlotFree c 3, .lkrunExec c, .lkrunCompletion c, .tvecExec c, .tgemvExec c, .tgemvsExec c, .tredExec c, .troughCompletion c,
    .clockGate c, .powerGate c, .powerWake c, .wakeComplete c, .shedReconfiguration c] : List Instr).map .event

/-- The happenings of one context. -/
def Ctx.happenings (c : Ctx) : List Happening :=
  let steps : List Instr :=
    [.quiescenceDetect c.id, .launchComplete c.id, .drainComplete c.id, .pinfoldSlotFree c.id, .gangStart c.id] ++
    c.compList.map (Instr.droverForward c.id) ++ c.pasture.map (fun k => Instr.spillRepresent k c.id) ++
    c.pasture.map (Instr.preemption c.id) ++ c.saved.map (fun z => Instr.preemptDump c.id z.core) ++
    c.saved.map (fun z => Instr.restore c.id z.core) ++ (List.range c.sick.length).map (Instr.handlerDispatch c.id) ++
    (List.range c.sick.length).map fun r => Instr.responseTakesEffect (64 * c.id + r)
  steps.map .event ++ [.gangReport c.id]

/-- The happenings of one port. -/
def portHappenings (p : Nat) : List Happening :=
  ([.launch p, .wread p, .wwrite p, .memreq p, .memrsp p, .gangControl p, .timeExchange p, .resendTimeout p, .portDown p,
    .portRetrained p] : List Instr).map .event ++ (List.range 8).map (fun n => .transmit p (n + 1)) ++ [.deliver p 0, .deliver p 1, .deliver p 2, .timeSend p]

/-- What may become of the `k`-th access. -/
def accessHappenings (k : Nat) : List Instr := [.memAccessPerformed k, .walk k, .barrierArrival k, .barrierRegistration k]

/-- The happenings of the things that wait in lists. -/
def State.listHappenings (s : State) : List Happening :=
  let steps : List Instr :=
    s.pens.map (fun p : Pen => Instr.penTimerExpiry p.core p.index) ++
    (List.range s.accesses.length).flatMap accessHappenings ++
    (List.range s.arrivals.length).map Instr.orderedArrival ++ (List.range s.arrivals.length).map Instr.orderedArrivalUnstall ++
    (List.range (s.held.length + s.owed.length)).map Instr.releaseTokenDelivery ++ (List.range s.spawns.length).map Instr.spawnSubmission ++
    (List.range s.answers.length).map Instr.spawnAnswer ++ (List.range s.notices.length).map Instr.killNotice ++
    (List.range s.acks.length).map Instr.killNoticeAck ++
    s.eldest.mapIdx (fun k e => Instr.eldestQuery e.1.tag.home.toNat k) ++ s.eldest.mapIdx (fun k e => Instr.eldestAnswer e.1.core k) ++
    (List.range s.queues.length).map (fun k => Instr.gangStart (1024 + k)) ++
    (List.range s.refused.length).map fun k => Instr.gangStart (8192 + k)
  steps.map .event ++ (List.range s.transit.length).map .hop ++ s.l1.map (fun x => .evict x.core x.addr) ++
  (s.bridge.map fun w => .bridge w.src w.dst) ++ (s.cmds.flatMap fun k => [.engine k.id 1, .engineDone k.id]) ++ (List.range s.hostWrites.length).map .hostAck ++
  s.accesses.zipIdx.flatMap fun (a, k) => if a.splits then (List.range a.bytes.length).map (.accessByte k) else []

/-- The happenings of the package as a whole. -/
def packageHappenings : List Happening :=
  ([.launchAdmission, .shoot, .publish, .shootres, .claimCycle, .topo, .verify, .activate, .attest, .syncLoss, .reset] : List Instr).map .event ++
  ((List.range Config.numStacks).map Instr.budgetWindow).map .event ++ ((List.range 4).map Instr.railAlarmClear).map .event ++ [.elapse 1]

def State.candidates (s : State) : List Happening :=
  (List.range Config.numCores).flatMap coreHappenings ++ s.ctxs.flatMap Ctx.happenings ++
  (List.range Config.numPorts).flatMap portHappenings ++ s.listHappenings ++ packageHappenings

/-- What the part takes next of itself: a free choice. -/
def State.chosen (s : State) : Happening :=
  let l := s.candidates
  l[Config.choice s.freeCount % l.length]?.getD (.elapse 1)

/-! ### Placing a word -/

/-- A block of one word that waits for nothing. -/
def oneWordBlock (w : IWord) : LBlock :=
  { idem := false, aligned := false, entry := true, tclass := 0, inputs := 1, code := [w], consts := [], cells := [{}], place := 0,
    dom := 0, fixk := 0, comp := 0 }

/-- A context with that one block on core 0. -/
def oneWordCtx (w : IWord) : Ctx :=
  { id := 0, admission := 0, prio := 0, det := false, seed := 0, image := 0, reply := .host 0 0, blocks := [oneWordBlock w],
    doms := [], handler := 0, pasture := [0],
    regions := [{ core := 0, frameSeg := 0, frames := 1, scrSeg := 1, scratch := 1, accSeg := 0, accum := 1 }], reserve := 0,
    comps := [0], edges := [], entryDone := true, sickBase := 0, sick := List.replicate 64 {} }

/-- One instance of that block, resident on pipeline 0 of core 0 as a flock of one lane, its frame a zero payload. -/
def oneLaneFlock : Flock :=
  { id := 1, core := 0, pipe := 0, slot := 0, ctx := 0, block := 0, aligned := false, released := 0, level := 0, served := 0
    lanes := [{ fid := 2, lane := 0, fsize := 1, tag := Tag.ofBits 0, epoch := 0, hpkg := 0, frame := [(0, false)], place := none,
                cells := [{}] }] }

/-- The state in which that flock is what its pipeline issues next. -/
def State.placeWord (s : State) (w : IWord) : State :=
  { s with
    agenda := .issue 0 0 :: s.agenda
    ctxs := oneWordCtx w :: s.ctxs.filter (·.id ≠ 0)
    flocks := oneLaneFlock :: s.flocks.filter fun f => !(f.core = 0 && f.pipe = 0) && f.id ≠ 1
    reqSeq := max s.reqSeq 2
    cores := s.cores.modify 0 fun k => { k with power := .running, issued := [] }
    dies := s.dies.modify 0 fun d => { d with slow := false } }

end Sys2Proof.Machine
end

