-- ==== Sys2Proof/Machine/Step.lean ====
section
/-! DEFINITION. One step: the first happening of the agenda, or one the part chooses; and where a word stands that the next
step issues. -/

namespace Sys2Proof.Machine

/-- ONE STEP. The agenda says what happens next; when it is empty the part takes a free choice of what may happen. -/
def step (s : State) : Host.Outcome State Fault Refusal :=
  match s.agenda with
  | h :: r => ({ s with agenda := r } : State).take h
  | [] => ({ s with freeCount := s.freeCount + 1 } : State).take s.chosen

/-- The state with a word where the next step issues: a loaded block whose only instruction it is, a live context, and a
resident flock of one lane (R176–R193 made short). The table's words have 32 bits; of a shorter one the rest is zero. -/
def State.withFetchWord (s : State) (nbits w : Nat) : State :=
  s.placeWord (BitVec.ofNat 32 (w % 2 ^ min nbits 32))

end Sys2Proof.Machine
end

