-- ==== Sys2Proof/Safety.lean ====
section
/-! DEFINITION. What claims are stated in: an issued word, what executing it makes of its flock, and the invariant of a safe
run. -/

namespace Sys2Proof.Machine

/-- A word stands issued for a flock at an index (R193). -/
def Issued (s : State) (fl : Flock) (j : Nat) : Prop :=
  s.focus = some { flock := fl.id, idx := j } ∧ s.flock? fl.id = some fl

/-- Instruction `j` has executed in every lane of a flock that had still to issue it: DONE, PERF where the lane performs
its effect (R28), and what `f` gives delivered to T0 and T1 (R26–R31). Nothing else of the state changes. -/
def State.executed (s : State) (fl : Flock) (j : Nat) (pm : Pm) (t0 t1 : Target) (f : Lane → Cell → Val × Val) : State :=
  s.updFlock fl.id (Flock.step j pm t0 t1 f)

/-- The same for results that are a function of the latches alone, void-marked when a latch that is read is (R143). -/
def State.valued (s : State) (fl : Flock) (j : Nat) (pm : Pm) (r : Reads) (t0 t1 : Target)
    (g : Word → Word → Word → Bool → Word × Word) : State :=
  s.executed fl j pm t0 t1 fun _ k => marked r g k

/-- Val(v, t) of R66: the low bits of a latch read as a signed or natural integer. -/
def val (t : Ity) (v : Word) : Int :=
  if t.signed then (v.setWidth t.bits).toInt else ((v.setWidth t.bits).toNat : Int)

/-- Ext(Wrap(x, w), t) of R66: an integer wrapped to the width of a type, sign- or zero-extended to 64 bits. -/
def ext (t : Ity) (x : Int) : Word :=
  if t.signed then (BitVec.ofInt t.bits x).signExtend 64 else (BitVec.ofInt t.bits x).setWidth 64

/-- MinOf(t) and MaxOf(t) of R66. -/
def least (t : Ity) : Int := if t.signed then -(2 ^ (t.bits - 1)) else 0
def greatest (t : Ity) : Int := if t.signed then 2 ^ (t.bits - 1) - 1 else 2 ^ t.bits - 1

/-- The low bits of a latch at a width (R78, R80). -/
def low (w : Width) (v : Word) : BitVec w.bits := v.setWidth w.bits

/-- The primary opcode in a word's bits 31:24 (R41). -/
def opOf (i : Instr) : Nat := (encode i).toNat / 2 ^ 24

/-- Bits 21:18 of a word, SUB (R49). -/
def subOf (i : Instr) : Nat := (encode i).toNat / 2 ^ 18 % 16

/-- The memory stands in its canonical form: addresses strictly rising, no byte listed that an unlisted address reads as. -/
def State.memOk (s : State) : Prop := Memory.wf s.mem = true

/-- Access numbers are distinct and none lies above the last request number; a core holds one sector of an address of a
package, of 32 bytes (R255). -/
def State.numbered (s : State) : Prop :=
  (∀ a ∈ s.accesses, a.id ≤ s.reqSeq) ∧ (s.accesses.map (·.id)).Nodup ∧ (∀ x ∈ s.l1, x.bytes.length = 32) ∧
    s.l1.Pairwise fun x y => ¬(x.core = y.core ∧ x.addr = y.addr ∧ x.pkg = y.pkg)

/-- A state that is neither a fault nor a refusal follows. -/
def Completes (r : Res) : Prop := ∃ t, r = .next t

/-- The lanes of a flock bear firing numbers of their own. -/
def Alone (s : State) (fl : Flock) : Prop := (fl.lanes.map (·.fid)).Nodup ∧ ∀ ln ∈ fl.lanes, s.lane? ln.fid = some ln

/-- Instruction `j`, which delivers nothing, has executed in every lane of a flock that had still to issue it. -/
def State.doneIn (s : State) (fl : Flock) (j : Nat) : State :=
  (fl.lanes.filter (Lane.activeAt j)).foldl (fun s ln => s.completeLane ln.fid j .none .none Val.zero Val.zero) s

/-- Every lane of a flock that has still to issue `j` performs its effect there (R28). -/
def AllPerform (fl : Flock) (j : Nat) (pm : Pm) : Prop :=
  ∀ ln ∈ fl.lanes, ln.activeAt j = true → ∃ k : Cell, ln.cells[j]? = some k ∧ performs pm k.p = true

/-- A word stands issued, one lane of the flock has still to issue it, and that lane performs its effect. -/
def OneLane (s : State) (fl : Flock) (j : Nat) (ln : Lane) (k : Cell) (pm : Pm) : Prop :=
  Issued s fl j ∧ fl.lanes.filter (Lane.activeAt j) = [ln] ∧ s.lane? ln.fid = some ln ∧ ln.cells[j]? = some k ∧
    performs pm k.p = true

/-- A cursor's object is cached with a record (R240). -/
def Cached (s : State) (fl : Flock) (cur : Word) (r : ObjRec) : Prop :=
  s.orcHit fl.core fl.ctx (cur.extractLsb' 44 19).toNat = some r

/-- Instruction `j` of a lane delivers a value to both targets of its word. -/
def State.gives (s : State) (ln : Lane) (j : Nat) (i : Instr) (v : Val) : State :=
  s.completeLane ln.fid j (t0Of i) (t1Of i) v v

/-- A command of which nothing has been done: accepted, not ended, and waiting for nothing. -/
def EngineCmd.fresh (k : EngineCmd) : Prop :=
  k.ended = none ∧ k.reads = [] ∧ k.data = [] ∧ k.writes = [] ∧ k.broken = [] ∧ k.parked = none ∧ k.log = [] ∧ k.recs = [] ∧
    k.sectors = [] ∧ k.was = [] ∧ k.fuel = none

/-- A command has run: it stands in its queue with a status, DETAIL and DONE. -/
def State.hasEnded (t : State) (k : EngineCmd) (st d done : Nat) : Prop :=
  ∃ q ∈ t.cmds, q.id = k.id ∧ q.ended = some (st, d, done)

/-- Memory is canonical, no memory error is planted and no granule or line of the package is lost. -/
def State.sound (s : State) : Prop := s.memOk ∧ s.errors = [] ∧ ∀ d ∈ s.dies, d.lasting = []

/-- An endpoint is a region of the issuing core with a format (R323). -/
def Endpoint.own (e : Endpoint) (f : Fmt) : Prop := (e.kind = 1 ∨ e.kind = 2) ∧ e.here = true ∧ Fmt.ofBits (BitVec.ofNat 6 e.fmt) = some f

/-- The first byte of an own region endpoint. -/
def State.endBase (s : State) (k : EngineCmd) (e : Endpoint) : Nat := (s.regionOf k.ctx k.core (e.kind = 2)).1 + e.off

/-- Ranges lie in their regions on the issuing core. -/
def State.inRegions (s : State) (k : EngineCmd) (l : List Rng) : Prop := s.rangeBad k.ctx k.core l = none

/-- The first byte of a range and its length. -/
def State.spanOf (s : State) (k : EngineCmd) (r : Rng) : Nat × Nat := ((s.regionOf k.ctx k.core r.1).1 + r.2.1, r.2.2)

/-- Two lists of ranges of a command have no byte in common. -/
def State.apart (s : State) (k : EngineCmd) (l m : List Rng) : Prop :=
  ∀ x ∈ l, ∀ y ∈ m, overlap (s.spanOf k x) (s.spanOf k y) = false

/-- The code of element (i, m) of an object from a cursor's coordinates, and its scale, 127 without scales (R108, R361). -/
def State.weightAt (s : State) (o : ObjRec) (at0 : List Nat) (i m : Nat) : Nat × Nat :=
  match objOffset o (some at0) i m with
  | none => (0, 127)
  | some e =>
    let n := natLE ((o.elemAddrs e).map s.rd)
    (if o.ebits = 4 then n / 16 ^ (e % 2) % 16 else n, if o.scale = 0 then 127 else (s.rd (o.scaleAddr e)).toNat)

/-- Element (i, j) of an own region endpoint. -/
def State.elemOf (s : State) (k : EngineCmd) (e : Endpoint) (f : Fmt) (i j : Nat) : Nat :=
  let v := s.rdNat (s.endBase k e + j * e.pitch + i * fmtBits f / 8) ((fmtBits f + 7) / 8)
  if fmtBits f = 4 then v / 16 ^ (i % 2) % 16 else v

/-- Every byte of some ranges is a byte of memory, which a write changes. -/
def State.written (s : State) (k : EngineCmd) (l : List Rng) : Prop :=
  ∀ y ∈ l, ∀ x, (s.spanOf k y).1 ≤ x → x < (s.spanOf k y).1 + (s.spanOf k y).2 → isMemory x = true

/-- The rounding mode of a code other than `.rsr` (R102). -/
def modeOf (n : Nat) : Mode := if n = 0 then .rne else if n = 1 then .rz else if n = 2 then .rdn else .rup

/-- Round into a format that `acvt` and `tred` write (R102, R103, R316, R362). -/
def roundInto (f : Fmt) (m : Mode) (sat : Bool) (x : XNum) : Nat :=
  match f with
  | .f16 => roundTo ffF16 m sat x
  | .bf16 => roundTo ffBf16 m sat x
  | .b8 u i p => roundTo (ffB8 u i p) m sat x
  | _ => roundTo ffF32 m sat x

/-- Every byte of memory outside some ranges reads as before. -/
def State.sameOutside (s t : State) (l : List (Nat × Nat)) : Prop :=
  ∀ x : Nat, (∀ r ∈ l, ¬(r.1 ≤ x ∧ x < r.1 + r.2)) → t.rd x = s.rd x

/-- The words of an `m` by `n` tile, in order, with a value for each. -/
def tileWords (base pitch m n : Nat) (f : Nat → Nat → Nat) : List (Nat × Nat) :=
  (List.range m).flatMap fun i => (List.range n).map fun j => (base + i * pitch + 4 * j, f i j)

/-- 32-bit words written one after another. -/
def State.writeWords (s : State) (l : List (Nat × Nat)) : State := l.foldl (fun s w => s.wrN w.1 (bytesLE 4 w.2)) s

/-- The rational number that an exact finite value is. -/
def XNum.value : XNum → Rat
  | .fin g n d => (if g then -(n : Rat) else (n : Rat)) / (d : Rat)
  | .nan | .inf _ => 0

/-- R211: lane `n` is active with A's bits `v` at `j`: present and running, performing the effect, its A unmarked. -/
def LaneActive (fl : Flock) (pm : Pm) (j n : Nat) (v : Word) : Prop :=
  ∃ l ∈ fl.lanes, ∃ k : Cell, l.lane = n ∧ l.status = .running ∧ l.cells[j]? = some k ∧ performs pm k.p = true ∧
    k.a.void = false ∧ k.a.bits = v

/-- R215: `add.f32` combines the lanes up to a number as the exact sum of their values rounded once: a NaN, or infinities of both
signs, give NaN; infinities of one sign that infinity; a sum of negative zeros alone −0, any other exact zero +0. -/
def SumOfLanes (fl : Flock) (pm : Pm) (j : Nat) (inc : Nat → Word) : Prop :=
  ∀ (n : Nat) (l : List (Nat × Word)), l.Pairwise (fun x y => x.1 < y.1) →
    (∀ x, x ∈ l ↔ x.1 ≤ n ∧ LaneActive fl pm j x.1 x.2) →
    let d := fun x : Nat × Word => ffF32.decode (x.2.toNat % 2 ^ 32)
    let z : Rat := (l.map fun x => (d x).value).sum
    ((∃ x ∈ l, d x = .nan) ∨ ((∃ x ∈ l, d x = .inf false) ∧ ∃ x ∈ l, d x = .inf true) → inc n = 0x7FC00000) ∧
    ((∀ x ∈ l, d x ≠ .nan ∧ d x ≠ .inf true) → (∃ x ∈ l, d x = .inf false) → inc n = 0x7F800000) ∧
    ((∀ x ∈ l, d x ≠ .nan ∧ d x ≠ .inf false) → (∃ x ∈ l, d x = .inf true) → inc n = 0xFF800000) ∧
    ((∀ x ∈ l, ∃ g m e, d x = .fin g m e) →
      (z = 0 → inc n = if l ≠ [] ∧ ∀ x ∈ l, x.2.toNat % 2 ^ 32 = 0x80000000 then 0x80000000 else 0) ∧
      (z ≠ 0 → ∃ p q : Nat, 0 < q ∧ (p : Rat) = (if z < 0 then -z else z) * (q : Rat) ∧
        inc n = BitVec.ofNat 64 (roundTo ffF32 .rne false (.fin (z < 0) p q))))

/-- An access of a resident lane that its order and its memory let be performed now, in canonical memory. -/
def Due (s : State) (n : Nat) (a : Access) (ln : Lane) : Prop :=
  s.accesses[n]? = some a ∧ (s.accesses.map (·.id)).Nodup ∧ a.phase = .ready ∧ a.pkg = none ∧ a.orphan = false ∧
    a.nibble = none ∧ a.scaleAt = none ∧ a.err = none ∧ a.part = [] ∧ s.lane? a.fid = some ln ∧ s.orderFree a = true ∧ s.budgetFree a = true ∧ s.errors = [] ∧
    (∀ d ∈ s.dies, d.lasting = []) ∧ s.memOk

/-- What stays of a state when an access is performed, but for memory, caches and the lane: the rest of the accesses, the
other lanes' flocks, tokens and fold entries. -/
def OnlyMemory (s t : State) (a : Access) : Prop :=
  t.accesses = s.accesses.filter (·.id ≠ a.id) ∧ t.transit = s.transit ∧ t.held = s.held ∧ t.fold = s.fold ∧ t.ready = s.ready ∧
    t.arrivals = s.arrivals ∧ t.waiters = s.waiters ∧ t.netOut = s.netOut ∧ t.hostOut = s.hostOut

/-- The new value that an atomic word leaves where `old` stands, by its operation (R275–R278). -/
def AtomTo (i : Instr) (pm : Pm) (t0 : Target) (w64 : Bool) (ord : Order) (sc : Scope) (old : Nat) (b c : Word) (x : Nat) : Prop :=
  let w := if w64 then 64 else 32
  let o := BitVec.ofNat w old
  let v := BitVec.ofNat w b.toNat
  (∃ op : AtomOp, i = .atom pm op t0 w64 ord sc ∧ x = match op with
    | .add => (o + v).toNat
    | .min => if v.toInt < o.toInt then v.toNat else old
    | .max => if o.toInt < v.toInt then v.toNat else old
    | .minu => min old v.toNat
    | .maxu => max old v.toNat
    | .and => (o &&& v).toNat
    | .or => (o ||| v).toNat
    | .xor => (o ^^^ v).toNat
    | .exch => v.toNat) ∨
  (i = .cas pm t0 w64 ord sc ∧ x = if old = v.toNat then c.toNat % 2 ^ w else old) ∨
  (w64 = false ∧ ∃ fop : FatomOp, i = .fatom pm fop t0 ord sc ∧ x = match fop with
    | .addF32 => (fadd .f32 .rne (BitVec.ofNat 64 old) (BitVec.ofNat 64 v.toNat)).toNat
    | .minF32 => (fminmax false .f32 (BitVec.ofNat 64 old) (BitVec.ofNat 64 v.toNat)).toNat
    | .maxF32 => (fminmax true .f32 (BitVec.ofNat 64 old) (BitVec.ofNat 64 v.toNat)).toNat
    | .addBf16x2 =>
      (fadd .bf16 .rne (BitVec.ofNat 64 (old % 65536)) (BitVec.ofNat 64 (v.toNat % 65536))).toNat +
      65536 * (fadd .bf16 .rne (BitVec.ofNat 64 (old / 65536)) (BitVec.ofNat 64 (v.toNat / 65536))).toNat)

/-- A running core has a token of an earlier cycle at the head of its inbound queue, for a live context that nothing diverts there. -/
def Arrives (s : State) (core : Nat) (tr : Transit) (rest : List Transit) (c : Ctx) : Prop :=
  (s.core core).inq = tr :: rest ∧ tr.came < s.cycle ∧ (s.core core).power = .running ∧ core < s.cores.length ∧ tr.dst = core ∧
    s.ctx? tr.ctx = some c ∧ c.draining = none ∧ c.gang = none ∧ c.saved = [] ∧ c.pin = [] ∧ s.pinHeld = [] ∧ s.eldest = [] ∧
    (s.ready.filter (·.core = core)).length < 1024

/-- The head of a unit's grant queue, its release queue being empty, for a live context; the token it carries has no release
of its own, and its iteration no close of its own. -/
def GrantHead (s : State) (core : Nat) (r : UnitReq) (rest : List UnitReq) (tk : Token) (c : Ctx) : Prop :=
  (s.core core).grantq = r :: rest ∧ (s.core core).relq = [] ∧ core < s.cores.length ∧ s.ctx? r.ctx = some c ∧
    c.draining = none ∧ c.gang = none ∧ r.tok = some tk ∧ tk.rel = none ∧ r.closes = false ∧ r.opkg = s.pkgid

/-- The head of a unit's release queue, with nothing waiting for a grant there. -/
def ReleaseHead (s : State) (core : Nat) (r : UnitReq) (rest : List UnitReq) (c : Ctx) : Prop :=
  (s.core core).relq = r :: rest ∧ (s.core core).waitq = [] ∧ core < s.cores.length ∧ s.ctx? r.ctx = some c ∧ c.gang = none ∧ r.opkg = s.pkgid

/-- A token on its way from a unit to its core, under a tag the unit has formed. -/
def State.onward (s : State) (c : Ctx) (core : Nat) (r : UnitReq) (tk : Token) (tag : Tag) (e : BitVec 22) (p : Nat) : Transit :=
  let t := { tk with tag := tag, epoch := e, hpkg := p }
  { src := 512 + core, dst := (s.placeFrom c t (r.opkg, r.origin)).2, ctx := r.ctx, tok := t }

/-- The tag of iteration `l` of an activation. -/
def iterTag (x dom core act l : Nat) : Tag :=
  { ctx := BitVec.ofNat 10 x, dom := BitVec.ofNat 6 dom, home := BitVec.ofNat 8 core, act := BitVec.ofNat 6 act, idx := BitVec.ofNat 10 l }

/-- A fold entry whose fields fit the widths that R163 gives them. -/
def FoldEntry.Fits (e : FoldEntry) : Prop :=
  e.block < 2 ^ 12 ∧ e.slots.length ≤ 8 ∧ e.state < 4 ∧ e.units < 8 ∧ e.way < 8 ∧ (∀ f : FrameRef, e.place = some f → f.at_ < 2 ^ 16) ∧
    ∀ d : Nat, e.dup = some d → d < 2 ^ 14

end Sys2Proof.Machine
end

