-- ==== Sys2Proof/Certificates/Slice0/Obligations.lean ====
section
/-! DEFINITION. The statements for the provers, each after the rules of the spec it rests on. -/

open Sys2Proof Sys2Proof.Machine

/-- R41–R57: every legal instruction with a word is what its word decodes to, with every operand at every value. -/
def Obligations.DecodeEncode : Prop :=
  ∀ i : Instr, i.wf = true → decode (encode i) = .ok i

/-- R44, R54, R56: a word that decodes has one meaning and no bit of it is dropped: the instruction is legal and its word is
that word. -/
def Obligations.EncodeDecode : Prop :=
  ∀ (w : IWord) (i : Instr), decode w = .ok i → i.wf = true ∧ encode i = w

/-- R56: a word whose opcode is 0x00 or unassigned is no instruction. -/
def Obligations.UnassignedOpcodesRefused : Prop :=
  ∀ w : IWord,
    let op := w.toNat / 2 ^ 24
    op = 0x00 ∨ (0x09 ≤ op ∧ op ≤ 0x0F) ∨ (0x1C ≤ op ∧ op ≤ 0x1F) ∨ op = 0x2E ∨ op = 0x2F ∨ op = 0x4F ∨ (0x6E ≤ op ∧ op ≤ 0x7F) ∨
      (0x8A ≤ op ∧ op ≤ 0x8F) ∨ (0xA2 ≤ op ∧ op ≤ 0xAF) ∨ (0xB6 ≤ op ∧ op ≤ 0xBF) ∨ (0xC8 ≤ op ∧ op ≤ 0xCF) ∨
      (0xD3 ≤ op ∧ op ≤ 0xD7) ∨ (0xDC ≤ op ∧ op ≤ 0xDF) ∨ (0xE7 ≤ op ∧ op ≤ 0xEF) →
    ∀ i : Instr, decode w ≠ .ok i

/-- The words that the spec itself works out, one or more of each family, and the instructions it gives for them. -/
def Obligations.WorkedWordsDecode : Prop :=
  decode 0x06082002 = .ok (.movi .always (.latch .a 1) 2) ∧
  decode 0x10000010 = .ok (.send .always .same 0 1 none false) ∧
  decode 0x01008242 = .ok (.ldf .always 0 (.latch .a 1) (.latch .a 2)) ∧
  decode 0x2408BFFF = .ok (.addi .always (.latch .a 5) 0x1FFF) ∧
  decode 0x4720A401 = .ok (.cmpi .always (.latch .p 5) .lt 1) ∧
  decode 0x14000010 = .ok (.cont .always .same 0 1 0) ∧
  decode 0x0410A000 = .ok (.getx .always (.latch .b 5) 0) ∧
  decode 0x13000020 = .ok (.steer .same 0 2 none false) ∧
  decode 0x930C0000 = .ok (.st .always .n64 .none .none) ∧
  decode 0x23130600 = .ok (.subSat .always .n8 (.reg 3) .none) ∧
  decode 0x3A00009F = .ok (.shri .always .none .w32 31) ∧
  decode 0x533B0400 = .ok (.ffma .always .rup .bf16 (.reg 2) .none) ∧
  decode 0x64292185 = .ok (.cvt .rne .always true .bf16 .f32 (.reg 5)) ∧
  decode 0x5C010981 = .ok (.frcpe .always (.latch .b 4) (.reg 1)) ∧
  decode 0x16180050 = .ok (.entermAnd .always 0 5 none false) ∧
  decode 0x1809009B = .ok (.next .always 1 9 (some .die) true) ∧
  decode 0x87070784 = .ok (.scan .always .addF32 (.reg 3) (.reg 4)) ∧
  decode 0x90230600 = .ok (.curs .always .pair0 (.reg 3) .none) ∧
  decode 0x91308401 = .ok (.cursi .always (.reg 4) .d1 1) ∧
  decode 0x99030A06 = .ok (.cas .always (.reg 5) false .acq .pkg) ∧
  decode 0xC3080000 = .ok (.cpyr .always .maxF32 .none .none) ∧
  decode 0xC1030E00 = .ok (.cpyg .always (.reg 7) .none) ∧
  decode 0xD00B1200 = .ok (.lkctx .always 2 (.reg 9) .none) ∧
  decode 0xD2028A00 = .ok (.lkst .always (.latch .o 5) .none) ∧
  decode 0xD9030800 = .ok (.tgemv .always .bf16 (.reg 4) .none) ∧
  decode 0xE1000B81 = .ok (.brk .always 5 (.reg 1)) ∧
  decode 0xF0010600 = .ok (.emx 0 .always 0 (.latch .b 3) .none)

/-- R193: an issue executes the instruction that the word at the chosen index decodes to, for the chosen flock; a step of
the opcode table with no word is executed as it stands; what follows at once (ends of firings, R36, and barrier waiters,
R260) follows. The word that `withFetchWord` places is what the next step issues. No instruction stops the machine: an
issued word of any operands answers a next state, and so does a step without a word in every state (a lane's or
context's fault is captured, R384). -/
def Obligations.StepRunsTheInstruction : Prop :=
  (∀ (s : State) (core pipe j : Nat) (rest : List Happening) (fl : Flock) (w : IWord) (i : Instr), s.agenda = .issue core pipe :: rest →
    let s1 : State := { s with agenda := rest }
    s1.issueChoice core pipe = some (fl, j) → (s1.codeOf fl)[j]? = some w → decode w = .ok i →
    (∀ t, exec i { s1 with focus := some { flock := fl.id, idx := j } } = .next t → step s = .next (t.afterIssue fl).settle) ∧
    (∀ f, exec i { s1 with focus := some { flock := fl.id, idx := j } } = .fault f → step s = .fault f)) ∧
  (∀ (s : State) (rest : List Happening) (i : Instr), s.agenda = .event i :: rest → hasWord i = false →
    (∀ t, exec i { s with agenda := rest } = .next t → step s = .next t.settle) ∧
    (∀ f, exec i { s with agenda := rest } = .fault f → step s = .fault f)) ∧
  (∀ (w : IWord) (i : Instr), decode w = .ok i →
    let s := State.reset.withFetchWord 32 w.toNat
    s.agenda = [.issue 0 0] ∧ ({ s with agenda := [] } : State).issueChoice 0 0 = some (oneLaneFlock, 0) ∧ s.codeOf oneLaneFlock = [w]) ∧
  (∀ (s : State) (fl : Flock) (j : Nat) (i : Instr), Issued s fl j → ∃ t, exec i s = .next t) ∧
  (∀ (s : State) (i : Instr), hasWord i = false → ∃ t, exec i s = .next t)

/-- R26, R28: a word whose P does not let it perform its effect is counted in its lane: it delivers to each counted target
without a value, and nothing else of the state changes: no lane register, memory, token or fault, and of a context
nothing but the model's count of draws of free values. (The lane stands in its flock alone.) -/
def Obligations.NotPerformedOnlyCounts : Prop :=
  ∀ (s : State) (fl : Flock) (j : Nat) (ln : Lane) (k : Cell) (i : Instr), Issued s fl j → fl.lanes.filter (Lane.activeAt j) = [ln] →
    s.flockOf? ln.fid = some fl → fl.lane? ln.fid = some ln → ln.cells[j]? = some k → hasWord i = true → performs (pmOf i) k.p = false →
    (∀ c ∈ s.ctxs, ∀ g : Lane → Lane, c.updLane ln.fid g = c) → (∀ r ∈ s.resumed, r.lane.fid ≠ ln.fid) →
    ∃ t ln', exec i s = .next t ∧ t = { s with flocks := t.flocks, ctxs := t.ctxs } ∧
      (t.ctxs.map fun c => { c with draws := [] }) = (s.ctxs.map fun c => { c with draws := [] }) ∧
      (t.flocks.map fun f => { f with lanes := [] }) = (s.flocks.map fun f => { f with lanes := [] }) ∧
      t.lane? ln.fid = some ln' ∧ ln' = ln.complete j false (t0Of i) (t1Of i) { bits := 0 } { bits := 0 } ∧ ln'.regs = ln.regs ∧
      ∀ f, f ≠ ln.fid → t.lane? f = s.lane? f

/-- R238, R248, R408, R438, R452, R456: after reset no context is live and the launch port is closed; the registers whose
reset values the spec gives have them; the invariants of `StepKeepsMemory` and `StepKeepsNumbers` hold. That memory
lists nothing after reset, so that every byte reads zero, is the model's choice (log entry 5), since the spec gives
memory no contents then. -/
def Obligations.ResetState : Prop :=
  State.reset.memOk ∧ State.reset.numbered ∧ State.reset.mem = [] ∧ State.reset.ctxs = [] ∧ State.reset.isOpen = false ∧ State.reset.otpool = 14 ∧
    State.reset.savepool = 0 ∧ State.reset.pwrcap = 3600 ∧ State.reset.defseed = 0 ∧ State.reset.pkgid = 0 ∧ State.reset.peerwin = 0 ∧
    State.reset.routes = [] ∧ State.reset.noroute = 0 ∧ State.reset.sync = false ∧ State.reset.cores.length = 256 ∧
    (∀ i, (State.reset.core i).power = .running ∧ (State.reset.core i).wakes = 0 ∧ (State.reset.core i).ilv = false) ∧
    (∀ i, (State.reset.port i).state = 0 ∧ (State.reset.port i).drops = 0)

/-- R248, R250: memory stays in its canonical form under every step, from every state in which it is. -/
def Obligations.StepKeepsMemory : Prop :=
  ∀ s t : State, s.memOk → step s = .next t → t.memOk

/-- R33, R255: access numbers stay distinct and at most the last request number, and a core keeps one 32-byte sector of an
address, under every step, from every state in which it is so. (That every sector lists 32 bytes is the layout of the
model's own `Sector`.) -/
def Obligations.StepKeepsNumbers : Prop :=
  ∀ s t : State, s.numbered → step s = .next t → t.numbered

/-- R74: the arithmetic forms, on exact integers, delivered by R66 to both targets; the opcodes; `abs` is signed only. R75,
R76: `addi` on 64 bits; quotient toward zero and remainder, the quotient and remainder of a division by zero, and the
signed overflow. -/
def Obligations.IntegerArithmetic : Prop :=
  (∀ (s : State) (fl : Flock) (j : Nat) (pm : Pm) (ty : Ity) (t0 t1 : Target), Issued s fl j →
     exec (.add pm ty t0 t1) s =
       .next (s.valued fl j pm readsAB t0 t1 fun a b _ _ => both (ext ty (val ty a + val ty b))) ∧
     exec (.addSat pm ty t0 t1) s =
       .next (s.valued fl j pm readsAB t0 t1 fun a b _ _ => both (ext ty (max (least ty) (min (greatest ty) (val ty a + val ty b))))) ∧
     exec (.sub pm ty t0 t1) s =
       .next (s.valued fl j pm readsAB t0 t1 fun a b _ _ => both (ext ty (val ty a - val ty b))) ∧
     exec (.subSat pm ty t0 t1) s =
       .next (s.valued fl j pm readsAB t0 t1 fun a b _ _ => both (ext ty (max (least ty) (min (greatest ty) (val ty a - val ty b))))) ∧
     exec (.mul pm ty t0 t1) s =
       .next (s.valued fl j pm readsAB t0 t1 fun a b _ _ => both (ext ty (val ty a * val ty b))) ∧
     exec (.mulh pm ty t0 t1) s =
       .next (s.valued fl j pm readsAB t0 t1 fun a b _ _ => both (ext ty (val ty a * val ty b / 2 ^ ty.bits))) ∧
     exec (.madd pm ty t0 t1) s =
       .next (s.valued fl j pm readsABC t0 t1 fun a b c _ => both (ext ty (val ty a * val ty b + val ty c))) ∧
     exec (.min pm ty t0 t1) s =
       .next (s.valued fl j pm readsAB t0 t1 fun a b _ _ => both (ext ty (min (val ty a) (val ty b)))) ∧
     exec (.max pm ty t0 t1) s =
       .next (s.valued fl j pm readsAB t0 t1 fun a b _ _ => both (ext ty (max (val ty a) (val ty b)))) ∧
     exec (.abs pm ty t0 t1) s =
       .next (s.valued fl j pm readsA t0 t1 fun a _ _ _ => both (ext ty (val ty a).natAbs)) ∧
     exec (.neg pm ty t0 t1) s =
       .next (s.valued fl j pm readsA t0 t1 fun a _ _ _ => both (ext ty (-val ty a))) ∧
     ([opOf (.add pm ty t0 t1), opOf (.addSat pm ty t0 t1), opOf (.sub pm ty t0 t1), opOf (.subSat pm ty t0 t1),
       opOf (.mul pm ty t0 t1), opOf (.mulh pm ty t0 t1), opOf (.madd pm ty t0 t1), opOf (.min pm ty t0 t1),
       opOf (.max pm ty t0 t1), opOf (.abs pm ty t0 t1), opOf (.neg pm ty t0 t1)] =
       [0x20, 0x21, 0x22, 0x23, 0x25, 0x26, 0x27, 0x2A, 0x2B, 0x2C, 0x2D]) ∧
     (ty.signed = false → Instr.wf (.abs pm ty t0 t1) = false)) ∧
  (∀ (s : State) (fl : Flock) (j : Nat) (pm : Pm) (ty : Ity) (t0 t1 : Target) (imm : BitVec 13), Issued s fl j →
     exec (.addi pm t0 imm) s =
       .next (s.valued fl j pm readsA t0 .none fun a _ _ _ => both (a + BitVec.ofInt 64 imm.toInt)) ∧
     opOf (.addi pm t0 imm) = 0x24 ∧ opOf (.div pm ty t0 t1) = 0x28 ∧ opOf (.rem pm ty t0 t1) = 0x29 ∧
     ∃ q r : Word → Word → Int,
       exec (.div pm ty t0 t1) s =
         .next (s.valued fl j pm readsAB t0 t1 fun a b _ _ => (ext ty (q a b), ext ty (r a b))) ∧
       exec (.rem pm ty t0 t1) s = .next (s.valued fl j pm readsAB t0 t1 fun a b _ _ => both (ext ty (r a b))) ∧
       ∀ a b : Word,
         (val ty b = 0 → q a b = (if ty.signed then -1 else 2 ^ ty.bits - 1) ∧ r a b = val ty a) ∧
         (val ty b ≠ 0 → ty.signed = true → val ty a = least ty → val ty b = -1 → q a b = least ty ∧ r a b = 0) ∧
         (val ty b ≠ 0 → ¬(ty.signed = true ∧ val ty a = least ty ∧ val ty b = -1) →
           val ty a = q a b * val ty b + r a b ∧ (r a b).natAbs < (val ty b).natAbs ∧ 0 ≤ r a b * val ty a ∧
           0 ≤ q a b * (val ty a * val ty b)))

/-- R77, R84, R85: the bitwise forms on all 64 bits, the choice by P, and the predicate forms on bit 0. That `sel` delivers
a void-marked value where either A or B is marked, whichever it takes, is the model's reading (log entry 15). -/
def Obligations.BitwiseAndPredicates : Prop :=
  ∀ (s : State) (fl : Flock) (j : Nat) (pm : Pm) (t0 t1 : Target), Issued s fl j →
    let bit := fun b : Bool => if b then (1 : Word) else 0
    exec (.and pm t0 t1) s = .next (s.valued fl j pm readsAB t0 t1 fun a b _ _ => both (BitVec.ofNat 64 (Nat.land a.toNat b.toNat))) ∧
    exec (.or pm t0 t1) s = .next (s.valued fl j pm readsAB t0 t1 fun a b _ _ => both (BitVec.ofNat 64 (Nat.lor a.toNat b.toNat))) ∧
    exec (.xor pm t0 t1) s = .next (s.valued fl j pm readsAB t0 t1 fun a b _ _ => both (BitVec.ofNat 64 (Nat.xor a.toNat b.toNat))) ∧
    exec (.andn pm t0 t1) s =
      .next (s.valued fl j pm readsAB t0 t1 fun a b _ _ => both (BitVec.ofNat 64 (Nat.land a.toNat (2 ^ 64 - 1 - b.toNat)))) ∧
    exec (.not pm t0 t1) s = .next (s.valued fl j pm readsA t0 t1 fun a _ _ _ => both (BitVec.ofNat 64 (2 ^ 64 - 1 - a.toNat))) ∧
    exec (.sel pm t0 t1) s = .next (s.valued fl j pm readsAB t0 t1 fun a b _ p => both (match p with | true => a | false => b)) ∧
    exec (.pand pm t0 t1) s =
      .next (s.valued fl j pm readsAB t0 t1 fun a b _ _ => both (bit (a.toNat % 2 = 1 ∧ b.toNat % 2 = 1))) ∧
    exec (.por pm t0 t1) s =
      .next (s.valued fl j pm readsAB t0 t1 fun a b _ _ => both (bit (a.toNat % 2 = 1 ∨ b.toNat % 2 = 1))) ∧
    exec (.pxor pm t0 t1) s =
      .next (s.valued fl j pm readsAB t0 t1 fun a b _ _ => both (bit (a.toNat % 2 ≠ b.toNat % 2))) ∧
    exec (.pnot pm t0 t1) s = .next (s.valued fl j pm readsA t0 t1 fun a _ _ _ => both (bit (a.toNat % 2 = 0))) ∧
    (let forms : List Instr := [.and pm t0 t1, .or pm t0 t1, .xor pm t0 t1, .andn pm t0 t1, .not pm t0 t1, .sel pm t0 t1,
       .pand pm t0 t1, .por pm t0 t1, .pxor pm t0 t1, .pnot pm t0 t1]
     forms.map opOf = [0x30, 0x31, 0x32, 0x33, 0x34, 0x48, 0x49, 0x4A, 0x4B, 0x4C] ∧ ∀ i ∈ forms, subOf i = 0)

/-- R78, R79: the shifts on the low bits of a width, by any natural amount, and by an immediate. R80: counts of leading and
trailing zeros and of set bits, bit reversal and byte reversal, all zero-extended. -/
def Obligations.ShiftsAndCounts : Prop :=
  (∀ (s : State) (fl : Flock) (j : Nat) (pm : Pm) (w : Width) (t0 t1 : Target) (amt : BitVec 6), Issued s fl j →
     let shl := fun (a : Word) (n : Nat) => (low w a <<< n).setWidth 64
     let shr := fun (a : Word) (n : Nat) => (low w a >>> n).setWidth 64
     let sar := fun (a : Word) (n : Nat) => ((low w a).sshiftRight n).signExtend 64
     let rot := fun (a : Word) (n : Nat) => ((low w a).rotateLeft n).setWidth 64
     exec (.shl pm w t0 t1) s = .next (s.valued fl j pm readsAB t0 t1 fun a b _ _ => both (shl a b.toNat)) ∧
     exec (.shr pm w t0 t1) s = .next (s.valued fl j pm readsAB t0 t1 fun a b _ _ => both (shr a b.toNat)) ∧
     exec (.sar pm w t0 t1) s = .next (s.valued fl j pm readsAB t0 t1 fun a b _ _ => both (sar a b.toNat)) ∧
     exec (.rotl pm w t0 t1) s = .next (s.valued fl j pm readsAB t0 t1 fun a b _ _ => both (rot a b.toNat)) ∧
     exec (.shli pm t0 w amt) s = .next (s.valued fl j pm readsA t0 .none fun a _ _ _ => both (shl a amt.toNat)) ∧
     exec (.shri pm t0 w amt) s = .next (s.valued fl j pm readsA t0 .none fun a _ _ _ => both (shr a amt.toNat)) ∧
     exec (.sari pm t0 w amt) s = .next (s.valued fl j pm readsA t0 .none fun a _ _ _ => both (sar a amt.toNat)) ∧
     exec (.rotli pm t0 w amt) s = .next (s.valued fl j pm readsA t0 .none fun a _ _ _ => both (rot a amt.toNat)) ∧
     (w.bits ≤ amt.toNat →
       Instr.wf (.shli pm t0 w amt) = false ∧ Instr.wf (.shri pm t0 w amt) = false ∧ Instr.wf (.sari pm t0 w amt) = false ∧
       Instr.wf (.rotli pm t0 w amt) = false)) ∧
  (∀ (s : State) (fl : Flock) (j : Nat) (pm : Pm) (w : Width) (t0 t1 : Target), Issued s fl j →
     ∃ clz ctz popc brev bswap : Word → Word,
       exec (.clz pm w t0 t1) s = .next (s.valued fl j pm readsA t0 t1 fun a _ _ _ => both (clz a)) ∧
       exec (.ctz pm w t0 t1) s = .next (s.valued fl j pm readsA t0 t1 fun a _ _ _ => both (ctz a)) ∧
       exec (.popc pm w t0 t1) s = .next (s.valued fl j pm readsA t0 t1 fun a _ _ _ => both (popc a)) ∧
       exec (.brev pm w t0 t1) s = .next (s.valued fl j pm readsA t0 t1 fun a _ _ _ => both (brev a)) ∧
       exec (.bswap pm w t0 t1) s = .next (s.valued fl j pm readsA t0 t1 fun a _ _ _ => both (bswap a)) ∧
       ∀ a : Word,
         ((clz a).toNat ≤ w.bits ∧ (∀ i, i < (clz a).toNat → a.getLsbD (w.bits - 1 - i) = false) ∧
           ((clz a).toNat < w.bits → a.getLsbD (w.bits - 1 - (clz a).toNat) = true)) ∧
         ((ctz a).toNat ≤ w.bits ∧ (∀ i, i < (ctz a).toNat → a.getLsbD i = false) ∧
           ((ctz a).toNat < w.bits → a.getLsbD (ctz a).toNat = true)) ∧
         (popc a).toNat = ((List.range w.bits).filter fun i => a.getLsbD i).length ∧
         (∀ i, (brev a).getLsbD i = (decide (i < w.bits) && a.getLsbD (w.bits - 1 - i))) ∧
         (∀ i, (bswap a).getLsbD i = (decide (i < w.bits) && a.getLsbD (8 * (w.bits / 8 - 1 - i / 8) + i % 8))))

/-- R81, R82, R86: bit fields under a control word of position and length, extension from a width, and the halves. R83: the
five conditions on all 64 bits; `cmp` delivers the complement to T1, `cmpi` compares with the sign-extended immediate. -/
def Obligations.FieldsAndCompares : Prop :=
  (∀ (s : State) (fl : Flock) (j : Nat) (pm : Pm) (sg : Bool) (w : Width) (t0 t1 : Target), Issued s fl j →
     ∃ bfx : Word → Word → Word, ∃ bfi : Word → Word → Word → Word,
       exec (.bfx pm sg t0 t1) s = .next (s.valued fl j pm readsAB t0 t1 fun a b _ _ => both (bfx a b)) ∧
       exec (.bfi pm t0 t1) s = .next (s.valued fl j pm readsABC t0 t1 fun a b c _ => both (bfi a b c)) ∧
       (∀ (a b ctl : Word) (i : Nat), i < 64 →
         let p := ctl.toNat % 64
         let l := min (ctl.toNat / 256 % 128) (64 - p)
         (bfx a ctl).getLsbD i = (if i < l then a.getLsbD (p + i) else sg && decide (0 < l) && a.getLsbD (p + l - 1)) ∧
         (bfi a b ctl).getLsbD i = if p ≤ i ∧ i < p + l then b.getLsbD (i - p) else a.getLsbD i) ∧
       exec (.sext pm w t0 t1) s = .next (s.valued fl j pm readsA t0 t1 fun a _ _ _ => both ((low w a).signExtend 64)) ∧
       exec (.zext pm w t0 t1) s = .next (s.valued fl j pm readsA t0 t1 fun a _ _ _ => both ((low w a).setWidth 64)) ∧
       exec (.pack2 pm .h16 t0 t1) s =
         .next (s.valued fl j pm readsAB t0 t1 fun a b _ _ => both ((b.setWidth 16 ++ a.setWidth 16).setWidth 64)) ∧
       exec (.pack2 pm .h32 t0 t1) s =
         .next (s.valued fl j pm readsAB t0 t1 fun a b _ _ => both (b.setWidth 32 ++ a.setWidth 32)) ∧
       exec (.unpk pm .h16 t0 t1) s =
         .next (s.valued fl j pm readsA t0 t1 fun a _ _ _ => ((a.extractLsb' 0 16).setWidth 64, (a.extractLsb' 16 16).setWidth 64)) ∧
       exec (.unpk pm .h32 t0 t1) s =
         .next (s.valued fl j pm readsA t0 t1 fun a _ _ _ => ((a.extractLsb' 0 32).setWidth 64, (a.extractLsb' 32 32).setWidth 64))) ∧
  (∀ (s : State) (fl : Flock) (j : Nat) (pm : Pm) (c : Cond) (t0 t1 : Target) (imm : BitVec 10), Issued s fl j →
     let holds := fun a b : Word => match c with
       | .eq => decide (a.toNat = b.toNat)
       | .lt => decide (a.toInt < b.toInt)
       | .le => decide (a.toInt ≤ b.toInt)
       | .ltu => decide (a.toNat < b.toNat)
       | .leu => decide (a.toNat ≤ b.toNat)
     let bit := fun b : Bool => if b then (1 : Word) else 0
     exec (.cmp pm c t0 t1) s =
       .next (s.valued fl j pm readsAB t0 t1 fun a b _ _ => (bit (holds a b), bit (!holds a b))) ∧
     exec (.cmpi pm t0 c imm) s =
       .next (s.valued fl j pm readsA t0 .none fun a _ _ _ => both (bit (holds a (BitVec.ofInt 64 imm.toInt)))))

/-- R68, R69, R72, R73: a frame slot's payload and void bit, a constant word, immediates, and a value passed on. R30: a read
of a lane register delivers, with its mark, the write of the highest-indexed instruction below it; a register that none
wrote reads a free value (log entry 8), whose draw is counted. R463: in a lane that `resume` continues with the register
image of its record, a read at or above the faulting index takes the image in place of a lower writer below that index,
and a register that none wrote reads the image. R71, R52, R396: the value of every special register, outside an
emulation handler and, for the five emulation registers, inside one. -/
def Obligations.BlockInputs : Prop :=
  (∀ (s : State) (fl : Flock) (j : Nat) (pm : Pm) (n : BitVec 4) (t0 t1 : Target) (imm : BitVec 13), Issued s fl j →
     exec (.ldf pm n t0 t1) s =
       .next (s.executed fl j pm t0 t1 fun ln _ =>
         let v : Val := { bits := match ln.frame[n.toNat]? with | some (w, _) => w | none => 0, void := false }
         (v, v)) ∧
     exec (.ldfv pm n t0 t1) s =
       .next (s.executed fl j pm t0 t1 fun ln _ =>
         let v : Val := { bits := match ln.frame[n.toNat]? with | some (_, true) => 1 | _ => 0, void := false }
         (v, v)) ∧
     (∀ (b : LBlock) (w : IWord), s.block? fl.ctx fl.block = some b → b.consts[n.toNat]? = some w →
       exec (.ldk pm n t0 t1) s =
         .next (s.executed fl j pm t0 t1 fun _ _ => ({ bits := BitVec.ofNat 64 w.toNat }, { bits := BitVec.ofNat 64 w.toNat }))) ∧
     exec (.movi pm t0 imm) s =
       .next (s.valued fl j pm readsNone t0 .none fun _ _ _ _ => both (BitVec.ofInt 64 imm.toInt)) ∧
     exec (.movhi pm t0 imm) s =
       .next (s.valued fl j pm readsA t0 .none fun a _ _ _ => both (BitVec.ofNat 64 (a.toNat * 2 ^ 13 + imm.toNat))) ∧
     exec (.nop pm t0 t1) s = .next (s.valued fl j pm readsA t0 t1 fun a _ _ _ => both a)) ∧
  (∀ (s : State) (fl : Flock) (j : Nat) (pm : Pm) (t0 : Target) (x : BitVec 6), Issued s fl j →
     ∃ f : Lane → Val,
       exec (.getx pm t0 x) s =
         .next ((s.executed fl j pm t0 .none fun ln _ => (f ln, f ln)).draw fl.ctx fl.core) ∧
       ∀ ln : Lane,
         let highest := fun w : RegWrite => w ∈ ln.regs ∧ w.x = x.toNat ∧ w.idx < j ∧
           ∀ v : RegWrite, v ∈ ln.regs → v.x = x.toNat → v.idx < j → v = w ∨ v.idx < w.idx
         (ln.image = none →
           (∀ w : RegWrite, highest w → f ln = w.val) ∧
           ((∀ w : RegWrite, w ∈ ln.regs → w.x = x.toNat → j ≤ w.idx) →
             f ln = { bits := s.unwritten fl.ctx fl.core ln.lane, void := false })) ∧
         (∀ (i : Nat) (img : List Val) (v : Val), ln.image = some (i, img) → img[x.toNat]? = some v →
           (∀ w : RegWrite, highest w → (j < i ∨ i ≤ w.idx) → f ln = w.val) ∧
           ((∀ w : RegWrite, w ∈ ln.regs → w.x = x.toNat → w.idx < j → i ≤ j ∧ w.idx < i) → f ln = v))) ∧
  (∀ (s : State) (fl : Flock) (j : Nat) (pm : Pm) (sr : SpecialReg) (t0 : Target), Issued s fl j →
     ∃ f : Lane → Word,
       exec (.gets pm sr t0) s = .next (s.executed fl j pm t0 .none fun ln _ => ({ bits := f ln }, { bits := f ln })) ∧
       ∀ ln : Lane,
         (match sr with
          | .ctx => f ln = ln.tag.ctx.setWidth 64
          | .dom => f ln = ln.tag.dom.setWidth 64
          | .home => f ln = ln.tag.home.setWidth 64
          | .act => f ln = ln.tag.act.setWidth 64
          | .idx => f ln = ln.tag.idx.setWidth 64
          | .liter => (f ln).toNat = if ln.tag.dom = 0 then ln.tag.idx.toNat else ln.epoch.toNat * 1024 + ln.tag.idx.toNat
          | .lane => f ln = BitVec.ofNat 64 ln.lane
          | .fsize => f ln = BitVec.ofNat 64 ln.fsize
          | .core => f ln = BitVec.ofNat 64 fl.core
          | .die => f ln = BitVec.ofNat 64 (fl.core / 64)
          | .pkg => f ln = BitVec.ofNat 64 s.pkgid
          | .pasture => ∀ c : Ctx, s.ctx? fl.ctx = some c → c.gang = none → c.pasture.length < 65536 → fl.core ∈ c.pasture →
              (f ln).toNat / 65536 = c.pasture.length ∧ c.pasture[(f ln).toNat % 65536]? = some fl.core
          | .tick => f ln = BitVec.ofNat 64 s.tick
          | .seed => ∀ c : Ctx, s.ctx? fl.ctx = some c → f ln = c.seed
          | .prio => ∀ c : Ctx, s.ctx? fl.ctx = some c → f ln = BitVec.ofNat 64 c.prio
          | .detmode => ∀ c : Ctx, s.ctx? fl.ctx = some c → f ln = if c.det then 1 else 0
          | .frec => (ln.hrec = none → f ln = 0) ∧
              ∀ h : Handles, ln.hrec = some h → f ln = BitVec.ofNat 64 (2 ^ (s.otpool.toNat % 32) - 64 + h.record)
          | .eword | .ea | .eb | .ec | .ep =>
              (ln.hrec = none → f ln = 0) ∧
              ∀ h : Handles, ln.hrec = some h →
                (h.trap = none → f ln = 0) ∧
                ∀ (w : IWord) (i : Nat) (a b c : Val) (p : Bool), h.trap = some (w, i, a, b, c, p) →
                  match sr with
                  | .eword => f ln = w.setWidth 64
                  | .ea => f ln = a.bits
                  | .eb => f ln = b.bits
                  | .ec => f ln = c.bits
                  | _ => f ln = BitVec.ofNat 64 ((if p then 1 else 0) + (if a.void then 2 else 0) + (if b.void then 4 else 0) +
                      (if c.void then 8 else 0) + 16 * i)))

/-- R28, R31: an instruction that performs its effect delivers its first result to T0 and its second to T1, to a latch of a
later instruction or to a lane register; one that does not perform it delivers to the same latches without a value and
writes no lane register. R29: of all that is delivered to a value latch, in whatever order, the latch holds the value of
the highest-indexed producer that performed its effect, else zero; every delivery counts. -/
def Obligations.ResultsReachTargets : Prop :=
  (∀ (ln : Lane) (j : Nat) (k : Cell) (r0 r1 : Val) (x : BitVec 6) (i : BitVec 6) (c : Cell) (y : Latch),
     ln.cells[j]? = some k → ln.cells[i.toNat]? = some c → j < i.toNat →
     ((ln.complete j true (.reg x) (.latch y i) r0 r1).regs = ln.regs ++ [{ x := x.toNat, idx := j, val := r0 }] ∧
      (ln.complete j true (.reg x) (.latch y i) r0 r1).cells =
        (ln.cells.set j { k with issued := true, done := true, perf := true, r0 := r0, r1 := r1 }).set i.toNat
          (c.deliver y j (some r1)) ∧
      (ln.complete j true (.latch y i) (.reg x) r0 r1).regs = ln.regs ++ [{ x := x.toNat, idx := j, val := r1 }] ∧
      (ln.complete j true (.latch y i) (.reg x) r0 r1).cells =
        (ln.cells.set j { k with issued := true, done := true, perf := true, r0 := r0, r1 := r1 }).set i.toNat
          (c.deliver y j (some r0))) ∧
     ((ln.complete j false (.latch y i) (.reg x) r0 r1).regs = ln.regs ∧
      (ln.complete j false (.reg x) (.latch y i) r0 r1).regs = ln.regs ∧
      (ln.complete j false (.latch y i) (.reg x) r0 r1).cells =
        (ln.cells.set j { k with issued := true, done := true, perf := false, r0 := { bits := 0 }, r1 := { bits := 0 } }).set
          i.toNat (c.deliver y j none))) ∧
  (∀ l : List (Nat × Option Val), (l.map Prod.fst).Nodup →
     let a := l.foldl (fun c d => Cell.deliver .a d.1 d.2 c) { waitA := l.length }
     let b := l.foldl (fun c d => Cell.deliver .b d.1 d.2 c) { waitB := l.length }
     let c := l.foldl (fun c d => Cell.deliver .c d.1 d.2 c) { waitC := l.length }
     let p := l.foldl (fun c d => Cell.deliver .p d.1 d.2 c) { waitP := l.length }
     (a.waitA = 0 ∧ b.waitB = 0 ∧ c.waitC = 0 ∧ p.waitP = 0) ∧
     (∀ (n : Nat) (v : Val), (n, some v) ∈ l → (∀ (m : Nat) (w : Val), (m, some w) ∈ l → m ≤ n) →
       a.a = v ∧ b.b = v ∧ c.c = v ∧ p.p = v.bits.getLsbD 0) ∧
     ((∀ d ∈ l, d.2 = none) → a.a = { bits := 0 } ∧ b.b = { bits := 0 } ∧ c.c = { bits := 0 } ∧ p.p = false))

/-- R101, R102: on the grid of a binary floating-point format a positive value lies between two neighbours; rounding takes
one of them: the lower one toward zero, the nearer one to nearest and on a tie the even one, the upper one of a positive
inexact value toward +∞ and of a negative one toward −∞, and stochastically either, an exact value as it is. -/
def Obligations.RoundingToNeighbours : Prop :=
  ∀ (t : FTy) (neg : Bool) (n d : Nat), 0 < n → 0 < d →
    let f := ffOf t
    let k := f.gridOrd .rz neg n d
    let x := XNum.fin false n d
    let twice := fun v : XNum => match v with | .fin g m e => XNum.fin g (2 * m) e | v => v
    let mid := (f.ordVal false k).add false (f.ordVal false (k + 1))
    x.lt (f.ordVal false k) = false ∧ x.lt (f.ordVal false (k + 1)) = true ∧
    (f.gridOrd .rne neg n d =
      if (twice x).lt mid then k else if mid.lt (twice x) then k + 1 else if k % 2 = 0 then k else k + 1) ∧
    (f.gridOrd .rup false n d = if (f.ordVal false k).lt x then k + 1 else k) ∧
    f.gridOrd .rup true n d = k ∧ f.gridOrd .rdn false n d = k ∧
    f.gridOrd .rdn true n d = f.gridOrd .rup false n d ∧
    -- the stochastic mode takes one of the two, an exact value as it is, and the upper one the sooner the smaller its bits (R106)
    ∀ u : Nat, (f.gridOrd (.rsr u) neg n d = k ∨ f.gridOrd (.rsr u) neg n d = k + 1) ∧
      ((f.ordVal false k).lt x = false → f.gridOrd (.rsr u) neg n d = k) ∧
      (∀ v : Nat, u ≤ v → f.gridOrd (.rsr v) neg n d ≤ f.gridOrd (.rsr u) neg n d)

/-- R109, R111, R112, R98: the six arithmetic forms round the exact result once into the type; a NaN operand and the invalid
cases give the canonical NaN, of `ffma` 0 × ∞ and an infinite product with an infinity of the other sign; the signs of
zeros and infinities. A square root is fixed by the squares of the ratios on either side of it. -/
def Obligations.FloatArithmetic : Prop :=
  ∀ (s : State) (fl : Flock) (j : Nat) (pm : Pm) (rm : Rnd) (ty : FTy) (t0 t1 : Target), Issued s fl j →
    ∃ add sub mul div : Word → Word → Word, ∃ fma : Word → Word → Word → Word, ∃ sqrt : Word → Word,
      exec (.fadd pm rm ty t0 t1) s = .next (s.valued fl j pm readsAB t0 t1 fun a b _ _ => both (add a b)) ∧
      exec (.fsub pm rm ty t0 t1) s = .next (s.valued fl j pm readsAB t0 t1 fun a b _ _ => both (sub a b)) ∧
      exec (.fmul pm rm ty t0 t1) s = .next (s.valued fl j pm readsAB t0 t1 fun a b _ _ => both (mul a b)) ∧
      exec (.ffma pm rm ty t0 t1) s = .next (s.valued fl j pm readsABC t0 t1 fun a b c _ => both (fma a b c)) ∧
      exec (.fdiv pm rm ty t0 t1) s = .next (s.valued fl j pm readsAB t0 t1 fun a b _ _ => both (div a b)) ∧
      exec (.fsqrt pm rm ty t0 t1) s = .next (s.valued fl j pm readsA t0 t1 fun a _ _ _ => both (sqrt a)) ∧
      let f := ffOf ty
      let dec := fun w : Word => f.decode (w.toNat % 2 ^ f.width)
      let round := fun (g : Bool) (m e : Nat) => BitVec.ofNat 64 (roundTo f (rndMode rm) false (.fin g m e))
      let nan : Word := match ty with | .f32 => 0x7FC00000 | .f16 => 0x7E00 | .bf16 => 0x7FC0
      let inf : Bool → Word := fun g => match ty with
        | .f32 => if g then 0xFF800000 else 0x7F800000
        | .f16 => if g then 0xFC00 else 0x7C00
        | .bf16 => if g then 0xFF80 else 0x7F80
      let zero : Bool → Word := fun g => match ty with
        | .f32 => if g then 0x80000000 else 0
        | .f16 | .bf16 => if g then 0x8000 else 0
      -- NaN operands
      (∀ a b c : Word, dec a = .nan →
        add a b = nan ∧ add b a = nan ∧ sub a b = nan ∧ sub b a = nan ∧ mul a b = nan ∧ mul b a = nan ∧ div a b = nan ∧
        div b a = nan ∧ sqrt a = nan ∧ fma a b c = nan ∧ fma b a c = nan ∧ fma b c a = nan) ∧
      -- infinite operands
      (∀ (a b : Word) (g h : Bool), dec a = .inf g → dec b = .inf h →
        add a b = (if g = h then inf g else nan) ∧ sub a b = (if g = h then nan else inf g) ∧ mul a b = inf (g != h) ∧
        div a b = nan ∧ sqrt a = if g then nan else inf false) ∧
      (∀ (a b : Word) (g h : Bool) (m e : Nat), dec a = .inf g → dec b = .fin h m e →
        add a b = inf g ∧ add b a = inf g ∧ sub a b = inf g ∧ sub b a = inf (!g) ∧ mul a b = (if m = 0 then nan else inf (g != h)) ∧
        mul b a = (if m = 0 then nan else inf (g != h)) ∧ div a b = inf (g != h) ∧ div b a = zero (g != h)) ∧
      -- finite operands
      (∀ (a b : Word) (g h : Bool) (m e m' e' : Nat), dec a = .fin g m e → dec b = .fin h m' e' →
        let x : Int := (if g then -(m : Int) else m) * e' + (if h then -(m' : Int) else m') * e
        let y : Int := (if g then -(m : Int) else m) * e' - (if h then -(m' : Int) else m') * e
        add a b = (if x = 0 then zero (if g = h then g else rm = .rdn) else round (x < 0) x.natAbs (e * e')) ∧
        sub a b = (if y = 0 then zero (if g ≠ h then g else rm = .rdn) else round (y < 0) y.natAbs (e * e')) ∧
        mul a b = (if m * m' = 0 then zero (g != h) else round (g != h) (m * m') (e * e')) ∧
        div a b = (if m' = 0 then (if m = 0 then nan else inf (g != h))
                   else if m = 0 then zero (g != h) else round (g != h) (m * e') (e * m')) ∧
        (m = 0 → sqrt a = zero g) ∧ (0 < m → g = true → sqrt a = nan)) ∧
      (∀ (a b c : Word) (g h l : Bool) (m e m' e' m'' e'' : Nat),
        dec a = .fin g m e → dec b = .fin h m' e' → dec c = .fin l m'' e'' →
        let x : Int := (if g != h then -((m * m' : Nat) : Int) else (m * m' : Nat)) * e'' +
          (if l then -(m'' : Int) else m'') * (e * e' : Nat)
        fma a b c = if x = 0 then zero (if (g != h) = l then l else rm = .rdn) else round (x < 0) x.natAbs (e * e' * e'')) ∧
      -- `ffma` with infinite operands
      (∀ (a b c : Word) (g h : Bool) (e : Nat), dec a = .inf g → dec b = .fin h 0 e → fma a b c = nan ∧ fma b a c = nan) ∧
      (∀ (a b c : Word) (g h : Bool), dec a = .inf g → (dec b = .inf h ∨ ∃ m e, m ≠ 0 ∧ dec b = .fin h m e) →
        (∀ l : Bool, dec c = .inf l → let v := if (g != h) = l then inf l else nan; fma a b c = v ∧ fma b a c = v) ∧
        (∀ (l : Bool) (m e : Nat), dec c = .fin l m e → fma a b c = inf (g != h) ∧ fma b a c = inf (g != h))) ∧
      (∀ (a b c : Word) (g h l : Bool) (m e m' e' : Nat), dec a = .fin g m e → dec b = .fin h m' e' → dec c = .inf l →
        fma a b c = inf l) ∧
      -- a positive root is rounded as every ratio below it and above it allows, which fixes it; one that is a ratio is rounded as such
      (∀ (a : Word) (m e p q : Nat), dec a = .fin false m e → 0 < m → 0 < p → 0 < q →
        (p * p * e ≤ m * (q * q) → (round false p q).toNat ≤ (sqrt a).toNat) ∧
        (m * (q * q) ≤ p * p * e → (sqrt a).toNat ≤ (round false p q).toNat))

/-- R113–R116: the lesser and the greater of two operands with a NaN skipped, sign operations on the bits, comparison with
its complement, and the class mask of the raw bits. R117–R121: rounding to an integral value in each type; the two
estimates of a normal operand by their tables, in bits; and the exact and special results of the five transcendental
forms, which depend on the operand's 32 bits alone. -/
def Obligations.FloatComparisonAndEstimates : Prop :=
  (∀ (s : State) (fl : Flock) (j : Nat) (pm : Pm) (ty : FTy) (c : FCond) (t0 t1 : Target), Issued s fl j →
     ∃ fmin fmax : Word → Word → Word, ∃ fabs fneg fclass : Word → Word, ∃ holds : Word → Word → Bool,
       exec (.fmin pm ty t0 t1) s = .next (s.valued fl j pm readsAB t0 t1 fun a b _ _ => both (fmin a b)) ∧
       exec (.fmax pm ty t0 t1) s = .next (s.valued fl j pm readsAB t0 t1 fun a b _ _ => both (fmax a b)) ∧
       exec (.fabs pm ty t0 t1) s = .next (s.valued fl j pm readsA t0 t1 fun a _ _ _ => both (fabs a)) ∧
       exec (.fneg pm ty t0 t1) s = .next (s.valued fl j pm readsA t0 t1 fun a _ _ _ => both (fneg a)) ∧
       exec (.fcmp pm c ty t0 t1) s =
         .next (s.valued fl j pm readsAB t0 t1 fun a b _ _ => (if holds a b then 1 else 0, if holds a b then 0 else 1)) ∧
       exec (.fclass pm ty t0 t1) s = .next (s.valued fl j pm readsA t0 t1 fun a _ _ _ => both (fclass a)) ∧
       let w := match ty with | .f32 => 32 | .f16 | .bf16 => 16
       let frac := match ty with | .f32 => 23 | .f16 => 10 | .bf16 => 7
       let lowW := fun a : Word => BitVec.ofNat 64 (a.toNat % 2 ^ w)
       let dec := fun a : Word => (ffOf ty).decode (a.toNat % 2 ^ w)
       let nan : Word := match ty with | .f32 => 0x7FC00000 | .f16 => 0x7E00 | .bf16 => 0x7FC0
       let sign := fun a : Word => a.getLsbD (w - 1)
       let fld := fun a : Word => a.toNat % 2 ^ (w - 1) / 2 ^ frac
       let tail := fun a : Word => a.toNat % 2 ^ frac
       let ones := 2 ^ (w - 1 - frac) - 1
       ∀ a b : Word,
         (dec a = .nan ↔ fld a = ones ∧ tail a ≠ 0) ∧
         (dec a = .nan → dec b = .nan → fmin a b = nan ∧ fmax a b = nan) ∧
         (dec a = .nan → dec b ≠ .nan →
           fmin a b = lowW b ∧ fmin b a = lowW b ∧ fmax a b = lowW b ∧ fmax b a = lowW b) ∧
         (dec a ≠ .nan → dec b ≠ .nan →
           (fmin a b = lowW a ∧ fmax a b = lowW b ∧ (dec b).lt (dec a) = false ∨
            fmin a b = lowW b ∧ fmax a b = lowW a ∧ (dec a).lt (dec b) = false) ∧
           (sign a = true → sign b = false → fmin a b = lowW a ∧ fmax a b = lowW b)) ∧
         (dec a = .nan → fabs a = nan ∧ fneg a = nan) ∧
         (dec a ≠ .nan → fabs a = BitVec.ofNat 64 (a.toNat % 2 ^ (w - 1)) ∧
           fneg a = BitVec.ofNat 64 (a.toNat % 2 ^ (w - 1) + if sign a then 0 else 2 ^ (w - 1))) ∧
         (holds a b = match c with
           | .eq => (dec a).eqv (dec b)
           | .lt => (dec a).lt (dec b)
           | .le => (dec a).lt (dec b) || (dec a).eqv (dec b)
           | .un => decide (dec a = .nan ∨ dec b = .nan)) ∧
         fclass a = BitVec.ofNat 64 (2 ^ (
           if fld a = ones then
             if tail a = 0 then (if sign a then 0 else 7) else if a.getLsbD (frac - 1) then 9 else 8
           else if fld a = 0 then
             if tail a = 0 then (if sign a then 3 else 4) else if sign a then 2 else 5
           else if sign a then 1 else 6))) ∧
  (∀ (s : State) (fl : Flock) (j : Nat) (pm : Pm) (rm : Rnd) (t0 t1 : Target), Issued s fl j →
     -- rounding to an integral value (R117)
     (∀ ty : FTy, ∃ fround : Word → Word,
       exec (.fround pm rm ty t0 t1) s = .next (s.valued fl j pm readsA t0 t1 fun a _ _ _ => both (fround a)) ∧
       let w := match ty with | .f32 => 32 | .f16 | .bf16 => 16
       let dec := fun a : Word => (ffOf ty).decode (a.toNat % 2 ^ w)
       let same := fun a : Word => BitVec.ofNat 64 (a.toNat % 2 ^ w)
       ∀ a : Word,
         (dec a = .nan → fround a = match ty with | .f32 => 0x7FC00000 | .f16 => 0x7E00 | .bf16 => 0x7FC0) ∧
         (∀ g : Bool, dec a = .inf g → fround a = same a) ∧
         (∀ (g : Bool) (m d : Nat), dec a = .fin g m d →
           let z : Int := if g then -(m : Int) else m
           let i : Int := match rm with
             | .rz => Int.tdiv z d
             | .rdn => z / d
             | .rup => -(-z / d)
             | .rne => if 2 * (z % d) < d then z / d else if d < 2 * (z % d) then z / d + 1
                       else if z / d % 2 = 0 then z / d else z / d + 1
           (m = 0 → fround a = same a) ∧
           (0 < m → 0 < d → fround a = BitVec.ofNat 64 (roundTo (ffOf ty) .rne false (.fin g i.natAbs 1))))) ∧
     ∃ rcp rsq ex lg sn cs th : Word → Word,
       exec (.frcpe pm t0 t1) s = .next (s.valued fl j pm readsA t0 t1 fun a _ _ _ => both (rcp a)) ∧
       exec (.frsqe pm t0 t1) s = .next (s.valued fl j pm readsA t0 t1 fun a _ _ _ => both (rsq a)) ∧
       exec (.fexp2 pm t0 t1) s = .next (s.valued fl j pm readsA t0 t1 fun a _ _ _ => both (ex a)) ∧
       exec (.flog2 pm t0 t1) s = .next (s.valued fl j pm readsA t0 t1 fun a _ _ _ => both (lg a)) ∧
       exec (.fsin pm t0 t1) s = .next (s.valued fl j pm readsA t0 t1 fun a _ _ _ => both (sn a)) ∧
       exec (.fcos pm t0 t1) s = .next (s.valued fl j pm readsA t0 t1 fun a _ _ _ => both (cs a)) ∧
       exec (.ftanh pm t0 t1) s = .next (s.valued fl j pm readsA t0 t1 fun a _ _ _ => both (th a)) ∧
       let nan : Word := 0x7FC00000
       let expo := fun a : Word => a.toNat / 2 ^ 23 % 256
       let tail := fun a : Word => a.toNat % 2 ^ 23
       let dec := fun a : Word => ffF32.decode (a.toNat % 2 ^ 32)
       let low32 := fun a : Word => BitVec.ofNat 64 (a.toNat % 2 ^ 32)
       let recip := [248, 233, 219, 206, 193, 181, 170, 159, 149, 139, 130, 121, 112, 104, 96, 89,
         82, 75, 68, 62, 56, 50, 45, 39, 34, 29, 24, 19, 15, 10, 6, 2]
       let root := [248, 234, 220, 208, 196, 186, 176, 166, 158, 150, 142, 135, 128, 121, 115, 109,
         101, 90, 81, 72, 64, 56, 49, 43, 37, 31, 25, 20, 15, 11, 6, 2]
       ∀ a b : Word,
         -- by the low 32 bits alone (R109, R121)
         (a.toNat % 2 ^ 32 = b.toNat % 2 ^ 32 →
           rcp a = rcp b ∧ rsq a = rsq b ∧ ex a = ex b ∧ lg a = lg b ∧ sn a = sn b ∧ cs a = cs b ∧ th a = th b) ∧
         (dec a = .nan → rcp a = nan ∧ rsq a = nan ∧ ex a = nan ∧ lg a = nan ∧ sn a = nan ∧ cs a = nan ∧ th a = nan) ∧
         -- the estimates (R118, R119)
         (1 ≤ expo a → expo a ≤ 252 → rcp a = BitVec.ofNat 64
           ((if a.getLsbD 31 then 2 ^ 31 else 0) + (253 - expo a) * 2 ^ 23 + (recip[tail a / 2 ^ 18]?.getD 0) * 2 ^ 15)) ∧
         (1 ≤ expo a → expo a ≤ 254 → a.getLsbD 31 = false →
           let q := (expo a + 1) % 2
           rsq a = BitVec.ofNat 64 ((379 + q - expo a) / 2 * 2 ^ 23 + (root[16 * q + tail a / 2 ^ 19]?.getD 0) * 2 ^ 15)) ∧
         (∀ g : Bool, dec a = .inf g → rcp a = (if g then 0x80000000 else 0) ∧ rsq a = (if g then nan else 0) ∧
           ex a = (if g then 0 else 0x7F800000) ∧ lg a = (if g then nan else 0x7F800000) ∧ sn a = nan ∧ cs a = nan ∧
           th a = (if g then 0xBF800000 else 0x3F800000)) ∧
         (∀ (g : Bool) (m d : Nat), dec a = .fin g m d →
           (m = 0 → rcp a = (if g then 0xFF800000 else 0x7F800000) ∧ rsq a = (if g then 0xFF800000 else 0x7F800000) ∧
             ex a = 0x3F800000 ∧ lg a = 0xFF800000 ∧ sn a = low32 a ∧ cs a = 0x3F800000 ∧ th a = low32 a) ∧
           (0 < m → g = true → rsq a = nan ∧ lg a = nan) ∧
           (g = false → 128 * d ≤ m → ex a = 0x7F800000) ∧ (g = true → 150 * d ≤ m → ex a = 0) ∧
           (m * 4096 < d → sn a = low32 a ∧ th a = low32 a) ∧
           (19 * d ≤ 2 * m → th a = if g then 0xBF800000 else 0x3F800000) ∧
           (∀ k : Nat, g = false → m = k * d → k ≤ 127 → ex a = BitVec.ofNat 64 ((k + 127) * 2 ^ 23)) ∧
           (∀ k : Nat, g = true → m = k * d → k ≤ 126 → ex a = BitVec.ofNat 64 ((127 - k) * 2 ^ 23)) ∧
           (∀ k : Nat, g = false → m = 2 ^ k * d → lg a = BitVec.ofNat 64 (roundTo ffF32 .rne false (.fin false k 1))) ∧
           (∀ k : Nat, g = false → 0 < k → m * 2 ^ k = d → lg a = BitVec.ofNat 64 (roundTo ffF32 .rne false (.fin true k 1)))))

/-- R122, R123: the packed pairs act on each half as the scalar form does; `dot4` is the exact sum of four products and C,
rounded once in its floating-point forms, with the NaN and the infinities of its operands. R124–R127, R104: `cvt`
between every two formats: between integer formats it wraps or saturates; into an integer format it rounds, then clamps,
and a NaN gives 0; into any other format it rounds the exact value of the source once under the opcode's mode and SAT
(the rounding functions of R101–R103; a floating-point type delivers a value of its own as it is). `cvtsr` does the same
under the stochastic mode, whose 32 bits R105 forms of the seed, CTX (0 under DET), the logical iteration, the block and
the index. Rounding into `.e8m0` under RUP and the stochastic mode follows the model's choice between rules that differ
(log entry 86). R101, R126: a value of a floating-point type converted to the same type comes back bit for bit, an
infinity too where SAT is clear (with SAT set, log entry 87), and a NaN as the canonical one. -/
def Obligations.PackedPairsAndConversions : Prop :=
  (∀ (s : State) (fl : Flock) (j : Nat) (pm : Pm) (rm : Rnd) (ty : FTy) (t0 t1 : Target), Issued s fl j → ty ≠ .f32 →
     ∃ add mul max2 : Word → Word → Word, ∃ fma : Word → Word → Word → Word, ∃ dot : Dot4Ty → Word → Word → Word → Word,
       exec (.hadd2 pm rm ty t0 t1) s = .next (s.valued fl j pm readsAB t0 t1 fun a b _ _ => both (add a b)) ∧
       exec (.hmul2 pm rm ty t0 t1) s = .next (s.valued fl j pm readsAB t0 t1 fun a b _ _ => both (mul a b)) ∧
       exec (.hmax2 pm ty t0 t1) s = .next (s.valued fl j pm readsAB t0 t1 fun a b _ _ => both (max2 a b)) ∧
       exec (.hfma2 pm rm ty t0 t1) s = .next (s.valued fl j pm readsABC t0 t1 fun a b c _ => both (fma a b c)) ∧
       (∀ d : Dot4Ty, exec (.dot4 pm d t0 t1) s = .next (s.valued fl j pm readsABC t0 t1 fun a b c _ => both (dot d a b c))) ∧
       ∀ a b c : Word,
         (∀ h : Nat, h < 2 →
           let p := fun w : Word => (w.extractLsb' (16 * h) 16).setWidth 64
           (add a b).extractLsb' (16 * h) 16 = (fadd ty rm (p a) (p b)).setWidth 16 ∧
           (mul a b).extractLsb' (16 * h) 16 = (fmul ty rm (p a) (p b)).setWidth 16 ∧
           (max2 a b).extractLsb' (16 * h) 16 = (fminmax true ty (p a) (p b)).setWidth 16 ∧
           (fma a b c).extractLsb' (16 * h) 16 = (ffma ty rm (p a) (p b) (p c)).setWidth 16) ∧
         (add a b).toNat < 2 ^ 32 ∧ (mul a b).toNat < 2 ^ 32 ∧ (max2 a b).toNat < 2 ^ 32 ∧ (fma a b c).toNat < 2 ^ 32 ∧
         (let e := fun (w : Word) (k : Nat) => (w.extractLsb' (8 * k) 8).toInt
          let u := fun (w : Word) (k : Nat) => (w.extractLsb' (8 * k) 8).toNat
          dot .i8 a b c = ext .i32 ((c.setWidth 32).toInt + e a 0 * e b 0 + e a 1 * e b 1 + e a 2 * e b 2 + e a 3 * e b 3) ∧
          dot .n8 a b c = ext .n32 (((c.setWidth 32).toNat + u a 0 * u b 0 + u a 1 * u b 1 + u a 2 * u b 2 + u a 3 * u b 3 : Nat) : Int) ∧
          (∀ k : Nat, k < 4 → u a k = 0x80 ∨ u b k = 0x80 →
            dot .b8p3 a b c = 0x7FC00000 ∧ dot .b8p4 a b c = 0x7FC00000 ∧ dot .b8p5 a b c = 0x7FC00000) ∧
          ∀ t : B8P, t = .p3 ∨ t = .p4 ∨ t = .p5 →
            let r := match t with | .p3 => dot .b8p3 a b c | .p4 => dot .b8p4 a b c | _ => dot .b8p5 a b c
            let cv := ffF32.decode (c.toNat % 2 ^ 32)
            (∀ k : Nat, k < 4 → u a k ≠ 0x80 ∧ u b k ≠ 0x80) →
              (cv = .nan → r = 0x7FC00000) ∧ (cv = .inf false → r = 0x7F800000) ∧ (cv = .inf true → r = 0xFF800000) ∧
              ∀ (g : Bool) (m d : Nat), cv = .fin g m d →
                let v := fun n : Nat => ((ffB8 false false t).decode n).value
                let z : Rat := cv.value + v (u a 0) * v (u b 0) + v (u a 1) * v (u b 1) + v (u a 2) * v (u b 2) + v (u a 3) * v (u b 3)
                (z = 0 → r = 0) ∧
                (z ≠ 0 → ∃ n q : Nat, 0 < q ∧ (n : Rat) = (if z < 0 then -z else z) * (q : Rat) ∧
                  r = BitVec.ofNat 64 (roundTo ffF32 .rne false (.fin (z < 0) n q))))) ∧
  (∀ (s : State) (fl : Flock) (j : Nat) (pm : Pm) (rm : Rnd) (sat : Bool) (t0 : Target) (dst src : Fmt), Issued s fl j →
     ∃ conv : Mode → Word → Word,
       exec (.cvt rm pm sat dst src t0) s =
         .next (s.valued fl j pm readsA t0 .none fun a _ _ _ => both (conv (rndMode rm) a)) ∧
       (∀ c : Ctx, s.ctx? fl.ctx = some c →
         exec (.cvtsr pm sat dst src t0) s =
           .next (s.executed fl j pm t0 .none fun ln k =>
             let e := BitVec.ofNat 64 (2 ^ 63 + 64 * fl.block + j)
             let l := if ln.tag.dom = 0 then ln.tag.idx.toNat else ln.epoch.toNat * 1024 + ln.tag.idx.toNat
             let x := if c.det then 0 else fl.ctx
             let z := mix64 (mix64 (c.seed ^^^ (BitVec.ofNat 64 x <<< 54) ^^^ (BitVec.ofNat 64 l <<< 22)) ^^^ e)
             let v : Val := { bits := conv (.rsr (z.toNat / 2 ^ 32)) k.a.bits, void := k.a.void }
             (v, v))) ∧
       ∀ (m : Mode) (a : Word),
         let size := match src with
           | .int t => t.bits
           | .f32 => 32
           | .f16 | .bf16 => 16
           | .e2m1 => 4
           | .e8m0 | .b8 _ _ _ => 8
         let x := decodeFmt src (a.toNat % 2 ^ size)
         match dst with
         | .int t =>
           (∀ q : Ity, src = .int q → conv m a = ext t (if sat then max (least t) (min (greatest t) (val q a)) else val q a)) ∧
           ((∀ q : Ity, src ≠ .int q) →
             (x = .nan → conv m a = 0) ∧ (∀ g : Bool, x = .inf g → conv m a = ext t (if g then least t else greatest t)) ∧
             ∀ (g : Bool) (n d : Nat), x = .fin g n d → conv m a = ext t (max (least t) (min (greatest t) (match m with
               | .rz => if g then -((n / d : Nat) : Int) else (n / d : Nat)
               | .rdn => (if g then -(n : Int) else n) / d
               | .rup => -((if g then (n : Int) else -(n : Int)) / d)
               | m => roundInt m g n d))))
         | .f32 => conv m a = BitVec.ofNat 64 (roundTo ffF32 m sat x)
         | .f16 => conv m a = BitVec.ofNat 64 (roundTo ffF16 m sat x)
         | .bf16 => conv m a = BitVec.ofNat 64 (roundTo ffBf16 m sat x)
         | .e2m1 => conv m a = BitVec.ofNat 64 (roundTo ffE2m1 m sat x)
         | .e8m0 => conv m a = BitVec.ofNat 64 (roundE8m0 m sat x)
         | .b8 u i p => conv m a = BitVec.ofNat 64 (roundTo (ffB8 u i p) m sat x)) ∧
  (∀ (s : State) (fl : Flock) (j : Nat) (pm : Pm) (rm : Rnd) (sat : Bool) (t0 : Target) (ty : FTy), Issued s fl j →
     ∃ f : Word → Word,
       let fm : Fmt := match ty with | .f32 => .f32 | .f16 => .f16 | .bf16 => .bf16
       exec (.cvt rm pm sat fm fm t0) s = .next (s.valued fl j pm readsA t0 .none fun a _ _ _ => both (f a)) ∧
       ∀ a : Word, match (ffOf ty).decode (a.toNat % 2 ^ (ffOf ty).width) with
         | .nan => f a = match ty with | .f32 => 0x7FC00000 | .f16 => 0x7E00 | .bf16 => 0x7FC0
         | .fin _ _ _ => f a = BitVec.ofNat 64 (a.toNat % 2 ^ (ffOf ty).width)
         | .inf _ => sat = false → f a = BitVec.ofNat 64 (a.toNat % 2 ^ (ffOf ty).width))

/-- R213: the four shuffles deliver the A of the source lane, or the lane's own where that lies outside or is not active.
Lanes of a flock have distinct numbers below 32. R214, R215: the votes and the broadcast over the active lanes, and the
inclusive and exclusive combinations in lane order. With no active lane, `bcast` delivers a free value that the group's
lanes and values fix (R211 with R214 and R217; log entry 16). -/
def Obligations.CrossLane : Prop :=
  (∀ (s : State) (fl : Flock) (j : Nat) (pm : Pm) (t0 t1 : Target), Issued s fl j →
     (fl.lanes.map (·.lane)).Nodup → (∀ l ∈ fl.lanes, l.lane < 32) →
     ∃ f0 f1 f2 f3 : Lane → Cell → Word,
       exec (.shfl pm t0 t1) s = .next (s.executed fl j pm t0 t1 fun l k => ({ bits := f0 l k }, { bits := f0 l k })) ∧
       exec (.shfx pm t0 t1) s = .next (s.executed fl j pm t0 t1 fun l k => ({ bits := f1 l k }, { bits := f1 l k })) ∧
       exec (.shup pm t0 t1) s = .next (s.executed fl j pm t0 t1 fun l k => ({ bits := f2 l k }, { bits := f2 l k })) ∧
       exec (.shdn pm t0 t1) s = .next (s.executed fl j pm t0 t1 fun l k => ({ bits := f3 l k }, { bits := f3 l k })) ∧
       ∀ (l : Lane) (k : Cell), l.lane < 32 →
         let from_ := fun (f : Lane → Cell → Word) (src : Int) =>
           (∀ (n : Nat) (v : Word), (n : Int) = src → LaneActive fl pm j n v → f l k = v) ∧
           ((∀ (n : Nat) (v : Word), (n : Int) = src → ¬LaneActive fl pm j n v) → f l k = k.a.bits)
         from_ f0 (k.b.bits.toNat % 32 : Nat) ∧ from_ f1 (Nat.xor l.lane (k.b.bits.toNat % 32) : Nat) ∧
         from_ f2 ((l.lane : Int) - k.b.bits.toNat) ∧ from_ f3 ((l.lane : Int) + k.b.bits.toNat)) ∧
  (∀ (s : State) (fl : Flock) (j : Nat) (pm : Pm) (op : RedOp) (t0 t1 : Target), Issued s fl j →
     (fl.lanes.map (·.lane)).Nodup → (∀ l ∈ fl.lanes, l.lane < 32) →
     ∃ ballot bcast red : Word, ∃ any all : Bool, ∃ inc exc : Nat → Word,
       let same := fun w : Word => s.executed fl j pm t0 t1 fun _ _ => ({ bits := w }, { bits := w })
       exec (.ballot pm t0 t1) s = .next (same ballot) ∧
       exec (.vany pm t0 t1) s = .next (same (if any then 1 else 0)) ∧
       exec (.vall pm t0 t1) s = .next (same (if all then 1 else 0)) ∧
       exec (.bcast pm t0 t1) s = .next (same bcast) ∧
       exec (.redl pm op t0 t1) s = .next (same red) ∧
       exec (.scan pm op t0 t1) s =
         .next (s.executed fl j pm t0 t1 fun l _ => ({ bits := inc l.lane }, { bits := exc l.lane })) ∧
       (∀ n : Nat, ballot.getLsbD n = true ↔ ∃ v, LaneActive fl pm j n v ∧ v.getLsbD 0 = true) ∧
       (any = true ↔ ∃ n v, LaneActive fl pm j n v ∧ v.getLsbD 0 = true) ∧
       (all = true ↔ ∀ n v, LaneActive fl pm j n v → v.getLsbD 0 = true) ∧
       (∀ (n : Nat) (v : Word), LaneActive fl pm j n v → (∀ m w, LaneActive fl pm j m w → n ≤ m) → bcast = v) ∧
       ((∀ n v, ¬LaneActive fl pm j n v) →
         bcast = Config.noBroadcast (fl.lanes.filterMap fun l => l.cells[j]?.map fun k => (l.lane, k.a.bits, k.a.void))) ∧
       -- a combination of the lanes below a number: nothing below 0, one lane more at each active lane
       (exc 0 = match op with
         | .addI64 | .addF32 | .or => 0
         | .minI64 => 0x7FFFFFFFFFFFFFFF
         | .maxI64 => 0x8000000000000000
         | .and => 0xFFFFFFFFFFFFFFFF) ∧
       (∀ n, exc (n + 1) = inc n) ∧ red = inc 31 ∧
       (∀ n, (∀ v, ¬LaneActive fl pm j n v) → inc n = exc n) ∧
       (∀ (n : Nat) (v : Word), LaneActive fl pm j n v → match op with
         | .addI64 => inc n = exc n + v
         | .minI64 => inc n = if v.toInt < (exc n).toInt then v else exc n
         | .maxI64 => inc n = if (exc n).toInt < v.toInt then v else exc n
         | .and => inc n = exc n &&& v
         | .or => inc n = exc n ||| v
         | .addF32 => ffF32.decode (v.toNat % 2 ^ 32) = .nan → inc n = 0x7FC00000) ∧
       (op = .addF32 → SumOfLanes fl pm j inc))

/-- R36, R130: a send whose checks pass in every lane executes; nothing is emitted before the firing ends. R137, R131, R154:
a send whose continuation or tag fails its check faults the lane there and emits nothing. -/
def Obligations.SendsExecute : Prop :=
  (∀ (s : State) (fl : Flock) (j : Nat) (c : Ctx) (pm : Pm) (tm : Tm) (slot : BitVec 3) (blk : BitVec 12) (rel : Option Scope)
     (close void : Bool), Issued s fl j → Alone s fl → s.ctx? fl.ctx = some c →
     let passes := fun i : Instr => ∀ ln ∈ fl.lanes, ln.activeAt j = true → ∀ k : Cell, ln.cells[j]? = some k →
       ∃ es, s.emits c (senderOf fl ln) i k = .ok es
     let t := s.doneIn fl j
     (∀ i ∈ ([.send pm tm slot blk rel close, .sendx pm rel close, .sendv pm tm slot blk rel close,
         .enter pm slot blk rel close, .entermAnd pm slot blk rel close, .entermOr pm slot blk rel close,
         .next pm slot blk rel close, .leave pm slot blk rel close] : List Instr),
       AllPerform fl j pm → passes i → exec i s = .next t) ∧
     (passes (.steer tm slot blk rel void) → exec (.steer tm slot blk rel void) s = .next t) ∧
     t = { s with flocks := t.flocks, resumed := t.resumed, ctxs := t.ctxs }) ∧
  (∀ (s : State) (fl : Flock) (j : Nat) (c : Ctx) (ln : Lane) (k : Cell) (pm : Pm) (slot : BitVec 3) (blk : BitVec 12)
     (rel : Option Scope) (close : Bool), Issued s fl j → s.ctx? fl.ctx = some c → s.lane? ln.fid = some ln →
     fl.lanes.filter (Lane.activeAt j) = [ln] → ln.cells[j]? = some k → performs pm k.p = true →
     (k.b.bits ≠ 0 → c.contOk k.b.bits = false →
       exec (.sendx pm rel close) s = .next (s.faultLane ln.fid j 0x05 [k.b.bits])) ∧
     ((Tag.ofBits (k.b.bits.setWidth 40)).dom.toNat ≠ c.domOf blk.toNat ∨
         (s.core (Tag.ofBits (k.b.bits.setWidth 40)).home.toNat).enabled = false →
       exec (.send pm .expl slot blk rel close) s = .next (s.faultLane ln.fid j 0x06 [k.b.bits]) ∧
       exec (.sendv pm .expl slot blk rel close) s = .next (s.faultLane ln.fid j 0x06 [k.b.bits])))

/-- R19, R130–R134, R137, R201: what a send hands on when its firing ends: the token under SAME and EXPLICIT, a request to
the unit of the tag's HOME under NEXT and LEAVE and of the own core under ENTER and ENTERM, both arms of `steer`. A NEXT
with CLOSE says so, for its close is served first. -/
def Obligations.SendEmissions : Prop :=
  ∀ (s : State) (c : Ctx) (sd : Sender) (k : Cell) (pm : Pm) (tm : Tm) (slot : BitVec 3) (blk : BitVec 12) (rel : Option Scope)
    (close : Bool),
    let tok := fun (void : Bool) (tag : Tag) (e : BitVec 22) (hpkg : Nat) =>
      ({ block := blk.toNat, slot := slot.toNat, tag := tag, epoch := e, void := void, rel := rel, hpkg := hpkg,
         payload := if void then 0 else k.a.bits } : Token)
    let sent := fun t : Token => let d := s.placeOf c t sd.core; Emit.token t d.1 d.2
    let closes := if close = true ∧ sd.tag.dom ≠ 0 then
        [Emit.request sd.hpkg sd.tag.home.toNat (reqOf c sd (.inr .close) sd.tag sd.epoch none)] else []
    let t := { Tag.ofBits (k.b.bits.setWidth 40) with ctx := BitVec.ofNat 10 c.id }
    let d := Tag.ofBits (k.b.bits.setWidth 40)
    let unit := fun (m : GrantMode) (tag : Tag) (x : Token) =>
      Emit.request s.pkgid tag.home.toNat (reqOf c sd (.inl m) tag 0 (some x))
    s.emits c sd (.send pm .same slot blk rel close) k = .ok (sent (tok k.a.void sd.tag sd.epoch sd.hpkg) :: closes) ∧
    s.emits c sd (.sendv pm .same slot blk rel close) k = .ok (sent (tok true sd.tag sd.epoch sd.hpkg) :: closes) ∧
    (t.dom = 0 → t.dom.toNat = c.domOf blk.toNat → (s.core t.home.toNat).enabled = true →
      s.emits c sd (.send pm .expl slot blk rel close) k = .ok (sent (tok k.a.void t 0 s.pkgid) :: closes)) ∧
    (t.dom ≠ 0 → t.dom.toNat = c.domOf blk.toNat → (s.core t.home.toNat).enabled = true →
      s.emits c sd (.send pm .expl slot blk rel close) k = .ok (unit .explicit t (tok k.a.void t 0 s.pkgid) :: closes)) ∧
    s.emits c sd (.next pm slot blk rel close) k = .ok (closes ++
      [.request sd.hpkg sd.tag.home.toNat (reqOf c sd (.inl .next) sd.tag sd.epoch (some (tok k.a.void sd.tag sd.epoch sd.hpkg)) close)]) ∧
    s.emits c sd (.leave pm slot blk rel close) k = .ok [.request sd.hpkg sd.tag.home.toNat
      (reqOf c sd (.inr (.leave close)) sd.tag sd.epoch (some (tok k.a.void sd.tag sd.epoch sd.hpkg)))] ∧
    s.emits c sd (.enter pm slot blk rel close) k = .ok (.request s.pkgid sd.core
      (reqOf c sd (.inl (.enter (c.domOf blk.toNat))) sd.tag sd.epoch (some (tok k.a.void sd.tag sd.epoch s.pkgid))) :: closes) ∧
    s.emits c sd (.entermAnd pm slot blk rel close) k = .ok (.request s.pkgid sd.core
      (reqOf c sd (.inl (.enterm (c.domOf blk.toNat) (k.b.bits &&& k.c.bits))) sd.tag sd.epoch
        (some (tok k.a.void sd.tag sd.epoch s.pkgid))) :: closes) ∧
    s.emits c sd (.entermOr pm slot blk rel close) k = .ok (.request s.pkgid sd.core
      (reqOf c sd (.inl (.enterm (c.domOf blk.toNat) (k.b.bits ||| k.c.bits))) sd.tag sd.epoch
        (some (tok k.a.void sd.tag sd.epoch s.pkgid))) :: closes) ∧
    -- the tag modes of `send` and `sendv` that a word of its own has too
    (s.emits c sd (.send pm .next slot blk rel close) k = s.emits c sd (.next pm slot blk rel close) k ∧
     s.emits c sd (.send pm .enter slot blk rel close) k = s.emits c sd (.enter pm slot blk rel close) k ∧
     s.emits c sd (.send pm .leave slot blk rel close) k = s.emits c sd (.leave pm slot blk rel close) k ∧
     s.emits c sd (.sendv pm tm slot blk rel close) k =
       s.emits c sd (.send pm tm slot blk rel close) { k with a := { k.a with void := true } }) ∧
    -- the continuation in B
    (k.b.bits = 0 → s.emits c sd (.sendx pm rel close) k = .ok closes) ∧
    (c.contOk k.b.bits = true → k.b.bits ≠ 0 →
      let x := ({ block := (k.b.bits.extractLsb' 40 12).toNat, slot := (k.b.bits.extractLsb' 54 3).toNat, tag := t, epoch := 0,
                  void := k.a.void, rel := rel, hpkg := s.pkgid, payload := if k.a.void then 0 else k.a.bits } : Token)
      (d.dom = 0 → s.emits c sd (.sendx pm rel close) k = .ok (sent x :: closes)) ∧
      (d.dom ≠ 0 → s.emits c sd (.sendx pm rel close) k =
        .ok (unit (.cont (k.b.bits.extractLsb' 57 3).toNat) t x :: closes))) ∧
    -- the arms of `steer`: the one P chooses first, a void token on the other under VOID
    (let one := { k with b := k.c }
     let dry := { one with a := { one.a with void := true } }
     let dryX := { k with a := { k.a with void := true } }
     let named := fun v => s.emits c sd (.send .always tm slot blk rel false) (if v then dry else one)
     let cont := fun v => s.emits c sd (.sendx .always rel false) (if v then dryX else k)
     (k.p = true → s.emits c sd (.steer tm slot blk rel false) k = named false) ∧
     (k.p = false → s.emits c sd (.steer tm slot blk rel false) k = cont false) ∧
     (∀ x y, k.p = true → named false = .ok x → cont true = .ok y →
       s.emits c sd (.steer tm slot blk rel true) k = .ok (x ++ y)) ∧
     (∀ x y, k.p = false → cont false = .ok x → named true = .ok y →
       s.emits c sd (.steer tm slot blk rel true) k = .ok (x ++ y)))

/-- R135, R136, R208: `cont` writes its lane register with the continuation of the firing's tag; `dkill` passes A on and
hands on one release request, that H be lowered to A's low 32 bits. R36, R37: a firing whose every instruction has
executed ends: what its sends hand on goes out in ascending index order, here tokens without a release toward cores of
this package, none of its context's being held back at this core, and its lane and frame are gone. -/
def Obligations.ContinuationsAndFiringEnds : Prop :=
  (∀ (s : State) (fl : Flock) (j : Nat) (pm : Pm) (tm : Tm) (slot : BitVec 3) (blk : BitVec 12) (x : BitVec 4) (t0 t1 : Target),
     Issued s fl j →
     (∃ f : Lane → Word,
       exec (.cont pm tm slot blk x) s =
         .next (s.executed fl j pm (.reg (x.setWidth 6)) .none fun ln _ => ({ bits := f ln }, Val.zero)) ∧
       ∀ ln : Lane, (f ln).extractLsb' 60 4 = 0b1100 ∧ (f ln).extractLsb' 54 3 = slot ∧ (f ln).extractLsb' 52 2 = 0 ∧
         (f ln).extractLsb' 40 12 = blk ∧ Tag.ofBits ((f ln).extractLsb' 0 40) = ln.tag ∧
         (tm = .same → (f ln).extractLsb' 57 3 = 0) ∧ (tm = .next → (f ln).extractLsb' 57 3 = 1) ∧
         (tm = .leave → (f ln).extractLsb' 57 3 = 4)) ∧
     exec (.dkill pm t0 t1) s = .next (s.valued fl j pm readsA t0 t1 fun a _ _ _ => both a) ∧
     ∀ (c : Ctx) (sd : Sender) (k : Cell), s.emits c sd (.dkill pm t0 t1) k =
       .ok [.request sd.hpkg sd.tag.home.toNat (reqOf c sd (.inr (.dkill (k.a.bits.toNat % 2 ^ 32))) sd.tag sd.epoch none)]) ∧
  (∀ (s : State) (fl : Flock) (ln : Lane) (c : Ctx) (es : List Emit) (toks : List (Token × Nat)),
     s.flockOf? ln.fid = some fl → s.flock? fl.id = some fl → fl.lane? ln.fid = some ln → s.ctx? fl.ctx = some c →
     (s.flocks.map (·.id)).Nodup → (∀ f ∈ s.flocks, ∀ l ∈ f.lanes, l.fid = ln.fid → f.id = fl.id) → ln.status = .running →
     s.finished ln = true → s.outputs c (senderOf fl ln) ((c.blocks[fl.block]?.map (·.code)).getD []) ln = .ok es →
     es = toks.map (fun x => .token x.1 s.pkgid x.2) → (∀ x ∈ toks, x.1.rel = none) →
     (∀ h ∈ s.hresSubs, h.fid ≠ ln.fid) → (∀ p ∈ s.spawns, p.fid ≠ ln.fid) → (∀ h ∈ s.held, h.fid ≠ ln.fid) → ln.gave = (0, 0) →
     (∀ h ∈ s.pinHeld, h.ctx = fl.ctx → h.src ≠ fl.core) →
     (s.fetches.filter (·.ctx = fl.ctx)).length ≤ 256 →
     let t := s.tryEnd ln.fid
     t.transit = s.transit ++ toks.map (fun x => { src := fl.core, dst := x.2, ctx := fl.ctx, tok := x.1 }) ∧
     t.lane? ln.fid = none ∧ t.mem = s.mem ∧ t.fold = s.fold ∧
     (∀ f ∈ t.flocks, f.id = fl.id → f.lanes = fl.lanes.filter (·.fid ≠ ln.fid)))

/-- R33, R241: a memory word whose record is not cached makes one access of the firing, which waits for a walk of the handle
in bits 62:44 of its cursor; the instruction has been issued and has delivered nothing. -/
def Obligations.MemoryWordsIssue : Prop :=
  ∀ (s : State) (fl : Flock) (j : Nat) (ln : Lane) (k : Cell) (pm : Pm) (w : MemTy) (d : CursDim) (e : Dim) (imm : BitVec 10)
    (op : AtomOp) (fop : FatomOp) (w64 : Bool) (ord : Order) (sc : Scope) (relOrd : Bool) (q : HqryItem) (t0 t1 : Target),
    OneLane s fl j ln k pm → s.orcHit fl.core fl.ctx (k.a.bits.extractLsb' 44 19).toNat = none →
    let issues := fun i : Instr => ∃ (t : State) (a : Access), exec i s = .next t ∧
      t.accesses = s.accesses ++ [a] ∧ a.id = s.reqSeq + 1 ∧ a.instr = i ∧ a.fid = ln.fid ∧ a.idx = j ∧ a.core = fl.core ∧
      a.ctx = fl.ctx ∧ a.phase = .walking ∧ a.handle = (k.a.bits.extractLsb' 44 19).toNat ∧ a.a = k.a ∧ a.b = k.b ∧ a.c = k.c ∧
      a.before = (s.accesses.filter fun o => o.fid = ln.fid).map (·.id) ∧
      t = { s with accesses := t.accesses, reqSeq := s.reqSeq + 1, flocks := t.flocks, resumed := t.resumed, ctxs := t.ctxs } ∧
      t.lane? ln.fid = some (ln.issue j)
    (k.a.void = false → ∀ i ∈ ([.ld pm w t0 t1, .atom pm op t0 w64 ord sc, .cas pm t0 w64 ord sc, .fatom pm fop t0 ord sc,
      .hqry pm q t0 t1] : List Instr), issues i) ∧
    (k.a.void = false → k.b.void = false → issues (.st pm w t0 t1)) ∧
    (k.a.void = false → k.a.bits.getLsbD 63 = false →
      issues (.cursi pm t0 e imm) ∧ (k.b.void = false → k.c.void = false → issues (.curs pm d t0 t1))) ∧
    (∀ i ∈ ([.redo pm t0 relOrd sc, .arrive pm t0 t1, .waitb pm t0 t1, .hresFetch pm t0 t1, .hresRelease pm t0 t1,
      .spawn pm t0 t1] : List Instr), issues i)

/-- R142, R143, R140, R271, R272: void-marked latches and a cursor already out of shape need no record. A load delivers
void-marked zero (an atomic likewise, R274), a store is discarded with completion value 1, a cursor step passes the
cursor on. R268–R270, R283: with the record cached, a cursor step delivers the cursor of the stepped coordinates, with
OOS set where a stepped coordinate leaves its extent or the offset is no element's; a query delivers the record's field.
Over a record of rank 1 the step is that of R140, which divides the offset and compares the stepped coordinate alone
(log entry 85: R270 differs on a cursor that is out of shape). R282: a prefetch delivers 0 when it executes and, where
its L1 has place for one more line, changes no memory byte; `pref.l1` with a cached record that may be read, of a cached
object all resident, brings the line of an element in shape. That one without a cached record walks at once, with no
access of its own, is the model's reading (log entry 47). -/
def Obligations.MarkedOperandsAndCursors : Prop :=
  (∀ (s : State) (fl : Flock) (j : Nat) (ln : Lane) (k : Cell) (pm : Pm) (w : MemTy) (wd : Width) (d : Dim) (x : CursDim)
     (imm : BitVec 10) (op : AtomOp) (fop : FatomOp) (w64 : Bool) (ord : Order) (sc : Scope) (q : HqryItem) (t0 t1 : Target),
     OneLane s fl j ln k pm →
     (k.a.void = true → ∀ i ∈ ([.ld pm w t0 t1, .ldsp pm wd t0 t1, .lda pm wd t0 t1, .atom pm op t0 w64 ord sc,
         .cas pm t0 w64 ord sc, .hqry pm q t0 t1] : List Instr), exec i s = .next (s.gives ln j i { bits := 0, void := true })) ∧
     (k.a.void = true → (∀ c, s.ctx? fl.ctx = some c → c.det = false) →
       exec (.fatom pm fop t0 ord sc) s = .next (s.gives ln j (.fatom pm fop t0 ord sc) { bits := 0, void := true })) ∧
     (k.a.void = true ∨ k.b.void = true → ∀ i ∈ ([.st pm w t0 t1, .stsp pm wd t0 t1, .sta pm wd t0 t1] : List Instr),
       exec i s = .next (s.gives ln j i { bits := 1 })) ∧
     (k.a.void = false → k.a.bits.getLsbD 63 = true →
       exec (.cursi pm t0 d imm) s = .next (s.gives ln j (.cursi pm t0 d imm) k.a) ∧
       (k.b.void = false → ((cursDim x).2 = true → k.c.void = false) →
         exec (.curs pm x t0 t1) s = .next (s.gives ln j (.curs pm x t0 t1) k.a))) ∧
     (k.a.void = true → ∃ v : Val, v.void = true ∧ exec (.cursi pm t0 d imm) s = .next (s.gives ln j (.cursi pm t0 d imm) v)) ∧
     (k.a.void = true ∨ k.b.void = true ∨ (cursDim x).2 = true ∧ k.c.void = true →
       ∃ v : Val, v.void = true ∧ exec (.curs pm x t0 t1) s = .next (s.gives ln j (.curs pm x t0 t1) v))) ∧
  (∀ (s : State) (fl : Flock) (j : Nat) (ln : Lane) (k : Cell) (pm : Pm) (r : ObjRec) (d : Dim) (x : CursDim) (imm : BitVec 10)
     (q : HqryItem) (t0 t1 : Target),
     OneLane s fl j ln k pm → Cached s fl k.a.bits r → k.a.void = false → (∀ a ∈ s.accesses, a.id ≤ s.reqSeq) →
     let gives := fun (i : Instr) (v : Word) => ∃ t, exec i s = .next t ∧ t.accesses = s.accesses ∧ t.mem = s.mem ∧
       t.lane? ln.fid = some ((ln.issue j).complete j true (t0Of i) (t1Of i) { bits := v } { bits := v })
     let off := (k.a.bits.extractLsb' 0 44).toNat
     let out := k.a.bits ||| 0x8000000000000000
     -- the cursor of an offset
     let cursor := fun o : Nat => k.a.bits.extractLsb' 44 20 ++ BitVec.ofNat 44 o
     let ok := fun (i : List Nat) (n : Nat) (b : Word) =>
       n < r.rank ∧ 0 ≤ ((i[n]?.getD 0 : Nat) : Int) + b.toInt ∧ ((i[n]?.getD 0 : Nat) : Int) + b.toInt < ((r.ext[n]?.getD 0 : Nat) : Int)
     let moved := fun (i : List Nat) (n : Nat) (b : Word) => i.set n (((i[n]?.getD 0 : Nat) : Int) + b.toInt).toNat
     (q ≠ .res → gives (.hqry pm q t0 t1) (BitVec.ofNat 64 (match q with
       | .ext e => r.ext[dimNum e]?.getD 0 | .rank => r.rank | .fmt => r.format | .gen => r.gen | .res => 0))) ∧
     (k.a.bits.getLsbD 63 = false → r.rank = 1 → r.ext[0]?.getD 0 * r.str[0]?.getD 0 ≤ 2 ^ 44 →
       let step := fun b : Word =>
         let p : Int := ((off / r.str[0]?.getD 0 : Nat) : Int) + b.toInt
         if 0 ≤ p ∧ p < ((r.ext[0]?.getD 0 : Nat) : Int) then cursor (p.toNat * r.str[0]?.getD 0) else out
       gives (.cursi pm t0 d imm) (if dimNum d = 0 then step (imm.signExtend 64) else out) ∧
       (k.b.void = false → cursDim x = (0, false) → gives (.curs pm x t0 t1) (step k.b.bits)) ∧
       (k.b.void = false → k.c.void = false → cursDim x ≠ (0, false) → gives (.curs pm x t0 t1) out)) ∧
     (k.a.bits.getLsbD 63 = false → r.rank ≠ 1 →
       (r.coords off = none → gives (.cursi pm t0 d imm) out ∧
         (k.b.void = false → k.c.void = false → gives (.curs pm x t0 t1) out)) ∧
       ∀ i : List Nat, r.coords off = some i →
         (∀ l : List Nat, (∀ n < r.rank, l[n]?.getD 0 < r.ext[n]?.getD 0) → r.offset l < 2 ^ 44) →
         let n := dimNum d
         let m := (cursDim x).1
         let pair := (cursDim x).2
         (ok i n (imm.signExtend 64) → gives (.cursi pm t0 d imm) (cursor (r.offset (moved i n (imm.signExtend 64))))) ∧
         (¬ok i n (imm.signExtend 64) → gives (.cursi pm t0 d imm) out) ∧
         (k.b.void = false → pair = false → ok i m k.b.bits → gives (.curs pm x t0 t1) (cursor (r.offset (moved i m k.b.bits)))) ∧
         (k.b.void = false → pair = false → ¬ok i m k.b.bits → gives (.curs pm x t0 t1) out) ∧
         (k.b.void = false → k.c.void = false → pair = true → ok i m k.b.bits → ok i (m + 1) k.c.bits →
           gives (.curs pm x t0 t1) (cursor (r.offset (moved (moved i m k.b.bits) (m + 1) k.c.bits)))) ∧
         (k.b.void = false → k.c.void = false → pair = true → ¬(ok i m k.b.bits ∧ ok i (m + 1) k.c.bits) →
           gives (.curs pm x t0 t1) out))) ∧
  (∀ (s : State) (fl : Flock) (j : Nat) (ln : Lane) (k : Cell) (pm : Pm) (lv : PrefLevel) (t0 t1 : Target),
     OneLane s fl j ln k pm → s.bridge = [] → (s.linesOf fl.core).length < 16384 →
     ∃ t, exec (.pref pm lv t0 t1) s = .next t ∧ t.mem = s.mem ∧ t.accesses = s.accesses ∧
       t.lane? ln.fid = some (ln.complete j true t0 t1 { bits := 0 } { bits := 0 }) ∧
       ∀ r : ObjRec, lv = .l1 → Cached s fl k.a.bits r → k.a.void = false → k.a.bits.getLsbD 63 = false →
         r.permits { read := true } = true → r.coh ≠ 3 → r.rmap = 0 →
         r.coords (k.a.bits.extractLsb' 0 44).toNat ≠ none →
         ∀ b ∈ [0, 32], ∃ x ∈ t.l1, x.core = fl.core ∧ x.pkg = none ∧ x.valid = BitVec.allOnes 32 ∧
           x.addr = r.addrOf (k.a.bits.extractLsb' 0 44).toNat / 64 * 64 + b)

/-- R271, R272: an access to the scratchpad or the accumulators makes one access of the bytes at its natural offset from the
context's region, and faults REGION with offset, width and region size where they do not all lie in the region; that the
width is given in bytes is the model's reading (log entry 37). R239, R142, R146, R243: a load or store with a cached
record of a flat object: its bytes are those from the base and offset on, or the lane faults with PERM or OOS, or the
policy of the object answers. -/
def Obligations.RegionAndFlatAccesses : Prop :=
  (∀ (s : State) (fl : Flock) (j : Nat) (ln : Lane) (k : Cell) (pm : Pm) (w : Width) (t0 t1 : Target) (c : Ctx) (g : Region),
     OneLane s fl j ln k pm → s.ctx? fl.ctx = some c → c.regions.find? (·.core = fl.core) = some g →
     k.a.void = false → (∀ a ∈ s.accesses, a.id ≤ s.reqSeq) →
     let n := w.bits / 8
     let o := k.a.bits.toNat
     let window := 0x0F0000000000 + 0x400000 * fl.core
     let inside := fun (i : Instr) (base : Nat) (sp : Space) => ∃ (t : State) (a : Access), exec i s = .next t ∧
       t.accesses = s.accesses ++ [a] ∧ a.instr = i ∧ a.fid = ln.fid ∧ a.idx = j ∧ a.phase = .ready ∧ a.space = sp ∧ a.b = k.b ∧
       a.bytes = (List.range n).map (base + o + ·) ∧ t.mem = s.mem ∧ t.lane? ln.fid = some (ln.issue j)
     let outside := fun (i : Instr) (size : Nat) =>
       exec i s = .next (s.faultLane ln.fid j 0x0B [k.a.bits, BitVec.ofNat 64 n, BitVec.ofNat 64 size])
     (o + n ≤ 65536 * g.scratch →
       inside (.ldsp pm w t0 t1) (window + 65536 * g.scrSeg) .scratch ∧
       (k.b.void = false → inside (.stsp pm w t0 t1) (window + 65536 * g.scrSeg) .scratch)) ∧
     (65536 * g.scratch < o + n →
       outside (.ldsp pm w t0 t1) (65536 * g.scratch) ∧
       (k.b.void = false → outside (.stsp pm w t0 t1) (65536 * g.scratch))) ∧
     (o + n ≤ 32768 * g.accum →
       inside (.lda pm w t0 t1) (window + 0x200000 + 32768 * g.accSeg) .accum ∧
       (k.b.void = false → inside (.sta pm w t0 t1) (window + 0x200000 + 32768 * g.accSeg) .accum)) ∧
     (32768 * g.accum < o + n →
       outside (.lda pm w t0 t1) (32768 * g.accum) ∧ (k.b.void = false → outside (.sta pm w t0 t1) (32768 * g.accum)))) ∧
  (∀ (s : State) (fl : Flock) (j : Nat) (ln : Lane) (k : Cell) (pm : Pm) (w : Width) (ty : MemTy) (t0 t1 : Target) (r : ObjRec)
     (b : LBlock),
     OneLane s fl j ln k pm → Cached s fl k.a.bits r → k.a.void = false → k.b.void = false →
     s.block? fl.ctx fl.block = some b → b.idem = false → (∀ a ∈ s.accesses, a.id ≤ s.reqSeq) →
     (w = .w8 ∧ ty = .n8 ∨ w = .w16 ∧ ty = .n16 ∨ w = .w32 ∧ ty = .n32 ∨ w = .w64 ∧ ty = .n64) →
     r.kind = 1 → r.rank = 1 → r.format = 4 → r.str.head? = some 1 → r.scale = 0 → r.tmode = 0 → r.smode = 0 → r.swz = 0 →
     r.rmap = 0 → (∀ d ∈ s.dies, d.lasting = []) →
     let n := w.bits / 8
     let o := (k.a.bits.extractLsb' 0 44).toNat
     let h := BitVec.ofNat 64 (k.a.bits.extractLsb' 44 19).toNat
     let len := r.ext[0]?.getD 0
     let inShape := k.a.bits.getLsbD 63 = false ∧ o + n ≤ len
     let first := if k.a.bits.getLsbD 63 = true then o else max o len
     ∀ i : Instr, (i = .ld pm ty t0 t1 ∧ r.read = true ∨ i = .st pm ty t0 t1 ∧ r.write = true) →
       (inShape → ∃ (t : State) (a : Access), exec i s = .next t ∧ t.accesses = s.accesses ++ [a] ∧ a.instr = i ∧
         a.phase = .ready ∧ a.coh = r.coh ∧ a.bytes = (List.range n).map (r.base + o + ·) ∧ t.mem = s.mem) ∧
       (¬inShape → r.oospol = 0 → ∃ t : State, exec i s = .next (t.faultLane ln.fid j 0x01 [h, BitVec.ofNat 64 o, BitVec.ofNat 64 first]) ∧
         t.mem = s.mem ∧ t.accesses = s.accesses ∧ t.lane? ln.fid = some (ln.issue j)) ∧
       (¬inShape → r.oospol = 1 → ∃ t, exec i s = .next t ∧ t.accesses = s.accesses ∧
         let v : Val := { bits := match i with | .st _ _ _ _ => 1 | _ => BitVec.ofNat 64 (r.fill.toNat % 2 ^ min w.bits 64) }
         t.lane? ln.fid = some ((ln.issue j).complete j true t0 t1 v v)) ∧
       (¬inShape → r.oospol = 2 → ∃ t, exec i s = .next t ∧ t.accesses = s.accesses ∧
         let v : Val := match i with | .st _ _ _ _ => { bits := 1 } | _ => { bits := 0, void := true }
         t.lane? ln.fid = some ((ln.issue j).complete j true t0 t1 v v)))

/-- R141, R145, R271, R33: MEM_ACCESS_PERFORMED of a load delivers its bytes, little-endian and zero-extended, and leaves
every byte of memory; of a store it writes the low bytes of B at exactly its addresses, and delivers 0. Scratchpad and
accumulator accesses, and accesses of objects that no cache holds (COH NC), with no write waiting in a die's queue. -/
def Obligations.PlainAccessesPerformed : Prop :=
  ∀ (s : State) (n : Nat) (a : Access) (ln : Lane), Due s n a ln →
    (a.space ≠ .hbm ∨ a.coh = 3 ∧ s.bridge = []) → (∀ x ∈ a.bytes, isMemory x = true) → a.bytes.Nodup → a.bytes.length ≤ 8 →
    (∀ (pm : Pm) (w : MemTy) (wd : Width) (t0 t1 : Target), a.instr ∈ ([.ld pm w t0 t1, .ldsp pm wd t0 t1, .lda pm wd t0 t1] : List Instr) →
      ∃ t, exec (.memAccessPerformed n) s = .next t ∧ t.mem = s.mem ∧ OnlyMemory s t a ∧
        let v : Val := { bits := BitVec.ofNat 64 (natLE (a.bytes.map s.rd)) }
        t.lane? a.fid = some (ln.complete a.idx true t0 t1 v v)) ∧
    (∀ (pm : Pm) (w : MemTy) (wd : Width) (t0 t1 : Target), a.instr ∈ ([.st pm w t0 t1, .stsp pm wd t0 t1, .sta pm wd t0 t1] : List Instr) →
      ∃ t, exec (.memAccessPerformed n) s = .next t ∧ OnlyMemory s t a ∧
        (∀ (i : Nat) (x : Nat), a.bytes[i]? = some x → t.rd x = a.b.bits.extractLsb' (8 * i) 8) ∧
        (∀ x, x ∉ a.bytes → t.rd x = s.rd x) ∧
        t.lane? a.fid = some (ln.complete a.idx true t0 t1 { bits := 0 } { bits := 0 }))

/-- R255, R35: a store of a PRIV or SHRD object is performed in the issuing core's L1, here one with place for its lines: no
byte of memory changes, the core then holds the stored bytes dirty, and a load of them by the core reads what was
stored. -/
def Obligations.CachedStores : Prop :=
  ∀ (s : State) (n : Nat) (a : Access) (ln : Lane) (pm : Pm) (w : MemTy) (t0 t1 : Target), Due s n a ln →
    a.instr = .st pm w t0 t1 → a.space = .hbm → (a.coh = 1 ∨ a.coh = 2) → a.bytes.Nodup → a.bytes.length ≤ 8 →
    (∀ x y, x ∈ s.l1 → y ∈ s.l1 → x.core = y.core → x.addr = y.addr → x.pkg = y.pkg → x = y) →
    (∀ x ∈ s.l1, x.bytes.length = 32) → (s.linesOf a.core).length + a.bytes.length ≤ 16384 →
    ∃ t, exec (.memAccessPerformed n) s = .next t ∧ t.mem = s.mem ∧ t.bridge = s.bridge ∧ OnlyMemory s t a ∧
      t.lane? a.fid = some (ln.complete a.idx true t0 t1 { bits := 0 } { bits := 0 }) ∧
      (∀ (i : Nat) (x : Nat), a.bytes[i]? = some x →
        (∃ k ∈ t.l1, k.core = a.core ∧ k.addr = x / 32 * 32 ∧ k.pkg = none ∧ k.dirty.getLsbD (x % 32) = true) ∧
        (t.loadByte a.core a.ctx a.coh x).2 = a.b.bits.extractLsb' (8 * i) 8) ∧
      -- no other byte that the core holds dirty is lost or changed
      (∀ x : Nat, x ∉ a.bytes → ∀ k ∈ s.l1, k.pkg = none → k.addr = x / 32 * 32 → k.dirty.getLsbD (x % 32) = true →
        ∃ k' ∈ t.l1, k'.core = k.core ∧ k'.addr = k.addr ∧ k'.pkg = none ∧ k'.dirty.getLsbD (x % 32) = true ∧
          k'.byte (x % 32) = k.byte (x % 32))

/-- R275–R278: an atomic at home, with no line of the word in the core's L1 and no write waiting, replaces the word by the
operation's new value in one step and delivers the old one; a `cas` that does not find what it expects leaves memory
unchanged. With acquire it advances the core's acquire generation at die scope or wider (R256). With release it waits
for the accesses issued before it (R132), and writes through what the core has stored under SHRD (R262). At core scope
an atomic of a cached object is performed in the core's L1 (R264): no byte of memory changes, and the core reads the new
value. -/
def Obligations.AtomicsPerformed : Prop :=
  ∀ (s : State) (n : Nat) (a : Access) (ln : Lane) (pm : Pm) (t0 : Target) (w64 : Bool) (ord : Order) (sc : Scope) (addr x : Nat) (c : Core),
    Due s n a ln → a.space = .hbm → s.bridge = [] → (∀ c ∈ s.ctxs, c.det = false) → s.cores[a.core]? = some c →
    a.bytes = (List.range (if w64 then 8 else 4)).map (addr + ·) → (∀ y ∈ a.bytes, isMemory y = true) →
    let old := natLE (a.bytes.map s.rd)
    let rel := ord = .rel ∨ ord = .ar
    let clear := (rel → (∀ i ∈ a.before, ∀ o ∈ s.accesses, o.id ≠ i) ∧ (sc = .gang → s.remoteOut = []))
    let gave := fun t : State =>
      t.lane? a.fid = some (ln.complete a.idx true t0 .none { bits := BitVec.ofNat 64 old } { bits := BitVec.ofNat 64 old })
    (s.l1 = [] → AtomTo a.instr pm t0 w64 ord sc old a.b.bits a.c.bits x → clear →
      ((a.coh = 3 ∨ sc ≠ .core) → ∃ t, exec (.memAccessPerformed n) s = .next t ∧ OnlyMemory s t a ∧ natLE (a.bytes.map t.rd) = x ∧
        (∀ y, y ∉ a.bytes → t.rd y = s.rd y) ∧ gave t ∧
        (t.core a.core).agen = if (ord = .acq ∨ ord = .ar) ∧ sc ≠ .core then c.agen + 1 else c.agen) ∧
      ((a.coh = 1 ∨ a.coh = 2) → sc = .core → ∃ t, exec (.memAccessPerformed n) s = .next t ∧ OnlyMemory s t a ∧ t.mem = s.mem ∧
        natLE (t.loadBytes a.core a.ctx a.coh a.bytes).2 = x ∧ gave t)) ∧
    -- a release waits for what was issued before
    (∀ y, AtomTo a.instr pm t0 w64 ord sc y a.b.bits a.c.bits x → rel → (∃ i ∈ a.before, ∃ o ∈ s.accesses, o.id = i ∧ o.fid ≠ a.fid) →
      exec (.memAccessPerformed n) s = .next s) ∧
    -- and writes through what the core has stored under SHRD
    (∀ y, AtomTo a.instr pm t0 w64 ord sc y a.b.bits a.c.bits x → rel → clear → sc = .pkg →
      (∀ k l, k ∈ s.l1 → l ∈ s.l1 → k.core = l.core → k.addr = l.addr → k.pkg = l.pkg → k = l) →
      (∀ k ∈ s.l1, k.pkg = none ∧ k.addr % 32 = 0 ∧ k.bytes.length = 32) →
      ∃ t, exec (.memAccessPerformed n) s = .next t ∧
        ∀ k ∈ s.l1, ∀ i < 32, k.core = a.core → k.through.getLsbD i = true → k.dirty.getLsbD i = true → isMemory (k.addr + i) = true →
          k.addr + i ∉ a.bytes → t.rd (k.addr + i) = k.byte i)

/-- R256, R275, R281: with nothing before it to wait for and nothing to write through, a fence of die scope or wider
advances the core's acquire generation and delivers 0; a fence of core scope changes no cache. R260, R288:
BARRIER_ARRIVAL adds the parties to the barrier word, whose phase advances each time the expected number is reached, and
delivers the word as it stood. R260, R289: BARRIER_REGISTRATION delivers 0; the waiter is registered while the word's
phase is the one it names. -/
def Obligations.FencesAndBarriers : Prop :=
  (∀ (s : State) (n : Nat) (a : Access) (ln : Lane) (pm : Pm) (sc : Scope) (t0 t1 : Target) (c : Core), Due s n a ln →
     a.instr = .fence pm sc t0 t1 → a.bytes = [] → (∀ i ∈ a.before, ∀ o ∈ s.accesses, o.id ≠ i) → s.l1 = [] → s.bridge = [] →
     s.remoteOut = [] → s.cores[a.core]? = some c →
     ∃ t, exec (.memAccessPerformed n) s = .next t ∧ t.mem = s.mem ∧ OnlyMemory s t a ∧
       t.lane? a.fid = some (ln.complete a.idx true t0 t1 { bits := 0 } { bits := 0 }) ∧
       (t.core a.core).agen = if sc = .core then c.agen else c.agen + 1) ∧
  (∀ (s : State) (n : Nat) (a : Access) (ln : Lane) (pm : Pm) (t0 t1 : Target) (addr : Nat), Due s n a ln →
     a.instr = .arrive pm t0 t1 → a.bytes = (List.range 8).map (addr + ·) → (∀ i ∈ a.before, ∀ o ∈ s.accesses, o.id ≠ i) →
     s.l1 = [] → s.bridge = [] → s.waiters = [] → (∀ x ∈ a.bytes, isMemory x = true) →
     let old := natLE (a.bytes.map s.rd)
     let expect := old % 2 ^ 24
     let sum := old / 2 ^ 24 % 2 ^ 24 + a.b.bits.toNat
     expect ≠ 0 → a.b.bits.toNat ≠ 0 →
     ∃ t, exec (.barrierArrival n) s = .next t ∧ OnlyMemory s t a ∧
       natLE (a.bytes.map t.rd) = expect + 2 ^ 24 * (sum % expect) + 2 ^ 48 * ((old / 2 ^ 48 + sum / expect) % 2 ^ 16) ∧
       (∀ y, y ∉ a.bytes → t.rd y = s.rd y) ∧
       t.lane? a.fid = some (ln.complete a.idx true t0 t1 { bits := BitVec.ofNat 64 old } { bits := BitVec.ofNat 64 old })) ∧
  (∀ (s : State) (n : Nat) (a : Access) (ln : Lane) (pm : Pm) (t0 t1 : Target) (addr : Nat) (c : Ctx), Due s n a ln →
     a.instr = .waitb pm t0 t1 → a.bytes = (List.range 8).map (addr + ·) → s.l1 = [] → s.bridge = [] →
     s.waiters.length < 4096 → s.ctx? a.ctx = some c → c.draining = none →
     natLE (a.bytes.map s.rd) / 2 ^ 48 = a.c.bits.toNat % 2 ^ 16 →
     ∃ t, exec (.barrierRegistration n) s = .next t ∧ t.mem = s.mem ∧
       t.waiters = s.waiters ++ [{ ctx := a.ctx, core := a.core, addr := addr, phase := a.c.bits.toNat % 2 ^ 16, cont := a.b.bits,
                                   epoch := 0 }] ∧
       t.lane? a.fid = some (ln.complete a.idx true t0 t1 { bits := 0 } { bits := 0 }))

/-- R279, R259: a keyed arrival whose checks have passed goes to the unit of its word, which applies it when it is due: the
sum of the word and the addend, in key order, and the lane receives 0. Under DET `fatom.add.f32` does the same (R278),
and with acquire then advances the core's acquire generation. R259: a stalled arrival is tried again, and with room at
its unit it is accepted: kept back while its key is ahead of NEXT. -/
def Obligations.OrderedReduction : Prop :=
  (∀ (s : State) (n : Nat) (a : Access) (ln : Lane) (pm : Pm) (t0 : Target) (sc : Scope) (addr : Nat) (rel : Bool) (ord : Order)
       (k : Core), Due s n a ln →
     (a.instr = .redo pm t0 rel sc ∧ ord = .relaxed ∨
      a.instr = .fatom pm .addF32 t0 ord sc ∧ s.isDet a.ctx = true ∧ (rel = true ↔ ord = .rel ∨ ord = .ar)) →
     (rel = true → (∀ i ∈ a.before, ∀ o ∈ s.accesses, o.id ≠ i) ∧ (sc = .gang → s.remoteOut = [])) → s.cores[a.core]? = some k →
     a.space = .hbm → a.bytes = (List.range 4).map (addr + ·) → s.l1 = [] → s.bridge = [] →
     s.arrivals = [] → s.targets = [] → (∀ x ∈ a.bytes, isMemory x = true) → (∃ c, s.ctx? a.ctx = some c ∧ c.draining = none) →
     let x := if a.b.void then 0 else a.b.bits.toNat % 2 ^ 32
     let old := natLE (a.bytes.map s.rd)
     ∃ t, exec (.memAccessPerformed n) s = .next t ∧ t.mem = s.mem ∧
       t.arrivals = [{ die := a.core / 64, ctx := a.ctx, addr := addr, key := a.c.bits.toNat % 2 ^ 32, last := a.c.bits.getLsbD 32,
                       x := BitVec.ofNat 32 x, acc := some a.id, stalled := false }] ∧
       (a.c.bits.toNat % 2 ^ 32 = 0 → ∃ u, exec (.orderedArrival 0) t = .next u ∧ u.arrivals = [] ∧
         natLE (a.bytes.map u.rd) = (fadd .f32 .rne (BitVec.ofNat 64 old) (BitVec.ofNat 64 x)).toNat ∧
         (∀ y, y ∉ a.bytes → u.rd y = s.rd y) ∧
         u.lane? a.fid = some (ln.complete a.idx true t0 .none { bits := 0 } { bits := 0 }) ∧
         (u.core a.core).agen = if (ord = .acq ∨ ord = .ar) ∧ sc ≠ .core then k.agen + 1 else k.agen)) ∧
  (∀ (s : State) (a : RedArrival) (rest : List RedArrival) (c : Ctx) (q : Access) (ln : Lane) (pm : Pm) (t0 : Target) (b : Bool) (sc : Scope),
     s.arrivals = a :: rest → a.stalled = true → s.ctx? a.ctx = some c → a.ctx < 1024 → c.draining = none → s.targets = [] → 0 < a.key →
     a.acc = some q.id → s.accesses = [q] → s.bridge = [] → q.instr = .redo pm t0 b sc → s.lane? q.fid = some ln → q.orphan = false →
     ∃ t, exec (.orderedArrivalUnstall 0) s = .next t ∧ t.arrivals = rest ∧ t.mem = s.mem ∧
       t.targets = [{ die := homeDie a.addr, ctx := a.ctx, addr := a.addr, next := 0, buffered := [(a.key, a.last, a.x)] }] ∧
       t.lane? q.fid = some (ln.complete q.idx true t0 .none { bits := 0 } { bits := 0 }))

/-- R241, R237–R239: WALK reads the record at the context's table: a MOVING one parks the access, an invalid one faults
BAD_HANDLE with the handle and its first doubleword, a valid one is cached for the core and the access goes on with it.
One that a SHOOT found MOVING parks until its PUBLISH (R246; log entry 66). A walk waits while its stack's budget is
spent (R453; log entry 110). -/
def Obligations.Walks : Prop :=
  ∀ (s : State) (n : Nat) (a : Access), s.accesses[n]? = some a → (s.accesses.map (·.id)).Nodup → a.phase = .walking →
    let at0 := (s.otpool.toNat / 2 ^ 16 % 2 ^ 32) * 65536 + (a.ctx * 2 ^ (s.otpool.toNat % 32) + a.handle) * 128
    let r := parseRec (natLE (s.rdN at0 128))
    let dw0 := BitVec.ofNat 64 (natLE (s.rdN at0 8))
    a.handle < 2 ^ (s.otpool.toNat % 32) →
    let open_ := (a.ctx, a.handle) ∈ s.unpublished
    let l := s.recBytes a.ctx a.handle
    let u := s.chargeUnits l
    (s.unitsFor l = false → exec (.walk n) s = .next s) ∧
    (s.unitsFor l = true →
      (r.state = 2 ∨ r.state = 1 ∧ open_ →
        ∃ t, exec (.walk n) s = .next t ∧ t.accesses[n]? = some { a with phase := .moving } ∧ t.mem = s.mem) ∧
      (r.state = 0 ∨ r.state = 3 ∨ r.state = 1 ∧ ¬open_ ∧ r.wellFormed s.pool = false →
        exec (.walk n) s = .next (u.faultAccess a 0x08 [BitVec.ofNat 64 a.handle, dw0])) ∧
      (r.state = 1 → ¬open_ → r.wellFormed s.pool = true →
        ∃ t : State, exec (.walk n) s = .next (t.proceed a r) ∧ t.orcHit a.core a.ctx a.handle = some r ∧ t.mem = s.mem ∧
          t.accesses = s.accesses))

/-- R306, R321, R347, R355: an engine word whose block passes its checks is accepted when the queue has room: the command
with its block as it stands and its continuation joins the engine's queue, and the lane receives 0. A block that fails a
check faults the lane with the check's code and DETAIL (of REGION in the form of log entry 30). A void-marked latch
submits nothing. R306, R462: the first checks of a block: the block in the scratchpad region, on a multiple of 64 (else
bit 512), and the lowest failing field otherwise; the codes of the four engines. R347, R352: of a run, CMD, the range of
records, and, of a sound block at acceptance, the slot, which is a fourth item of DETAIL. That REGION's DETAIL of a
block names its offset, the range's offset and its length is the model's reading (log entry 30). -/
def Obligations.EngineSubmission : Prop :=
  (∀ (s : State) (fl : Flock) (j : Nat) (ln : Lane) (k : Cell) (pm : Pm) (ty : MxTy) (ac : AcvtTy) (op : CpyrOp) (sl : BitVec 2)
     (t0 t1 : Target) (c : Ctx),
     OneLane s fl j ln k pm → s.ctx? fl.ctx = some c → c.draining = none → (∀ a ∈ s.accesses, a.id ≤ s.reqSeq ∧ a.fid ≠ ln.fid ∧ a.flock ≠ fl.id) →
     s.l1 = [] → s.bridge = [] → s.remoteOut = [] →
     ∀ i ∈ ([.mma pm ty t0 t1, .mmas pm ty t0 t1, .wld pm ty t0 t1, .aclr pm t0 t1, .acvt pm ac t0 t1, .aadd pm t0 t1,
       .cpy pm t0 t1, .cpyg pm t0 t1, .cpys pm t0 t1, .cpyr pm op t0 t1, .cpybsToplanes pm t0 t1, .cpybsFromplanes pm t0 t1,
       .cpyt pm t0 t1, .cpyhTohost pm t0 t1, .cpyhFromhost pm t0 t1, .cpyf pm t0 t1, .lkrun pm sl t0 t1, .tvec pm t0 t1,
       .tgemv pm ty t0 t1, .tgemvs pm ty t0 t1, .tred pm t0 t1] : List Instr),
     (k.a.void = true ∨ k.b.void = true → exec i s = .next (s.gives ln j i { bits := 1, void := true })) ∧
     (k.a.void = false → k.b.void = false →
       (∀ (b : BitVec 512) (r : Option (BitVec 512)), s.checkBlock c fl.core i k.a.bits.toNat = .ok (b, r) →
         (k.b.bits = 0 ∨ c.contOk k.b.bits = true) → (s.queued fl.core (engineOf i)).length < queueRoom (engineOf i) →
         ∃ (t : State) (q : EngineCmd), exec i s = .next t ∧ t.cmds = s.cmds ++ [q] ∧ q.id = s.cmdSeq + 1 ∧ q.engine = engineOf i ∧
           q.instr = i ∧ q.core = fl.core ∧ q.ctx = fl.ctx ∧ q.fid = ln.fid ∧ q.cont = k.b.bits ∧ q.block = b ∧ q.reload = r ∧
           q.started = false ∧ q.ended = none ∧ t.mem = s.mem ∧ t.accesses = s.accesses ∧
           t.lane? ln.fid = some ((ln.issue j).complete j true t0 t1 { bits := 0 } { bits := 0 })) ∧
       (∀ (code : Nat) (d : List Word), s.checkBlock c fl.core i k.a.bits.toNat = .error (code, d) →
         ∃ t : State, exec i s = .next (t.faultLane ln.fid j code d) ∧ t.mem = s.mem ∧ t.cmds = s.cmds ∧
           t.lane? ln.fid = some (ln.issue j)))) ∧
  (∀ (s : State) (c : Ctx) (core : Nat) (i : Instr) (off : Nat) (g : Region), s.ctx? c.id = some c →
     c.regions.find? (·.core = core) = some g →
     let base := 0x0F0000000000 + 0x400000 * core + 65536 * g.scrSeg
     let code := match engineOf i with | .mxu => 0x20 | .copy => 0x28 | .fabric => 0x2C | .trough => 0x2E
     let dw := BitVec.ofNat 64 (s.rdNat (base + off) 64 % 2 ^ 64)
     let slot : List Word := match i with | .lkrun _ sl _ _ => [sl.setWidth 64] | _ => []
     let b := BitVec.ofNat 512 (s.rdNat (base + off) 64)
     (65536 * g.scratch < off + 64 →
       s.checkBlock c core i off = .error (0x0B, [BitVec.ofNat 64 off, BitVec.ofNat 64 off, 64])) ∧
     (off + 64 ≤ 65536 * g.scratch → off % 64 ≠ 0 →
       s.checkBlock c core i off = .error (code, [BitVec.ofNat 64 off, dw, 512] ++ slot)) ∧
     (off + 64 ≤ 65536 * g.scratch → off % 64 = 0 →
       (∀ (pm : Pm) (ty : MxTy) (t0 t1 : Target), i = .wld pm ty t0 t1 → b.extractLsb' 0 4 ≠ 3 →
         s.checkBlock c core i off = .error (code, [BitVec.ofNat 64 off, dw, 0])) ∧
       (∀ (pm : Pm) (t0 t1 : Target), i = .aclr pm t0 t1 → b.extractLsb' 0 4 = 4 → b.extractLsb' 6 58 = 0 →
         b.toNat / 2 ^ 64 % 2 ^ 32 % 4 ≠ 0 → s.checkBlock c core i off = .error (code, [BitVec.ofNat 64 off, dw, 64])) ∧
       ∀ (pm : Pm) (sl : BitVec 2) (t0 t1 : Target), i = .lkrun pm sl t0 t1 →
         let refused := fun bit : Word => s.checkBlock c core i off = .error (0x2C, [BitVec.ofNat 64 off, dw, bit, sl.setWidth 64])
         (b.extractLsb' 0 4 ≠ 7 → refused 0) ∧
         (b.extractLsb' 0 4 = 7 → b.extractLsb' 6 42 = 0 → b.extractLsb' 60 4 = 0 →
           4096 < (b.extractLsb' 48 12).toNat + (b.extractLsb' 64 12).toNat + 1 → refused 64) ∧
         ((∀ f ∈ lkrunChecks b, f.2 = true) → (s.cmds.filter fun q => q.core = core && q.engine = .fabric).length < 32 →
           s.holdsSlot c.id core sl.toNat = false → refused 513) ∧
         ((∀ f ∈ lkrunChecks b, f.2 = true) → s.holdsSlot c.id core sl.toNat = true → s.rangeBad c.id core (lkrunRanges b) = none →
           s.checkBlock c core i off = .ok (b, none))))

/-- R343, R344, R350: `lkctx` makes a request that the fabric serves in a later cycle; a claim of a free slot takes it,
empty; a release marks it, and once no run is counted it is free. `lkst` writes a record of a slot that the context
holds. R344, R345: a releasing slot with no counted run is freed, its release answered, and a waiting claim takes it,
empty; in a cycle of two claims the one of the context admitted later is refused. -/
def Obligations.FabricSlotsAndClaims : Prop :=
  (∀ (s : State) (fl : Flock) (j : Nat) (ln : Lane) (k : Cell) (pm : Pm) (sl : BitVec 2) (t0 t1 : Target) (c : Ctx),
     OneLane s fl j ln k pm → s.ctx? fl.ctx = some c → c.draining = none →
     (∀ o ∈ s.accesses, o.id ≤ s.reqSeq) →
     (k.a.void = true ∨ k.b.void = true →
       exec (.lkctx pm sl t0 t1) s = .next (s.gives ln j (.lkctx pm sl t0 t1) { bits := 1, void := true })) ∧
     (k.a.void = true ∨ k.b.void = true ∨ k.c.void = true →
       exec (.lkst pm t0 t1) s = .next (s.gives ln j (.lkst pm t0 t1) { bits := 1, void := true })) ∧
     (k.a.void = false → k.b.void = false →
     (k.a.bits.toNat ≤ 1 → (k.b.bits = 0 ∨ c.contOk k.b.bits = true) →
       ∃ (t : State) (a : Access), exec (.lkctx pm sl t0 t1) s = .next t ∧ t.accesses = s.accesses ++ [a] ∧
         a.instr = .lkctx pm sl t0 t1 ∧ a.core = fl.core ∧ a.ctx = fl.ctx ∧ a.handle = sl.toNat ∧
         t.lane? ln.fid = some (ln.issue j) ∧
         -- served next when it is the first of its core
         ((∀ o ∈ s.accesses, o.core ≠ fl.core ∧ o.flock ≠ fl.id) →
           (k.a.bits = 0 → (∀ q ∈ s.lkSlots, q.core = fl.core → q.slot ≠ sl.toNat) →
             (∀ q ∈ s.lkClaims, q.core = fl.core → q.slot ≠ sl.toNat) →
             ∃ u, exec (.lkfClaim fl.core) { t with cycle := t.cycle + 1 } = .next u ∧ u.accesses = s.accesses ∧
               u.lkSlots = s.lkSlots ++ [{ core := fl.core, slot := sl.toNat, ctx := fl.ctx, releasing := false, records := [] }] ∧
               u.lane? ln.fid = some ((ln.issue j).complete j true t0 t1 { bits := 0 } { bits := 0 })) ∧
           (k.a.bits = 1 → s.holdsSlot fl.ctx fl.core sl.toNat = true →
             ∃ u, exec (.lkfRelease fl.core) { t with cycle := t.cycle + 1 } = .next u ∧ u.accesses = s.accesses ∧
               u.lkSlots = s.lkSlots.map (fun q => if q.core = fl.core ∧ q.slot = sl.toNat then { q with releasing := true, cont := k.b.bits } else q)))) ∧
     (k.a.bits.toNat ≤ 1 → k.b.bits ≠ 0 → c.contOk k.b.bits = false →
       exec (.lkctx pm sl t0 t1) s = .next (s.faultLane ln.fid j 0x05 [k.b.bits])) ∧
     (2 ≤ k.a.bits.toNat →
       exec (.lkctx pm sl t0 t1) s = .next (s.faultLane ln.fid j 0x2C [k.a.bits, sl.setWidth 64])) ∧
     (k.c.void = false → k.c.bits.toNat < 2 ^ 14 → s.holdsSlot fl.ctx fl.core (k.c.bits.toNat / 4096) = true →
       ∃ t, exec (.lkst pm t0 t1) s = .next t ∧ t.mem = s.mem ∧
         t.lane? ln.fid = some (ln.complete j true t0 t1 { bits := 0 } { bits := 0 }) ∧
         ∀ q ∈ t.lkSlots, q.core = fl.core → q.slot = k.c.bits.toNat / 4096 → q.record (k.c.bits.toNat % 4096) = k.b.bits ++ k.a.bits) ∧
     (k.c.void = false → (2 ^ 14 ≤ k.c.bits.toNat ∨ s.holdsSlot fl.ctx fl.core (k.c.bits.toNat / 4096 % 4) = false) →
       exec (.lkst pm t0 t1) s = .next (s.faultLane ln.fid j 0x2C [k.c.bits, BitVec.ofNat 64 (k.c.bits.toNat / 4096 % 4)])))) ∧
  ((∀ (s : State) (core slot : Nat) (q : LkSlot), q ∈ s.lkSlots → s.lkSlots.Nodup →
     (∀ p ∈ s.lkSlots, p.core = core → p.slot = slot → p = q) → q.core = core → q.slot = slot → q.releasing = true →
     (∀ e ∈ s.cmds, e.core ≠ core) →
     (s.lkClaims = [] →
       ∃ t, exec (.lkfSlotFree core slot) s = .next t ∧ t.lkSlots = s.lkSlots.filter (· ≠ q) ∧ t.mem = s.mem) ∧
     ∀ w : LkClaim, s.lkClaims = [w] → w.core = core → w.slot = slot → w.saved = false →
       ∃ t, exec (.lkfSlotFree core slot) s = .next t ∧ t.lkClaims = [] ∧ t.mem = s.mem ∧
         t.lkSlots = s.lkSlots.filter (· ≠ q) ++ [{ core := core, slot := slot, ctx := w.ctx, releasing := false, records := [] }]) ∧
   ∀ (s : State) (p q : LkSlot) (a b : LkClaim) (x y : Ctx), s.lkSlots = [p, q] → s.lkClaims = [a, b] →
     a.saved = false → b.saved = false → p.ctx = x.id → q.ctx = y.id → a.ctx = y.id → b.ctx = x.id → x.id ≠ y.id →
     a.core = p.core → a.slot = p.slot → b.core = q.core → b.slot = q.slot → (p.core, p.slot) ≠ (q.core, q.slot) →
     s.ctx? x.id = some x → s.ctx? y.id = some y → x.saved = [] → y.saved = [] →
     x.admission < y.admission →
     ∃ t, exec .claimCycle s = .next t ∧ t.lkClaims = [b] ∧ t.lkSlots = s.lkSlots)

/-- R312, R316: ACLR_EXEC clears its bytes and AADD_EXEC adds one accumulator tile into another, as wrapping integers or in
FP32; each ends with status 0 and all rows done, and leaves every other byte. R298, R301: WLD_EXEC from the scratchpad
fills its bank with the tile's element codes and scales by column, valid, with the block's tag. -/
def Obligations.AccumulatorsAndWeights : Prop :=
  (∀ (s : State) (k : EngineCmd) (core : Nat) (pm : Pm) (t0 t1 : Target), s.headCmd core .mxu = some k → k.core = core →
     k ∈ s.cmds → k.fresh → s.sound →
     let b := k.block
     let base := (s.regionOf k.ctx core true).1
     let f := fun lo len => b.toNat / 2 ^ lo % 2 ^ len
     (k.instr = .aclr pm t0 t1 → f 96 32 % 4 = 0 → (∀ x, base + f 64 32 ≤ x → x < base + f 64 32 + f 96 32 → isMemory x = true) →
       ∃ t, exec (.aclrExec core) s = .next t ∧ t.hasEnded k 0 0 1 ∧
         (∀ x, base + f 64 32 ≤ x → x < base + f 64 32 + f 96 32 → t.rd x = 0) ∧
         s.sameOutside t [(base + f 64 32, f 96 32)]) ∧
     (k.instr = .aadd pm t0 t1 → (aaddChecks b).all (·.2) = true →
       let m := f 32 9 + 1
       let n := f 48 8 + 1
       let old := fun i j => s.rdNat (base + f 128 32 + i * f 160 32 + 4 * j) 4
       let add := fun i j => s.rdNat (base + f 192 32 + i * f 224 32 + 4 * j) 4
       ∃ t, exec (.aaddExec core) s = .next t ∧ t.hasEnded k 0 0 m ∧
         t.mem = (s.writeWords (tileWords (base + f 128 32) (f 160 32) m n fun i j =>
           if f 6 1 = 1 then (old i j + add i j) % 2 ^ 32
           else (fadd .f32 .rne (BitVec.ofNat 64 (old i j)) (BitVec.ofNat 64 (add i j))).toNat)).mem)) ∧
  (∀ (s : State) (k : EngineCmd) (core : Nat) (pm : Pm) (ty : MxTy) (t0 t1 : Target), s.headCmd core .mxu = some k → k.core = core →
     k ∈ s.cmds → k.fresh → s.sound → k.instr = .wld pm ty t0 t1 →
     let b := k.block
     let f := fun lo len => b.toNat / 2 ^ lo % 2 ^ len
     let base := (s.regionOf k.ctx core false).1
     let eb := fmtBits (mxFmt ty)
     let elem := fun col i =>
       let v := s.rdNat (base + f 352 32 * col + f 320 32 + i * eb / 8) ((eb + 7) / 8)
       if eb = 4 then v / 16 ^ (i % 2) % 16 else v
     let blk := if f 11 1 = 1 then 16 else 32
     f 9 1 = 0 → (∀ x ∈ s.banks, ¬(x.core = core ∧ x.bank = f 6 1)) →
     ∃ (t : State) (w : MxuBank), exec (.wldExec core) s = .next t ∧ t.hasEnded k 0 0 1 ∧ t.mem = s.mem ∧
       t.banks = s.banks ++ [w] ∧ w.core = core ∧ w.bank = f 6 1 ∧ w.valid = true ∧ w.ctx = k.ctx ∧ w.wid = f 48 16 ∧ w.sub = ty ∧
       w.k = f 31 9 + 1 ∧ w.n = f 40 8 + 1 ∧ w.scaled = (f 10 1 = 1 : Bool) ∧ w.sblk = (if f 10 1 = 1 then blk else 0) ∧
       ∀ col i, col < w.n → i < w.k → (w.w[col]?.bind (·[i]?)) = some (elem col i) ∧
         (w.scales[col]?.bind (·[i]?)) =
           some (if f 10 1 = 1 then s.rdNat (base + f 416 32 * col + f 384 32 + i / blk) 1 else 127))

/-- R299, R302, R314, R315: MMA_EXEC and MMAS_EXEC, with the valid bank they name: every result word is the sum of the K
products, with the old word under ACC, of integers modulo 2³² or by the aligned sum of exact products. -/
def Obligations.Products : Prop :=
  ∀ (s : State) (k : EngineCmd) (core : Nat) (pm : Pm) (ty : MxTy) (t0 t1 : Target) (w : MxuBank) (scaled : Bool),
    s.headCmd core .mxu = some k → k.core = core → k ∈ s.cmds → k.fresh → s.sound →
    k.instr = (if scaled then .mmas pm ty t0 t1 else .mma pm ty t0 t1) → k.reload = none →
    let b := k.block
    let f := fun lo len => b.toNat / 2 ^ lo % 2 ^ len
    let base := (s.regionOf k.ctx core false).1
    let abase := (s.regionOf k.ctx core true).1
    let m := f 32 9 + 1
    let eb := fmtBits (mxFmt ty)
    s.bank? core (f 6 1) = some w → w.valid = true → w.ctx = k.ctx → w.wid = f 48 16 → w.sub = ty → w.scaled = scaled →
    (scaled = true → 0 < w.sblk) →
    (mmaChecks ty scaled w.k w.n (max w.sblk 1) b).all (·.2) = true → s.inRegions k (mmaRanges ty scaled w.k w.n (max w.sblk 1) b) →
    (let r := mmaRanges ty scaled w.k w.n (max w.sblk 1) b
     s.apart k (r.filter fun x => !x.1) (r.filter (·.1))) →
    let a := fun row i =>
      let v := s.rdNat (base + (f 64 32 + row * f 96 32) + i * eb / 8) ((eb + 7) / 8)
      if eb = 4 then v / 16 ^ (i % 2) % 16 else v
    let wt := fun col i => ((w.w[col]?.bind (·[i]?)).getD 0)
    let sa := fun row i => if scaled then s.rdNat (base + f 192 32 + row * f 224 32 + i / w.sblk) 1 else 127
    let sw := fun col i => if scaled then (w.scales[col]?.bind (·[i]?)).getD 127 else 127
    let old := fun row col => s.rdNat (abase + f 128 32 + row * f 160 32 + 4 * col) 4
    let acc := f 7 1 = 1
    let ity : Ity := if ty = .i8 then .i8 else .i4
    let value := fun row col =>
      if ty = .i8 ∨ ty = .i4 then
        (BitVec.ofInt 32 (((List.range w.k).map fun i => val ity (BitVec.ofNat 64 (a row i)) * val ity (BitVec.ofNat 64 (wt col i))).sum +
          (if acc then (old row col : Int) else 0))).toNat
      else alignedSum ((List.range w.k).map (fun i =>
          (elemVal (mxFmt ty) (a row i) (sa row i)).mul (elemVal (mxFmt ty) (wt col i) (sw col i))) ++
        (if acc then [decodeFmt .f32 (old row col)] else []))
    ∃ t, exec (if scaled then .mmasExec core else .mmaExec core) s = .next t ∧ t.hasEnded k 0 0 m ∧
      t.mem = (s.writeWords (tileWords (abase + f 128 32) (f 160 32) m w.n value)).mem

/-- R314, R315: the sum over the products does not depend on their order. Of finite terms, the largest magnitude that is not
zero lying from 2^e up to below 2^(e+1), it is the exact sum of the magnitudes cut to multiples of 2^(e − 48), rounded
once to FP32; of zeros alone it is -0 when all are -0, else +0; a NaN, or infinities of both signs, give 0x7FC00000, and
infinities of one sign that infinity. -/
def Obligations.SumsWithoutOrder : Prop :=
  (∀ (l l' : List XNum) (i i' : List Int), l.Perm l' → i.Perm i' → alignedSum l = alignedSum l' ∧ intSum i = intSum i') ∧
  (∀ l : List XNum, XNum.nan ∈ l ∨ (XNum.inf true ∈ l ∧ XNum.inf false ∈ l) → alignedSum l = 0x7FC00000) ∧
  (∀ (l : List XNum) (g : Bool), XNum.nan ∉ l → XNum.inf g ∈ l → XNum.inf (!g) ∉ l →
    alignedSum l = if g then 0xFF800000 else 0x7F800000) ∧
  (∀ l : List XNum, l ≠ [] → (∀ t ∈ l, ∃ g d, t = .fin g 0 d) →
    ((∀ t ∈ l, ∃ d, t = .fin true 0 d) → alignedSum l = 0x80000000) ∧
    ((∃ t ∈ l, ∃ d, t = .fin false 0 d) → alignedSum l = 0)) ∧
  ∀ (l : List (Bool × Nat × Nat)) (e : Int), (∀ t ∈ l, 0 < t.2.2) →
    let at0 : Int → Rat := fun e => if e < 0 then 1 / 2 ^ e.natAbs else 2 ^ e.natAbs
    let mag := fun t : Bool × Nat × Nat => (t.2.1 : Rat) / (t.2.2 : Rat)
    (∀ t ∈ l, mag t < at0 (e + 1)) → (∃ t ∈ l, at0 e ≤ mag t) →
    let sum : Int := (l.map fun t => (if t.1 then -1 else 1) * (mag t / at0 (e - 48)).floor).sum
    alignedSum (l.map fun t => .fin t.1 t.2.1 t.2.2) =
      if sum = 0 then 0
      else roundTo ffF32 .rne false (.fin (sum < 0) (if e < 48 then sum.natAbs else sum.natAbs * 2 ^ (e - 48).natAbs)
        (if e < 48 then 2 ^ (e - 48).natAbs else 1))

/-- R325, R327, R328, R329, R332, R362: commands between regions of the issuing core run to their ends with status 0 and
every row done, and change no byte outside their destination range. R325, R327–R329, R332, R362: what the commands
between regions that do not overlap write. An element copied, gathered or scattered has the source's code, or the code
rounded by RND and SAT where the formats differ; a row that its index skips is left; of several rows scattered to one
the last gives it; a fill gives VALUE's low bits; a reduction combines each element with the destination's old one;
planes take and give back one bit of each element; a trough's reduction sums its parts, rounded once more. -/
def Obligations.RegionCommands : Prop :=
  (∀ (s : State) (k : EngineCmd) (core : Nat) (pm : Pm) (t0 t1 : Target) (sf df : Fmt), k ∈ s.cmds → k.core = core → k.fresh → s.sound →
     (∃ c, s.ctx? k.ctx = some c) →
     let b := k.block
     let f := fun lo len => b.toNat / 2 ^ lo % 2 ^ len
     let e0 := f 48 16 + 1
     let e1 := f 32 16 + 1
     let src := cSrc b
     let dst := cDst b
     dst.own df →
     let head := fun (i : Instr) => k.instr = i ∧ s.queued core .copy = [k]
     let ends := fun (e : Instr) (ck : CopyKind) (done : Nat) => s.inRegions k (copySrcRange ck b) → s.inRegions k (copyDstRange ck b) →
       ∃ t, exec e s = .next t ∧ t.hasEnded k 0 0 done ∧ s.sameOutside t ((copyDstRange ck b).map (s.spanOf k))
     (head (.cpy pm t0 t1) → src.own sf → pairOk sf df = true → ends (.cpyExec core) .cpy e1) ∧
     (head (.cpyf pm t0 t1) → ends (.cpyfExec core) .cpyf e1) ∧
     (head (.cpyg pm t0 t1) → src.own sf → pairOk sf df = true → f 11 1 = 1 → ends (.cpygExec core) .cpyg e1) ∧
     (head (.cpys pm t0 t1) → src.own sf → pairOk sf df = true → f 11 1 = 1 → ends (.cpysExec core) .cpys e1) ∧
     (∀ op : CpyrOp, head (.cpyr pm op t0 t1) → src.own sf → cpyrSrcOk op sf = true → df = cpyrDst op → ends (.cpyrExec core) (.cpyr op) e1) ∧
     (head (.cpybsToplanes pm t0 t1) → src.own sf → f 201 1 = 0 → intFmt sf (f 192 6 + 1) = true → df = .int .n64 →
       ends (.cpybsExec core) (.planes true) ((e1 + 63) / 64 * e0 * (f 192 6 + 1))) ∧
     (head (.cpybsFromplanes pm t0 t1) → src.own sf → sf = .int .n64 → intFmt df (f 192 6 + 1) = true → ends (.cpybsExec core) (.planes false) e1) ∧
     -- a reduction by the troughs
     (s.headCmd core .trough = some k → k.instr = .tred pm t0 t1 → src.own sf → tredSrcOk b sf = true → tredDstOk b df = true →
       s.inRegions k (src.range (f 26 6 + 1) e1) → s.inRegions k (dst.range 1 e1) →
       ∃ t, exec (.tredExec core) s = .next t ∧ t.hasEnded k 0 0 e1 ∧ s.sameOutside t ((dst.range 1 e1).map (s.spanOf k)))) ∧
  (∀ (s : State) (k : EngineCmd) (core : Nat) (pm : Pm) (t0 t1 : Target) (sf df : Fmt), k ∈ s.cmds → k.core = core → k.fresh → s.sound →
     (∃ c, s.ctx? k.ctx = some c) →
     let b := k.block
     let f := fun lo len => b.toNat / 2 ^ lo % 2 ^ len
     let e0 := f 48 16 + 1
     let e1 := f 32 16 + 1
     let np := f 192 6 + 1
     let src := cSrc b
     let dst := cDst b
     let old := fun i j => s.elemOf k dst df i j
     let from_ := fun i j => s.elemOf k src sf i j
     let moved := fun code => (if df = sf then code else convert df sf (modeOf (f 6 3)) (f 9 1 = 1) code) % 2 ^ fmtBits df
     -- the indices of a gather or scatter, and whether one skips its row
     let x := fun j => s.rdNat ((s.regionOf k.ctx core false).1 + f 224 32 + 4 * j) 4
     let skips := fun j => (f 10 1 = 1 ∧ x j = 0xFFFFFFFF) ∨ f 192 32 ≤ x j
     -- a command ends well, and its destination's elements hold what `val` says
     let writes := fun (e : Instr) (ck : CopyKind) (n m : Nat) (val : State → Prop) =>
       s.inRegions k (copySrcRange ck b) → s.inRegions k (copyDstRange ck b) → s.apart k (copySrcRange ck b) (copyDstRange ck b) →
       s.written k (copyDstRange ck b) → (m ≤ 1 ∨ (n * fmtBits df + 7) / 8 ≤ dst.pitch) →
       ∃ t, exec e s = .next t ∧ t.hasEnded k 0 0 e1 ∧ val t
     dst.own df →
     (s.queued core .copy = [k] →
       (k.instr = .cpyf pm t0 t1 → writes (.cpyfExec core) .cpyf e0 e1 fun t =>
         ∀ i j, i < e0 → j < e1 → t.elemOf k dst df i j = f 192 64 % 2 ^ fmtBits df) ∧
       (src.own sf → pairOk sf df = true → f 6 3 ≤ 3 →
         (k.instr = .cpy pm t0 t1 → writes (.cpyExec core) .cpy e0 e1 fun t =>
           ∀ i j, i < e0 → j < e1 → t.elemOf k dst df i j = moved (from_ i j)) ∧
         (k.instr = .cpyg pm t0 t1 → f 11 1 = 1 → writes (.cpygExec core) .cpyg e0 e1 fun t => ∀ i j, i < e0 → j < e1 →
           (skips j → t.elemOf k dst df i j = old i j) ∧ (¬skips j → t.elemOf k dst df i j = moved (from_ i (x j)))) ∧
         (k.instr = .cpys pm t0 t1 → f 11 1 = 1 → writes (.cpysExec core) .cpys e0 (f 192 32) fun t => ∀ i r, i < e0 → r < f 192 32 →
           ((∀ j, j < e1 → ¬skips j → x j ≠ r) → t.elemOf k dst df i r = old i r) ∧
           ∀ j, j < e1 → ¬skips j → x j = r → (∀ j', j < j' → j' < e1 → ¬skips j' → x j' ≠ r) → t.elemOf k dst df i r = moved (from_ i j))) ∧
       (∀ op : CpyrOp, k.instr = .cpyr pm op t0 t1 → src.own sf → cpyrSrcOk op sf = true → df = cpyrDst op →
         writes (.cpyrExec core) (.cpyr op) e0 e1 fun t => ∀ i j, i < e0 → j < e1 →
           let d := BitVec.ofNat 64 (old i j)
           let v := BitVec.ofNat 64 (if sf = df then from_ i j else convert .f32 sf .rne false (from_ i j))
           t.elemOf k dst df i j = (match op with
             | .addF32 => fadd .f32 .rne d v
             | .minF32 => fminmax false .f32 d v
             | .maxF32 => fminmax true .f32 d v
             | .addBf16 => fadd .bf16 .rne d v).toNat) ∧
       (k.instr = .cpybsFromplanes pm t0 t1 → src.own sf → sf = .int .n64 → intFmt df np = true →
         writes (.cpybsExec core) (.planes false) e0 e1 fun t => ∀ i j p, i < e0 → j < e1 →
           (t.elemOf k dst df i j).testBit p =
             (decide (p < np) && (s.rdNat (s.endBase k src + 8 * ((j / 64 * e0 + i) * np + p)) 8).testBit (j % 64)))) ∧
     (s.queued core .copy = [k] → k.instr = .cpybsToplanes pm t0 t1 → src.own sf → df = .int .n64 →
       (if f 201 1 = 0 then intFmt sf np else threshFmt sf) = true →
       s.inRegions k (copySrcRange (.planes true) b) → s.inRegions k (copyDstRange (.planes true) b) →
       s.apart k (copySrcRange (.planes true) b) (copyDstRange (.planes true) b) → s.written k (copyDstRange (.planes true) b) →
       ∃ t, exec (.cpybsExec core) s = .next t ∧ t.hasEnded k 0 0 ((e1 + 63) / 64 * e0 * np) ∧
         ∀ g i p n, g < (e1 + 63) / 64 → i < e0 → p < np → n < 64 →
           let code := from_ i (64 * g + n)
           let v := decodeFmt .f32 (match sf with
             | .int ty => roundTo ffF32 .rne false (.fin (val ty (BitVec.ofNat 64 code) < 0) (val ty (BitVec.ofNat 64 code)).natAbs 1)
             | _ => if sf = .f32 then code else convert .f32 sf .rne false code)
           let limit := decodeFmt .f32 (s.rdNat ((s.regionOf k.ctx core false).1 + f 224 32 + 4 * p) 4)
           (t.rdNat (s.endBase k dst + 8 * ((g * e0 + i) * np + p)) 8).testBit n =
             (decide (64 * g + n < e1) &&
               if f 201 1 = 0 then code.testBit p else (limit != .nan && v != .nan && !v.lt limit))) ∧
     (s.headCmd core .trough = some k → k.instr = .tred pm t0 t1 → src.own sf → tredSrcOk b sf = true → tredDstOk b df = true → f 6 3 ≤ 3 →
       s.inRegions k (src.range (f 26 6 + 1) e1) → s.inRegions k (dst.range 1 e1) →
       s.apart k (src.range (f 26 6 + 1) e1) (dst.range 1 e1) → s.written k (dst.range 1 e1) →
       ∃ t, exec (.tredExec core) s = .next t ∧ t.hasEnded k 0 0 e1 ∧ ∀ m, m < e1 →
         let parts := (List.range (f 26 6 + 1)).map fun p => from_ m p
         t.elemOf k dst df m 0 =
           if f 11 1 = 1 then intSum (parts.map (fun c => val .i32 (BitVec.ofNat 64 c)) ++
             (if f 10 1 = 1 then [val .i32 (BitVec.ofNat 64 (old m 0))] else []))
           else roundInto df (modeOf (f 6 3)) (f 9 1 = 1) (decodeFmt .f32 (alignedSum (parts.map (decodeFmt .f32) ++
             (if f 10 1 = 1 then [decodeFmt df (old m 0)] else []))))))

/-- R330: CPYT_EXEC writes its records into the slot that the context holds. R331: CPYH_EXEC into a host window of bytes
makes one write of each element in ascending order, of VALUE's low bits or of the source's element, and changes no
memory until the host acknowledges; out of a host window it writes each byte that stands there. R316: ACVT_EXEC into the
scratchpad writes the product of each word and MUL, rounded once by RND and SAT. -/
def Obligations.StreamsAndWindows : Prop :=
  ∀ (s : State) (k : EngineCmd) (core : Nat) (pm : Pm) (t0 t1 : Target) (c : Ctx) (o : ObjRec), k ∈ s.cmds → k.core = core → k.fresh → s.sound →
    s.ctx? k.ctx = some c →
    let b := k.block
    let f := fun lo len => b.toNat / 2 ^ lo % 2 ^ len
    let e0 := f 48 16 + 1
    let e1 := f 32 16 + 1
    let src := cSrc b
    let dst := cDst b
    let queued := s.queued core .copy = [k]
    (queued → k.instr = .cpyt pm t0 t1 → c.section? core = none → src.own (.int .n8) → s.inRegions k (copySrcRange .cpyt b) → f 247 1 = 1 →
      s.holdsSlot k.ctx core (f 242 2) = true →
      ∃ t, exec (.cpytExec core) s = .next t ∧ t.hasEnded k 0 0 e0 ∧ t.mem = s.mem ∧
        ∀ q ∈ t.lkSlots, q.core = core → q.slot = f 242 2 → ∀ i < e0,
          q.record (f 224 12 + i) = BitVec.ofNat 128 (s.rdNat (s.endBase k src + 16 * i) 16)) ∧
    (let window := fun (e : Endpoint) => e.kind = 0 ∧ s.orcHit core k.ctx (e.cur.extractLsb' 44 19).toNat = some o ∧ o.kind = 2 ∧
        o.rank = 1 ∧ o.fmt = some (.int .n8) ∧ o.str.head? = some 1 ∧ o.scale = 0 ∧ o.rmap = 0 ∧ o.smode = 0 ∧ o.tmode = 0 ∧ o.swz = 0 ∧
        o.eng = true ∧ e.cur.getLsbD 63 = false ∧ e1 = 1 ∧ (e.cur.extractLsb' 0 44).toNat + e0 ≤ o.ext[0]?.getD 0
     let byteOf := fun (e : Endpoint) i => o.base + (e.cur.extractLsb' 0 44).toNat + i
     let sends := fun (t : State) (v : Nat → Byte) => t.mem = s.mem ∧ t.hostWrites = s.hostWrites ++ (List.range e0).map fun i =>
       { cmd := k.id, port := if Config.windowPort o.base then 10 else 0, row := 0, data := [(byteOf dst i, v i)] }
     (∀ a, s.windowDown a = false) →
     (queued → k.instr = .cpyhTohost pm t0 t1 → f 13 1 = 1 → window dst → o.write = true →
       ∃ t, exec (.cpyhExec core) s = .next t ∧ t.hasEnded k 0 0 1 ∧ sends t fun _ => BitVec.ofNat 8 (f 192 64)) ∧
     (queued → k.instr = .cpyhTohost pm t0 t1 → f 13 1 = 0 → src.own (.int .n8) → s.inRegions k (copySrcRange (.host true) b) →
       window dst → o.write = true → ∃ t, exec (.cpyhExec core) s = .next t ∧ t.hasEnded k 0 0 1 ∧
         sends t fun i => BitVec.ofNat 8 (s.elemOf k src (.int .n8) i 0)) ∧
     (queued → k.instr = .cpyhFromhost pm t0 t1 → dst.own (.int .n8) → s.inRegions k (copyDstRange (.host false) b) →
       s.written k (copyDstRange (.host false) b) → window src → o.read = true → (∀ w ∈ s.hostWrites, w.cmd ≠ k.id) →
       (∀ i < e0, ∀ y ∈ copyDstRange (.host false) b, ¬((s.spanOf k y).1 ≤ byteOf src i ∧ byteOf src i < (s.spanOf k y).1 + (s.spanOf k y).2)) →
       ∃ t, exec (.cpyhExec core) s = .next t ∧ t.hasEnded k 0 0 1 ∧
         s.sameOutside t ((copyDstRange (.host false) b).map (s.spanOf k)) ∧
         ∀ i < e0, t.elemOf k dst (.int .n8) i 0 = (s.rd (byteOf src i)).toNat)) ∧
    (∀ ac : AcvtTy, s.headCmd core .mxu = some k → k.instr = .acvt pm ac t0 t1 → f 10 1 = 0 →
      let w := fmtBits (acvtFmt ac) / 8
      let m := f 32 9 + 1
      let n := f 48 8 + 1
      let rows := rowsRange false (f 384 32) (f 416 32) m (n * w)
      let at0 := (s.regionOf k.ctx core false).1 + f 384 32
      let word := fun i j => s.rdNat ((s.regionOf k.ctx core true).1 + f 288 32 + i * f 320 32 + 4 * j) 4
      ∃ t, exec (.acvtExec core) s = .next t ∧ t.hasEnded k 0 0 m ∧ s.sameOutside t [s.spanOf k rows] ∧
        ((acvtChecks ac b).all (·.2) = true → f 6 3 ≤ 3 → s.written k [rows] →
          s.apart k [rowsRange true (f 288 32) (f 320 32) m (4 * n)] [rows] → ∀ i j, i < m → j < n →
          t.rdNat (at0 + i * f 416 32 + w * j) w =
            roundInto (acvtFmt ac) (modeOf (f 6 3)) (f 9 1 = 1)
              ((if f 11 1 = 1 then
                  XNum.fin (val .i32 (BitVec.ofNat 64 (word i j)) < 0) (val .i32 (BitVec.ofNat 64 (word i j))).natAbs 1
                else decodeFmt .f32 (word i j)).mul (decodeFmt .f32 (f 352 32)))))

/-- R338–R340, R348: LKRUN_EXEC with no bad record evaluates its cells group by group. The plane of a cell has at a position
the bit of its truth table that its inputs there select; an input is an input plane of the group, or the plane of the
cell that its selector counts back to; inputs at and above NIN are planes of zeros. The planes of the cells with OUT
set, in ascending record, are the output planes, and nothing else of memory is written. -/
def Obligations.FabricRuns : Prop :=
  ∀ (s : State) (k : EngineCmd) (core : Nat) (pm : Pm) (sl : BitVec 2) (t0 t1 : Target) (q : LkSlot),
    s.headCmd core .fabric = some k → k.core = core → k ∈ s.cmds → k.fresh → s.sound → k.instr = .lkrun pm sl t0 t1 →
    s.lkSlots.find? (fun p => p.core = core && p.slot = k.slot && p.ctx = k.ctx) = some q → badCell k.block q = none →
    let b := k.block
    let f := fun lo len => b.toNat / 2 ^ lo % 2 ^ len
    let base := (s.regionOf k.ctx core false).1
    let cell := fun c => q.record (f 48 12 + c)
    let input := fun g p => s.rdNat (base + f 128 32 + g * f 160 32 + 8 * p) 8
    ∃ (t : State) (plane : Nat → Nat → Nat), exec (.lkrunExec core) s = .next t ∧ t.hasEnded k 0 0 (f 112 16 + 1) ∧
      s.sameOutside t [s.spanOf k (rowsRange false (f 192 32) (f 224 32) (f 112 16 + 1) (8 * (f 100 12 + 1)))] ∧
      ∀ g, g ≤ f 112 16 →
        -- every cell's plane
        (∀ c n, c ≤ f 64 12 → n < 64 →
          let sel := fun x => ((cell c).extractLsb' (10 * x) 10).toNat
          let in_ := fun x => if ((cell c).extractLsb' 60 3).toNat ≤ x then 0
            else if sel x < 512 then input g (sel x) else plane g (c - (sel x - 512 + 1))
          (plane g c).testBit n =
            (cell c).getLsbD (64 + (List.range 6).foldl (fun i x => i + (if (in_ x).testBit n then 2 ^ x else 0)) 0)) ∧
        -- those with OUT set are written
        ((lkrunChecks b).all (·.2) = true → (∀ g x, g ≤ f 112 16 → base + f 192 32 + g * f 224 32 ≤ x →
            x < base + f 192 32 + g * f 224 32 + 8 * (f 100 12 + 1) → isMemory x = true) →
          ∀ c, c ≤ f 64 12 → (cell c).getLsbD 63 = true →
            t.rdNat (base + f 192 32 + g * f 224 32 + 8 * ((List.range c).countP fun d => (cell d).getLsbD 63)) 8 = plane g c % 2 ^ 64)

/-- R358–R361: TVEC_EXEC from a region leaves the converted vector valid in every buffer the block names; TGEMV_EXEC and
TGEMVS_EXEC over an object of ROWS whose troughs hold a fitting vector write, for every row, the sum of its products. -/
def Obligations.TroughCommands : Prop :=
  ∀ (s : State) (k : EngineCmd) (core : Nat) (pm : Pm) (t0 t1 : Target) (c : Ctx) (sf : Fmt), s.headCmd core .trough = some k →
    k ∈ s.cmds → k.core = core → k.fresh → s.sound → s.ctx? k.ctx = some c →
    let b := k.block
    let f := fun lo len => b.toNat / 2 ^ lo % 2 ^ len
    (k.instr = .tvec pm t0 t1 → (cSrc b).own sf → pairOk sf (vFmt b) = true → 8 ≤ fmtBits sf → f 6 3 ≤ 3 → s.inRegions k (tvecRanges b) →
      ∃ t, exec (.tvecExec core) s = .next t ∧ t.hasEnded k 0 0 1 ∧ t.mem = s.mem ∧
        ∀ n, f 24 9 ≤ n → n < f 24 9 + 2 ^ (f 20 4) → ∃ v : TroughBuffer, t.buffer? n (f 18 2) = some v ∧ v.valid = true ∧
          v.ctx = k.ctx ∧ v.vid = f 48 16 ∧ v.elems = (List.range (f 33 15 + 1)).map fun i =>
            convert (vFmt b) sf (if f 6 3 = 0 then .rne else if f 6 3 = 1 then .rz else if f 6 3 = 2 then .rdn else .rup)
              (f 9 1 = 1) (s.rdNat (s.endBase k (cSrc b) + i * (fmtBits sf / 8)) (fmtBits sf / 8))) ∧
    (∀ (ty : MxTy) (scaled : Bool) (o : ObjRec) (at0 : List Nat),
      let cur := BitVec.ofNat 64 (f 448 64)
      k.instr = (if scaled then .tgemvs pm ty t0 t1 else .tgemv pm ty t0 t1) →
      s.orcHit core k.ctx (cur.extractLsb' 44 19).toNat = some o → o.kind = 0 → o.smode = 1 → o.fmt = some (mxFmt ty) →
      (o.scale ≠ 0 ↔ scaled = true) → o.coh ≠ 1 → o.read = true → o.eng = true → o.rmap = 0 → curCoords o cur = some at0 →
      (∀ i m, i < f 17 15 + 1 → m < f 32 16 + 1 → (objOffset o (some at0) i m).isSome = true) →
      (gDst b).own (gDstFmt ty) → s.inRegions k (tgemvRanges b) →
      s.vectorFail k (gTroughs o ((at0[1]?).getD 0) (f 32 16 + 1)) = none → (∀ q ∈ s.memStacks, q.left = 0xFFFFFFFF) →
      ∃ t, exec (if scaled then .tgemvsExec core else .tgemvExec core) s = .next t ∧ t.hasEnded k 0 0 (f 32 16 + 1) ∧
        (s.bridge = [] →
          (∀ i m e x, i < f 17 15 + 1 → m < f 32 16 + 1 → objOffset o (some at0) i m = some e →
            x ∈ o.elemAddrs e ∨ x = o.scaleAddr e → ∀ y ∈ tgemvRanges b, ¬((s.spanOf k y).1 ≤ x ∧ x < (s.spanOf k y).1 + (s.spanOf k y).2)) →
          (∀ y ∈ tgemvRanges b, ∀ x, (s.spanOf k y).1 ≤ x → x < (s.spanOf k y).1 + (s.spanOf k y).2 → isMemory x = true) →
          ∀ m < f 32 16 + 1, ∃ v, s.buffer? (o.first + ((at0[1]?).getD 0 + m) % 2 ^ o.tn) (f 10 2) = some v ∧
            let old := s.rdNat (s.endBase k (gDst b) + 4 * m) 4
            let w := fun i => s.weightAt o at0 i m
            let x := fun i => v.elems[i]?.getD 0
            (ty = .i8 → t.rdNat (s.endBase k (gDst b) + 4 * m) 4 =
              intSum ((List.range (f 17 15 + 1)).map (fun i => val .i8 (BitVec.ofNat 64 (w i).1) * val .i8 (BitVec.ofNat 64 (x i))) ++
                (if f 9 1 = 1 then [val .i32 (BitVec.ofNat 64 old)] else []))) ∧
            (ty ≠ .i8 → ty ≠ .i4 → t.rdNat (s.endBase k (gDst b) + 4 * m) 4 =
              alignedSum ((List.range (f 17 15 + 1)).map (fun i =>
                  (elemVal (mxFmt ty) (w i).1 (w i).2).mul (decodeFmt (vecFmt v.vfmt) (x i))) ++
                (if f 9 1 = 1 then [decodeFmt .f32 old] else [])))))

/-- R307–R309, R333, R349, R356: a completion takes the first ended command of the engine from its queue and, unless its
continuation is null, sends it a token with a release at its scope: STATUS, CMD, DONE and DETAIL, and in a trough's a 1
in bits 15:12. -/
def Obligations.EngineCompletions : Prop :=
  ∀ (s : State) (k : EngineCmd) (core : Nat) (c : Ctx) (e : Engine) (st d done : Nat), s.cmds.Pairwise (·.id ≠ ·.id) →
    (s.queued core e).head? = some k → k.ended = some (st, d, done) → k.writes = [] → k.broken = [] → s.arrivals = [] →
    s.l1 = [] → s.bridge = [] → s.remoteOut = [] → s.ctx? k.ctx = some c → c.draining = none → c.section? core = none → c.gang = none →
    (∀ w ∈ s.hostWrites, w.cmd ≠ k.id) → st < 256 → d < 2 ^ 32 → done < 2 ^ 16 →
    let ev := match e with
      | .mxu => Instr.mxuCompletion core | .copy => .copyCompletion core | .fabric => .lkrunCompletion core
      | .trough => .troughCompletion core
    ∃ t, exec ev s = .next t ∧ t.cmds = s.cmds.filter (·.id ≠ k.id) ∧ t.mem = s.mem ∧
      (k.cont = 0 → t.transit = s.transit) ∧
      (k.cont ≠ 0 → c.contOk k.cont = true → (contTag k.cont).dom = 0 → ∃ x : Transit, t.transit = s.transit ++ [x] ∧
        x.ctx = k.ctx ∧ x.tok.rel = some k.scope ∧ x.tok.void = false ∧ x.tok.block = contBlock k.cont ∧ x.tok.slot = contSlot k.cont ∧
        x.tok.payload.extractLsb' 0 8 = BitVec.ofNat 8 st ∧ (x.tok.payload.extractLsb' 8 4).toNat = k.block.toNat % 16 ∧
        x.tok.payload.extractLsb' 12 4 = (if e = .trough then 1 else 0) ∧ x.tok.payload.extractLsb' 16 16 = BitVec.ofNat 16 done ∧
        x.tok.payload.extractLsb' 32 32 = BitVec.ofNat 32 d)

/-- R395, R57: `trap`, `brk` and an emulation-class word fault their lane with TRAP, BREAK and EMULATE, the first two with
the code and A as DETAIL; `brk` also stops the context's pens until its record is answered, and they fall back to PRIO.
R398: `rdsr` delivers the register's value, zero-extended, to every lane; `wrsr` of FCTL sets FATAL to bit 0 of A and
delivers 0, and of any other register, which the loader refuses, it changes none. That a void-marked A is written by its
bits, and what a `wrsr` that the loader refuses would do, is the model's reading (log entry 53). R390, R393: `resume`
and `retry` of a pending record that permits them reserve it and deliver 0, of one that does not permit them deliver 2,
of one that is not pending, or of no record, 1; under a void A they deliver 1, void-marked. `abort` drains the context,
its FAULT packet naming the code 0 and the aborting firing. -/
def Obligations.SystemWords : Prop :=
  (∀ (s : State) (fl : Flock) (j : Nat) (ln : Lane) (k : Cell) (pm : Pm) (code : BitVec 13) (n sub : BitVec 4) (t0 t1 : Target) (c : Ctx),
     OneLane s fl j ln k pm → s.ctx? fl.ctx = some c →
     exec (.trap pm code t0) s = .next (s.faultLane ln.fid j 0x15 [BitVec.ofNat 64 code.toNat, k.a.bits]) ∧
     exec (.emx n pm sub t0 t1) s = .next (s.faultLane ln.fid j 0x14 []) ∧
     (∃ t, exec (.brk pm code t0) s = .next t ∧
       let u := s.faultLane ln.fid j 0x16 [BitVec.ofNat 64 code.toNat, k.a.bits]
       t = { u with ctxs := t.ctxs, pens := t.pens, resumed := t.resumed } ∧
       t.pens = u.pens.map (fun p => if p.ctx = fl.ctx then { p with level := c.prio, served := s.cycle } else p) ∧
       t.resumed = u.resumed.map (fun r => if r.ctx = fl.ctx then { r with level := c.prio, served := s.cycle } else r) ∧
       ∀ d, u.ctx? fl.ctx = some d → t.ctx? fl.ctx = some (if d.draining = none then { d with brk := d.brk ++ [ln.fid] } else d))) ∧
  (∀ (s : State) (fl : Flock) (j : Nat) (pm : Pm) (t0 : Target) (c : Ctx), Issued s fl j → s.ctx? fl.ctx = some c →
     (∀ r : SysReg, exec (.rdsr pm r t0) s = .next (s.executed fl j pm t0 .none fun _ _ =>
       let v : Val := { bits := match r with
         | .fcount => BitVec.ofNat 64 c.fcount.toNat
         | .sickfree => BitVec.ofNat 64 (c.sick.countP (·.status = .free))
         | .killed => BitVec.ofNat 64 c.killed.toNat
         | .stray => BitVec.ofNat 64 c.stray.toNat
         | .fctl => if c.fatal then 1 else 0
         | .ecclog => BitVec.ofNat 64 c.ecclog.toNat }
       (v, v))) ∧
     (∀ ln k, OneLane s fl j ln k pm →
       let z : Val := { bits := 0 }
       exec (.wrsr pm .fctl t0) s = .next ((s.updCtx fl.ctx fun d => { d with fatal := k.a.bits.getLsbD 0 }).completeLane ln.fid j t0 .none z z) ∧
       ∀ r : SysReg, r ≠ .fctl → exec (.wrsr pm r t0) s = .next (s.completeLane ln.fid j t0 .none z z))) ∧
  (∀ (s : State) (fl : Flock) (j : Nat) (ln : Lane) (k : Cell) (pm : Pm) (t0 : Target) (c : Ctx),
     OneLane s fl j ln k pm → s.ctx? fl.ctx = some c → 64 ≤ 2 ^ s.otrecs →
     (let gives := fun (s : State) (n : Nat) (void : Bool) =>
        let v : Val := { bits := BitVec.ofNat 64 n, void := void }
        s.completeLane ln.fid j t0 .none v v
      let word := fun op : Nat => if op = 0 then Instr.resume pm t0 else Instr.retry pm t0
      ∀ op : Nat, op < 2 →
        (k.a.void = true → exec (word op) s = .next (gives s 1 true)) ∧
        (∀ (r : Nat) (q : Sick), k.a.void = false → k.a.bits.toNat = 2 ^ s.otrecs - 64 + r → r < 64 → c.sick[r]? = some q →
          ((∀ b, q.status ≠ .pending b) → exec (word op) s = .next (gives s 1 false)) ∧
          (∀ b, q.status = .pending b → (c.permitFor q / 2 ^ op % 2 = 0 → exec (word op) s = .next (gives s 2 false)) ∧
            (c.permitFor q / 2 ^ op % 2 = 1 → exec (word op) s = .next (gives
              (s.updCtx fl.ctx fun d => { d with sick := d.sick.set r { q with status := .reserved op ln.fid, b := k.b, c := k.c } }) 0 false)))) ∧
        (k.a.void = false → (k.a.bits.toNat < 2 ^ s.otrecs - 64 ∨ 2 ^ s.otrecs ≤ k.a.bits.toNat) → exec (word op) s = .next (gives s 1 false))) ∧
     (∃ t, exec (.abort pm t0) s = .next t ∧ (c.draining = none →
       ∃ d body, t.ctx? fl.ctx = some d ∧ d.draining = some body ∧ body.length = 128 ∧
         body.take 64 = bytesLE 64 (recHeader 0 s.tick c.seq ln.tag fl.block ln.fsize ln.lane ln.epoch fl.core false 0 2 j 0))))

/-- R383, R384, R386, R388, R389: TAKING A LANE FAULT. A fault of a handler firing is DOUBLE, with the code and the lane's
tag, and a fault under FCTL.FATAL or with no handler for its code is fatal: the context drains with that header.
Otherwise the lane's state goes into a free record, whose header names the firing and its instruction; with no free
record it waits. Every fault is counted. A lane of the same flock that faulted in the same cycle and is of a higher
number changes places with it. Which free record is taken, the lowest, is the model's choice (log entry 112: R384 says a
free one). -/
def Obligations.LaneFaultTaken : Prop :=
  ∀ (s : State) (fl : Flock) (ln : Lane) (c : Ctx) (code idx : Nat) (detail : List Word),
    s.flockOf? ln.fid = some fl → fl.lane? ln.fid = some ln → s.ctx? fl.ctx = some c → c.draining = none →
    ln.isMasked = false →
    let t := s.faultLane ln.fid idx code detail
    -- a record before number r that one of this flock's higher lanes took in this cycle
    let later := fun (r i : Nat) (q' : Sick) (l : Lane) => i < r ∧ c.sick[i]? = some q' ∧ q'.status = .pending false ∧ q'.flock = fl.id ∧
      q'.taken = s.cycle ∧ q'.lane = some l ∧ ln.lane < l.lane
    let drains := fun (body : List Byte) => ∃ d, t.ctx? fl.ctx = some d ∧ d.draining = some body ∧ d.sick.all (·.status = .free) = true
    (∃ d, t.ctx? fl.ctx = some d ∧ d.fcount = BitVec.ofNat 32 (min (c.fcount.toNat + 1) 0xFFFFFFFF) ∧ d.seq = c.seq + 1) ∧
    (ln.hrec ≠ none → ∃ hdr : Nat, drains (bytesLE 64 hdr ++ detailBytes [BitVec.ofNat 64 code, BitVec.ofNat 64 ln.tag.toBits.toNat]) ∧
      hdr % 2 ^ 8 = 0x17) ∧
    (ln.hrec = none → code < 2 ^ 8 → c.fatal = true ∨ handlerBlock c.handler code = none →
      ∃ hdr : Nat, drains (bytesLE 64 hdr ++ detailBytes detail) ∧ hdr % 2 ^ 8 = code) ∧
    (ln.hrec = none → c.fatal = false → handlerBlock c.handler code ≠ none → (∀ q ∈ c.sick, q.status ≠ .free) →
      t.mem = s.mem ∧ ∃ d, t.ctx? fl.ctx = some d ∧ d.faultq = c.faultq ++ [{ fid := ln.fid, idx := idx, code := code, seq := c.seq, detail := detail }]) ∧
    (∀ r q, ln.hrec = none → c.fatal = false → handlerBlock c.handler code ≠ none → c.sick[r]? = some q → q.status = .free →
      (∀ i q', i < r → c.sick[i]? = some q' → q'.status ≠ .free) →
      (∀ i q' l', later r i q' l' → l'.fid ≠ ln.fid → (∀ i' q'' l'', later r i' q'' l'' → i' = i) →
        ∃ d k l k' m, t.ctx? fl.ctx = some d ∧ d.sick[i]? = some k ∧ k.lane = some l ∧ l.fid = ln.fid ∧ k.code = code ∧
          d.sick[r]? = some k' ∧ k' = { q' with lane := some m } ∧ m = { l' with status := m.status }) ∧
      ((∀ i q' l', ¬later r i q' l') →
      (∃ d k l, t.ctx? fl.ctx = some d ∧ d.draining = none ∧ d.sick[r]? = some k ∧ k.status = .pending false ∧ k.code = code ∧
        k.core = fl.core ∧ k.block = fl.block ∧ k.lane = some l ∧ l.fid = ln.fid ∧ l.frame = ln.frame ∧ l.status = .masked idx (some r)) ∧
      (s.memOk → c.sickBase + 4096 * r + 4096 ≤ Config.hbmTop →
        code < 2 ^ 8 → idx < 2 ^ 8 → ln.lane < 32 → ln.fsize < 2 ^ 6 → fl.block < 2 ^ 12 → fl.core < 2 ^ 8 →
        let h := t.rdNat (c.sickBase + 4096 * r) 64
        bits h 0 8 = code ∧ bits h 8 8 = idx ∧ bits h 18 2 = classOfCode code ∧ bits h 227 8 = fl.core ∧ bits h 235 22 = ln.epoch.toNat ∧
        bits h 257 5 = ln.lane ∧ bits h 262 6 = ln.fsize ∧ bits h 268 12 = fl.block ∧ bits h 280 40 = ln.tag.toBits.toNat ∧
        t.rdN (c.sickBase + 4096 * r + 64) 64 = detailBytes detail)))

/-- R384, R388, R389: HANDLER_DISPATCH makes an instance of the handler's block ready on the record's core, in the root
domain, under the record's number, its payload the record's handle. R390–R392: a response whose firing has ended, with
every access performed, takes effect and frees its record: after `resume` the lane waits for a slot, after `retry` its
instance is ready again with its frame. -/
def Obligations.HandlersAndResponses : Prop :=
  (∀ (s : State) (x r b : Nat) (c : Ctx) (q : Sick) (f : FrameRef), s.ctx? x = some c → r < 64 → c.sick[r]? = some q →
     q.status = .pending false → handlerBlock c.handler q.code = some b → s.flock? q.flock = none → c.saved = [] → c.pin = [] →
     s.handlerQ = [] → s.fold = [] → (s.ready.filter (·.core = c.handlerCore q)).length < 1024 → s.frame1 (c.handlerCore q) x 1 = some f →
     ∃ t, exec (.handlerDispatch x r) s = .next t ∧
       (∃ d, t.ctx? x = some d ∧ d.sick[r]? = some { q with status := .pending true, told := true }) ∧
       ∃ i ∈ t.ready, i.core = c.handlerCore q ∧ i.ctx = x ∧ i.block = b ∧ i.tag.dom = 0 ∧ i.tag.idx = BitVec.ofNat 10 r ∧
         i.hrec.map (·.record) = some r ∧
         i.frame = [(BitVec.ofNat 64 (2 ^ s.otrecs - 64 + r), false)]) ∧
  (∀ (s : State) (x r op fid core : Nat) (c : Ctx) (q : Sick) (ln : Lane) (b : LBlock), s.ctx? x = some c → r < 64 → x < 1024 →
     c.sick[r]? = some q → q.status = .leaving op fid core → (∀ a ∈ s.accesses, a.fid ≠ fid) → c.saved = [] → c.faultq = [] →
     c.blocks[q.block]? = some b → s.flock? q.flock = none →
     let freed := fun t : State => ∃ d k, t.ctx? x = some d ∧ d.sick[r]? = some k ∧ k.status = .free
     (q.lane = none → q.code ≠ 0x11 → ∃ t, exec (.responseTakesEffect (64 * x + r)) s = .next t ∧ freed t) ∧
     (q.lane = some ln → op = 0 → q.algn = false →
       ∃ t, exec (.responseTakesEffect (64 * x + r)) s = .next t ∧ freed t ∧
         ∃ w ∈ t.resumed, w.lane.fid = ln.fid ∧ w.core = q.core ∧ w.ctx = x ∧ w.block = q.block ∧ w.lane.status = .running ∧
           w.lane.frame = ln.frame) ∧
     (q.lane = some ln → op = 1 → s.fold = [] → (s.ready.filter (·.core = q.core)).length < 1024 →
       ∃ t, exec (.responseTakesEffect (64 * x + r)) s = .next t ∧ freed t ∧
         ∃ i ∈ t.ready, i.core = q.core ∧ i.ctx = x ∧ i.block = q.block ∧ i.tag = ln.tag ∧ i.frame = ln.frame))

/-- R20, R21, R161, R164, R188: TOKEN_ARRIVAL. The first token of an instance starts an entry with a frame; the one that
fills the last slot makes the instance ready with its payloads in slot order; of a killed iteration it is discarded and
counted. R132, R204: a held token whose release is performed, its firing's accesses being done, leaves for its core,
once it is first of its firing toward there; one that a unit formed waits for no other. -/
def Obligations.TokensMatch : Prop :=
  (∀ (s : State) (core : Nat) (tr : Transit) (rest : List Transit) (c : Ctx), Arrives s core tr rest c →
     let n := c.inputsOf tr.tok.block
     let one := { entryOf core tr.ctx tr.tok n tr.stamp with senders := [(tr.tok.slot, tr.src)] }
     let instance_ := fun (t : State) (frame : List (Word × Bool)) => ∃ r ∈ t.ready, r.core = core ∧ r.ctx = tr.ctx ∧ r.block = tr.tok.block ∧
       r.tag = tr.tok.tag ∧ r.frame = frame
     tr.tok.slot < n →
     (∀ f, s.filters = [] → s.fold = [] → s.frame1 core tr.ctx (frameUnits n) = some f →
       ∃ t, exec (.tokenArrival core) s = .next t ∧ (t.core core).inq = rest ∧
         (n = 1 → t.fold = [] ∧ instance_ t [(tr.tok.payload, tr.tok.void)]) ∧
         (1 < n → t.fold = [{ one with place := some f }] ∧ t.ready = s.ready)) ∧
     (∀ e, s.filters = [] → s.fold = [e] → e.core = core → e.ctx = tr.ctx → e.block = tr.tok.block → e.tag = tr.tok.tag → e.state = 0 →
       e.slots.length = n → e.slots[tr.tok.slot]? = some none →
       (∀ k, k < n → k ≠ tr.tok.slot → ∃ v, e.slots[k]? = some (some v)) →
       ∃ t, exec (.tokenArrival core) s = .next t ∧ t.fold = [] ∧
         instance_ t (((e.slots.map fun x => x.getD (0, false))).set tr.tok.slot (tr.tok.payload, tr.tok.void))) ∧
     (s.filtered core tr.ctx tr.tok.hpkg tr.tok.tag tr.tok.epoch = true →
       ∃ t d, exec (.tokenArrival core) s = .next t ∧ t.fold = s.fold ∧ t.ready = s.ready ∧ t.ctx? tr.ctx = some d ∧
         d.killed = BitVec.ofNat 32 (min (c.killed.toNat + 1) 0xFFFFFFFF))) ∧
  (∀ (s : State) (n : Nat) (h : Held), s.held[n]? = some h → h.dpkg = s.pkgid →
     h.owes = none → (h.unit = true ∨ ∀ o ∈ s.held.take n, o.unit = true ∨ ¬(o.fid = h.fid ∧ o.dst = h.dst ∧ o.dpkg = h.dpkg)) →
     (∀ a ∈ s.accesses, a.fid ≠ h.fid) → s.l1 = [] → s.remoteOut = [] →
     ∃ t, exec (.releaseTokenDelivery n) s = .next t ∧ t.held = s.held.eraseIdx n ∧
       t.transit = s.transit ++ [{ src := h.src, dst := h.dst, ctx := h.ctx, tok := h.tok }] ∧
       (h.rel = some .pkg ∨ h.rel = some .gang → ∀ w ∈ t.bridge, w.src ≠ dieOf h.src))

/-- R10, R189, R190, R194: PEN_TIMER_EXPIRY makes a pen due whose oldest instance has waited for its block's timer, and
marks the instances of the groups of an aligned block that have; PRIORITY_AGING raises what stays due a level for each
4,096 cycles, by two at most and not above 23. R189, R192, R193: FLOCK_RELEASE gives a free slot to the first of what is
due; the instances of an unaligned pen take the lanes from 0 on in their order, 32 at most, those of an aligned group
the lanes of their iterations, as fresh firings, and leave the ready list. -/
def Obligations.FlocksFormed : Prop :=
  ((∀ (s : State) (core pen : Nat) (p : Pen) (b : LBlock),
     s.pens.find? (fun p => p.core = core && p.index = pen) = some p → s.block? p.ctx p.block = some b →
     let limit := if b.tclass = 0 then 16 else if b.tclass = 1 then 48 else if b.tclass = 2 then 256 else 2048
     let waited := fun r : Ready => r.core = core ∧ r.ctx = p.ctx ∧ r.block = p.block ∧ r.since + limit ≤ s.cycle
     (b.aligned = false → (∃ r ∈ s.ready, waited r) →
       ∃ t, exec (.penTimerExpiry core pen) s = .next t ∧ (∀ q ∈ t.pens, q.core = core → q.index = pen → q.due = true) ∧
         t.ready.length = s.ready.length ∧ ∀ (i : Nat) (r : Ready), s.ready[i]? = some r →
           (waited r → t.ready[i]? = some { r with expired := true }) ∧ (¬waited r → t.ready[i]? = some r)) ∧
     (b.aligned = true → ∃ t, exec (.penTimerExpiry core pen) s = .next t ∧ t.pens = s.pens ∧ t.ready.length = s.ready.length ∧
       ∀ (i : Nat) (r : Ready), s.ready[i]? = some r → waited r → (∀ q ∈ s.ready, q.group = r.group) → ∃ r' : Ready, t.ready[i]? = some r' ∧ r'.expired = true)) ∧
   (∀ (s : State) (core : Nat), ∃ t : State, exec (.priorityAging core) s = .next t ∧ t.ready = s.ready ∧ t.mem = s.mem ∧
     ∀ (i : Nat) (p : Pen), s.pens[i]? = some p → ∃ q : Pen, t.pens[i]? = some q ∧ q.index = p.index ∧ q.block = p.block ∧
       (p.core = core → s.penDue p = true →
         q.level = max p.level (min (min (s.prioOf p.ctx + 2) 23) (p.level + (s.cycle - p.served) / 4096)) ∧
         q.served = p.served + (s.cycle - p.served) / 4096 * 4096) ∧
       (p.core ≠ core ∨ s.penDue p = false → q = p))) ∧
  ((∀ (s : State) (core pipe slot : Nat) (k : Cand) (b : LBlock), s.freeSlot core = some (pipe, slot) →
     chooseBy (·.rank) (s.cands core) = some k → k.resumed = none → s.block? k.ctx k.block = some b →
     ∃ t fl, exec (.flockRelease core) s = .next t ∧ fl ∈ t.flocks ∧ (∀ f ∈ s.flocks, f ∈ t.flocks) ∧
       fl.core = core ∧ fl.pipe = pipe ∧ fl.slot = slot ∧ fl.ctx = k.ctx ∧ fl.block = k.block ∧ fl.released = s.cycle ∧
       (k.aligned = false →
         fl.lanes.map (fun l => (l.lane, l.tag, l.epoch, l.frame)) = k.members.mapIdx (fun i r => (i, r.tag, r.epoch, r.frame))) ∧
       (k.aligned = true → fl.lanes.length = k.members.length ∧ ∀ r ∈ k.members, ∃ l ∈ fl.lanes,
         l.lane = literOf r.tag r.epoch % 32 ∧ l.tag = r.tag ∧ l.epoch = r.epoch ∧ l.frame = r.frame) ∧
       (∀ l ∈ fl.lanes, l.cells = b.cells ∧ l.status = .running ∧ l.fsize = k.members.length) ∧
       (s.fold = [] → ∀ r ∈ t.ready, r ∉ k.members)) ∧
   (∀ (s : State) (p : Pen) (k : Cand) (b : LBlock), k ∈ s.penCands p → s.block? p.ctx p.block = some b → b.aligned = false →
     k.members.length ≤ 32 ∧ (∀ r ∈ k.members, r ∈ s.ready ∧ r.core = p.core ∧ r.ctx = p.ctx ∧ r.block = p.block) ∧
     (p.due = true ∨ k.members.length = 32)))

/-- R148, R152, R154, R158, R160: the grants that name an activation. NEXT of iteration L opens L + 1 while it lies below
BASE + W, and TOP becomes the greater of it and L + 1; else it joins the wait list; beyond H its token is discarded and
counted KILLED, and with no activation STRAY. One above both TOP and H counts STRAY, which is the model's choice (log
entry 90). EXPLICIT, and a continuation's SAME, reach an opened iteration; a continuation's LEAVE goes to the parent.
R151, R154, R205: ENTER opens an activation of iteration 0 under the first free ACT, the sender's tag its parent; ENTERM
of a mask opens the iterations of its set bits, the clear ones between them closed, one token to each in order; of an
empty mask nothing. With no free slot the request waits. That the first free ACT is taken is the model's reading (log
entry 14). -/
def Obligations.Grants : Prop :=
  (∀ (s : State) (core : Nat) (r : UnitReq) (rest : List UnitReq) (tk : Token) (c : Ctx) (a : Activation), GrantHead s core r rest tk c →
     let l := literOf r.tag r.epoch
     let dom := r.tag.dom.toNat
     let act := r.tag.act.toNat
     let out := fun (t : State) (tag : Tag) (e : BitVec 22) (p : Nat) =>
       (t.core core).grantq = rest ∧ t.transit = s.transit ++ [s.onward c core r tk tag e p]
     let iter := fun (t : State) (l : Nat) => out t (iterTag a.ctx a.dom a.core a.act l) (BitVec.ofNat 22 (l / 1024)) s.pkgid
     let counted := fun (t : State) (f : Ctx → BitVec 32) => (t.core core).grantq = rest ∧ t.transit = s.transit ∧ t.acts = s.acts ∧
       ∃ d, t.ctx? r.ctx = some d ∧ f d = BitVec.ofNat 32 (min ((f c).toNat + 1) 0xFFFFFFFF)
     (s.act? core r.ctx dom act = none →
       (r.mode = .inl .next → ∃ t, exec (.nextGrant core) s = .next t ∧ counted t Ctx.stray) ∧
       (r.mode = .inl .explicit → ∃ t, exec (.explicitGrant core) s = .next t ∧ counted t Ctx.stray) ∧
       (∀ m, r.mode = .inl (.cont m) → ∃ t, exec (.contTokenGrant core) s = .next t ∧ counted t Ctx.stray)) ∧
     (s.act? core r.ctx dom act = some a → a.h < 2 ^ 32 →
       (r.mode = .inl .next →
         (a.h < l + 1 → ∃ t, exec (.nextGrant core) s = .next t ∧ counted t Ctx.killed) ∧
         (l + 1 ≤ a.h → l + 1 < 2 ^ 32 → (l + 1 ≤ a.top ∨ l + 1 < a.base + c.windowOf dom) →
           ∃ t, exec (.nextGrant core) s = .next t ∧ iter t (l + 1) ∧
             t.act? core r.ctx dom act = some { a with top := max a.top (l + 1) }) ∧
         (l + 1 ≤ a.h → l + 1 < 2 ^ 32 → a.top < l + 1 → a.base + c.windowOf dom ≤ l + 1 → (s.core core).waitq.length < 256 →
           ∃ t, exec (.nextGrant core) s = .next t ∧ (t.core core).grantq = rest ∧ t.acts = s.acts ∧ t.transit = s.transit ∧
             (t.core core).waitq = (s.core core).waitq ++ [{ r with waited := true }])) ∧
       (∀ m n, m = GrantMode.explicit ∧ n = Instr.explicitGrant core ∨ m = .cont 0 ∧ n = .contTokenGrant core → r.mode = .inl m →
         ∀ l, a.base ≤ l + 512 → l < a.base + 512 → l % 1024 = r.tag.idx.toNat →
           (l ≤ a.top → l ≤ a.h → ∃ t, exec n s = .next t ∧ iter t l ∧ t.acts = s.acts) ∧
           (a.top < l → ∃ t, exec n s = .next t ∧ counted t Ctx.stray) ∧
           (l ≤ a.top → a.h < l → ∃ t, exec n s = .next t ∧ counted t Ctx.killed)) ∧
       (r.mode = .inl (.cont 1) → ∀ l, a.base ≤ l + 512 → l < a.base + 512 → l % 1024 = r.tag.idx.toNat →
         l + 1 ≤ a.h → l + 1 < 2 ^ 32 → (l + 1 ≤ a.top ∨ l + 1 < a.base + c.windowOf dom) →
         ∃ t, exec (.contTokenGrant core) s = .next t ∧ iter t (l + 1) ∧
           t.act? core r.ctx dom act = some { a with top := max a.top (l + 1) }) ∧
       (r.mode = .inl (.cont 4) → ∃ t, exec (.contTokenGrant core) s = .next t ∧ out t a.parent a.pepoch a.phpkg ∧ t.acts = s.acts))) ∧
  (∀ (s : State) (core : Nat) (r : UnitReq) (rest : List UnitReq) (tk : Token) (c : Ctx) (dom : Nat), GrantHead s core r rest tk c →
     let entered := fun (t : State) (base top : Nat) (ks : List Nat) => ∃ a, a ∉ s.acts ∧ t.acts = s.acts ++ [a] ∧
       a.core = core ∧ a.ctx = r.ctx ∧ a.dom = dom ∧ a.act < 64 ∧ s.act? core r.ctx dom a.act = none ∧ (∀ k, k < a.act → s.act? core r.ctx dom k ≠ none) ∧
       a.parent = r.tag ∧ a.pepoch = r.epoch ∧ a.phpkg = r.hpkg ∧
       a.base = base ∧ a.top = top ∧ a.h = 2 ^ 32 - 1 ∧ a.left = false ∧ a.pending = 0 ∧ (t.core core).grantq = rest ∧
       (∀ l, base ≤ l → l ≤ top → (a.closed.getLsbD (l - base) = true ↔ l ∉ ks)) ∧
       t.transit = s.transit ++ ks.map fun k => s.onward c core r tk (iterTag r.ctx dom core a.act k) 0 s.pkgid
     let room := (∃ k, k < 64 ∧ s.act? core r.ctx dom k = none) ∧ (s.acts.filter (·.core = core)).length < 1024
     (r.mode = .inl (.enter dom) → room → ∃ t, exec (.enterGrant core) s = .next t ∧ entered t 0 0 [0]) ∧
     (r.mode = .inl (.enter dom) → (∀ k, k < 64 → s.act? core r.ctx dom k ≠ none) → (s.core core).waitq.length < 256 →
       ∃ t, exec (.enterGrant core) s = .next t ∧ (t.core core).waitq = (s.core core).waitq ++ [{ r with waited := true }] ∧ t.acts = s.acts) ∧
     (∀ m : Word, r.mode = .inl (.enterm dom m) →
       (m = 0 → ∃ t, exec (.entermGrant core) s = .next t ∧ (t.core core).grantq = rest ∧ t.acts = s.acts ∧ t.transit = s.transit) ∧
       (∀ lo hi, room → m.getLsbD lo = true → m.getLsbD hi = true → (∀ k, m.getLsbD k = true → lo ≤ k ∧ k ≤ hi) →
         ∃ t, exec (.entermGrant core) s = .next t ∧ entered t lo hi ((List.range 64).filter fun k => m.getLsbD k))))

/-- R133, R154, R156, R157, R160, R161: CLOSE of BASE advances it past every closed iteration (each one of a closed bit, or
beyond H) and frees an activation that has left and whose last is closed; CLOSE of a later iteration sets its closed bit
alone, and of one below BASE, beyond TOP or beyond H nothing; LEAVE sends its token to the parent; the final LEAVE of
iteration L also lowers H to L and tells every core of the pasture; `dkill` lowers H alone. -/
def Obligations.IterationsReleased : Prop :=
  ∀ (s : State) (core : Nat) (r : UnitReq) (rest : List UnitReq) (c : Ctx) (a : Activation), ReleaseHead s core r rest c →
    s.act? core r.ctx r.tag.dom.toNat r.tag.act.toNat = some a → (∀ b ∈ s.acts, b.same a = true → b = a) →
    let l := literOf r.tag r.epoch
    let tells := fun (t : State) (h : Nat) => t.notices = s.notices ++ c.pasture.map fun k =>
      { core := k, home := core, ctx := r.ctx, dom := r.tag.dom.toNat, act := r.tag.act.toNat, h := h, hpkg := s.pkgid }
    let now := fun t : State => t.act? core r.ctx r.tag.dom.toNat r.tag.act.toNat
    let shut := fun k : Nat => a.closed.getLsbD (k - a.base) = true ∨ a.h < k
    let served := fun t : State => exec (.closeServe core) s = .next t ∧ (t.core core).relq = rest ∧ t.transit = s.transit ∧ t.notices = s.notices
    (r.mode = .inr .close → l = a.base → l ≤ a.top → l ≤ a.h →
      ∀ e, l < e → e ≤ l + 512 → e ≤ a.top + 1 → (∀ k, l < k → k < e → shut k) → (e = a.top + 1 ∨ ¬shut e) →
      ∃ t, served t ∧
        now t = if a.left = true ∧ min a.top a.h < e ∧ a.pending = 0 then none
          else some { a with base := e, closed := a.closed >>> (e - l) }) ∧
    (r.mode = .inr .close → a.base < l → l < a.base + 512 → l ≤ a.top → l ≤ a.h → ¬shut a.base →
      ∃ t b, served t ∧ now t = some b ∧ b = { a with closed := b.closed } ∧
        ∀ k, k < 512 → b.closed.getLsbD k = (a.closed.getLsbD k || k = l - a.base)) ∧
    (r.mode = .inr .close → l < a.base ∨ a.top < l ∨ a.h < l → ¬(a.left = true ∧ min a.top a.h < a.base ∧ a.pending = 0) →
      ∃ t, served t ∧ now t = some a) ∧
    (∀ tk, r.tok = some tk → tk.rel = none →
      (r.mode = .inr (.leave false) → ∃ t, exec (.leaveServe core) s = .next t ∧ (t.core core).relq = rest ∧ t.acts = s.acts ∧
        t.transit = s.transit ++ [s.onward c core r tk a.parent a.pepoch a.phpkg]) ∧
      (r.mode = .inr (.leave true) → a.left = false → a.base < l → l ≤ a.top → l < a.h →
        ∃ t b, exec (.leaveServe core) s = .next t ∧ (t.core core).relq = rest ∧ tells t l ∧
          t.transit = s.transit ++ [s.onward c core r tk a.parent a.pepoch a.phpkg] ∧
          (c.pasture ≠ [] → now t = some b ∧ b.left = true ∧ b.h = l ∧ b.pending = a.pending + c.pasture.length)) ∧
      (r.mode = .inr (.leave true) → a.left = true → ∃ t d, exec (.leaveServe core) s = .next t ∧ t.transit = s.transit ∧
        t.ctx? r.ctx = some d ∧ d.stray = BitVec.ofNat 32 (min (c.stray.toNat + 1) 0xFFFFFFFF))) ∧
    (∀ h, r.mode = .inr (.dkill h) →
      (h < a.h → (∀ k ∈ c.pasture, (s.filters.filter (·.core = k)).length + (s.notices.filter (·.core = k)).length < 256) →
        c.pasture ≠ [] →
        ∃ t b, exec (.dkillServe core) s = .next t ∧ (t.core core).relq = rest ∧ tells t h ∧ t.transit = s.transit ∧
          now t = some b ∧ b.h = h ∧ b.top = a.top ∧ b.left = a.left ∧ b.pending = a.pending + c.pasture.length) ∧
      (a.h ≤ h → ∃ t, exec (.dkillServe core) s = .next t ∧ (t.core core).relq = rest ∧ t.acts = s.acts ∧ t.notices = s.notices))

/-- R161: KILL_NOTICE at a core removes the killed iterations' entries, pinfold slots and ready instances and no other,
counts their tokens, installs the filter and acknowledges; KILL_NOTICE_ACK counts one off its activation. R167–R169: the
unit of a token's HOME answers whether its iteration is BASE of its activation; with that answer and a free reserve
frame the entry joins the fold; with another answer, or no reserve frame, it is spilled to the pinfold; SPILL_REPRESENT
gives a spilled entry back once a frame is free. -/
def Obligations.KillsAndSpills : Prop :=
  ((∀ (s : State) (i : Nat) (n : Notice) (c : Ctx), s.notices[i]? = some n → s.ctx? n.ctx = some c → c.saved = [] → n.hpkg = s.pkgid → n.upto = none →
     (∀ o ∈ s.notices.take i, ¬(o.core = n.core ∧ o.of n.ctx n.home n.dom n.act n.hpkg = true)) →
     (s.filters.filter (·.core = n.core)).length < 256 →
     ∃ t, exec (.killNotice i) s = .next t ∧ t.notices = s.notices.eraseIdx i ∧ t.acks = s.acks ++ [n] ∧
       (let one := fun f : Filter => f.core = n.core ∧ f.home = n.home ∧ f.ctx = n.ctx ∧ f.dom = n.dom ∧ f.act = n.act ∧ f.hpkg = n.hpkg
        ∃ f ∈ t.filters, one f ∧ f.h ≤ n.h ∧ (∀ g ∈ s.filters, one g → f.h ≤ g.h) ∧ ((∀ g ∈ s.filters, ¬one g) → f.h = n.h)) ∧
       (let dead := fun e : FoldEntry => e.core = n.core && n.kills e.ctx e.hpkg e.tag e.epoch
        let deadR := fun r : Ready => r.core = n.core && n.kills r.ctx r.hpkg r.tag r.epoch
        let deadP := fun p : PinSlot => p.core = n.core && n.kills p.entry.ctx p.entry.hpkg p.entry.tag p.entry.epoch
        let tokens := fun e : FoldEntry => (e.slots.filter (·.isSome)).length
        let count := (((s.fold ++ s.eldest.map (·.1)).filter dead).map tokens).sum +
          ((s.ready.filter deadR).map fun r => r.frame.length).sum + ((c.pin.filter deadP).map fun p => tokens p.entry).sum
        (∃ d, t.ctx? n.ctx = some d ∧ d.killed = BitVec.ofNat 32 (min (c.killed.toNat + count) 0xFFFFFFFF) ∧ d.pin = c.pin.filter (!deadP ·)) ∧
        -- what is killed is gone, and what is not stays (a complete entry may become a ready instance)
        (∀ e ∈ t.fold, e ∈ s.fold ∧ dead e = false) ∧ (∀ e ∈ s.fold, dead e = false → e.complete = false → e ∈ t.fold) ∧
        t.eldest = s.eldest.filter (fun q => !dead q.1) ∧
        (∀ r ∈ t.ready, deadR r = false) ∧ ∀ r ∈ s.ready, deadR r = false → r ∈ t.ready)) ∧
   (∀ (s : State) (i : Nat) (n : Notice) (a : Activation), s.acks[i]? = some n → (s.core n.home).waitq = [] →
     s.act? n.home n.ctx n.dom n.act = some a → (∀ b ∈ s.acts, b.same a = true → b = a) →
     ∃ t, exec (.killNoticeAck i) s = .next t ∧ t.acks = s.acks.eraseIdx i ∧
       t.act? n.home n.ctx n.dom n.act =
         if a.left = true ∧ min a.top a.h < a.base ∧ a.pending ≤ 1 then none else some { a with pending := a.pending - 1 })) ∧
  (∀ (s : State) (i core : Nat) (e : FoldEntry) (c : Ctx), s.ctx? e.ctx = some c → c.draining = none → c.saved = [] →
     (s.eldest[i]? = some (e, none) → e.tag.home.toNat = core → e.tag.dom ≠ 0 → e.asked = false → e.hpkg = s.pkgid → ∃ t b, exec (.eldestQuery core i) s = .next t ∧
       t = { s with eldest := s.eldest.set i (e, some b) } ∧
       (b = true ↔ ∃ a ∈ s.acts, a.core = core ∧ a.ctx = e.ctx ∧ a.dom = e.tag.dom.toNat ∧ a.act = e.tag.act.toNat ∧
         a.base = literOf e.tag e.epoch)) ∧
     (∀ f, s.eldest[i]? = some (e, some true) → e.core = core → e.complete = false → s.fold = [] → s.frame2 core e.ctx e.units = some f →
       ∃ t, exec (.eldestAnswer core i) s = .next t ∧ t.eldest = s.eldest.eraseIdx i ∧ t.fold = [{ e with place := some f, state := 0, dup := none, way := 0 }]) ∧
     (∀ yes, s.eldest[i]? = some (e, some yes) → yes = false ∨ (s.fold = [] ∧ s.frame2 core e.ctx e.units = none) →
       e.core = core → s.pinHeld = [] → ∀ k, c.pinFree = some k →
       ∃ t d, exec (.eldestAnswer core i) s = .next t ∧ t.eldest = s.eldest.eraseIdx i ∧ t.fold = s.fold ∧ t.ctx? e.ctx = some d ∧
         d.pin = c.pin ++ [{ slot := k, entry := { e with state := 1, place := none }, stamp := e.arrival, core := core, why := .spilled, seen := (s.usedFrames core e.ctx).length }]) ∧
     (∀ f p, c.pin = [p] → p.core = core → p.why = .spilled → p.entry = e → p.stamp = e.arrival → e.core = core → e.complete = false → s.fold = [] → s.eldest = [] →
       s.filters = [] → s.frame1 core e.ctx e.units = some f →
       ∃ t d, exec (.spillRepresent core e.ctx) s = .next t ∧ t.fold = [{ e with place := some f, state := 0, dup := none, way := 0 }] ∧
         t.ctx? e.ctx = some d ∧ d.pin = []))

/-- R177, R183: LAUNCH takes the packet at the head of a host port; a record with no reason for refusal joins the queue of
its priority, with its own seed or the default one as it stood before this cycle (R460); a refused one is answered with
its reason. R184, R186: LAUNCH_ADMISSION admits the first admissible queue head: it leaves its queue, the admission
number advances, and the host of a launch packet is told the context and the number. R219–R224: SPAWN_SUBMISSION gives
the record of an ended firing to the yard, at the spawner's priority at most; a refused one is answered with outcome 1
and its reason. SPAWN_ANSWER sends the answer token to the spawner's continuation. -/
def Obligations.Launches : Prop :=
  (∀ (s : State) (port : Nat) (p : HostPkt), s.hostHead port 1 = some p → ((s.port port).state = 1) →
     let h := (hpRecord p).1
     let taken := fun t : State => (t.port port).inbox = (s.port port).inbox.drop 1
     (s.refusal h (hpRecord p).2 (lhImage h) false = none → ∃ t q, exec (.launch port) s = .next t ∧ taken t ∧
       t.queues = s.queues ++ [q] ∧ t.hostOut = s.hostOut ∧ q.prio = lhPrio h ∧ q.header = h ∧ q.toks = (hpRecord p).2 ∧
       q.reply = .host port (hpCookie p) ∧ q.seed = if lhSeedSrc h then (match s.seedWas with | some (at0, w) => if at0 = s.cycle then w else s.defseed | none => s.defseed)
         else BitVec.ofNat 64 (lhSeed h)) ∧
     (∀ why, s.refusal h (hpRecord p).2 (lhImage h) false = some why → ∃ t, exec (.launch port) s = .next t ∧ taken t ∧
       t.queues = s.queues ∧ t.hostOut = s.hostOut ++ [{ port := port, type := 0x82, cookie := hpCookie p, arg := BitVec.ofNat 64 why, body := [] }])) ∧
  (∀ (s : State) (q : Queued) (a : Admission), s.scan prioDown [] = some (q, a) →
     (∃ t, exec .launchAdmission s = .next t ∧ t.admitted = (s.admitted + 1) % 2 ^ 54 ∧ t.queues.length + 1 = s.queues.length ∧
       (∀ p ∈ t.queues, p ∈ s.queues) ∧
       ∀ port cookie, q.reply = .host port cookie → (s.port port).state = 1 →
         { port := port, type := 0x81, cookie := cookie, arg := BitVec.ofNat 64 (a.ctx + 1024 * s.admitted), body := [] } ∈ t.hostOut) ∧
     (∀ l, (s.checkImage q).2 = .ok l → s.templateBad (s.template (s.imageHdr q.image)) = none → ∃ t c, exec .launchAdmission s = .next t ∧
       t.ctx? a.ctx = some c ∧ c.prio = q.prio ∧ c.seed = q.seed ∧ c.admission = s.admitted ∧ c.pasture = a.pasture ∧ c.regions = a.regions ∧
       c.blocks = l.blocks ∧ c.handler = l.handler ∧ c.draining = none ∧ c.fcount = 0) ∧
     -- what an admission takes
     (q ∈ s.queues ∧ s.ctx? a.ctx = none ∧ a.ctx < 1024 ∧ a.pasture = s.pastureOf q.header ∧ a.regions.map (·.core) = a.pasture)) ∧
  ((∀ (s : State) (p : SpawnSub) (rest : List SpawnSub) (c : Ctx), s.spawns = p :: rest → p.ended = true →
     (∀ a ∈ s.accesses, a.fid ≠ p.fid) → s.l1 = [] → s.bridge = [] → s.ctx? p.ctx = some c →
     let h := spawnHeader p.header p.image
     (s.refusal h p.toks p.image true = none → ∃ t q, exec (.spawnSubmission 0) s = .next t ∧ t.spawns = rest ∧
       t.queues = s.queues ++ [q] ∧ q.prio = min (lhPrio h) c.prio ∧ q.image = p.image ∧ q.toks = p.toks ∧
       q.reply = .spawn p.ctx c.admission p.core p.cont) ∧
     (∀ why, s.refusal h p.toks p.image true = some why → p.cont ≠ 0 → ∃ t, exec (.spawnSubmission 0) s = .next t ∧ t.spawns = rest ∧
       t.queues = s.queues ∧ t.answers = s.answers ++
         [{ ctx := p.ctx, admission := c.admission, core := p.core, cont := p.cont, actx := 0, detail := why, outcome := 1 }])) ∧
   (∀ (s : State) (a : Answer) (rest : List Answer) (c : Ctx), s.answers = a :: rest → s.ctx? a.ctx = some c → c.admission = a.admission →
     c.draining = none → c.gang = none → c.contOk a.cont = true → (Tag.ofBits (a.cont.setWidth 40)).dom = 0 →
     ∃ t tr, exec (.spawnAnswer 0) s = .next t ∧ t.answers = rest ∧ t.transit = s.transit ++ [tr] ∧ tr.ctx = a.ctx ∧
       tr.tok.block = (a.cont.extractLsb' 40 12).toNat ∧ tr.tok.slot = (a.cont.extractLsb' 54 3).toNat ∧ tr.tok.void = false ∧
       tr.tok.payload = BitVec.ofNat 64 (65536 * a.actx + 256 * a.detail + a.outcome)))

/-- R196: a component with no live instance hands its drover on once along its edges. R198, R401: a complete launch ends
with COMPLETE and its two counters, a drained one with FAULT and its report; the context is then free. R399, R172, R386,
R387: a quiet context with no record pending and a fault handler gets a context-class record: TAG_EXHAUSTED when a
request waits in a unit, with the oldest one's DETAIL, else QUIESCENT; the record lists the waiting entries, the spilled
ones among them, by their arrival, up to 160, in the layout of R163, with their number as TOTAL. With a record pending
the context drains. -/
def Obligations.ContextsEnd : Prop :=
  (∀ (s : State) (x port : Nat) (cookie : BitVec 32) (c : Ctx), s.ctx? x = some c →
     let counts := bytesLE 4 c.killed.toNat ++ bytesLE 4 c.stray.toNat
     (∀ comp, c.compList.contains comp = true → c.holdsDrover comp = true → comp ∉ c.forwarded → c.draining = none →
       (∃ e ∈ c.edges, e.1 = comp) → (∀ b ∈ c.blocksOf comp, s.liveBlock c b = false) →
       ∃ t d, exec (.droverForward x comp) s = .next t ∧ t.ctx? x = some d ∧ d.forwarded = c.forwarded ++ [comp]) ∧
     (c.reply = .host port cookie → (s.port port).state = 1 →
       (s.isComplete c = true → ∃ t, exec (.launchComplete x) s = .next t ∧ t.ctx? x = none ∧ t.hostOut = s.hostOut ++
         [{ port := port, type := 0x83, cookie := cookie, arg := BitVec.ofNat 64 x, body := counts }]) ∧
       (∀ body, c.draining = some body → s.occupancy c = 0 → ∃ t, exec (.drainComplete x) s = .next t ∧ t.ctx? x = none ∧
         t.hostOut = s.hostOut ++ [{ port := port, type := 0x84, cookie := cookie, arg := BitVec.ofNat 64 x, body := body ++ counts }]))) ∧
  (∀ (s : State) (x : Nat) (c : Ctx), s.ctx? x = some c → s.isQuiet c = true →
     let code := if s.waitingReqs x = [] then 0x12 else 0x10
     (c.handler.getLsbD 15 = true → c.sick.all (·.status = .free) = true → c.sick ≠ [] →
       ∃ t d k, exec (.quiescenceDetect x) s = .next t ∧ t.ctx? x = some d ∧ d.draining = none ∧ d.sick[0]? = some k ∧
         k.status = .pending false ∧ k.code = code ∧ k.lane = none ∧ d.fcount = BitVec.ofNat 32 (min (c.fcount.toNat + 1) 0xFFFFFFFF) ∧
         (s.memOk → c.sickBase + 4096 ≤ Config.hbmTop →
           let at0 := fun o n => natLE (t.rdN (c.sickBase + o) n)
           let waiting := s.fold.filter (·.ctx = c.id) ++ (s.eldest.map (·.1)).filter (·.ctx = c.id) ++ c.pin.map (·.entry)
           at0 0 1 = code ∧ at0 1 1 = 255 ∧ at0 2 1 / 4 % 4 = 1 ∧ at0 0x80 8 = waiting.length % 2 ^ 64 ∧
           (s.waitingReqs x = [] → t.rdN (c.sickBase + 0x40) 64 = List.replicate 64 0) ∧
           (∀ core r a, (core, r) ∈ s.waitingReqs x → (∀ q ∈ s.waitingReqs x, q = (core, r) ∨ r.tick < q.2.tick) → r.mode = .inl .next →
             s.act? core c.id r.tag.dom.toNat r.tag.act.toNat = some a →
             t.rdN (c.sickBase + 0x40) 64 = ([r.tag.dom.toNat * 2 ^ 14 + core * 2 ^ 6 + r.tag.act.toNat, 1, literOf r.tag r.epoch + 1,
               a.base, a.top, c.windowOf r.tag.dom.toNat, a.h, 0].flatMap (bytesLE 8))) ∧
           ∃ l : List FoldEntry, l.Perm waiting ∧ l.Pairwise (·.arrival ≤ ·.arrival) ∧
             ((∀ e ∈ l, e.Fits) → ∀ (i : Nat) (e : FoldEntry), l[i]? = some e → i < 160 →
               let n := at0 (0x100 + 16 * i) 16
               n / 2 ^ 88 = e.tag.toBits.toNat ∧ n / 2 ^ 76 % 2 ^ 12 = e.block ∧ n / 2 ^ 58 % 4 = e.state ∧ n / 2 ^ 54 % 8 = e.units ∧
               n % 2 ^ 23 = e.arrival % 2 ^ 23 ∧
               ∀ k, k < 8 → (n.testBit (68 + k) = true ↔ ∃ v, e.slots[k]? = some (some v)) ∧
                 (n.testBit (60 + k) = true ↔ ∃ v, e.slots[k]? = some (some (v, true)))))) ∧
     ((∃ k ∈ c.sick, k.status ≠ .free) → ∃ t d body, exec (.quiescenceDetect x) s = .next t ∧ t.ctx? x = some d ∧
       d.draining = some body ∧ body.headD 0 = BitVec.ofNat 8 code))

/-- R238, R240, R246, R286: the object-table commands. OTPOOL takes a legal value while no context is live, else BADW is
set; SHOOT and SHOOTRES drop the cached copies, PUBLISH sends the parked walks and engine commands on; each waits for
every enabled core and is then counted (when each drops, is acknowledged and completes: log entry 66, the model's
reading); a residency answer names its fetch and sends the granule's state to its continuation. -/
def Obligations.ObjectCommands : Prop :=
  (∀ (s : State) (v : Word),
    let n := v.toNat % 32
    (s.ctxs = [] → 10 ≤ n → n ≤ 19 → exec (.otpoolWrite v) s = .next { s with otpool := BitVec.ofNat 64 (v.toNat / 2 ^ 16 % 2 ^ 32 * 2 ^ 16 + n) }) ∧
    (s.ctxs ≠ [] ∨ n < 10 ∨ 19 < n → exec (.otpoolWrite v) s = .next { s with otBadw := true })) ∧
  (∀ (s : State) (c : OtCmd) (rest : List OtCmd), s.otq = c :: rest →
    let word := fun op : Nat => if op = 1 then Instr.shoot else .shootres
    (∀ op, op = 1 ∨ op = 3 → c.op = op →
      (c.started = false → ∃ t d, exec (word op) s = .next t ∧ t.otq = d :: rest ∧ d.started = true ∧ d.waiting = s.enabledCores ∧
        (op = 1 → ∀ e ∈ t.orc, e ∈ s.orc ∧ ¬(e.ctx = c.ctx ∧ e.handle = c.handle)) ∧
        ∀ w ∈ t.resWords, w ∈ s.resWords ∧ ¬(w.ctx = c.ctx ∧ w.handle = c.handle ∧ w.word = c.granule / 32)) ∧
      (c.started = true → c.waiting = [] → exec (word op) s = .next { s with otq := rest, otSeq := s.otSeq + 1 })) ∧
    (c.op = 2 →
      (c.started = false → ∃ t, exec .publish s = .next t ∧ t.otq = { c with started := true, waiting := s.enabledCores } :: rest ∧
        t.otSeq = s.otSeq ∧ (c.ctx, c.handle) ∉ t.unpublished ∧
        t.accesses = s.accesses.map (fun a =>
          if a.phase = .moving ∧ a.ctx = c.ctx ∧ a.handle = c.handle then { a with phase := .walking } else a) ∧
        ∀ k ∈ t.cmds, k.ctx = c.ctx → k.parked ≠ some c.handle) ∧
      (c.started = true → c.waiting = [] → exec .publish s = .next { s with otq := rest, otSeq := s.otSeq + 1 })) ∧
    (∀ core, c.started = true → core ∈ c.waiting → s.ownShoots = [] → (c.op ≠ 2 → ∀ a ∈ s.accesses, c.holds core a = false) →
      (c.op ≠ 2 → ∀ k ∈ s.cmds, k.core = core → k.ctx = c.ctx → ∀ q ∈ k.reads, q.2.2.2 ≠ c.handle) →
      (c.op ≠ 2 → ∀ r ∈ s.arrivals, c.holdsArrival s core r = false) →
      ∃ t, exec (.shootAck core) s = .next t ∧ t.otq = { c with waiting := c.waiting.filter (· ≠ core) } :: rest ∧
        (c.op = 1 → ∀ k ∈ t.l1, ¬(k.core = core ∧ k.pkg = c.pkg ∧ ∃ g ∈ c.span, overlap g (k.addr / 64 * 64, 64) = true)))) ∧
  (∀ (s : State) (v : Word) (f : Fetch) (c : Ctx), s.fetches.find? (fun f => f.ctx = v.toNat / 2 ^ 50 % 2 ^ 10 && f.req = v.toNat / 2 ^ 16 % 2 ^ 16) = some f →
    v.toNat / 2 ^ 60 = 1 → s.ctx? f.ctx = some c → c.draining = none → c.gang = none → c.contOk f.cont = true → (Tag.ofBits (f.cont.setWidth 40)).dom = 0 →
    ∃ t tr, exec (.answer v) s = .next t ∧ f ∉ t.fetches ∧ t.transit = s.transit ++ [tr] ∧ tr.ctx = f.ctx ∧
      tr.tok.block = (f.cont.extractLsb' 40 12).toNat ∧ tr.tok.payload = BitVec.ofNat 64 (s.granuleState f.rmap f.granule))

/-- R405, R409, R411, R413, R414: PREEMPTION stops a context on a core; from then on a token that arrives for it there is
diverted to the pinfold, and an engine's completion token is captured; PREEMPT_DUMP, once its flocks have ended and its
engines are drained, writes what it has there, the taken regions' bytes among it, into its place in the save pool and
frees the core; RESTORE carves the regions again and writes their bytes back, then gives back what was saved, filters,
entries, ready instances, flocks, resumed lanes and tokens, but what a recorded kill notice has killed, and, once no
fabric slot is owed, lifts the stop and presents what was diverted. R400, R410, R412: a driver's PINEXT write gives a
context an extent where the register holds none, and none other changes it; with a slot free the held tokens flow again,
the first first. R430: a hot core whose queue has fallen below 64 takes it and is no longer hot. -/
def Obligations.ContextsPreempted : Prop :=
  (∀ (s : State) (x core : Nat) (c : Ctx), s.ctx? x = some c →
     (s.mayPreempt c core = true → ∃ t d z, exec (.preemption x core) s = .next t ∧ t.ctx? x = some d ∧ d.saved = c.saved ++ [z] ∧
       z.core = core ∧ z.stage = 1 ∧ t.fold = s.fold ∧ t.ready = s.ready ∧ t.flocks = s.flocks) ∧
     -- diversion and capture
     (∀ (z : Section) (tr : Transit) (rest : List Transit), c.saved = [z] → z.core = core → (s.core core).inq = tr :: rest → tr.came < s.cycle →
       (s.core core).power = .running → core < s.cores.length → tr.ctx = x → tr.dst = core → c.draining = none → c.gang = none → s.pinHeld = [] →
       (tr.tok.eng ≠ some (s.pkgid, core) → ∀ k, c.pinFree = some k →
         ∃ t d p, exec (.tokenArrival core) s = .next t ∧ (t.core core).inq = rest ∧ t.fold = s.fold ∧ t.ready = s.ready ∧ t.ctx? x = some d ∧
           d.pin = c.pin ++ [p] ∧ p.slot = k ∧ p.core = core ∧ p.stamp = tr.stamp ∧ p.why = .divert ∧ p.entry.block = tr.tok.block ∧
           p.entry.tag = tr.tok.tag ∧ p.entry.epoch = tr.tok.epoch ∧
           p.entry.slots = (List.replicate (c.inputsOf tr.tok.block) none).set tr.tok.slot (some (tr.tok.payload, tr.tok.void))) ∧
       (tr.tok.eng = some (s.pkgid, core) →
         ∃ t d, exec (.tokenArrival core) s = .next t ∧ (t.core core).inq = rest ∧ t.fold = s.fold ∧ t.ready = s.ready ∧ t.ctx? x = some d ∧
           d.pin = c.pin ∧ d.saved = [{ z with tokens := z.tokens ++ [(tr.stamp, tr.tok)] }])) ∧
     -- the dump
     (∀ z, c.saved = [z] → z.core = core → z.stage = 1 → s.flocksEnded x core = true →
       ∃ t d, exec (.preemptDump x core) s = .next t ∧ t.ctx? x = some d ∧
         d.saved = [{ z with stage := 2, takes := s.regionsTaken c core }]) ∧
     (∀ z, c.saved = [z] → z.core = core → z.stage = 2 → s.flocksEnded x core = true → s.drained c core z.takes = true →
       let parts := s.sectionParts c (s.gather c core z)
       let scr := if z.takes.1 then s.rdN (s.regionOf x core false).1 (s.regionOf x core false).2 else []
       let acc := if z.takes.2 then s.rdN (s.regionOf x core true).1 (s.regionOf x core true).2 else []
       0 < z.size → 64 + parts.length + scr.length + acc.length + 65552 * (s.neededSlots x core).length ≤ z.size →
       ∃ t d y, exec (.preemptDump x core) s = .next t ∧ t.ctx? x = some d ∧ d.saved = [y] ∧ y.core = core ∧ y.stage = 3 ∧ y.addr = z.addr ∧
         y.entries = sortBy (·.arrival) (s.fold.filter fun e => e.core = core && e.ctx = x) ∧
         y.readies = sortBy (·.seq) (s.ready.filter fun r => r.core = core && r.ctx = x) ∧ y.tokens = z.tokens ∧
         (∀ r ∈ d.regions, r.core = core → r.frames = 0 ∧ (z.takes.1 = true → r.scratch = 0) ∧ (z.takes.2 = true → r.accum = 0)) ∧
         (s.memOk → z.addr + z.size ≤ Config.hbmTop → t.rdN (z.addr + 64) (parts.length + scr.length + acc.length) = parts ++ scr ++ acc) ∧
         (scr ≠ [] → y.scratch = some (z.addr + 64 + parts.length)) ∧ (acc ≠ [] → y.accum = some (z.addr + 64 + parts.length + scr.length)) ∧
         (∀ e ∈ t.fold, ¬(e.core = core ∧ e.ctx = x)) ∧ (∀ f ∈ t.flocks, ¬(f.core = core ∧ f.ctx = x)) ∧
         ∀ r ∈ t.ready, ¬(r.core = core ∧ r.ctx = x)) ∧
     -- the regions again, with their bytes
     (∀ z r g, c.saved = [z] → z.core = core → core < 256 → z.stage = 3 → z.slots = [] → z.region = some r → r.core = core → s.notHeld c core = true →
       fitRegion core r.frames (if z.takes.1 then r.scratch else 0) (if z.takes.2 then r.accum else 0) (s.usedShed core) (s.usedAccum core) = some g →
       ∃ t d q, exec (.restore x core) s = .next t ∧ t.ctx? x = some d ∧ d.saved = [{ z with stage := 4 }] ∧ q ∈ d.regions ∧ q.core = core ∧
         q.frames = r.frames ∧ q.frameSeg = g.frameSeg ∧ q.scratch = r.scratch ∧ q.accum = r.accum ∧
         (s.memOk → z.takes.1 = true → z.accum = none ∨ z.takes.2 = true → ∀ a, z.scratch = some a → q.scrSeg = g.scrSeg ∧
           t.rdN (shedAddr core (65536 * g.scrSeg)) (65536 * r.scratch) = s.rdN a (65536 * r.scratch)) ∧
         (s.memOk → z.takes.2 = true → z.scratch = none ∨ z.takes.1 = true → ∀ a, z.accum = some a → a + 32768 * r.accum ≤ Config.hbmTop → q.accSeg = g.accSeg ∧
           t.rdN (accumAddr core (32768 * g.accSeg)) (32768 * r.accum) = s.rdN a (32768 * r.accum))) ∧
     -- the contents again
     (∀ z, c.saved = [z] → z.core = core → z.stage = 4 → (s.core core).parts = false → s.fold = [] → s.ready = [] → s.eldest = [] → s.flocks = [] →
       s.filters = [] → c.pin = [] →
       (z.tokens = [] → z.flocks.length ≤ Config.numPipes * Config.slotsPerPipe → z.filters.length + z.notices.length ≤ 256 → z.entries.length ≤ 8 →
         (∀ f ∈ z.flocks, f.core = core ∧ f.ctx = x) → (∀ e ∈ z.entries, e.core = core ∧ e.ctx = x ∧ e.complete = false) →
         (∀ r ∈ z.readies, r.core = core ∧ r.ctx = x) → (∀ n ∈ z.notices, n.core = core ∧ n.ctx = x ∧ n.upto = none) →
         let dead := fun (p : Nat) (g : Tag) (e : BitVec 22) => z.notices.any fun n => n.kills x p g e
         let deadE := fun e : FoldEntry => dead e.hpkg e.tag e.epoch
         let deadR := fun r : Ready => dead r.hpkg r.tag r.epoch
         let bare := fun e : FoldEntry => { e with state := 0, dup := none, way := 0 }
         let killed := ((z.entries.filter deadE).map fun e => (e.slots.filter (·.isSome)).length).sum +
           ((z.readies.filter deadR).map fun r => r.frame.length).sum
         ∃ t d y, exec (.restore x core) s = .next t ∧ t.ctx? x = some d ∧ d.saved = [y] ∧ y.stage = 5 ∧ y.readies = [] ∧ y.entries = [] ∧
           y.flocks = [] ∧ y.notices = [] ∧
           t.fold.map bare = (z.entries.filter (!deadE ·)).map bare ∧
           t.ready = (z.readies.filter (!deadR ·)).mapIdx (fun i r => { r with since := s.cycle, seq := i, expired := false }) ∧
           (t.flocks.map fun f => { f with pipe := 0, slot := 0, level := 0, served := 0 }) =
             (z.flocks.map fun f => { f with pipe := 0, slot := 0, level := 0, served := 0, parked := false }) ∧
           t.resumed = s.resumed ++ z.resumed ∧ d.killed = BitVec.ofNat 32 (min (c.killed.toNat + killed) 0xFFFFFFFF) ∧
           (z.notices = [] → t.filters = z.filters) ∧
           ∀ n ∈ z.notices, ∃ f ∈ t.filters, f.core = core ∧ f.home = n.home ∧ f.ctx = x ∧ f.dom = n.dom ∧ f.act = n.act ∧ f.hpkg = n.hpkg ∧
             f.h ≤ n.h) ∧
       -- a captured token fills the last slot of a restored entry
       (∀ e n tk, z.entries = [e] → z.tokens = [(n, tk)] → z.readies = [] → z.flocks = [] → z.filters = [] → z.notices = [] →
         e.core = core → e.ctx = x → e.block = tk.block → e.tag = tk.tag → e.slots.length = c.inputsOf tk.block → e.slots[tk.slot]? = some none →
         (∀ k, k < e.slots.length → k ≠ tk.slot → ∃ v, e.slots[k]? = some (some v)) →
         ∃ t q, exec (.restore x core) s = .next t ∧ t.fold = [] ∧ t.ready = [q] ∧ q.core = core ∧ q.ctx = x ∧ q.block = tk.block ∧ q.tag = tk.tag ∧
           q.frame = (e.slots.map fun v => v.getD (0, false)).set tk.slot (tk.payload, tk.void))) ∧
     -- the stop ends
     (∀ z, c.saved = [z] → z.core = core → z.stage = 5 → z.slots = [] → z.notices = [] → z.tokens = [] →
       (c.pin = [] → ∃ t d, exec (.restore x core) s = .next t ∧ t.ctx? x = some d ∧ d.saved = []) ∧
       (∀ p f, c.pin = [p] → p.core = core → p.why = .divert → p.entry.core = core → p.entry.ctx = x → p.stamp = p.entry.arrival →
         p.entry.complete = false → s.fold = [] → s.eldest = [] → s.filters = [] → s.frame1 core x p.entry.units = some f →
         ∃ t d, exec (.restore x core) s = .next t ∧ t.ctx? x = some d ∧ d.saved = [] ∧ d.pin = [] ∧
           t.fold = [{ p.entry with place := some f, state := 0, dup := none, way := 0 }]))) ∧
  ((∀ (s : State) (x k : Nat) (v : Word) (c : Ctx), s.ctx? x = some c → k < 4 → c.pinBase.length = 4 → (∀ h ∈ s.pinHeld, h.ctx ≠ x) →
     ∃ t d, exec (.pinextWrite x k v) s = .next t ∧ t.ctx? x = some d ∧
       ((c.pinBase[k]?.map (·.1)) = some 0 → d.pinBase = c.pinBase.set k (v.toNat / 2 ^ 48, v.toNat / 2 ^ 16 % 2 ^ 32 * 65536)) ∧
       ((c.pinBase[k]?.map (·.1)) ≠ some 0 → d = c)) ∧
   (∀ (s : State) (x : Nat) (c : Ctx) (h : Transit) (rest : List Transit), s.ctx? x = some c → c.pinFree ≠ none → s.pinHeld = h :: rest →
     h.ctx = x → (s.core h.dst).power = .running → exec (.pinfoldSlotFree x) s =
       .next (State.flowHeld x rest.length (({ s with pinHeld := rest } : State).flowOne h))) ∧
   (∀ (s : State) (core : Nat), core < s.cores.length → (s.core core).hot = true → (s.core core).inq.length < 64 → (∀ tr ∈ (s.core core).inq, tr.came < s.cycle) →
     (s.core core).power = .running → ∃ t, exec (.coreCool core) s = .next t ∧ (t.core core).inq = [] ∧ (t.core core).hot = false))

/-- R417, R418, R454: an idle core clock-gates after 256 cycles and power-gates 1 ms later, losing its L1, record cache and
weight banks after its dirty bytes are written back; a token buffered there wakes it, and its buffer then enters in
order. R402, R452, R453, R455: an over-current rail sets ALARM and halves issue until it has been below its figure for
100 µs; the arbiter's budgets are never below 2^14 units; a stack reloads its count each millisecond; a layer's refresh
interval follows its temperature, and above 105 °C its stack is held to 2^14 units; a lasting entry is cleared. -/
def Obligations.Power : Prop :=
  (∀ (s : State) (core : Nat), core < s.cores.length →
     let k := s.core core
     (k.power = .running → k.inq = [] → k.landed = [] → k.idleAt + 256 ≤ s.cycle → (∀ f ∈ s.flocks, f.core ≠ core) → (∀ r ∈ s.ready, r.core ≠ core) →
       (∀ c ∈ s.cmds, c.core ≠ core) → ∃ t, exec (.clockGate core) s = .next t ∧ t.core core = { k with power := .clockGated, gatedAt := s.cycle }) ∧
     (k.power = .clockGated → s.fwState = 1 → k.gatedAt + 2400000 ≤ s.cycle → (∀ c ∈ s.ctxs, c.saved = []) →
       ∃ t, exec (.powerGate core) s = .next t ∧ (t.core core).power = .powerGated ∧ (∀ x ∈ t.l1, x.core ≠ core) ∧ (∀ e ∈ t.orc, e.core ≠ core) ∧
         (∀ b ∈ t.banks, b.core = core → b.valid = false) ∧
         -- its dirty bytes stand in memory, and the bytes of its sectors that are not dirty are as they were
         (s.memOk → s.numbered → s.bridge = [] → (∀ y ∈ s.l1, y.addr % 32 = 0) → ∀ y ∈ s.l1, y.core = core → y.pkg = none →
           ∀ i, i < 32 → isMemory (y.addr + i) = true → t.rd (y.addr + i) = if y.dirty.getLsbD i then y.byte i else s.rd (y.addr + i))) ∧
     (k.power = .powerGated → k.buffer ≠ [] → ∃ t, exec (.powerWake core) s = .next t ∧ (t.core core).power = .waking ∧
       (t.core core).wakes = k.wakes + 1 ∧ (t.core core).buffer = k.buffer) ∧
     (k.power = .waking → k.hot = false → k.inq = [] → k.buffer.length < 192 → (∀ tr ∈ k.buffer, tr.dst = core) →
       ∃ t, exec (.wakeComplete core) s = .next t ∧ (t.core core).power = .running ∧ (t.core core).buffer = [] ∧
         (t.core core).inq = k.buffer) ∧
     -- the shed's interleave and partitions (R253, R254): pending until no flock is resident and no bank access is left
     (∀ v : Word, ∃ t, exec (.shedctlWrite core v) s = .next t ∧ t.core core = { k with ilvPend := some (v.getLsbD 0) }) ∧
     ((∀ f ∈ s.flocks, f.core ≠ core) → (∀ a ∈ s.accesses, a.core = core → a.space = .hbm) →
       (∀ q ∈ s.cmds, q.core = core → ∀ d, s.ctx? q.ctx = some d → d.section? core = none) →
       ∃ t, exec (.shedReconfiguration core) s = .next t ∧ t.mem = s.mem ∧
         t.core core = { k with ilv := k.ilvPend.getD k.ilv, ilvPend := none, parts := false, leaving := [] })) ∧
  (∀ s : State,
     (∀ (die : Nat) (d : Die), s.dies[die]? = some d →
       (∃ t, exec (.currentAlarm die) s = .next t ∧ t.alarm = true ∧ t.dies[die]? = some { d with slow := true, lowAt := s.cycle }) ∧
       (d.slow = true → ∃ t, exec (.railAlarmClear die) s = .next t ∧ t.alarm = s.alarm ∧
         t.dies[die]? = some (if d.lowAt + 240000 ≤ s.cycle then { d with slow := false } else d))) ∧
     (∀ addr : Nat, ∃ t, exec (.lastingListClear addr) s = .next t ∧ t.lastingAt addr = false ∧ ∀ y, y / 64 ≠ addr / 64 → t.lastingAt y = s.lastingAt y) ∧
     (∀ (dieW stackW : Nat) (budgets : List Nat), s.fwState = 1 → s.arbiterAt + 2400000 ≤ s.cycle →
       ∃ t, exec (.powerArbiter dieW stackW budgets) s = .next t ∧ t.watts ≤ s.pwrcap ∧ t.watts ≤ 3600 ∧
       ∀ (i : Nat) (b : Nat) (k : Stack), s.memStacks[i]? = some k → budgets[i]? = some b → b < 2 ^ 32 →
         ∃ k' : Stack, t.memStacks[i]? = some k' ∧ k'.budget.toNat = max 16384 b) ∧
     (∀ (i : Nat) (k : Stack), s.memStacks[i]? = some k → k.window + 2400000 ≤ s.cycle → ∃ (t : State) (k' : Stack),
       exec (.budgetWindow i) s = .next t ∧ t.memStacks[i]? = some k' ∧ k'.window = k.window + 2400000 ∧
         k'.left = if k.hot then 16384 else k.budget.toNat) ∧
     (∀ (i layer temp : Nat) (k : Stack), s.memStacks[i]? = some k → ∃ (t : State) (k' : Stack),
       exec (.refreshTemperature i layer temp) s = .next t ∧ t.memStacks[i]? = some k' ∧ k'.temps[layer]? = some temp ∧
         k'.interval layer = (if temp ≤ 85 then 3900000 else if temp ≤ 95 then 1950000 else 975000) ∧ (∀ l, l ≠ layer → k'.interval l = k.interval l) ∧
         (105 < temp → k'.hot = true ∧ k'.left ≤ 16384) ∧ ((∀ x ∈ k'.temps, x ≤ 100) → k'.hot = false) ∧
         ((∀ q ∈ t.memStacks, ∀ x ∈ q.temps, x < 4096) → ∀ q ∈ t.memStacks, ∀ x ∈ q.temps, x ≤ t.hotLayer)) ∧
     -- a pipeline issues once a cycle, under its die's alarm in no two cycles one after the other
     (∀ (core pipe k : Nat) (d : Die), s.dies[dieOf core]? = some d → (s.core core).power = .running → (s.core core).issued[pipe]? = some (k + 1) →
       (s.cycle ≤ k → s.issueChoice core pipe = none) ∧ (d.slow = true → s.cycle ≤ k + 1 → s.issueChoice core pipe = none) ∧
       (k + 2 ≤ s.cycle ∨ (d.slow = false ∧ k + 1 ≤ s.cycle) → ∀ f ∈ s.flocks, f.core = core → f.pipe = pipe →
         (f.nextIndex (s.codeOf f)).isSome = true → (s.issueChoice core pipe).isSome = true)))

/-- R431, R432: LINK_FRAME accepts a frame in sequence whose CRC checks, and acknowledges it; by another it changes nothing
but what its acknowledgement covers, and of one whose CRC fails a resend is asked for; an acknowledged frame leaves the
replay buffer; unacknowledged frames are counted and sent again from the first on when 2 µs have passed since that one
was sent; a port whose resends fail goes down, its host packets kept; a retrained one is up and sends them. -/
def Obligations.LinkFrames : Prop :=
  ∀ (s : State) (port : Nat) (p : Port), s.ports[port]? = some p →
    (∀ (seq ack : BitVec 16) (m : LinkMsg), p.state = 1 → p.replay = [] → msgDest m = none ∨ msgDest m = some s.pkgid →
      (∀ h, m ≠ .host h) → (∀ h, m ≠ .toHost h) →
      (seq = p.rxSeq → ∃ t, exec (.linkFrame port { seq := seq, ack := ack, crcOk := true, msgs := [m] }) s = .next t ∧
        t.ports[port]? = some { p with rxSeq := p.rxSeq + 1, ackSent := p.rxSeq + 1, inbox := p.inbox ++ [m] }) ∧
      (seq ≠ p.rxSeq → exec (.linkFrame port { seq := seq, ack := ack, crcOk := true, msgs := [m] }) s = .next s) ∧
      ∃ t, exec (.linkFrame port { seq := seq, ack := ack, crcOk := false, msgs := [m] }) s = .next t ∧
        t = { s with ports := t.ports } ∧ t.ports[port]? = some { p with naks := p.naks + 1 }) ∧
    (∀ (f : LinkFrame) (rest : List LinkFrame) (seq : BitVec 16), p.state = 1 → p.replay = f :: rest →
      (seq ≠ p.rxSeq → ∃ t q, exec (.linkFrame port { seq := seq, ack := f.seq + 1, crcOk := true, msgs := [] }) s = .next t ∧
        t.ports[port]? = some q ∧ q.replay = rest ∧ q.failed = 0 ∧ q.inbox = p.inbox ∧ q.rxSeq = p.rxSeq) ∧
      (f.since + 4800 ≤ s.cycle → ∃ t q, exec (.resendTimeout port) s = .next t ∧ t.ports[port]? = some q ∧
        q.replay = p.replay.map (fun f => { f with since := s.cycle }) ∧ q.resends = p.resends + BitVec.ofNat 32 p.replay.length ∧
        q.failed = p.failed + 1)) ∧
    (p.state = 1 → 256 ≤ p.failed → port = 0 ∨ port = 10 → (∀ m ∈ p.replay, m.msgs = []) → p.holdq = [] →
      (s.hostOut.filter (·.port = port)).length ≤ 256 → ∃ t q, exec (.portDown port) s = .next t ∧ t.ports[port]? = some q ∧ q.state = 2 ∧
        q.replay = [] ∧ q.holdq = s.hostOut.filter (·.port = port) ∧ t.hostOut = s.hostOut.filter (·.port ≠ port)) ∧
    (p.state = 1 → 256 ≤ p.failed → port ≠ 0 → port ≠ 10 → ∃ t q, exec (.portDown port) s = .next t ∧ t.ports[port]? = some q ∧
      q.state = 2 ∧ q.replay = []) ∧
    (p.state = 2 ∨ p.state = 3 → ∃ t q, exec (.portRetrained port) s = .next t ∧ t.ports[port]? = some q ∧ q.state = 1 ∧
      q.holdq = [] ∧ t.hostOut = s.hostOut ++ p.holdq)

/-- R435, R248: a host port's read of memory by physical address is answered with the bytes, and its write stores them and
no others; a read or write of a device register goes to the register. Before bring-up only the staging buffer is
reached. R6, R71, R183, R248, R408, R437, R452, R459: REGISTER_WRITE of the registers with a behaviour of their own:
DEFSEED is written whole and takes effect one cycle later, PWRCAP held between 1,200 and 3,600, write-ones-to-clear bits
cleared, SAVEPOOL kept while a context is live, an unoccupied offset discarded, an FWCMD ignored while one runs. -/
def Obligations.HostAccesses : Prop :=
  (∀ (s : State) (port : Nat) (p : HostPkt), (s.port port).state = 1 → s.bridge = [] → s.errors = [] → s.memOk →
     (∀ c, (s.core c).power = .running) → (∀ k ∈ s.memStacks, k.left ≠ 0) →
     let a := (hpArg p).toNat % 2 ^ 48
     let n := (hpArg p).toNat / 2 ^ 48 % 2 ^ 9 + 1
     let answered := fun (t : State) (type st : Nat) (body : List Byte) => t.hostOut = s.hostOut ++
         [{ port := port, type := type, cookie := hpCookie p, arg := BitVec.ofNat 64 st, body := body }] ∧
       (t.port port).inbox = (s.port port).inbox.drop 1
     (hpArg p).getLsbD 63 = false →
     (s.hostHead port 2 = some p →
       (s.isOpen = true → a + n ≤ Config.regLow → ∃ t, exec (.wread port) s = .next t ∧ answered t 0x85 0 (s.rdN a n) ∧ t.mem = s.mem) ∧
       (s.isOpen = false → a + n ≤ Config.regLow → ∃ t, exec (.wread port) s = .next t ∧ t.mem = s.mem ∧
         if inStaging a n = true then answered t 0x85 0 (s.rdN a n) else answered t 0x85 3 []) ∧
       (Config.regLow ≤ a → a < Config.regTop → n = 8 → a % 8 = 0 →
         ∃ t, exec (.wread port) s = .next t ∧ answered t 0x85 0 (bytesLE 8 (s.readReg a)) ∧ t.mem = s.mem)) ∧
     (s.hostHead port 3 = some p →
       (s.isOpen = true → p.body ≠ [] → a + p.body.length ≤ Config.regLow → (∀ i, i < p.body.length → isMemory (a + i) = true) →
         ∃ t, exec (.wwrite port) s = .next t ∧ answered t 0x86 0 [] ∧ t.rdN a p.body.length = p.body ∧
           ∀ x, x < a ∨ a + p.body.length ≤ x → t.rd x = s.rd x) ∧
       (Config.regLow ≤ a → a < Config.regTop → p.body.length = 8 → a % 8 = 0 →
         ∃ t, exec (.wwrite port) s = .next t ∧ answered t 0x86 0 [] ∧
           t = { s.writeReg a (BitVec.ofNat 64 (natLE p.body)) with hostOut := t.hostOut, ports := t.ports }))) ∧
  (∀ (s : State) (v : Word),
     exec (.registerWrite 0x0E0000050000 v) s = .next { s with defseed := v, seedWas := some (s.cycle, s.seedNow) } ∧
     exec (.registerWrite 0x0E0000050008 v) s = .next { s with pwrcap := max 1200 (min 3600 (v.toNat % 2 ^ 12)) } ∧
     exec (.registerWrite 0x0E0000050010 v) s = .next { s with alarm := s.alarm && !v.getLsbD 63 } ∧
     exec (.registerWrite 0x0E0000010010 v) s = .next { s with otOvf := s.otOvf && !v.getLsbD 62, otBadw := s.otBadw && !v.getLsbD 61 } ∧
     (s.fwCmd ≠ none → exec (.registerWrite 0x0E0000050020 v) s = .next { s with fwLasterr := 5 }) ∧
     (s.fwCmd = none → 1 ≤ v.toNat / 2 ^ 60 → v.toNat / 2 ^ 60 ≤ 4 → exec (.registerWrite 0x0E0000050020 v) s = .next { s with fwCmd := some v }) ∧
     (s.ctxs ≠ [] → exec (.registerWrite 0x0E0000030000 v) s = .next { s with saveBadw := true }) ∧
     (s.ctxs = [] → ∃ t, exec (.registerWrite 0x0E0000030000 v) s = .next t ∧ t.savepool = BitVec.ofNat 64 (v.toNat / 2 ^ 30 % 2 ^ 26 * 2 ^ 30)) ∧
     (∀ a, a < 0x0E0000010000 ∨ 0x0E0000200000 ≤ a → exec (.registerWrite a v) s = .next s) ∧
     (∀ p, p < 32768 → exec (.registerWrite (0x0E0000100000 + 8 * p) v) s = .next s))

/-- R437, R439, R425: a memory request from a peer within the peer window is performed and answered to its package: a read
with the bytes, a write with its enabled bytes stored; outside the window it is answered with fault 3 and changes
nothing. The response frees its access: a load delivers the bytes. -/
def Obligations.RemoteRequests : Prop :=
  (∀ (s : State) (port : Nat) (q : MemReq), port < s.ports.length → (s.port port).inbox = [.memReq q] → s.bridge = [] →
    s.errors = [] → s.memOk → (s.route? q.spkg).isSome = true → (∀ d ∈ s.dies, d.lasting = []) → (∀ k ∈ s.memStacks, k.left ≠ 0) →
    let n := reqBytes q
    let sent := fun (t : State) (f : Option Nat) (data : List Byte) => (t.port port).inbox = [] ∧
      t.netOut = s.netOut ++ [(q.spkg, .memRsp { id := q.id, dpkg := q.spkg, dcore := q.score, spkg := s.pkgid, fault := f, data := data })]
    let inside := ∀ i, i < n → s.peerMay (q.addr + i) = true
    (∀ k, q.op = .read k → inside → ∃ t, exec (.memreq port) s = .next t ∧ sent t none (s.rdN q.addr k) ∧ t.mem = s.mem) ∧
    (∀ bs mask, q.op = .write bs mask → mask.length = bs.length → inside → (∀ i, i < n → isMemory (q.addr + i) = true) →
      ∃ t, exec (.memreq port) s = .next t ∧ sent t none [] ∧ (∀ y, y < q.addr ∨ q.addr + n ≤ y → t.rd y = s.rd y) ∧
        ∀ i b m, bs[i]? = some b → mask[i]? = some m → t.rd (q.addr + i) = if m then b else s.rd (q.addr + i)) ∧
    ((∃ i, i < n ∧ s.peerMay (q.addr + i) = false) →
      ∃ t, exec (.memreq port) s = .next t ∧ sent t (some 3) [] ∧ t.mem = s.mem)) ∧
  (∀ (s : State) (port : Nat) (r : MemRsp) (a : Access) (ln : Lane) (pm : Pm) (w : MemTy) (t0 t1 : Target), port < s.ports.length →
    (s.port port).inbox = [.memRsp r] → s.accesses = [a] → a.phase = .remote r.id → a.orphan = false → s.lane? a.fid = some ln →
    a.instr = .ld pm w t0 t1 → a.scaleAt = none → a.nibble = none → a.one = none → a.part = [] → a.coh ≠ 2 → a.bytes.length = r.data.length → r.data.length ≤ 8 →
    (r.fault = none → ∃ t, exec (.memrsp port) s = .next t ∧ t.accesses = [] ∧
      let v : Val := { bits := BitVec.ofNat 64 (natLE r.data) }
      t.lane? a.fid = some (ln.complete a.idx true t0 t1 v v)) ∧
    (∀ f, r.fault = some f → f ≠ 9 → ∃ t u : State, exec (.memrsp port) s = .next t ∧ u.accesses = [] ∧ u.flocks = s.flocks ∧
      t = u.faultLane a.fid a.idx 0x31 [BitVec.ofNat 64 a.handle, BitVec.ofNat 64 f, BitVec.ofNat 64 (a.a.bits.toNat % 2 ^ 44)]))

/-- R438: TOPO with no context live takes a legal block's package number, peer window and routes, and sends the ports of
other packages into retraining; with one live LASTERR becomes 6, for an illegal block 4. R456–R458: RESET does its steps
1 to 5 and then, the next time, opens the launch port: it runs the image of slot A where that verifies, else slot B's,
and with neither the package stays in recovery, its port closed for good; the lasting lists are clear and the ports are
up. An image whose security version lies below the fused one is never accepted. VERIFY puts an accepted image of the
staging buffer into the other slot, or records why not; ACTIVATE restarts (FWSTATE 0) and then runs it, or with no
verified image leaves LASTERR 4 and changes nothing else; ATTEST writes the statement, the digests of the running image
and of the base-die image in it. What an image's signatures and version are is the part's (log entry 111). -/
def Obligations.Firmware : Prop :=
  (∀ (s : State) (v : Word), s.fwCmd = some v → v.toNat / 2 ^ 60 = 4 →
     let a := v.toNat / 2 ^ 12 % 2 ^ 36 * 4096
     let w0 := natLE (s.rdN a 8)
     let w1 := natLE (s.rdN (a + 8) 8)
     let l := (List.range (w0 / 2 ^ 16 % 2 ^ 15)).map fun i => natLE (s.rdN (a + 16 + 4 * i) 4)
     (s.ctxs ≠ [] → exec .topo s = .next { s with fwCmd := none, fwLasterr := 6 }) ∧
     (s.ctxs = [] → topoBad w0 l = true → exec .topo s = .next { s with fwCmd := none, fwLasterr := 4 }) ∧
     (s.ctxs = [] → topoBad w0 l = false → peerwinOf (BitVec.ofNat 64 w1) = BitVec.ofNat 64 w1 →
       ∃ t, exec .topo s = .next t ∧ t.fwCmd = none ∧ t.pkgid = w0 % 2 ^ 15 ∧ t.peerwin = BitVec.ofNat 64 w1 ∧
         t.routes = l.map (fun e => (e % 2 ^ 15, e / 2 ^ 16 % 2 ^ 5)) ∧ t.fwLasterr = s.fwLasterr ∧
         ∀ (k : Nat) (p : Port), s.ports[k]? = some p → ∃ q, t.ports[k]? = some q ∧
           (k ≠ 0 → k ≠ 10 → q.state = 3 ∧ q.replay = []) ∧ (k = 0 ∨ k = 10 → q = p))) ∧
  ((∀ i, imageVerdict i = 0 → Config.fusedVersion.toNat ≤ (Config.imageVersion i).toNat) ∧
   ∀ s : State,
     let ok := fun k => imageVerdict (Config.slotImage k) = 0
     (s.broughtUp = false →
       ∃ t, exec .reset s = .next t ∧ t.mem = s.mem ∧ t.broughtUp = true ∧ t.isOpen = s.isOpen ∧ (∀ d ∈ t.dies, d.lasting = []) ∧
         (∀ p ∈ t.ports, p.state = 1) ∧
         (ok 0 → t.fwState = 1 ∧ t.fwSlot = 0 ∧ t.fwImage = some (Config.slotImage 0) ∧ t.fwSvn = Config.imageVersion (Config.slotImage 0)) ∧
         (¬ok 0 → ok 1 → t.fwState = 1 ∧ t.fwSlot = 1 ∧ t.fwImage = some (Config.slotImage 1) ∧ t.fwSvn = Config.imageVersion (Config.slotImage 1)) ∧
         (¬ok 0 → t.fwLasterr = imageVerdict (Config.slotImage 0)) ∧ (¬ok 0 → ¬ok 1 → t.fwState = 2)) ∧
     (s.broughtUp = true → (ok 0 ∨ ok 1 → exec .reset s = .next { s with isOpen := true }) ∧ (¬ok 0 → ¬ok 1 → exec .reset s = .next s)) ∧
     (∀ v, s.fwCmd = some v →
       let a := v.toNat / 2 ^ 12 % 2 ^ 36 * 4096
       let b := Config.stagingBuffer
       (v.toNat / 2 ^ 60 = 1 →
         (b.1 ≤ a → a < b.1 + b.2 →
           let i := Config.stagedImage (s.rdN a (b.1 + b.2 - a))
           exec .verify s = .next (if imageVerdict i = 0 then { s with fwCmd := none, fwOther := some i }
             else { s with fwCmd := none, fwLasterr := imageVerdict i })) ∧
         (a < b.1 ∨ b.1 + b.2 ≤ a → exec .verify s = .next { s with fwCmd := none, fwLasterr := 4 })) ∧
       (v.toNat / 2 ^ 60 = 2 →
         (s.fwOther = none → exec .activate s = .next { s with fwCmd := none, fwLasterr := 4 }) ∧
         (∀ u, s.fwOther = some u → s.fwState ≠ 0 → exec .activate s = .next { s with fwState := 0 }) ∧
         (∀ u, s.fwOther = some u → s.fwState = 0 → exec .activate s = .next { s with
           fwCmd := none, fwOther := s.fwImage, fwImage := some u, fwSvn := Config.imageVersion u, fwSlot := 1 - s.fwSlot, fwState := 1 })) ∧
       (v.toNat / 2 ^ 60 = 3 → s.pkgid < 2 ^ 16 →
         s.memOk → a + 0x1000 ≤ Config.hbmTop → ∃ t, exec .attest s = .next t ∧ t.fwCmd = none ∧
           ((∀ c, (s.core c).enabled = true) → natLE (t.rdN (a + 64) 2) = 0x9A) ∧
             ((∃ c, c < 256 ∧ (s.core c).enabled = false) → natLE (t.rdN (a + 64) 2) = 0x9B) ∧ natLE (t.rdN (a + 66) 2) = s.pkgid ∧ t.rdN (a + 64 + 40) 48 = s.rdN a 48 ∧
           natLE (t.rdN (a + 64 + 88) 8) = s.fwSvn.toNat ∧
           (∀ i, s.fwImage = some i → t.rdN (a + 64 + 96) 48 = (List.range 48).map (Config.digestByte i)) ∧
           t.rdN (a + 64 + 144) 48 = (List.range 48).map Config.baseDigestByte ∧
           (∀ y, y < a + 64 ∨ a + 64 + 0x80C ≤ y → t.rd y = s.rd y))))

/-- R441, R442, R444: at its tick a synchronised member that every other has told its cores (log entry 45) starts and
injects its entry tokens; one that is not synchronised, or has fallen out since its admission, tells every other member
by a CONTROL message and drains with GANG_TICK, and so does a launch that still waits in a queue then tell them. A
CONTROL message of a loss or a missed tick drains a live member with GANG_LOST or GANG_TICK and is only counted by one
that drains already. R443: a time message of a root below the lowest that is known synchronises the package with that
root, which it then follows by the port it came by, slewing its tick toward the root's; any exchange keeps a package
that knows no lower root synchronised with itself as root; another changes nothing. After 1 ms without an exchange a
package is unsynchronised, and a gang that has not started there will have missed its tick. Which exchange lies along
the tree is the model's choice (log entry 109). -/
def Obligations.Gangs : Prop :=
  ((∀ (s : State) (x : Nat) (c : Ctx) (g : Gang), s.ctx? x = some c → c.gang = some g → x < 1024 →
     let routed := ∀ m ∈ g.members, m.1 ≠ s.pkgid → (s.route? m.1).isSome = true
     (c.draining = none → g.started = false → g.tick ≤ s.tick → g.allTold s.pkgid = true →
       (s.sync = true → g.lapsed = false → c.pin = [] → c.entryToks = [] → (∀ b ∈ c.blocks, b.inputs ≠ 0) →
         ∃ t d e, exec (.gangStart x) s = .next t ∧ t.ctx? x = some d ∧
           d.gang = some e ∧ e.started = true ∧ d.entryDone = true ∧ d.draining = none) ∧
       (s.sync = false ∨ g.lapsed = true → routed → ∃ t d body, exec (.gangStart x) s = .next t ∧ t.ctx? x = some d ∧ d.draining = some body ∧
         body.headD 0 = 0x33 ∧ ((body.drop 64).take 8) = bytesLE 8 s.pkgid ∧
         t.netOut = s.netOut ++ ((g.members.filter (·.1 ≠ s.pkgid)).map fun m =>
           (m.1, .control m.1 s.pkgid g.number (.missed s.pkgid g.tick))))) ∧
     (∀ (port from_ p n : Nat), s.ctxOfGang g.number = some c → p < 2 ^ 64 →
       let lost := (s.port port).inbox = [.control s.pkgid from_ g.number (.lost p n)]
       let missed := (s.port port).inbox = [.control s.pkgid from_ g.number (.missed p n)]
       (lost ∨ missed → c.draining = none → ∃ t d body, exec (.gangControl port) s = .next t ∧ (t.port port).inbox = [] ∧ t.ctx? x = some d ∧
         d.draining = some body ∧ body.headD 0 = (if (s.port port).inbox = [.control s.pkgid from_ g.number (.lost p n)] then 0x32 else 0x33) ∧
         ((body.drop 64).take 16) = bytesLE 8 p ++ bytesLE 8 n) ∧
       (lost ∨ missed → c.draining ≠ none → ∃ t d, exec (.gangControl port) s = .next t ∧ t.ctx? x = some d ∧ d.draining = c.draining ∧
         d.fcount = BitVec.ofNat 32 (min (c.fcount.toNat + 1) 0xFFFFFFFF)))) ∧
   (∀ (s : State) (k : Nat) (q : Queued), k < 4096 → s.queues[k]? = some q → lhGang q.header ≠ 0 → lhTick q.header ≤ s.tick →
     let others := ((s.gangMembers (s.imageHdr q.image)).map (·.1)).filter (· ≠ s.pkgid)
     (∀ p ∈ others, (s.route? p).isSome = true) →
     ∃ t, exec (.gangStart (1024 + k)) s = .next t ∧ t.queues = s.queues.eraseIdx k ∧
       t.netOut = s.netOut ++ others.map fun p => (p, .control p s.pkgid (lhGang q.header) (.missed s.pkgid (lhTick q.header))))) ∧
  ((∀ (s : State) (port root : Nat) (tick : Word), (s.port port).inbox = [.time root tick] →
     let known := if s.sync then min s.root s.pkgid else s.pkgid
     ∃ t, exec (.timeExchange port) s = .next t ∧ (t.port port).inbox = [] ∧ t.tick = s.tick ∧
       (root < known ∨ (root = known ∧ root < s.pkgid ∧ s.rootPort = port) →
         t.sync = true ∧ t.lastTime = s.cycle ∧ t.root = root ∧ t.rootPort = port ∧
         (s.tick < tick.toNat → 0 < t.slew) ∧ (tick.toNat < s.tick → t.slew < 0) ∧ (tick.toNat = s.tick → t.slew = 0)) ∧
       (known = s.pkgid → s.pkgid ≤ root → t.sync = true ∧ t.lastTime = s.cycle ∧ t.root = s.pkgid ∧ t.slew = 0 ∧ t.offset = 0) ∧
       (known < s.pkgid → known < root ∨ (root = known ∧ s.rootPort ≠ port) → t = { s with ports := t.ports })) ∧
   (∀ s : State, s.sync = true → s.lastTime + 2400000 ≤ s.cycle → ∃ t, exec .syncLoss s = .next t ∧ t.sync = false ∧ t.tick = s.tick ∧
     ∀ x c g, s.ctx? x = some c → c.gang = some g → g.started = false → ∃ d e, t.ctx? x = some d ∧ d.gang = some e ∧ e.lapsed = true))
end

