-- ==== Sys2Proof/Laws/Encoding.lean ====
section
/-! SUPPORT. The fields of the four word layouts (R41) read back. -/

namespace Sys2Proof

theorem mkF2_toNat (op : BitVec 8) (pm : BitVec 2) (sub : BitVec 4) (t0 t1 : BitVec 9) :
    (mkF2 op pm sub t0 t1).toNat =
      0x1000000 * op.toNat + 0x400000 * pm.toNat + 0x40000 * sub.toNat + 0x200 * t0.toNat + t1.toNat := by
  show BitVec.toNat (op ++ pm ++ sub ++ t0 ++ t1) = _
  rw [toNat_join, toNat_join, toNat_join, toNat_join]
  omega

theorem mkFI_toNat (op : BitVec 8) (pm : BitVec 2) (t0 : BitVec 9) (imm : BitVec 13) :
    (mkFI op pm t0 imm).toNat = 0x1000000 * op.toNat + 0x400000 * pm.toNat + 0x2000 * t0.toNat + imm.toNat := by
  show BitVec.toNat (op ++ pm ++ t0 ++ imm) = _
  rw [toNat_join, toNat_join, toNat_join]
  omega

theorem mkFS_toNat (op : BitVec 8) (pm : BitVec 2) (tm slot : BitVec 3) (blk : BitVec 12) (flags : BitVec 4) :
    (mkFS op pm tm slot blk flags).toNat =
      0x1000000 * op.toNat + 0x400000 * pm.toNat + 0x80000 * tm.toNat + 0x10000 * slot.toNat + 0x10 * blk.toNat + flags.toNat := by
  show BitVec.toNat (op ++ pm ++ tm ++ slot ++ blk ++ flags) = _
  rw [toNat_join, toNat_join, toNat_join, toNat_join, toNat_join]
  omega

theorem mkFX_toNat (op : BitVec 8) (pm : BitVec 2) (code : BitVec 13) (t0 : BitVec 9) :
    (mkFX op pm code t0).toNat = 0x1000000 * op.toNat + 0x400000 * pm.toNat + 0x200 * code.toNat + t0.toNat := by
  show BitVec.toNat (op ++ pm ++ code ++ t0) = _
  rw [toNat_join, toNat_join, toNat_join]
  omega

theorem mkOrd_toNat (w64 : BitVec 1) (ord sc : BitVec 2) :
    (mkOrd w64 ord sc).toNat = 16 * w64.toNat + 4 * ord.toNat + sc.toNat := by
  show BitVec.toNat (0#4 ++ w64 ++ ord ++ sc) = _
  rw [toNat_join, toNat_join, toNat_join]
  simp
  omega

@[simp] theorem mkF2_28_4 (op : BitVec 8) (pm : BitVec 2) (sub : BitVec 4) (t0 t1 : BitVec 9) :
    (mkF2 op pm sub t0 t1).extractLsb' 28 4 = op.extractLsb' 4 4 := by
  apply BitVec.eq_of_toNat_eq
  have := op.isLt
  have := pm.isLt
  have := sub.isLt
  have := t0.isLt
  have := t1.isLt
  simp only [mkF2_toNat, BitVec.extractLsb'_toNat, Nat.shiftRight_eq_div_pow]
  omega

@[simp] theorem mkF2_24_4 (op : BitVec 8) (pm : BitVec 2) (sub : BitVec 4) (t0 t1 : BitVec 9) :
    (mkF2 op pm sub t0 t1).extractLsb' 24 4 = op.extractLsb' 0 4 := by
  apply BitVec.eq_of_toNat_eq
  have := op.isLt
  have := pm.isLt
  have := sub.isLt
  have := t0.isLt
  have := t1.isLt
  simp only [mkF2_toNat, BitVec.extractLsb'_toNat, Nat.shiftRight_eq_div_pow]
  omega

@[simp] theorem mkF2_24_2 (op : BitVec 8) (pm : BitVec 2) (sub : BitVec 4) (t0 t1 : BitVec 9) :
    (mkF2 op pm sub t0 t1).extractLsb' 24 2 = op.extractLsb' 0 2 := by
  apply BitVec.eq_of_toNat_eq
  have := op.isLt
  have := pm.isLt
  have := sub.isLt
  have := t0.isLt
  have := t1.isLt
  simp only [mkF2_toNat, BitVec.extractLsb'_toNat, Nat.shiftRight_eq_div_pow]
  omega

@[simp] theorem mkF2_22_2 (op : BitVec 8) (pm : BitVec 2) (sub : BitVec 4) (t0 t1 : BitVec 9) :
    (mkF2 op pm sub t0 t1).extractLsb' 22 2 = pm := by
  apply BitVec.eq_of_toNat_eq
  have := op.isLt
  have := pm.isLt
  have := sub.isLt
  have := t0.isLt
  have := t1.isLt
  simp only [mkF2_toNat, BitVec.extractLsb'_toNat, Nat.shiftRight_eq_div_pow]
  omega

@[simp] theorem mkF2_18_4 (op : BitVec 8) (pm : BitVec 2) (sub : BitVec 4) (t0 t1 : BitVec 9) :
    (mkF2 op pm sub t0 t1).extractLsb' 18 4 = sub := by
  apply BitVec.eq_of_toNat_eq
  have := op.isLt
  have := pm.isLt
  have := sub.isLt
  have := t0.isLt
  have := t1.isLt
  simp only [mkF2_toNat, BitVec.extractLsb'_toNat, Nat.shiftRight_eq_div_pow]
  omega

@[simp] theorem mkF2_20_2 (op : BitVec 8) (pm : BitVec 2) (sub : BitVec 4) (t0 t1 : BitVec 9) :
    (mkF2 op pm sub t0 t1).extractLsb' 20 2 = sub.extractLsb' 2 2 := by
  apply BitVec.eq_of_toNat_eq
  have := op.isLt
  have := pm.isLt
  have := sub.isLt
  have := t0.isLt
  have := t1.isLt
  simp only [mkF2_toNat, BitVec.extractLsb'_toNat, Nat.shiftRight_eq_div_pow]
  omega

@[simp] theorem mkF2_18_2 (op : BitVec 8) (pm : BitVec 2) (sub : BitVec 4) (t0 t1 : BitVec 9) :
    (mkF2 op pm sub t0 t1).extractLsb' 18 2 = sub.extractLsb' 0 2 := by
  apply BitVec.eq_of_toNat_eq
  have := op.isLt
  have := pm.isLt
  have := sub.isLt
  have := t0.isLt
  have := t1.isLt
  simp only [mkF2_toNat, BitVec.extractLsb'_toNat, Nat.shiftRight_eq_div_pow]
  omega

@[simp] theorem mkF2_19_3 (op : BitVec 8) (pm : BitVec 2) (sub : BitVec 4) (t0 t1 : BitVec 9) :
    (mkF2 op pm sub t0 t1).extractLsb' 19 3 = sub.extractLsb' 1 3 := by
  apply BitVec.eq_of_toNat_eq
  have := op.isLt
  have := pm.isLt
  have := sub.isLt
  have := t0.isLt
  have := t1.isLt
  simp only [mkF2_toNat, BitVec.extractLsb'_toNat, Nat.shiftRight_eq_div_pow]
  omega

@[simp] theorem mkF2_18_1 (op : BitVec 8) (pm : BitVec 2) (sub : BitVec 4) (t0 t1 : BitVec 9) :
    (mkF2 op pm sub t0 t1).extractLsb' 18 1 = sub.extractLsb' 0 1 := by
  apply BitVec.eq_of_toNat_eq
  have := op.isLt
  have := pm.isLt
  have := sub.isLt
  have := t0.isLt
  have := t1.isLt
  simp only [mkF2_toNat, BitVec.extractLsb'_toNat, Nat.shiftRight_eq_div_pow]
  omega

@[simp] theorem mkF2_21_1 (op : BitVec 8) (pm : BitVec 2) (sub : BitVec 4) (t0 t1 : BitVec 9) :
    (mkF2 op pm sub t0 t1).extractLsb' 21 1 = sub.extractLsb' 3 1 := by
  apply BitVec.eq_of_toNat_eq
  have := op.isLt
  have := pm.isLt
  have := sub.isLt
  have := t0.isLt
  have := t1.isLt
  simp only [mkF2_toNat, BitVec.extractLsb'_toNat, Nat.shiftRight_eq_div_pow]
  omega

@[simp] theorem mkF2_18_3 (op : BitVec 8) (pm : BitVec 2) (sub : BitVec 4) (t0 t1 : BitVec 9) :
    (mkF2 op pm sub t0 t1).extractLsb' 18 3 = sub.extractLsb' 0 3 := by
  apply BitVec.eq_of_toNat_eq
  have := op.isLt
  have := pm.isLt
  have := sub.isLt
  have := t0.isLt
  have := t1.isLt
  simp only [mkF2_toNat, BitVec.extractLsb'_toNat, Nat.shiftRight_eq_div_pow]
  omega

@[simp] theorem mkF2_9_9 (op : BitVec 8) (pm : BitVec 2) (sub : BitVec 4) (t0 t1 : BitVec 9) :
    (mkF2 op pm sub t0 t1).extractLsb' 9 9 = t0 := by
  apply BitVec.eq_of_toNat_eq
  have := op.isLt
  have := pm.isLt
  have := sub.isLt
  have := t0.isLt
  have := t1.isLt
  simp only [mkF2_toNat, BitVec.extractLsb'_toNat, Nat.shiftRight_eq_div_pow]
  omega

@[simp] theorem mkF2_0_9 (op : BitVec 8) (pm : BitVec 2) (sub : BitVec 4) (t0 t1 : BitVec 9) :
    (mkF2 op pm sub t0 t1).extractLsb' 0 9 = t1 := by
  apply BitVec.eq_of_toNat_eq
  have := op.isLt
  have := pm.isLt
  have := sub.isLt
  have := t0.isLt
  have := t1.isLt
  simp only [mkF2_toNat, BitVec.extractLsb'_toNat, Nat.shiftRight_eq_div_pow]
  omega

@[simp] theorem mkF2_5_4 (op : BitVec 8) (pm : BitVec 2) (sub : BitVec 4) (t0 t1 : BitVec 9) :
    (mkF2 op pm sub t0 t1).extractLsb' 5 4 = t1.extractLsb' 5 4 := by
  apply BitVec.eq_of_toNat_eq
  have := op.isLt
  have := pm.isLt
  have := sub.isLt
  have := t0.isLt
  have := t1.isLt
  simp only [mkF2_toNat, BitVec.extractLsb'_toNat, Nat.shiftRight_eq_div_pow]
  omega

@[simp] theorem mkF2_4_5 (op : BitVec 8) (pm : BitVec 2) (sub : BitVec 4) (t0 t1 : BitVec 9) :
    (mkF2 op pm sub t0 t1).extractLsb' 4 5 = t1.extractLsb' 4 5 := by
  apply BitVec.eq_of_toNat_eq
  have := op.isLt
  have := pm.isLt
  have := sub.isLt
  have := t0.isLt
  have := t1.isLt
  simp only [mkF2_toNat, BitVec.extractLsb'_toNat, Nat.shiftRight_eq_div_pow]
  omega

@[simp] theorem mkF2_2_2 (op : BitVec 8) (pm : BitVec 2) (sub : BitVec 4) (t0 t1 : BitVec 9) :
    (mkF2 op pm sub t0 t1).extractLsb' 2 2 = t1.extractLsb' 2 2 := by
  apply BitVec.eq_of_toNat_eq
  have := op.isLt
  have := pm.isLt
  have := sub.isLt
  have := t0.isLt
  have := t1.isLt
  simp only [mkF2_toNat, BitVec.extractLsb'_toNat, Nat.shiftRight_eq_div_pow]
  omega

@[simp] theorem mkF2_0_2 (op : BitVec 8) (pm : BitVec 2) (sub : BitVec 4) (t0 t1 : BitVec 9) :
    (mkF2 op pm sub t0 t1).extractLsb' 0 2 = t1.extractLsb' 0 2 := by
  apply BitVec.eq_of_toNat_eq
  have := op.isLt
  have := pm.isLt
  have := sub.isLt
  have := t0.isLt
  have := t1.isLt
  simp only [mkF2_toNat, BitVec.extractLsb'_toNat, Nat.shiftRight_eq_div_pow]
  omega

@[simp] theorem mkF2_4_1 (op : BitVec 8) (pm : BitVec 2) (sub : BitVec 4) (t0 t1 : BitVec 9) :
    (mkF2 op pm sub t0 t1).extractLsb' 4 1 = t1.extractLsb' 4 1 := by
  apply BitVec.eq_of_toNat_eq
  have := op.isLt
  have := pm.isLt
  have := sub.isLt
  have := t0.isLt
  have := t1.isLt
  simp only [mkF2_toNat, BitVec.extractLsb'_toNat, Nat.shiftRight_eq_div_pow]
  omega

@[simp] theorem mkF2_2_1 (op : BitVec 8) (pm : BitVec 2) (sub : BitVec 4) (t0 t1 : BitVec 9) :
    (mkF2 op pm sub t0 t1).extractLsb' 2 1 = t1.extractLsb' 2 1 := by
  apply BitVec.eq_of_toNat_eq
  have := op.isLt
  have := pm.isLt
  have := sub.isLt
  have := t0.isLt
  have := t1.isLt
  simp only [mkF2_toNat, BitVec.extractLsb'_toNat, Nat.shiftRight_eq_div_pow]
  omega

@[simp] theorem mkF2_3_1 (op : BitVec 8) (pm : BitVec 2) (sub : BitVec 4) (t0 t1 : BitVec 9) :
    (mkF2 op pm sub t0 t1).extractLsb' 3 1 = t1.extractLsb' 3 1 := by
  apply BitVec.eq_of_toNat_eq
  have := op.isLt
  have := pm.isLt
  have := sub.isLt
  have := t0.isLt
  have := t1.isLt
  simp only [mkF2_toNat, BitVec.extractLsb'_toNat, Nat.shiftRight_eq_div_pow]
  omega

@[simp] theorem mkFI_28_4 (op : BitVec 8) (pm : BitVec 2) (t0 : BitVec 9) (imm : BitVec 13) :
    (mkFI op pm t0 imm).extractLsb' 28 4 = op.extractLsb' 4 4 := by
  apply BitVec.eq_of_toNat_eq
  have := op.isLt
  have := pm.isLt
  have := t0.isLt
  have := imm.isLt
  simp only [mkFI_toNat, BitVec.extractLsb'_toNat, Nat.shiftRight_eq_div_pow]
  omega

@[simp] theorem mkFI_24_4 (op : BitVec 8) (pm : BitVec 2) (t0 : BitVec 9) (imm : BitVec 13) :
    (mkFI op pm t0 imm).extractLsb' 24 4 = op.extractLsb' 0 4 := by
  apply BitVec.eq_of_toNat_eq
  have := op.isLt
  have := pm.isLt
  have := t0.isLt
  have := imm.isLt
  simp only [mkFI_toNat, BitVec.extractLsb'_toNat, Nat.shiftRight_eq_div_pow]
  omega

@[simp] theorem mkFI_22_2 (op : BitVec 8) (pm : BitVec 2) (t0 : BitVec 9) (imm : BitVec 13) :
    (mkFI op pm t0 imm).extractLsb' 22 2 = pm := by
  apply BitVec.eq_of_toNat_eq
  have := op.isLt
  have := pm.isLt
  have := t0.isLt
  have := imm.isLt
  simp only [mkFI_toNat, BitVec.extractLsb'_toNat, Nat.shiftRight_eq_div_pow]
  omega

@[simp] theorem mkFI_13_9 (op : BitVec 8) (pm : BitVec 2) (t0 : BitVec 9) (imm : BitVec 13) :
    (mkFI op pm t0 imm).extractLsb' 13 9 = t0 := by
  apply BitVec.eq_of_toNat_eq
  have := op.isLt
  have := pm.isLt
  have := t0.isLt
  have := imm.isLt
  simp only [mkFI_toNat, BitVec.extractLsb'_toNat, Nat.shiftRight_eq_div_pow]
  omega

@[simp] theorem mkFI_0_13 (op : BitVec 8) (pm : BitVec 2) (t0 : BitVec 9) (imm : BitVec 13) :
    (mkFI op pm t0 imm).extractLsb' 0 13 = imm := by
  apply BitVec.eq_of_toNat_eq
  have := op.isLt
  have := pm.isLt
  have := t0.isLt
  have := imm.isLt
  simp only [mkFI_toNat, BitVec.extractLsb'_toNat, Nat.shiftRight_eq_div_pow]
  omega

@[simp] theorem mkFI_6_7 (op : BitVec 8) (pm : BitVec 2) (t0 : BitVec 9) (imm : BitVec 13) :
    (mkFI op pm t0 imm).extractLsb' 6 7 = imm.extractLsb' 6 7 := by
  apply BitVec.eq_of_toNat_eq
  have := op.isLt
  have := pm.isLt
  have := t0.isLt
  have := imm.isLt
  simp only [mkFI_toNat, BitVec.extractLsb'_toNat, Nat.shiftRight_eq_div_pow]
  omega

@[simp] theorem mkFI_0_6 (op : BitVec 8) (pm : BitVec 2) (t0 : BitVec 9) (imm : BitVec 13) :
    (mkFI op pm t0 imm).extractLsb' 0 6 = imm.extractLsb' 0 6 := by
  apply BitVec.eq_of_toNat_eq
  have := op.isLt
  have := pm.isLt
  have := t0.isLt
  have := imm.isLt
  simp only [mkFI_toNat, BitVec.extractLsb'_toNat, Nat.shiftRight_eq_div_pow]
  omega

@[simp] theorem mkFI_8_5 (op : BitVec 8) (pm : BitVec 2) (t0 : BitVec 9) (imm : BitVec 13) :
    (mkFI op pm t0 imm).extractLsb' 8 5 = imm.extractLsb' 8 5 := by
  apply BitVec.eq_of_toNat_eq
  have := op.isLt
  have := pm.isLt
  have := t0.isLt
  have := imm.isLt
  simp only [mkFI_toNat, BitVec.extractLsb'_toNat, Nat.shiftRight_eq_div_pow]
  omega

@[simp] theorem mkFI_6_2 (op : BitVec 8) (pm : BitVec 2) (t0 : BitVec 9) (imm : BitVec 13) :
    (mkFI op pm t0 imm).extractLsb' 6 2 = imm.extractLsb' 6 2 := by
  apply BitVec.eq_of_toNat_eq
  have := op.isLt
  have := pm.isLt
  have := t0.isLt
  have := imm.isLt
  simp only [mkFI_toNat, BitVec.extractLsb'_toNat, Nat.shiftRight_eq_div_pow]
  omega

@[simp] theorem mkFI_10_3 (op : BitVec 8) (pm : BitVec 2) (t0 : BitVec 9) (imm : BitVec 13) :
    (mkFI op pm t0 imm).extractLsb' 10 3 = imm.extractLsb' 10 3 := by
  apply BitVec.eq_of_toNat_eq
  have := op.isLt
  have := pm.isLt
  have := t0.isLt
  have := imm.isLt
  simp only [mkFI_toNat, BitVec.extractLsb'_toNat, Nat.shiftRight_eq_div_pow]
  omega

@[simp] theorem mkFI_0_10 (op : BitVec 8) (pm : BitVec 2) (t0 : BitVec 9) (imm : BitVec 13) :
    (mkFI op pm t0 imm).extractLsb' 0 10 = imm.extractLsb' 0 10 := by
  apply BitVec.eq_of_toNat_eq
  have := op.isLt
  have := pm.isLt
  have := t0.isLt
  have := imm.isLt
  simp only [mkFI_toNat, BitVec.extractLsb'_toNat, Nat.shiftRight_eq_div_pow]
  omega

@[simp] theorem mkFS_28_4 (op : BitVec 8) (pm : BitVec 2) (tm slot : BitVec 3) (blk : BitVec 12) (flags : BitVec 4) :
    (mkFS op pm tm slot blk flags).extractLsb' 28 4 = op.extractLsb' 4 4 := by
  apply BitVec.eq_of_toNat_eq
  have := op.isLt
  have := pm.isLt
  have := tm.isLt
  have := slot.isLt
  have := blk.isLt
  have := flags.isLt
  simp only [mkFS_toNat, BitVec.extractLsb'_toNat, Nat.shiftRight_eq_div_pow]
  omega

@[simp] theorem mkFS_24_4 (op : BitVec 8) (pm : BitVec 2) (tm slot : BitVec 3) (blk : BitVec 12) (flags : BitVec 4) :
    (mkFS op pm tm slot blk flags).extractLsb' 24 4 = op.extractLsb' 0 4 := by
  apply BitVec.eq_of_toNat_eq
  have := op.isLt
  have := pm.isLt
  have := tm.isLt
  have := slot.isLt
  have := blk.isLt
  have := flags.isLt
  simp only [mkFS_toNat, BitVec.extractLsb'_toNat, Nat.shiftRight_eq_div_pow]
  omega

@[simp] theorem mkFS_22_2 (op : BitVec 8) (pm : BitVec 2) (tm slot : BitVec 3) (blk : BitVec 12) (flags : BitVec 4) :
    (mkFS op pm tm slot blk flags).extractLsb' 22 2 = pm := by
  apply BitVec.eq_of_toNat_eq
  have := op.isLt
  have := pm.isLt
  have := tm.isLt
  have := slot.isLt
  have := blk.isLt
  have := flags.isLt
  simp only [mkFS_toNat, BitVec.extractLsb'_toNat, Nat.shiftRight_eq_div_pow]
  omega

@[simp] theorem mkFS_19_3 (op : BitVec 8) (pm : BitVec 2) (tm slot : BitVec 3) (blk : BitVec 12) (flags : BitVec 4) :
    (mkFS op pm tm slot blk flags).extractLsb' 19 3 = tm := by
  apply BitVec.eq_of_toNat_eq
  have := op.isLt
  have := pm.isLt
  have := tm.isLt
  have := slot.isLt
  have := blk.isLt
  have := flags.isLt
  simp only [mkFS_toNat, BitVec.extractLsb'_toNat, Nat.shiftRight_eq_div_pow]
  omega

@[simp] theorem mkFS_16_3 (op : BitVec 8) (pm : BitVec 2) (tm slot : BitVec 3) (blk : BitVec 12) (flags : BitVec 4) :
    (mkFS op pm tm slot blk flags).extractLsb' 16 3 = slot := by
  apply BitVec.eq_of_toNat_eq
  have := op.isLt
  have := pm.isLt
  have := tm.isLt
  have := slot.isLt
  have := blk.isLt
  have := flags.isLt
  simp only [mkFS_toNat, BitVec.extractLsb'_toNat, Nat.shiftRight_eq_div_pow]
  omega

@[simp] theorem mkFS_4_12 (op : BitVec 8) (pm : BitVec 2) (tm slot : BitVec 3) (blk : BitVec 12) (flags : BitVec 4) :
    (mkFS op pm tm slot blk flags).extractLsb' 4 12 = blk := by
  apply BitVec.eq_of_toNat_eq
  have := op.isLt
  have := pm.isLt
  have := tm.isLt
  have := slot.isLt
  have := blk.isLt
  have := flags.isLt
  simp only [mkFS_toNat, BitVec.extractLsb'_toNat, Nat.shiftRight_eq_div_pow]
  omega

@[simp] theorem mkFS_1_3 (op : BitVec 8) (pm : BitVec 2) (tm slot : BitVec 3) (blk : BitVec 12) (flags : BitVec 4) :
    (mkFS op pm tm slot blk flags).extractLsb' 1 3 = flags.extractLsb' 1 3 := by
  apply BitVec.eq_of_toNat_eq
  have := op.isLt
  have := pm.isLt
  have := tm.isLt
  have := slot.isLt
  have := blk.isLt
  have := flags.isLt
  simp only [mkFS_toNat, BitVec.extractLsb'_toNat, Nat.shiftRight_eq_div_pow]
  omega

@[simp] theorem mkFS_0_1 (op : BitVec 8) (pm : BitVec 2) (tm slot : BitVec 3) (blk : BitVec 12) (flags : BitVec 4) :
    (mkFS op pm tm slot blk flags).extractLsb' 0 1 = flags.extractLsb' 0 1 := by
  apply BitVec.eq_of_toNat_eq
  have := op.isLt
  have := pm.isLt
  have := tm.isLt
  have := slot.isLt
  have := blk.isLt
  have := flags.isLt
  simp only [mkFS_toNat, BitVec.extractLsb'_toNat, Nat.shiftRight_eq_div_pow]
  omega

@[simp] theorem mkFS_0_4 (op : BitVec 8) (pm : BitVec 2) (tm slot : BitVec 3) (blk : BitVec 12) (flags : BitVec 4) :
    (mkFS op pm tm slot blk flags).extractLsb' 0 4 = flags := by
  apply BitVec.eq_of_toNat_eq
  have := op.isLt
  have := pm.isLt
  have := tm.isLt
  have := slot.isLt
  have := blk.isLt
  have := flags.isLt
  simp only [mkFS_toNat, BitVec.extractLsb'_toNat, Nat.shiftRight_eq_div_pow]
  omega

@[simp] theorem mkFX_28_4 (op : BitVec 8) (pm : BitVec 2) (code : BitVec 13) (t0 : BitVec 9) :
    (mkFX op pm code t0).extractLsb' 28 4 = op.extractLsb' 4 4 := by
  apply BitVec.eq_of_toNat_eq
  have := op.isLt
  have := pm.isLt
  have := code.isLt
  have := t0.isLt
  simp only [mkFX_toNat, BitVec.extractLsb'_toNat, Nat.shiftRight_eq_div_pow]
  omega

@[simp] theorem mkFX_24_4 (op : BitVec 8) (pm : BitVec 2) (code : BitVec 13) (t0 : BitVec 9) :
    (mkFX op pm code t0).extractLsb' 24 4 = op.extractLsb' 0 4 := by
  apply BitVec.eq_of_toNat_eq
  have := op.isLt
  have := pm.isLt
  have := code.isLt
  have := t0.isLt
  simp only [mkFX_toNat, BitVec.extractLsb'_toNat, Nat.shiftRight_eq_div_pow]
  omega

@[simp] theorem mkFX_24_2 (op : BitVec 8) (pm : BitVec 2) (code : BitVec 13) (t0 : BitVec 9) :
    (mkFX op pm code t0).extractLsb' 24 2 = op.extractLsb' 0 2 := by
  apply BitVec.eq_of_toNat_eq
  have := op.isLt
  have := pm.isLt
  have := code.isLt
  have := t0.isLt
  simp only [mkFX_toNat, BitVec.extractLsb'_toNat, Nat.shiftRight_eq_div_pow]
  omega

@[simp] theorem mkFX_22_2 (op : BitVec 8) (pm : BitVec 2) (code : BitVec 13) (t0 : BitVec 9) :
    (mkFX op pm code t0).extractLsb' 22 2 = pm := by
  apply BitVec.eq_of_toNat_eq
  have := op.isLt
  have := pm.isLt
  have := code.isLt
  have := t0.isLt
  simp only [mkFX_toNat, BitVec.extractLsb'_toNat, Nat.shiftRight_eq_div_pow]
  omega

@[simp] theorem mkFX_9_13 (op : BitVec 8) (pm : BitVec 2) (code : BitVec 13) (t0 : BitVec 9) :
    (mkFX op pm code t0).extractLsb' 9 13 = code := by
  apply BitVec.eq_of_toNat_eq
  have := op.isLt
  have := pm.isLt
  have := code.isLt
  have := t0.isLt
  simp only [mkFX_toNat, BitVec.extractLsb'_toNat, Nat.shiftRight_eq_div_pow]
  omega

@[simp] theorem mkFX_0_9 (op : BitVec 8) (pm : BitVec 2) (code : BitVec 13) (t0 : BitVec 9) :
    (mkFX op pm code t0).extractLsb' 0 9 = t0 := by
  apply BitVec.eq_of_toNat_eq
  have := op.isLt
  have := pm.isLt
  have := code.isLt
  have := t0.isLt
  simp only [mkFX_toNat, BitVec.extractLsb'_toNat, Nat.shiftRight_eq_div_pow]
  omega

@[simp] theorem mkFX_15_6 (op : BitVec 8) (pm : BitVec 2) (code : BitVec 13) (t0 : BitVec 9) :
    (mkFX op pm code t0).extractLsb' 15 6 = code.extractLsb' 6 6 := by
  apply BitVec.eq_of_toNat_eq
  have := op.isLt
  have := pm.isLt
  have := code.isLt
  have := t0.isLt
  simp only [mkFX_toNat, BitVec.extractLsb'_toNat, Nat.shiftRight_eq_div_pow]
  omega

@[simp] theorem mkFX_9_6 (op : BitVec 8) (pm : BitVec 2) (code : BitVec 13) (t0 : BitVec 9) :
    (mkFX op pm code t0).extractLsb' 9 6 = code.extractLsb' 0 6 := by
  apply BitVec.eq_of_toNat_eq
  have := op.isLt
  have := pm.isLt
  have := code.isLt
  have := t0.isLt
  simp only [mkFX_toNat, BitVec.extractLsb'_toNat, Nat.shiftRight_eq_div_pow]
  omega

@[simp] theorem mkFX_21_1 (op : BitVec 8) (pm : BitVec 2) (code : BitVec 13) (t0 : BitVec 9) :
    (mkFX op pm code t0).extractLsb' 21 1 = code.extractLsb' 12 1 := by
  apply BitVec.eq_of_toNat_eq
  have := op.isLt
  have := pm.isLt
  have := code.isLt
  have := t0.isLt
  simp only [mkFX_toNat, BitVec.extractLsb'_toNat, Nat.shiftRight_eq_div_pow]
  omega

@[simp] theorem mkFS_4_18 (op : BitVec 8) (pm : BitVec 2) (flags : BitVec 4) :
    (mkFS op pm 0#3 0#3 0#12 flags).extractLsb' 4 18 = 0#18 := by
  apply BitVec.eq_of_toNat_eq
  have := op.isLt
  have := pm.isLt
  have := flags.isLt
  simp only [mkFS_toNat, BitVec.extractLsb'_toNat, BitVec.toNat_ofNat, Nat.shiftRight_eq_div_pow]
  omega


/-! ### Fields made of parts -/

@[simp] theorem part_hi_2_2 (a : BitVec 2) (b : BitVec 2) : (a ++ b : BitVec 4).extractLsb' 2 2 = a := extract_hi a b
@[simp] theorem part_lo_2_2 (a : BitVec 2) (b : BitVec 2) : (a ++ b : BitVec 4).extractLsb' 0 2 = b := extract_lo a b
@[simp] theorem part_hi_3_1 (a : BitVec 3) (b : BitVec 1) : (a ++ b : BitVec 4).extractLsb' 1 3 = a := extract_hi a b
@[simp] theorem part_lo_3_1 (a : BitVec 3) (b : BitVec 1) : (a ++ b : BitVec 4).extractLsb' 0 1 = b := extract_lo a b
@[simp] theorem part_hi_1_3 (a : BitVec 1) (b : BitVec 3) : (a ++ b : BitVec 4).extractLsb' 3 1 = a := extract_hi a b
@[simp] theorem part_lo_1_3 (a : BitVec 1) (b : BitVec 3) : (a ++ b : BitVec 4).extractLsb' 0 3 = b := extract_lo a b
@[simp] theorem part_hi_7_6 (a : BitVec 7) (b : BitVec 6) : (a ++ b : BitVec 13).extractLsb' 6 7 = a := extract_hi a b
@[simp] theorem part_lo_7_6 (a : BitVec 7) (b : BitVec 6) : (a ++ b : BitVec 13).extractLsb' 0 6 = b := extract_lo a b
@[simp] theorem part_hi_3_10 (a : BitVec 3) (b : BitVec 10) : (a ++ b : BitVec 13).extractLsb' 10 3 = a := extract_hi a b
@[simp] theorem part_lo_3_10 (a : BitVec 3) (b : BitVec 10) : (a ++ b : BitVec 13).extractLsb' 0 10 = b := extract_lo a b

theorem extract_mid {a b c : Nat} (x : BitVec a) (y : BitVec b) (z : BitVec c) :
    (x ++ (y ++ z)).extractLsb' c b = y := by
  apply BitVec.eq_of_getLsbD_eq
  intro i hi
  rw [BitVec.getLsbD_extractLsb', BitVec.getLsbD_append, BitVec.getLsbD_append]
  have h1 : c + i < b + c := by omega
  simp [hi, h1]

theorem extract_last {a b c : Nat} (x : BitVec a) (y : BitVec b) (z : BitVec c) :
    (x ++ (y ++ z)).extractLsb' 0 c = z := by
  apply BitVec.eq_of_getLsbD_eq
  intro i hi
  rw [BitVec.getLsbD_extractLsb', BitVec.getLsbD_append, BitVec.getLsbD_append]
  rw [if_pos (by omega : 0 + i < b + c), if_pos (by omega : 0 + i < c)]
  simp [hi]

@[simp] theorem part_shift_hi (a : BitVec 5) (w : BitVec 2) (n : BitVec 6) :
    (a ++ (w ++ n) : BitVec 13).extractLsb' 8 5 = a := extract_hi a (w ++ n)

@[simp] theorem part_shift_mid (a : BitVec 5) (w : BitVec 2) (n : BitVec 6) :
    (a ++ (w ++ n) : BitVec 13).extractLsb' 6 2 = w := extract_mid a w n

@[simp] theorem part_shift_lo (a : BitVec 5) (w : BitVec 2) (n : BitVec 6) :
    (a ++ (w ++ n) : BitVec 13).extractLsb' 0 6 = n := extract_last a w n

@[simp] theorem part_cvt_hi (s : BitVec 1) (d f : BitVec 6) :
    (s ++ (d ++ f) : BitVec 13).extractLsb' 12 1 = s := extract_hi s (d ++ f)

@[simp] theorem part_cvt_mid (s : BitVec 1) (d f : BitVec 6) :
    (s ++ (d ++ f) : BitVec 13).extractLsb' 6 6 = d := extract_mid s d f

@[simp] theorem part_cvt_lo (s : BitVec 1) (d f : BitVec 6) :
    (s ++ (d ++ f) : BitVec 13).extractLsb' 0 6 = f := extract_last s d f

@[simp] theorem mkOrd_5_4 (w : BitVec 1) (ord sc : BitVec 2) : (mkOrd w ord sc).extractLsb' 5 4 = 0#4 := by
  apply BitVec.eq_of_toNat_eq
  have := w.isLt
  have := ord.isLt
  have := sc.isLt
  simp only [mkOrd_toNat, BitVec.extractLsb'_toNat, BitVec.toNat_ofNat, Nat.shiftRight_eq_div_pow]
  omega

@[simp] theorem mkOrd_4_1 (w : BitVec 1) (ord sc : BitVec 2) : (mkOrd w ord sc).extractLsb' 4 1 = w := by
  apply BitVec.eq_of_toNat_eq
  have := w.isLt
  have := ord.isLt
  have := sc.isLt
  simp only [mkOrd_toNat, BitVec.extractLsb'_toNat, Nat.shiftRight_eq_div_pow]
  omega

@[simp] theorem mkOrd_2_2 (w : BitVec 1) (ord sc : BitVec 2) : (mkOrd w ord sc).extractLsb' 2 2 = ord := by
  apply BitVec.eq_of_toNat_eq
  have := w.isLt
  have := ord.isLt
  have := sc.isLt
  simp only [mkOrd_toNat, BitVec.extractLsb'_toNat, Nat.shiftRight_eq_div_pow]
  omega

@[simp] theorem mkOrd_0_2 (w : BitVec 1) (ord sc : BitVec 2) : (mkOrd w ord sc).extractLsb' 0 2 = sc := by
  apply BitVec.eq_of_toNat_eq
  have := w.isLt
  have := ord.isLt
  have := sc.isLt
  simp only [mkOrd_toNat, BitVec.extractLsb'_toNat, Nat.shiftRight_eq_div_pow]
  omega

@[simp] theorem mkOrd_4_5 (ord sc : BitVec 2) : (mkOrd 0#1 ord sc).extractLsb' 4 5 = 0#5 := by
  apply BitVec.eq_of_toNat_eq
  have := ord.isLt
  have := sc.isLt
  simp only [mkOrd_toNat, BitVec.extractLsb'_toNat, BitVec.toNat_ofNat, Nat.shiftRight_eq_div_pow]
  omega

@[simp] theorem mkOrd_3_1 (b : Bool) (sc : BitVec 2) : (mkOrd 0#1 (boolBits b ++ 0#1) sc).extractLsb' 3 1 = boolBits b := by
  apply BitVec.eq_of_toNat_eq
  have := sc.isLt
  cases b <;>
    (simp only [mkOrd_toNat, boolBits, BitVec.extractLsb'_toNat, BitVec.toNat_ofNat, Nat.shiftRight_eq_div_pow, BitVec.toNat_append]
     simp
     omega)

@[simp] theorem mkOrd_2_1 (b : Bool) (sc : BitVec 2) : (mkOrd 0#1 (boolBits b ++ 0#1) sc).extractLsb' 2 1 = 0#1 := by
  apply BitVec.eq_of_toNat_eq
  have := sc.isLt
  cases b <;>
    (simp only [mkOrd_toNat, boolBits, BitVec.extractLsb'_toNat, BitVec.toNat_ofNat, Nat.shiftRight_eq_div_pow, BitVec.toNat_append]
     simp
     omega)


end Sys2Proof
end

