-- ==== Sys2Proof/Laws/Integer.lean ====
section
/-! SUPPORT. The integer operations of the model against exact integers (R66). -/

namespace Sys2Proof.Machine

theorem bits_pos (t : Ity) : ∃ k, t.bits = k + 1 ∧ k < 64 := by
  cases t
  all_goals first | exact ⟨7, rfl, by decide⟩ | exact ⟨15, rfl, by decide⟩ | exact ⟨31, rfl, by decide⟩ | exact ⟨63, rfl, by decide⟩ | exact ⟨3, rfl, by decide⟩

theorem intVal_eq (t : Ity) (a : Word) : intVal t a = val t a := by
  obtain ⟨k, hk, -⟩ := bits_pos t
  unfold intVal val
  rw [BitVec.toInt_eq_toNat_cond, BitVec.toNat_setWidth, hk]
  have h2 : (2:Nat) ^ (k + 1) = 2 * 2 ^ k := by rw [pow_succ]; omega
  have h3 : ((2:Int) ^ (k + 1)) = ((2 ^ (k+1) : Nat) : Int) := by push_cast; rfl
  simp only [Nat.add_sub_cancel]
  generalize a.toNat % 2 ^ (k+1) = m
  rw [h3]
  cases t.signed
  · simp
  · simp only [Bool.true_and, decide_eq_true_eq, if_true]
    split <;> split <;> first | rfl | omega

theorem setWidth_ofInt (x : Int) (n : Nat) (hn : n ≤ 64) : (BitVec.ofInt 64 x).setWidth n = BitVec.ofInt n x := by
  apply BitVec.eq_of_toNat_eq
  rw [BitVec.toNat_setWidth, BitVec.toNat_ofInt, BitVec.toNat_ofInt]
  have hd : ((2 ^ n : Nat) : Int) ∣ ((2 ^ 64 : Nat) : Int) := by exact_mod_cast Nat.pow_dvd_pow 2 hn
  have h64 := Int.emod_nonneg x (b := ((2 ^ 64 : Nat) : Int)) (by decide)
  have := Int.emod_emod_of_dvd x hd
  have hn0 : ((2 ^ n : Nat) : Int) ≠ 0 := by positivity
  have hh := Int.emod_nonneg x hn0
  zify
  rw [Int.toNat_of_nonneg (by exact_mod_cast h64), Int.toNat_of_nonneg (by exact_mod_cast hh)]
  exact_mod_cast this

theorem extWrap_eq (t : Ity) (x : Int) : extWrap t x = ext t x := by
  obtain ⟨k, hk, hk2⟩ := bits_pos t
  unfold extWrap
  rw [intVal_eq]
  unfold val ext
  rw [setWidth_ofInt _ _ (by omega)]
  cases t.signed
  · simp only [Bool.false_eq_true, if_false]
    apply BitVec.eq_of_toNat_eq
    rw [BitVec.toNat_setWidth, BitVec.ofInt_natCast, BitVec.toNat_ofNat]
  · simp only [if_true]
    rfl

theorem minOf_eq (t : Ity) : minOf t = least t := by
  cases t <;> rfl
theorem maxOf_eq (t : Ity) : maxOf t = greatest t := by
  cases t <;> rfl

end Sys2Proof.Machine
end

