-- ==== Sys2Proof/Laws/Issue.lean ====
section
/-! SUPPORT. What an issued word does: the lane, value and effect operations under `Issued` and `OneLane`, said once, so that no
later proof unfolds them. -/

namespace Sys2Proof.Machine

theorem laneOp_issued {s : State} {fl : Flock} {j : Nat} (h : Issued s fl j) (pm : Pm) (t0 t1 : Target)
    (f : State → Flock → Nat → Lane → Cell → Val × Val) :
    laneOp pm t0 t1 f s = .next (s.executed fl j pm t0 t1 (f s fl j)) := by
  simp [laneOp, withFocus, h.1, h.2, State.executed]

theorem valueOp_issued {s : State} {fl : Flock} {j : Nat} (h : Issued s fl j) (pm : Pm) (r : Reads) (t0 t1 : Target)
    (g : Word → Word → Word → Bool → Word × Word) :
    valueOp pm r t0 t1 g s = .next (s.valued fl j pm r t0 t1 g) := laneOp_issued h pm t0 t1 _

/-- An effect word over the lanes of the flock that have still to issue it. -/
theorem effectOp_issued {s : State} {fl : Flock} {j : Nat} (h : Issued s fl j) (pm : Pm) (t0 t1 : Target)
    (f : State → Flock → Nat → Lane → Cell → State) :
    effectOp pm t0 t1 f s = .next ((fl.lanes.filter (Lane.activeAt j)).foldl (fun s ln =>
      match s.lane? ln.fid, ln.cells[j]? with
      | some ln, some k =>
        if performs pm k.p then f s fl j ln k
        else s.updLane ln.fid fun l => l.complete j false t0 t1 Val.zero Val.zero
      | _, _ => s) s) := by
  simp only [effectOp, withFocus, h.1, h.2]
  all_goals rfl

theorem effectOp_oneLane {s : State} {fl : Flock} {j : Nat} {ln : Lane} {k : Cell} {pm : Pm} (h : OneLane s fl j ln k pm)
    (t0 t1 : Target) (f : State → Flock → Nat → Lane → Cell → State) :
    effectOp pm t0 t1 f s = .next (f s fl j ln k) := by
  obtain ⟨hi, hf, hl, hk, hp⟩ := h
  rw [effectOp_issued hi, hf]
  simp [hl, hk, hp]

/-- The one lane that does not perform its effect is only counted (R28). -/
theorem effectOp_notPerformed {s : State} {fl : Flock} {j : Nat} {ln : Lane} {k : Cell} {pm : Pm} (hi : Issued s fl j)
    (hf : fl.lanes.filter (Lane.activeAt j) = [ln]) (hl : s.lane? ln.fid = some ln) (hk : ln.cells[j]? = some k)
    (hp : performs pm k.p = false) (t0 t1 : Target) (f : State → Flock → Nat → Lane → Cell → State) :
    effectOp pm t0 t1 f s = .next (s.updLane ln.fid fun l => l.complete j false t0 t1 Val.zero Val.zero) := by
  rw [effectOp_issued hi, hf]
  simp [hl, hk, hp]

/-- A send in one lane: it executes where its check passes, else its lane faults (R36, R137). -/
theorem sendOp_oneLane {s : State} {fl : Flock} {j : Nat} {ln : Lane} {k : Cell} {pm : Pm} {c : Ctx} (h : OneLane s fl j ln k pm)
    (hc : s.ctx? fl.ctx = some c) (i : Instr) :
    sendOp i pm s = .next (match s.emits c (senderOf fl ln) i k with
      | .ok _ => s.completeLane ln.fid j .none .none Val.zero Val.zero
      | .error (code, d) => s.faultLane ln.fid j code d) := by
  rw [sendOp, effectOp_oneLane h]
  simp only [hc]
  all_goals cases s.emits c (senderOf fl ln) i k <;> rfl

/-- A memory word through a cursor in one lane: an early value, else an access that seeks its record (R33, R240). -/
theorem cursorOp_oneLane {s : State} {fl : Flock} {j : Nat} {ln : Lane} {k : Cell} {pm : Pm} (h : OneLane s fl j ln k pm)
    (i : Instr) (early : Cell → Option Val) :
    cursorOp i pm early s = .next (match early k with
      | some v => s.deliverNow ln j i v
      | none => (s.newAccess i .hbm .walking fl j ln k).1.seek (s.newAccess i .hbm .walking fl j ln k).2) := by
  rw [cursorOp, effectOp_oneLane h]
  all_goals cases early k <;> rfl

/-- An engine word in one lane: a void-marked latch submits nothing, else the submission (R305, R306). -/
theorem engineOp_oneLane {s : State} {fl : Flock} {j : Nat} {ln : Lane} {k : Cell} {pm : Pm} (h : OneLane s fl j ln k pm) (i : Instr) :
    engineOp i pm s = .next (if k.a.void || k.b.void then s.deliverNow ln j i { bits := 1, void := true }
      else (s.newAccess i .scratch .ready fl j ln k).1.submit (s.newAccess i .scratch .ready fl j ln k).2) := by
  rw [engineOp, effectOp_oneLane h]

end Sys2Proof.Machine
end

