-- ==== Sys2Proof/Laws/State.lean ====
section
/-! SUPPORT. One lemma per field per update of State: what `updCore`, `updCtx`, `updFlock`, `updLane` and `wr` leave, so that no
proof unfolds a record update. -/

namespace Sys2Proof.Machine

@[simp] theorem State.updCore_agenda (s : State) (c : Nat) (f : Core → Core) : (s.updCore c f).agenda = s.agenda := rfl
@[simp] theorem State.updCore_freeCount (s : State) (c : Nat) (f : Core → Core) : (s.updCore c f).freeCount = s.freeCount := rfl
@[simp] theorem State.updCore_focus (s : State) (c : Nat) (f : Core → Core) : (s.updCore c f).focus = s.focus := rfl
@[simp] theorem State.updCore_cycle (s : State) (c : Nat) (f : Core → Core) : (s.updCore c f).cycle = s.cycle := rfl
@[simp] theorem State.updCore_tick (s : State) (c : Nat) (f : Core → Core) : (s.updCore c f).tick = s.tick := rfl
@[simp] theorem State.updCore_tickFrac (s : State) (c : Nat) (f : Core → Core) : (s.updCore c f).tickFrac = s.tickFrac := rfl
@[simp] theorem State.updCore_slew (s : State) (c : Nat) (f : Core → Core) : (s.updCore c f).slew = s.slew := rfl
@[simp] theorem State.updCore_mem (s : State) (c : Nat) (f : Core → Core) : (s.updCore c f).mem = s.mem := rfl
@[simp] theorem State.updCore_fold (s : State) (c : Nat) (f : Core → Core) : (s.updCore c f).fold = s.fold := rfl
@[simp] theorem State.updCore_eldest (s : State) (c : Nat) (f : Core → Core) : (s.updCore c f).eldest = s.eldest := rfl
@[simp] theorem State.updCore_ready (s : State) (c : Nat) (f : Core → Core) : (s.updCore c f).ready = s.ready := rfl
@[simp] theorem State.updCore_pens (s : State) (c : Nat) (f : Core → Core) : (s.updCore c f).pens = s.pens := rfl
@[simp] theorem State.updCore_resumed (s : State) (c : Nat) (f : Core → Core) : (s.updCore c f).resumed = s.resumed := rfl
@[simp] theorem State.updCore_flocks (s : State) (c : Nat) (f : Core → Core) : (s.updCore c f).flocks = s.flocks := rfl
@[simp] theorem State.updCore_accesses (s : State) (c : Nat) (f : Core → Core) : (s.updCore c f).accesses = s.accesses := rfl
@[simp] theorem State.updCore_transit (s : State) (c : Nat) (f : Core → Core) : (s.updCore c f).transit = s.transit := rfl
@[simp] theorem State.updCore_held (s : State) (c : Nat) (f : Core → Core) : (s.updCore c f).held = s.held := rfl
@[simp] theorem State.updCore_owed (s : State) (c : Nat) (f : Core → Core) : (s.updCore c f).owed = s.owed := rfl
@[simp] theorem State.updCore_paid (s : State) (c : Nat) (f : Core → Core) : (s.updCore c f).paid = s.paid := rfl
@[simp] theorem State.updCore_asking (s : State) (c : Nat) (f : Core → Core) : (s.updCore c f).asking = s.asking := rfl
@[simp] theorem State.updCore_outbox (s : State) (c : Nat) (f : Core → Core) : (s.updCore c f).outbox = s.outbox := rfl
@[simp] theorem State.updCore_gangCores (s : State) (c : Nat) (f : Core → Core) : (s.updCore c f).gangCores = s.gangCores := rfl
@[simp] theorem State.updCore_notices (s : State) (c : Nat) (f : Core → Core) : (s.updCore c f).notices = s.notices := rfl
@[simp] theorem State.updCore_acks (s : State) (c : Nat) (f : Core → Core) : (s.updCore c f).acks = s.acks := rfl
@[simp] theorem State.updCore_acts (s : State) (c : Nat) (f : Core → Core) : (s.updCore c f).acts = s.acts := rfl
@[simp] theorem State.updCore_filters (s : State) (c : Nat) (f : Core → Core) : (s.updCore c f).filters = s.filters := rfl
@[simp] theorem State.updCore_ctxs (s : State) (c : Nat) (f : Core → Core) : (s.updCore c f).ctxs = s.ctxs := rfl
@[simp] theorem State.updCore_queues (s : State) (c : Nat) (f : Core → Core) : (s.updCore c f).queues = s.queues := rfl
@[simp] theorem State.updCore_refused (s : State) (c : Nat) (f : Core → Core) : (s.updCore c f).refused = s.refused := rfl
@[simp] theorem State.updCore_admitted (s : State) (c : Nat) (f : Core → Core) : (s.updCore c f).admitted = s.admitted := rfl
@[simp] theorem State.updCore_kept (s : State) (c : Nat) (f : Core → Core) : (s.updCore c f).kept = s.kept := rfl
@[simp] theorem State.updCore_spawns (s : State) (c : Nat) (f : Core → Core) : (s.updCore c f).spawns = s.spawns := rfl
@[simp] theorem State.updCore_answers (s : State) (c : Nat) (f : Core → Core) : (s.updCore c f).answers = s.answers := rfl
@[simp] theorem State.updCore_hresSubs (s : State) (c : Nat) (f : Core → Core) : (s.updCore c f).hresSubs = s.hresSubs := rfl
@[simp] theorem State.updCore_handlerQ (s : State) (c : Nat) (f : Core → Core) : (s.updCore c f).handlerQ = s.handlerQ := rfl
@[simp] theorem State.updCore_pinHeld (s : State) (c : Nat) (f : Core → Core) : (s.updCore c f).pinHeld = s.pinHeld := rfl
@[simp] theorem State.updCore_pinext (s : State) (c : Nat) (f : Core → Core) : (s.updCore c f).pinext = s.pinext := rfl
@[simp] theorem State.updCore_orc (s : State) (c : Nat) (f : Core → Core) : (s.updCore c f).orc = s.orc := rfl
@[simp] theorem State.updCore_orcClock (s : State) (c : Nat) (f : Core → Core) : (s.updCore c f).orcClock = s.orcClock := rfl
@[simp] theorem State.updCore_resWords (s : State) (c : Nat) (f : Core → Core) : (s.updCore c f).resWords = s.resWords := rfl
@[simp] theorem State.updCore_l1 (s : State) (c : Nat) (f : Core → Core) : (s.updCore c f).l1 = s.l1 := rfl
@[simp] theorem State.updCore_bridge (s : State) (c : Nat) (f : Core → Core) : (s.updCore c f).bridge = s.bridge := rfl
@[simp] theorem State.updCore_remoteOut (s : State) (c : Nat) (f : Core → Core) : (s.updCore c f).remoteOut = s.remoteOut := rfl
@[simp] theorem State.updCore_reqSeq (s : State) (c : Nat) (f : Core → Core) : (s.updCore c f).reqSeq = s.reqSeq := rfl
@[simp] theorem State.updCore_errors (s : State) (c : Nat) (f : Core → Core) : (s.updCore c f).errors = s.errors := rfl
@[simp] theorem State.updCore_targets (s : State) (c : Nat) (f : Core → Core) : (s.updCore c f).targets = s.targets := rfl
@[simp] theorem State.updCore_arrivals (s : State) (c : Nat) (f : Core → Core) : (s.updCore c f).arrivals = s.arrivals := rfl
@[simp] theorem State.updCore_waiters (s : State) (c : Nat) (f : Core → Core) : (s.updCore c f).waiters = s.waiters := rfl
@[simp] theorem State.updCore_fetches (s : State) (c : Nat) (f : Core → Core) : (s.updCore c f).fetches = s.fetches := rfl
@[simp] theorem State.updCore_hostWrites (s : State) (c : Nat) (f : Core → Core) : (s.updCore c f).hostWrites = s.hostWrites := rfl
@[simp] theorem State.updCore_cmds (s : State) (c : Nat) (f : Core → Core) : (s.updCore c f).cmds = s.cmds := rfl
@[simp] theorem State.updCore_cmdSeq (s : State) (c : Nat) (f : Core → Core) : (s.updCore c f).cmdSeq = s.cmdSeq := rfl
@[simp] theorem State.updCore_banks (s : State) (c : Nat) (f : Core → Core) : (s.updCore c f).banks = s.banks := rfl
@[simp] theorem State.updCore_lkSlots (s : State) (c : Nat) (f : Core → Core) : (s.updCore c f).lkSlots = s.lkSlots := rfl
@[simp] theorem State.updCore_lkClaims (s : State) (c : Nat) (f : Core → Core) : (s.updCore c f).lkClaims = s.lkClaims := rfl
@[simp] theorem State.updCore_buffers (s : State) (c : Nat) (f : Core → Core) : (s.updCore c f).buffers = s.buffers := rfl
@[simp] theorem State.updCore_otpool (s : State) (c : Nat) (f : Core → Core) : (s.updCore c f).otpool = s.otpool := rfl
@[simp] theorem State.updCore_otBadw (s : State) (c : Nat) (f : Core → Core) : (s.updCore c f).otBadw = s.otBadw := rfl
@[simp] theorem State.updCore_otOvf (s : State) (c : Nat) (f : Core → Core) : (s.updCore c f).otOvf = s.otOvf := rfl
@[simp] theorem State.updCore_otSeq (s : State) (c : Nat) (f : Core → Core) : (s.updCore c f).otSeq = s.otSeq := rfl
@[simp] theorem State.updCore_otq (s : State) (c : Nat) (f : Core → Core) : (s.updCore c f).otq = s.otq := rfl
@[simp] theorem State.updCore_unpublished (s : State) (c : Nat) (f : Core → Core) : (s.updCore c f).unpublished = s.unpublished := rfl
@[simp] theorem State.updCore_ownShoots (s : State) (c : Nat) (f : Core → Core) : (s.updCore c f).ownShoots = s.ownShoots := rfl
@[simp] theorem State.updCore_savepool (s : State) (c : Nat) (f : Core → Core) : (s.updCore c f).savepool = s.savepool := rfl
@[simp] theorem State.updCore_saveBadw (s : State) (c : Nat) (f : Core → Core) : (s.updCore c f).saveBadw = s.saveBadw := rfl
@[simp] theorem State.updCore_saveCarve (s : State) (c : Nat) (f : Core → Core) : (s.updCore c f).saveCarve = s.saveCarve := rfl
@[simp] theorem State.updCore_defseed (s : State) (c : Nat) (f : Core → Core) : (s.updCore c f).defseed = s.defseed := rfl
@[simp] theorem State.updCore_seedWas (s : State) (c : Nat) (f : Core → Core) : (s.updCore c f).seedWas = s.seedWas := rfl
@[simp] theorem State.updCore_pwrcap (s : State) (c : Nat) (f : Core → Core) : (s.updCore c f).pwrcap = s.pwrcap := rfl
@[simp] theorem State.updCore_alarm (s : State) (c : Nat) (f : Core → Core) : (s.updCore c f).alarm = s.alarm := rfl
@[simp] theorem State.updCore_hotLayer (s : State) (c : Nat) (f : Core → Core) : (s.updCore c f).hotLayer = s.hotLayer := rfl
@[simp] theorem State.updCore_arbiterAt (s : State) (c : Nat) (f : Core → Core) : (s.updCore c f).arbiterAt = s.arbiterAt := rfl
@[simp] theorem State.updCore_watts (s : State) (c : Nat) (f : Core → Core) : (s.updCore c f).watts = s.watts := rfl
@[simp] theorem State.updCore_fwSvn (s : State) (c : Nat) (f : Core → Core) : (s.updCore c f).fwSvn = s.fwSvn := rfl
@[simp] theorem State.updCore_fwState (s : State) (c : Nat) (f : Core → Core) : (s.updCore c f).fwState = s.fwState := rfl
@[simp] theorem State.updCore_fwSlot (s : State) (c : Nat) (f : Core → Core) : (s.updCore c f).fwSlot = s.fwSlot := rfl
@[simp] theorem State.updCore_fwLasterr (s : State) (c : Nat) (f : Core → Core) : (s.updCore c f).fwLasterr = s.fwLasterr := rfl
@[simp] theorem State.updCore_fwCmd (s : State) (c : Nat) (f : Core → Core) : (s.updCore c f).fwCmd = s.fwCmd := rfl
@[simp] theorem State.updCore_fwOther (s : State) (c : Nat) (f : Core → Core) : (s.updCore c f).fwOther = s.fwOther := rfl
@[simp] theorem State.updCore_fwImage (s : State) (c : Nat) (f : Core → Core) : (s.updCore c f).fwImage = s.fwImage := rfl
@[simp] theorem State.updCore_fwCount (s : State) (c : Nat) (f : Core → Core) : (s.updCore c f).fwCount = s.fwCount := rfl
@[simp] theorem State.updCore_pkgid (s : State) (c : Nat) (f : Core → Core) : (s.updCore c f).pkgid = s.pkgid := rfl
@[simp] theorem State.updCore_peerwin (s : State) (c : Nat) (f : Core → Core) : (s.updCore c f).peerwin = s.peerwin := rfl
@[simp] theorem State.updCore_noroute (s : State) (c : Nat) (f : Core → Core) : (s.updCore c f).noroute = s.noroute := rfl
@[simp] theorem State.updCore_routes (s : State) (c : Nat) (f : Core → Core) : (s.updCore c f).routes = s.routes := rfl
@[simp] theorem State.updCore_sync (s : State) (c : Nat) (f : Core → Core) : (s.updCore c f).sync = s.sync := rfl
@[simp] theorem State.updCore_root (s : State) (c : Nat) (f : Core → Core) : (s.updCore c f).root = s.root := rfl
@[simp] theorem State.updCore_rootPort (s : State) (c : Nat) (f : Core → Core) : (s.updCore c f).rootPort = s.rootPort := rfl
@[simp] theorem State.updCore_offset (s : State) (c : Nat) (f : Core → Core) : (s.updCore c f).offset = s.offset := rfl
@[simp] theorem State.updCore_lastTime (s : State) (c : Nat) (f : Core → Core) : (s.updCore c f).lastTime = s.lastTime := rfl
@[simp] theorem State.updCore_isOpen (s : State) (c : Nat) (f : Core → Core) : (s.updCore c f).isOpen = s.isOpen := rfl
@[simp] theorem State.updCore_broughtUp (s : State) (c : Nat) (f : Core → Core) : (s.updCore c f).broughtUp = s.broughtUp := rfl
@[simp] theorem State.updCore_ports (s : State) (c : Nat) (f : Core → Core) : (s.updCore c f).ports = s.ports := rfl
@[simp] theorem State.updCore_dies (s : State) (c : Nat) (f : Core → Core) : (s.updCore c f).dies = s.dies := rfl
@[simp] theorem State.updCore_memStacks (s : State) (c : Nat) (f : Core → Core) : (s.updCore c f).memStacks = s.memStacks := rfl
@[simp] theorem State.updCore_hostOut (s : State) (c : Nat) (f : Core → Core) : (s.updCore c f).hostOut = s.hostOut := rfl
@[simp] theorem State.updCore_netOut (s : State) (c : Nat) (f : Core → Core) : (s.updCore c f).netOut = s.netOut := rfl

@[simp] theorem State.updCtx_agenda (s : State) (x : Nat) (f : Ctx → Ctx) : (s.updCtx x f).agenda = s.agenda := rfl
@[simp] theorem State.updCtx_freeCount (s : State) (x : Nat) (f : Ctx → Ctx) : (s.updCtx x f).freeCount = s.freeCount := rfl
@[simp] theorem State.updCtx_focus (s : State) (x : Nat) (f : Ctx → Ctx) : (s.updCtx x f).focus = s.focus := rfl
@[simp] theorem State.updCtx_cycle (s : State) (x : Nat) (f : Ctx → Ctx) : (s.updCtx x f).cycle = s.cycle := rfl
@[simp] theorem State.updCtx_tick (s : State) (x : Nat) (f : Ctx → Ctx) : (s.updCtx x f).tick = s.tick := rfl
@[simp] theorem State.updCtx_tickFrac (s : State) (x : Nat) (f : Ctx → Ctx) : (s.updCtx x f).tickFrac = s.tickFrac := rfl
@[simp] theorem State.updCtx_slew (s : State) (x : Nat) (f : Ctx → Ctx) : (s.updCtx x f).slew = s.slew := rfl
@[simp] theorem State.updCtx_mem (s : State) (x : Nat) (f : Ctx → Ctx) : (s.updCtx x f).mem = s.mem := rfl
@[simp] theorem State.updCtx_cores (s : State) (x : Nat) (f : Ctx → Ctx) : (s.updCtx x f).cores = s.cores := rfl
@[simp] theorem State.updCtx_fold (s : State) (x : Nat) (f : Ctx → Ctx) : (s.updCtx x f).fold = s.fold := rfl
@[simp] theorem State.updCtx_eldest (s : State) (x : Nat) (f : Ctx → Ctx) : (s.updCtx x f).eldest = s.eldest := rfl
@[simp] theorem State.updCtx_ready (s : State) (x : Nat) (f : Ctx → Ctx) : (s.updCtx x f).ready = s.ready := rfl
@[simp] theorem State.updCtx_pens (s : State) (x : Nat) (f : Ctx → Ctx) : (s.updCtx x f).pens = s.pens := rfl
@[simp] theorem State.updCtx_resumed (s : State) (x : Nat) (f : Ctx → Ctx) : (s.updCtx x f).resumed = s.resumed := rfl
@[simp] theorem State.updCtx_flocks (s : State) (x : Nat) (f : Ctx → Ctx) : (s.updCtx x f).flocks = s.flocks := rfl
@[simp] theorem State.updCtx_accesses (s : State) (x : Nat) (f : Ctx → Ctx) : (s.updCtx x f).accesses = s.accesses := rfl
@[simp] theorem State.updCtx_transit (s : State) (x : Nat) (f : Ctx → Ctx) : (s.updCtx x f).transit = s.transit := rfl
@[simp] theorem State.updCtx_held (s : State) (x : Nat) (f : Ctx → Ctx) : (s.updCtx x f).held = s.held := rfl
@[simp] theorem State.updCtx_owed (s : State) (x : Nat) (f : Ctx → Ctx) : (s.updCtx x f).owed = s.owed := rfl
@[simp] theorem State.updCtx_paid (s : State) (x : Nat) (f : Ctx → Ctx) : (s.updCtx x f).paid = s.paid := rfl
@[simp] theorem State.updCtx_asking (s : State) (x : Nat) (f : Ctx → Ctx) : (s.updCtx x f).asking = s.asking := rfl
@[simp] theorem State.updCtx_outbox (s : State) (x : Nat) (f : Ctx → Ctx) : (s.updCtx x f).outbox = s.outbox := rfl
@[simp] theorem State.updCtx_gangCores (s : State) (x : Nat) (f : Ctx → Ctx) : (s.updCtx x f).gangCores = s.gangCores := rfl
@[simp] theorem State.updCtx_notices (s : State) (x : Nat) (f : Ctx → Ctx) : (s.updCtx x f).notices = s.notices := rfl
@[simp] theorem State.updCtx_acks (s : State) (x : Nat) (f : Ctx → Ctx) : (s.updCtx x f).acks = s.acks := rfl
@[simp] theorem State.updCtx_acts (s : State) (x : Nat) (f : Ctx → Ctx) : (s.updCtx x f).acts = s.acts := rfl
@[simp] theorem State.updCtx_filters (s : State) (x : Nat) (f : Ctx → Ctx) : (s.updCtx x f).filters = s.filters := rfl
@[simp] theorem State.updCtx_queues (s : State) (x : Nat) (f : Ctx → Ctx) : (s.updCtx x f).queues = s.queues := rfl
@[simp] theorem State.updCtx_refused (s : State) (x : Nat) (f : Ctx → Ctx) : (s.updCtx x f).refused = s.refused := rfl
@[simp] theorem State.updCtx_admitted (s : State) (x : Nat) (f : Ctx → Ctx) : (s.updCtx x f).admitted = s.admitted := rfl
@[simp] theorem State.updCtx_kept (s : State) (x : Nat) (f : Ctx → Ctx) : (s.updCtx x f).kept = s.kept := rfl
@[simp] theorem State.updCtx_spawns (s : State) (x : Nat) (f : Ctx → Ctx) : (s.updCtx x f).spawns = s.spawns := rfl
@[simp] theorem State.updCtx_answers (s : State) (x : Nat) (f : Ctx → Ctx) : (s.updCtx x f).answers = s.answers := rfl
@[simp] theorem State.updCtx_hresSubs (s : State) (x : Nat) (f : Ctx → Ctx) : (s.updCtx x f).hresSubs = s.hresSubs := rfl
@[simp] theorem State.updCtx_handlerQ (s : State) (x : Nat) (f : Ctx → Ctx) : (s.updCtx x f).handlerQ = s.handlerQ := rfl
@[simp] theorem State.updCtx_pinHeld (s : State) (x : Nat) (f : Ctx → Ctx) : (s.updCtx x f).pinHeld = s.pinHeld := rfl
@[simp] theorem State.updCtx_pinext (s : State) (x : Nat) (f : Ctx → Ctx) : (s.updCtx x f).pinext = s.pinext := rfl
@[simp] theorem State.updCtx_orc (s : State) (x : Nat) (f : Ctx → Ctx) : (s.updCtx x f).orc = s.orc := rfl
@[simp] theorem State.updCtx_orcClock (s : State) (x : Nat) (f : Ctx → Ctx) : (s.updCtx x f).orcClock = s.orcClock := rfl
@[simp] theorem State.updCtx_resWords (s : State) (x : Nat) (f : Ctx → Ctx) : (s.updCtx x f).resWords = s.resWords := rfl
@[simp] theorem State.updCtx_l1 (s : State) (x : Nat) (f : Ctx → Ctx) : (s.updCtx x f).l1 = s.l1 := rfl
@[simp] theorem State.updCtx_bridge (s : State) (x : Nat) (f : Ctx → Ctx) : (s.updCtx x f).bridge = s.bridge := rfl
@[simp] theorem State.updCtx_remoteOut (s : State) (x : Nat) (f : Ctx → Ctx) : (s.updCtx x f).remoteOut = s.remoteOut := rfl
@[simp] theorem State.updCtx_reqSeq (s : State) (x : Nat) (f : Ctx → Ctx) : (s.updCtx x f).reqSeq = s.reqSeq := rfl
@[simp] theorem State.updCtx_errors (s : State) (x : Nat) (f : Ctx → Ctx) : (s.updCtx x f).errors = s.errors := rfl
@[simp] theorem State.updCtx_targets (s : State) (x : Nat) (f : Ctx → Ctx) : (s.updCtx x f).targets = s.targets := rfl
@[simp] theorem State.updCtx_arrivals (s : State) (x : Nat) (f : Ctx → Ctx) : (s.updCtx x f).arrivals = s.arrivals := rfl
@[simp] theorem State.updCtx_waiters (s : State) (x : Nat) (f : Ctx → Ctx) : (s.updCtx x f).waiters = s.waiters := rfl
@[simp] theorem State.updCtx_fetches (s : State) (x : Nat) (f : Ctx → Ctx) : (s.updCtx x f).fetches = s.fetches := rfl
@[simp] theorem State.updCtx_hostWrites (s : State) (x : Nat) (f : Ctx → Ctx) : (s.updCtx x f).hostWrites = s.hostWrites := rfl
@[simp] theorem State.updCtx_cmds (s : State) (x : Nat) (f : Ctx → Ctx) : (s.updCtx x f).cmds = s.cmds := rfl
@[simp] theorem State.updCtx_cmdSeq (s : State) (x : Nat) (f : Ctx → Ctx) : (s.updCtx x f).cmdSeq = s.cmdSeq := rfl
@[simp] theorem State.updCtx_banks (s : State) (x : Nat) (f : Ctx → Ctx) : (s.updCtx x f).banks = s.banks := rfl
@[simp] theorem State.updCtx_lkSlots (s : State) (x : Nat) (f : Ctx → Ctx) : (s.updCtx x f).lkSlots = s.lkSlots := rfl
@[simp] theorem State.updCtx_lkClaims (s : State) (x : Nat) (f : Ctx → Ctx) : (s.updCtx x f).lkClaims = s.lkClaims := rfl
@[simp] theorem State.updCtx_buffers (s : State) (x : Nat) (f : Ctx → Ctx) : (s.updCtx x f).buffers = s.buffers := rfl
@[simp] theorem State.updCtx_otpool (s : State) (x : Nat) (f : Ctx → Ctx) : (s.updCtx x f).otpool = s.otpool := rfl
@[simp] theorem State.updCtx_otBadw (s : State) (x : Nat) (f : Ctx → Ctx) : (s.updCtx x f).otBadw = s.otBadw := rfl
@[simp] theorem State.updCtx_otOvf (s : State) (x : Nat) (f : Ctx → Ctx) : (s.updCtx x f).otOvf = s.otOvf := rfl
@[simp] theorem State.updCtx_otSeq (s : State) (x : Nat) (f : Ctx → Ctx) : (s.updCtx x f).otSeq = s.otSeq := rfl
@[simp] theorem State.updCtx_otq (s : State) (x : Nat) (f : Ctx → Ctx) : (s.updCtx x f).otq = s.otq := rfl
@[simp] theorem State.updCtx_unpublished (s : State) (x : Nat) (f : Ctx → Ctx) : (s.updCtx x f).unpublished = s.unpublished := rfl
@[simp] theorem State.updCtx_ownShoots (s : State) (x : Nat) (f : Ctx → Ctx) : (s.updCtx x f).ownShoots = s.ownShoots := rfl
@[simp] theorem State.updCtx_savepool (s : State) (x : Nat) (f : Ctx → Ctx) : (s.updCtx x f).savepool = s.savepool := rfl
@[simp] theorem State.updCtx_saveBadw (s : State) (x : Nat) (f : Ctx → Ctx) : (s.updCtx x f).saveBadw = s.saveBadw := rfl
@[simp] theorem State.updCtx_saveCarve (s : State) (x : Nat) (f : Ctx → Ctx) : (s.updCtx x f).saveCarve = s.saveCarve := rfl
@[simp] theorem State.updCtx_defseed (s : State) (x : Nat) (f : Ctx → Ctx) : (s.updCtx x f).defseed = s.defseed := rfl
@[simp] theorem State.updCtx_seedWas (s : State) (x : Nat) (f : Ctx → Ctx) : (s.updCtx x f).seedWas = s.seedWas := rfl
@[simp] theorem State.updCtx_pwrcap (s : State) (x : Nat) (f : Ctx → Ctx) : (s.updCtx x f).pwrcap = s.pwrcap := rfl
@[simp] theorem State.updCtx_alarm (s : State) (x : Nat) (f : Ctx → Ctx) : (s.updCtx x f).alarm = s.alarm := rfl
@[simp] theorem State.updCtx_hotLayer (s : State) (x : Nat) (f : Ctx → Ctx) : (s.updCtx x f).hotLayer = s.hotLayer := rfl
@[simp] theorem State.updCtx_arbiterAt (s : State) (x : Nat) (f : Ctx → Ctx) : (s.updCtx x f).arbiterAt = s.arbiterAt := rfl
@[simp] theorem State.updCtx_watts (s : State) (x : Nat) (f : Ctx → Ctx) : (s.updCtx x f).watts = s.watts := rfl
@[simp] theorem State.updCtx_fwSvn (s : State) (x : Nat) (f : Ctx → Ctx) : (s.updCtx x f).fwSvn = s.fwSvn := rfl
@[simp] theorem State.updCtx_fwState (s : State) (x : Nat) (f : Ctx → Ctx) : (s.updCtx x f).fwState = s.fwState := rfl
@[simp] theorem State.updCtx_fwSlot (s : State) (x : Nat) (f : Ctx → Ctx) : (s.updCtx x f).fwSlot = s.fwSlot := rfl
@[simp] theorem State.updCtx_fwLasterr (s : State) (x : Nat) (f : Ctx → Ctx) : (s.updCtx x f).fwLasterr = s.fwLasterr := rfl
@[simp] theorem State.updCtx_fwCmd (s : State) (x : Nat) (f : Ctx → Ctx) : (s.updCtx x f).fwCmd = s.fwCmd := rfl
@[simp] theorem State.updCtx_fwOther (s : State) (x : Nat) (f : Ctx → Ctx) : (s.updCtx x f).fwOther = s.fwOther := rfl
@[simp] theorem State.updCtx_fwImage (s : State) (x : Nat) (f : Ctx → Ctx) : (s.updCtx x f).fwImage = s.fwImage := rfl
@[simp] theorem State.updCtx_fwCount (s : State) (x : Nat) (f : Ctx → Ctx) : (s.updCtx x f).fwCount = s.fwCount := rfl
@[simp] theorem State.updCtx_pkgid (s : State) (x : Nat) (f : Ctx → Ctx) : (s.updCtx x f).pkgid = s.pkgid := rfl
@[simp] theorem State.updCtx_peerwin (s : State) (x : Nat) (f : Ctx → Ctx) : (s.updCtx x f).peerwin = s.peerwin := rfl
@[simp] theorem State.updCtx_noroute (s : State) (x : Nat) (f : Ctx → Ctx) : (s.updCtx x f).noroute = s.noroute := rfl
@[simp] theorem State.updCtx_routes (s : State) (x : Nat) (f : Ctx → Ctx) : (s.updCtx x f).routes = s.routes := rfl
@[simp] theorem State.updCtx_sync (s : State) (x : Nat) (f : Ctx → Ctx) : (s.updCtx x f).sync = s.sync := rfl
@[simp] theorem State.updCtx_root (s : State) (x : Nat) (f : Ctx → Ctx) : (s.updCtx x f).root = s.root := rfl
@[simp] theorem State.updCtx_rootPort (s : State) (x : Nat) (f : Ctx → Ctx) : (s.updCtx x f).rootPort = s.rootPort := rfl
@[simp] theorem State.updCtx_offset (s : State) (x : Nat) (f : Ctx → Ctx) : (s.updCtx x f).offset = s.offset := rfl
@[simp] theorem State.updCtx_lastTime (s : State) (x : Nat) (f : Ctx → Ctx) : (s.updCtx x f).lastTime = s.lastTime := rfl
@[simp] theorem State.updCtx_isOpen (s : State) (x : Nat) (f : Ctx → Ctx) : (s.updCtx x f).isOpen = s.isOpen := rfl
@[simp] theorem State.updCtx_broughtUp (s : State) (x : Nat) (f : Ctx → Ctx) : (s.updCtx x f).broughtUp = s.broughtUp := rfl
@[simp] theorem State.updCtx_ports (s : State) (x : Nat) (f : Ctx → Ctx) : (s.updCtx x f).ports = s.ports := rfl
@[simp] theorem State.updCtx_dies (s : State) (x : Nat) (f : Ctx → Ctx) : (s.updCtx x f).dies = s.dies := rfl
@[simp] theorem State.updCtx_memStacks (s : State) (x : Nat) (f : Ctx → Ctx) : (s.updCtx x f).memStacks = s.memStacks := rfl
@[simp] theorem State.updCtx_hostOut (s : State) (x : Nat) (f : Ctx → Ctx) : (s.updCtx x f).hostOut = s.hostOut := rfl
@[simp] theorem State.updCtx_netOut (s : State) (x : Nat) (f : Ctx → Ctx) : (s.updCtx x f).netOut = s.netOut := rfl

@[simp] theorem State.updFlock_agenda (s : State) (id : Nat) (f : Flock → Flock) : (s.updFlock id f).agenda = s.agenda := rfl
@[simp] theorem State.updFlock_freeCount (s : State) (id : Nat) (f : Flock → Flock) : (s.updFlock id f).freeCount = s.freeCount := rfl
@[simp] theorem State.updFlock_focus (s : State) (id : Nat) (f : Flock → Flock) : (s.updFlock id f).focus = s.focus := rfl
@[simp] theorem State.updFlock_cycle (s : State) (id : Nat) (f : Flock → Flock) : (s.updFlock id f).cycle = s.cycle := rfl
@[simp] theorem State.updFlock_tick (s : State) (id : Nat) (f : Flock → Flock) : (s.updFlock id f).tick = s.tick := rfl
@[simp] theorem State.updFlock_tickFrac (s : State) (id : Nat) (f : Flock → Flock) : (s.updFlock id f).tickFrac = s.tickFrac := rfl
@[simp] theorem State.updFlock_slew (s : State) (id : Nat) (f : Flock → Flock) : (s.updFlock id f).slew = s.slew := rfl
@[simp] theorem State.updFlock_mem (s : State) (id : Nat) (f : Flock → Flock) : (s.updFlock id f).mem = s.mem := rfl
@[simp] theorem State.updFlock_cores (s : State) (id : Nat) (f : Flock → Flock) : (s.updFlock id f).cores = s.cores := rfl
@[simp] theorem State.updFlock_fold (s : State) (id : Nat) (f : Flock → Flock) : (s.updFlock id f).fold = s.fold := rfl
@[simp] theorem State.updFlock_eldest (s : State) (id : Nat) (f : Flock → Flock) : (s.updFlock id f).eldest = s.eldest := rfl
@[simp] theorem State.updFlock_ready (s : State) (id : Nat) (f : Flock → Flock) : (s.updFlock id f).ready = s.ready := rfl
@[simp] theorem State.updFlock_pens (s : State) (id : Nat) (f : Flock → Flock) : (s.updFlock id f).pens = s.pens := rfl
@[simp] theorem State.updFlock_resumed (s : State) (id : Nat) (f : Flock → Flock) : (s.updFlock id f).resumed = s.resumed := rfl
@[simp] theorem State.updFlock_accesses (s : State) (id : Nat) (f : Flock → Flock) : (s.updFlock id f).accesses = s.accesses := rfl
@[simp] theorem State.updFlock_transit (s : State) (id : Nat) (f : Flock → Flock) : (s.updFlock id f).transit = s.transit := rfl
@[simp] theorem State.updFlock_held (s : State) (id : Nat) (f : Flock → Flock) : (s.updFlock id f).held = s.held := rfl
@[simp] theorem State.updFlock_owed (s : State) (id : Nat) (f : Flock → Flock) : (s.updFlock id f).owed = s.owed := rfl
@[simp] theorem State.updFlock_paid (s : State) (id : Nat) (f : Flock → Flock) : (s.updFlock id f).paid = s.paid := rfl
@[simp] theorem State.updFlock_asking (s : State) (id : Nat) (f : Flock → Flock) : (s.updFlock id f).asking = s.asking := rfl
@[simp] theorem State.updFlock_outbox (s : State) (id : Nat) (f : Flock → Flock) : (s.updFlock id f).outbox = s.outbox := rfl
@[simp] theorem State.updFlock_gangCores (s : State) (id : Nat) (f : Flock → Flock) : (s.updFlock id f).gangCores = s.gangCores := rfl
@[simp] theorem State.updFlock_notices (s : State) (id : Nat) (f : Flock → Flock) : (s.updFlock id f).notices = s.notices := rfl
@[simp] theorem State.updFlock_acks (s : State) (id : Nat) (f : Flock → Flock) : (s.updFlock id f).acks = s.acks := rfl
@[simp] theorem State.updFlock_acts (s : State) (id : Nat) (f : Flock → Flock) : (s.updFlock id f).acts = s.acts := rfl
@[simp] theorem State.updFlock_filters (s : State) (id : Nat) (f : Flock → Flock) : (s.updFlock id f).filters = s.filters := rfl
@[simp] theorem State.updFlock_ctxs (s : State) (id : Nat) (f : Flock → Flock) : (s.updFlock id f).ctxs = s.ctxs := rfl
@[simp] theorem State.updFlock_queues (s : State) (id : Nat) (f : Flock → Flock) : (s.updFlock id f).queues = s.queues := rfl
@[simp] theorem State.updFlock_refused (s : State) (id : Nat) (f : Flock → Flock) : (s.updFlock id f).refused = s.refused := rfl
@[simp] theorem State.updFlock_admitted (s : State) (id : Nat) (f : Flock → Flock) : (s.updFlock id f).admitted = s.admitted := rfl
@[simp] theorem State.updFlock_kept (s : State) (id : Nat) (f : Flock → Flock) : (s.updFlock id f).kept = s.kept := rfl
@[simp] theorem State.updFlock_spawns (s : State) (id : Nat) (f : Flock → Flock) : (s.updFlock id f).spawns = s.spawns := rfl
@[simp] theorem State.updFlock_answers (s : State) (id : Nat) (f : Flock → Flock) : (s.updFlock id f).answers = s.answers := rfl
@[simp] theorem State.updFlock_hresSubs (s : State) (id : Nat) (f : Flock → Flock) : (s.updFlock id f).hresSubs = s.hresSubs := rfl
@[simp] theorem State.updFlock_handlerQ (s : State) (id : Nat) (f : Flock → Flock) : (s.updFlock id f).handlerQ = s.handlerQ := rfl
@[simp] theorem State.updFlock_pinHeld (s : State) (id : Nat) (f : Flock → Flock) : (s.updFlock id f).pinHeld = s.pinHeld := rfl
@[simp] theorem State.updFlock_pinext (s : State) (id : Nat) (f : Flock → Flock) : (s.updFlock id f).pinext = s.pinext := rfl
@[simp] theorem State.updFlock_orc (s : State) (id : Nat) (f : Flock → Flock) : (s.updFlock id f).orc = s.orc := rfl
@[simp] theorem State.updFlock_orcClock (s : State) (id : Nat) (f : Flock → Flock) : (s.updFlock id f).orcClock = s.orcClock := rfl
@[simp] theorem State.updFlock_resWords (s : State) (id : Nat) (f : Flock → Flock) : (s.updFlock id f).resWords = s.resWords := rfl
@[simp] theorem State.updFlock_l1 (s : State) (id : Nat) (f : Flock → Flock) : (s.updFlock id f).l1 = s.l1 := rfl
@[simp] theorem State.updFlock_bridge (s : State) (id : Nat) (f : Flock → Flock) : (s.updFlock id f).bridge = s.bridge := rfl
@[simp] theorem State.updFlock_remoteOut (s : State) (id : Nat) (f : Flock → Flock) : (s.updFlock id f).remoteOut = s.remoteOut := rfl
@[simp] theorem State.updFlock_reqSeq (s : State) (id : Nat) (f : Flock → Flock) : (s.updFlock id f).reqSeq = s.reqSeq := rfl
@[simp] theorem State.updFlock_errors (s : State) (id : Nat) (f : Flock → Flock) : (s.updFlock id f).errors = s.errors := rfl
@[simp] theorem State.updFlock_targets (s : State) (id : Nat) (f : Flock → Flock) : (s.updFlock id f).targets = s.targets := rfl
@[simp] theorem State.updFlock_arrivals (s : State) (id : Nat) (f : Flock → Flock) : (s.updFlock id f).arrivals = s.arrivals := rfl
@[simp] theorem State.updFlock_waiters (s : State) (id : Nat) (f : Flock → Flock) : (s.updFlock id f).waiters = s.waiters := rfl
@[simp] theorem State.updFlock_fetches (s : State) (id : Nat) (f : Flock → Flock) : (s.updFlock id f).fetches = s.fetches := rfl
@[simp] theorem State.updFlock_hostWrites (s : State) (id : Nat) (f : Flock → Flock) : (s.updFlock id f).hostWrites = s.hostWrites := rfl
@[simp] theorem State.updFlock_cmds (s : State) (id : Nat) (f : Flock → Flock) : (s.updFlock id f).cmds = s.cmds := rfl
@[simp] theorem State.updFlock_cmdSeq (s : State) (id : Nat) (f : Flock → Flock) : (s.updFlock id f).cmdSeq = s.cmdSeq := rfl
@[simp] theorem State.updFlock_banks (s : State) (id : Nat) (f : Flock → Flock) : (s.updFlock id f).banks = s.banks := rfl
@[simp] theorem State.updFlock_lkSlots (s : State) (id : Nat) (f : Flock → Flock) : (s.updFlock id f).lkSlots = s.lkSlots := rfl
@[simp] theorem State.updFlock_lkClaims (s : State) (id : Nat) (f : Flock → Flock) : (s.updFlock id f).lkClaims = s.lkClaims := rfl
@[simp] theorem State.updFlock_buffers (s : State) (id : Nat) (f : Flock → Flock) : (s.updFlock id f).buffers = s.buffers := rfl
@[simp] theorem State.updFlock_otpool (s : State) (id : Nat) (f : Flock → Flock) : (s.updFlock id f).otpool = s.otpool := rfl
@[simp] theorem State.updFlock_otBadw (s : State) (id : Nat) (f : Flock → Flock) : (s.updFlock id f).otBadw = s.otBadw := rfl
@[simp] theorem State.updFlock_otOvf (s : State) (id : Nat) (f : Flock → Flock) : (s.updFlock id f).otOvf = s.otOvf := rfl
@[simp] theorem State.updFlock_otSeq (s : State) (id : Nat) (f : Flock → Flock) : (s.updFlock id f).otSeq = s.otSeq := rfl
@[simp] theorem State.updFlock_otq (s : State) (id : Nat) (f : Flock → Flock) : (s.updFlock id f).otq = s.otq := rfl
@[simp] theorem State.updFlock_unpublished (s : State) (id : Nat) (f : Flock → Flock) : (s.updFlock id f).unpublished = s.unpublished := rfl
@[simp] theorem State.updFlock_ownShoots (s : State) (id : Nat) (f : Flock → Flock) : (s.updFlock id f).ownShoots = s.ownShoots := rfl
@[simp] theorem State.updFlock_savepool (s : State) (id : Nat) (f : Flock → Flock) : (s.updFlock id f).savepool = s.savepool := rfl
@[simp] theorem State.updFlock_saveBadw (s : State) (id : Nat) (f : Flock → Flock) : (s.updFlock id f).saveBadw = s.saveBadw := rfl
@[simp] theorem State.updFlock_saveCarve (s : State) (id : Nat) (f : Flock → Flock) : (s.updFlock id f).saveCarve = s.saveCarve := rfl
@[simp] theorem State.updFlock_defseed (s : State) (id : Nat) (f : Flock → Flock) : (s.updFlock id f).defseed = s.defseed := rfl
@[simp] theorem State.updFlock_seedWas (s : State) (id : Nat) (f : Flock → Flock) : (s.updFlock id f).seedWas = s.seedWas := rfl
@[simp] theorem State.updFlock_pwrcap (s : State) (id : Nat) (f : Flock → Flock) : (s.updFlock id f).pwrcap = s.pwrcap := rfl
@[simp] theorem State.updFlock_alarm (s : State) (id : Nat) (f : Flock → Flock) : (s.updFlock id f).alarm = s.alarm := rfl
@[simp] theorem State.updFlock_hotLayer (s : State) (id : Nat) (f : Flock → Flock) : (s.updFlock id f).hotLayer = s.hotLayer := rfl
@[simp] theorem State.updFlock_arbiterAt (s : State) (id : Nat) (f : Flock → Flock) : (s.updFlock id f).arbiterAt = s.arbiterAt := rfl
@[simp] theorem State.updFlock_watts (s : State) (id : Nat) (f : Flock → Flock) : (s.updFlock id f).watts = s.watts := rfl
@[simp] theorem State.updFlock_fwSvn (s : State) (id : Nat) (f : Flock → Flock) : (s.updFlock id f).fwSvn = s.fwSvn := rfl
@[simp] theorem State.updFlock_fwState (s : State) (id : Nat) (f : Flock → Flock) : (s.updFlock id f).fwState = s.fwState := rfl
@[simp] theorem State.updFlock_fwSlot (s : State) (id : Nat) (f : Flock → Flock) : (s.updFlock id f).fwSlot = s.fwSlot := rfl
@[simp] theorem State.updFlock_fwLasterr (s : State) (id : Nat) (f : Flock → Flock) : (s.updFlock id f).fwLasterr = s.fwLasterr := rfl
@[simp] theorem State.updFlock_fwCmd (s : State) (id : Nat) (f : Flock → Flock) : (s.updFlock id f).fwCmd = s.fwCmd := rfl
@[simp] theorem State.updFlock_fwOther (s : State) (id : Nat) (f : Flock → Flock) : (s.updFlock id f).fwOther = s.fwOther := rfl
@[simp] theorem State.updFlock_fwImage (s : State) (id : Nat) (f : Flock → Flock) : (s.updFlock id f).fwImage = s.fwImage := rfl
@[simp] theorem State.updFlock_fwCount (s : State) (id : Nat) (f : Flock → Flock) : (s.updFlock id f).fwCount = s.fwCount := rfl
@[simp] theorem State.updFlock_pkgid (s : State) (id : Nat) (f : Flock → Flock) : (s.updFlock id f).pkgid = s.pkgid := rfl
@[simp] theorem State.updFlock_peerwin (s : State) (id : Nat) (f : Flock → Flock) : (s.updFlock id f).peerwin = s.peerwin := rfl
@[simp] theorem State.updFlock_noroute (s : State) (id : Nat) (f : Flock → Flock) : (s.updFlock id f).noroute = s.noroute := rfl
@[simp] theorem State.updFlock_routes (s : State) (id : Nat) (f : Flock → Flock) : (s.updFlock id f).routes = s.routes := rfl
@[simp] theorem State.updFlock_sync (s : State) (id : Nat) (f : Flock → Flock) : (s.updFlock id f).sync = s.sync := rfl
@[simp] theorem State.updFlock_root (s : State) (id : Nat) (f : Flock → Flock) : (s.updFlock id f).root = s.root := rfl
@[simp] theorem State.updFlock_rootPort (s : State) (id : Nat) (f : Flock → Flock) : (s.updFlock id f).rootPort = s.rootPort := rfl
@[simp] theorem State.updFlock_offset (s : State) (id : Nat) (f : Flock → Flock) : (s.updFlock id f).offset = s.offset := rfl
@[simp] theorem State.updFlock_lastTime (s : State) (id : Nat) (f : Flock → Flock) : (s.updFlock id f).lastTime = s.lastTime := rfl
@[simp] theorem State.updFlock_isOpen (s : State) (id : Nat) (f : Flock → Flock) : (s.updFlock id f).isOpen = s.isOpen := rfl
@[simp] theorem State.updFlock_broughtUp (s : State) (id : Nat) (f : Flock → Flock) : (s.updFlock id f).broughtUp = s.broughtUp := rfl
@[simp] theorem State.updFlock_ports (s : State) (id : Nat) (f : Flock → Flock) : (s.updFlock id f).ports = s.ports := rfl
@[simp] theorem State.updFlock_dies (s : State) (id : Nat) (f : Flock → Flock) : (s.updFlock id f).dies = s.dies := rfl
@[simp] theorem State.updFlock_memStacks (s : State) (id : Nat) (f : Flock → Flock) : (s.updFlock id f).memStacks = s.memStacks := rfl
@[simp] theorem State.updFlock_hostOut (s : State) (id : Nat) (f : Flock → Flock) : (s.updFlock id f).hostOut = s.hostOut := rfl
@[simp] theorem State.updFlock_netOut (s : State) (id : Nat) (f : Flock → Flock) : (s.updFlock id f).netOut = s.netOut := rfl

@[simp] theorem State.updLane_agenda (s : State) (fid : Nat) (f : Lane → Lane) : (s.updLane fid f).agenda = s.agenda := rfl
@[simp] theorem State.updLane_freeCount (s : State) (fid : Nat) (f : Lane → Lane) : (s.updLane fid f).freeCount = s.freeCount := rfl
@[simp] theorem State.updLane_focus (s : State) (fid : Nat) (f : Lane → Lane) : (s.updLane fid f).focus = s.focus := rfl
@[simp] theorem State.updLane_cycle (s : State) (fid : Nat) (f : Lane → Lane) : (s.updLane fid f).cycle = s.cycle := rfl
@[simp] theorem State.updLane_tick (s : State) (fid : Nat) (f : Lane → Lane) : (s.updLane fid f).tick = s.tick := rfl
@[simp] theorem State.updLane_tickFrac (s : State) (fid : Nat) (f : Lane → Lane) : (s.updLane fid f).tickFrac = s.tickFrac := rfl
@[simp] theorem State.updLane_slew (s : State) (fid : Nat) (f : Lane → Lane) : (s.updLane fid f).slew = s.slew := rfl
@[simp] theorem State.updLane_mem (s : State) (fid : Nat) (f : Lane → Lane) : (s.updLane fid f).mem = s.mem := rfl
@[simp] theorem State.updLane_cores (s : State) (fid : Nat) (f : Lane → Lane) : (s.updLane fid f).cores = s.cores := rfl
@[simp] theorem State.updLane_fold (s : State) (fid : Nat) (f : Lane → Lane) : (s.updLane fid f).fold = s.fold := rfl
@[simp] theorem State.updLane_eldest (s : State) (fid : Nat) (f : Lane → Lane) : (s.updLane fid f).eldest = s.eldest := rfl
@[simp] theorem State.updLane_ready (s : State) (fid : Nat) (f : Lane → Lane) : (s.updLane fid f).ready = s.ready := rfl
@[simp] theorem State.updLane_pens (s : State) (fid : Nat) (f : Lane → Lane) : (s.updLane fid f).pens = s.pens := rfl
@[simp] theorem State.updLane_accesses (s : State) (fid : Nat) (f : Lane → Lane) : (s.updLane fid f).accesses = s.accesses := rfl
@[simp] theorem State.updLane_transit (s : State) (fid : Nat) (f : Lane → Lane) : (s.updLane fid f).transit = s.transit := rfl
@[simp] theorem State.updLane_held (s : State) (fid : Nat) (f : Lane → Lane) : (s.updLane fid f).held = s.held := rfl
@[simp] theorem State.updLane_owed (s : State) (fid : Nat) (f : Lane → Lane) : (s.updLane fid f).owed = s.owed := rfl
@[simp] theorem State.updLane_paid (s : State) (fid : Nat) (f : Lane → Lane) : (s.updLane fid f).paid = s.paid := rfl
@[simp] theorem State.updLane_asking (s : State) (fid : Nat) (f : Lane → Lane) : (s.updLane fid f).asking = s.asking := rfl
@[simp] theorem State.updLane_outbox (s : State) (fid : Nat) (f : Lane → Lane) : (s.updLane fid f).outbox = s.outbox := rfl
@[simp] theorem State.updLane_gangCores (s : State) (fid : Nat) (f : Lane → Lane) : (s.updLane fid f).gangCores = s.gangCores := rfl
@[simp] theorem State.updLane_notices (s : State) (fid : Nat) (f : Lane → Lane) : (s.updLane fid f).notices = s.notices := rfl
@[simp] theorem State.updLane_acks (s : State) (fid : Nat) (f : Lane → Lane) : (s.updLane fid f).acks = s.acks := rfl
@[simp] theorem State.updLane_acts (s : State) (fid : Nat) (f : Lane → Lane) : (s.updLane fid f).acts = s.acts := rfl
@[simp] theorem State.updLane_filters (s : State) (fid : Nat) (f : Lane → Lane) : (s.updLane fid f).filters = s.filters := rfl
@[simp] theorem State.updLane_queues (s : State) (fid : Nat) (f : Lane → Lane) : (s.updLane fid f).queues = s.queues := rfl
@[simp] theorem State.updLane_refused (s : State) (fid : Nat) (f : Lane → Lane) : (s.updLane fid f).refused = s.refused := rfl
@[simp] theorem State.updLane_admitted (s : State) (fid : Nat) (f : Lane → Lane) : (s.updLane fid f).admitted = s.admitted := rfl
@[simp] theorem State.updLane_kept (s : State) (fid : Nat) (f : Lane → Lane) : (s.updLane fid f).kept = s.kept := rfl
@[simp] theorem State.updLane_spawns (s : State) (fid : Nat) (f : Lane → Lane) : (s.updLane fid f).spawns = s.spawns := rfl
@[simp] theorem State.updLane_answers (s : State) (fid : Nat) (f : Lane → Lane) : (s.updLane fid f).answers = s.answers := rfl
@[simp] theorem State.updLane_hresSubs (s : State) (fid : Nat) (f : Lane → Lane) : (s.updLane fid f).hresSubs = s.hresSubs := rfl
@[simp] theorem State.updLane_handlerQ (s : State) (fid : Nat) (f : Lane → Lane) : (s.updLane fid f).handlerQ = s.handlerQ := rfl
@[simp] theorem State.updLane_pinHeld (s : State) (fid : Nat) (f : Lane → Lane) : (s.updLane fid f).pinHeld = s.pinHeld := rfl
@[simp] theorem State.updLane_pinext (s : State) (fid : Nat) (f : Lane → Lane) : (s.updLane fid f).pinext = s.pinext := rfl
@[simp] theorem State.updLane_orc (s : State) (fid : Nat) (f : Lane → Lane) : (s.updLane fid f).orc = s.orc := rfl
@[simp] theorem State.updLane_orcClock (s : State) (fid : Nat) (f : Lane → Lane) : (s.updLane fid f).orcClock = s.orcClock := rfl
@[simp] theorem State.updLane_resWords (s : State) (fid : Nat) (f : Lane → Lane) : (s.updLane fid f).resWords = s.resWords := rfl
@[simp] theorem State.updLane_l1 (s : State) (fid : Nat) (f : Lane → Lane) : (s.updLane fid f).l1 = s.l1 := rfl
@[simp] theorem State.updLane_bridge (s : State) (fid : Nat) (f : Lane → Lane) : (s.updLane fid f).bridge = s.bridge := rfl
@[simp] theorem State.updLane_remoteOut (s : State) (fid : Nat) (f : Lane → Lane) : (s.updLane fid f).remoteOut = s.remoteOut := rfl
@[simp] theorem State.updLane_reqSeq (s : State) (fid : Nat) (f : Lane → Lane) : (s.updLane fid f).reqSeq = s.reqSeq := rfl
@[simp] theorem State.updLane_errors (s : State) (fid : Nat) (f : Lane → Lane) : (s.updLane fid f).errors = s.errors := rfl
@[simp] theorem State.updLane_targets (s : State) (fid : Nat) (f : Lane → Lane) : (s.updLane fid f).targets = s.targets := rfl
@[simp] theorem State.updLane_arrivals (s : State) (fid : Nat) (f : Lane → Lane) : (s.updLane fid f).arrivals = s.arrivals := rfl
@[simp] theorem State.updLane_waiters (s : State) (fid : Nat) (f : Lane → Lane) : (s.updLane fid f).waiters = s.waiters := rfl
@[simp] theorem State.updLane_fetches (s : State) (fid : Nat) (f : Lane → Lane) : (s.updLane fid f).fetches = s.fetches := rfl
@[simp] theorem State.updLane_hostWrites (s : State) (fid : Nat) (f : Lane → Lane) : (s.updLane fid f).hostWrites = s.hostWrites := rfl
@[simp] theorem State.updLane_cmds (s : State) (fid : Nat) (f : Lane → Lane) : (s.updLane fid f).cmds = s.cmds := rfl
@[simp] theorem State.updLane_cmdSeq (s : State) (fid : Nat) (f : Lane → Lane) : (s.updLane fid f).cmdSeq = s.cmdSeq := rfl
@[simp] theorem State.updLane_banks (s : State) (fid : Nat) (f : Lane → Lane) : (s.updLane fid f).banks = s.banks := rfl
@[simp] theorem State.updLane_lkSlots (s : State) (fid : Nat) (f : Lane → Lane) : (s.updLane fid f).lkSlots = s.lkSlots := rfl
@[simp] theorem State.updLane_lkClaims (s : State) (fid : Nat) (f : Lane → Lane) : (s.updLane fid f).lkClaims = s.lkClaims := rfl
@[simp] theorem State.updLane_buffers (s : State) (fid : Nat) (f : Lane → Lane) : (s.updLane fid f).buffers = s.buffers := rfl
@[simp] theorem State.updLane_otpool (s : State) (fid : Nat) (f : Lane → Lane) : (s.updLane fid f).otpool = s.otpool := rfl
@[simp] theorem State.updLane_otBadw (s : State) (fid : Nat) (f : Lane → Lane) : (s.updLane fid f).otBadw = s.otBadw := rfl
@[simp] theorem State.updLane_otOvf (s : State) (fid : Nat) (f : Lane → Lane) : (s.updLane fid f).otOvf = s.otOvf := rfl
@[simp] theorem State.updLane_otSeq (s : State) (fid : Nat) (f : Lane → Lane) : (s.updLane fid f).otSeq = s.otSeq := rfl
@[simp] theorem State.updLane_otq (s : State) (fid : Nat) (f : Lane → Lane) : (s.updLane fid f).otq = s.otq := rfl
@[simp] theorem State.updLane_unpublished (s : State) (fid : Nat) (f : Lane → Lane) : (s.updLane fid f).unpublished = s.unpublished := rfl
@[simp] theorem State.updLane_ownShoots (s : State) (fid : Nat) (f : Lane → Lane) : (s.updLane fid f).ownShoots = s.ownShoots := rfl
@[simp] theorem State.updLane_savepool (s : State) (fid : Nat) (f : Lane → Lane) : (s.updLane fid f).savepool = s.savepool := rfl
@[simp] theorem State.updLane_saveBadw (s : State) (fid : Nat) (f : Lane → Lane) : (s.updLane fid f).saveBadw = s.saveBadw := rfl
@[simp] theorem State.updLane_saveCarve (s : State) (fid : Nat) (f : Lane → Lane) : (s.updLane fid f).saveCarve = s.saveCarve := rfl
@[simp] theorem State.updLane_defseed (s : State) (fid : Nat) (f : Lane → Lane) : (s.updLane fid f).defseed = s.defseed := rfl
@[simp] theorem State.updLane_seedWas (s : State) (fid : Nat) (f : Lane → Lane) : (s.updLane fid f).seedWas = s.seedWas := rfl
@[simp] theorem State.updLane_pwrcap (s : State) (fid : Nat) (f : Lane → Lane) : (s.updLane fid f).pwrcap = s.pwrcap := rfl
@[simp] theorem State.updLane_alarm (s : State) (fid : Nat) (f : Lane → Lane) : (s.updLane fid f).alarm = s.alarm := rfl
@[simp] theorem State.updLane_hotLayer (s : State) (fid : Nat) (f : Lane → Lane) : (s.updLane fid f).hotLayer = s.hotLayer := rfl
@[simp] theorem State.updLane_arbiterAt (s : State) (fid : Nat) (f : Lane → Lane) : (s.updLane fid f).arbiterAt = s.arbiterAt := rfl
@[simp] theorem State.updLane_watts (s : State) (fid : Nat) (f : Lane → Lane) : (s.updLane fid f).watts = s.watts := rfl
@[simp] theorem State.updLane_fwSvn (s : State) (fid : Nat) (f : Lane → Lane) : (s.updLane fid f).fwSvn = s.fwSvn := rfl
@[simp] theorem State.updLane_fwState (s : State) (fid : Nat) (f : Lane → Lane) : (s.updLane fid f).fwState = s.fwState := rfl
@[simp] theorem State.updLane_fwSlot (s : State) (fid : Nat) (f : Lane → Lane) : (s.updLane fid f).fwSlot = s.fwSlot := rfl
@[simp] theorem State.updLane_fwLasterr (s : State) (fid : Nat) (f : Lane → Lane) : (s.updLane fid f).fwLasterr = s.fwLasterr := rfl
@[simp] theorem State.updLane_fwCmd (s : State) (fid : Nat) (f : Lane → Lane) : (s.updLane fid f).fwCmd = s.fwCmd := rfl
@[simp] theorem State.updLane_fwOther (s : State) (fid : Nat) (f : Lane → Lane) : (s.updLane fid f).fwOther = s.fwOther := rfl
@[simp] theorem State.updLane_fwImage (s : State) (fid : Nat) (f : Lane → Lane) : (s.updLane fid f).fwImage = s.fwImage := rfl
@[simp] theorem State.updLane_fwCount (s : State) (fid : Nat) (f : Lane → Lane) : (s.updLane fid f).fwCount = s.fwCount := rfl
@[simp] theorem State.updLane_pkgid (s : State) (fid : Nat) (f : Lane → Lane) : (s.updLane fid f).pkgid = s.pkgid := rfl
@[simp] theorem State.updLane_peerwin (s : State) (fid : Nat) (f : Lane → Lane) : (s.updLane fid f).peerwin = s.peerwin := rfl
@[simp] theorem State.updLane_noroute (s : State) (fid : Nat) (f : Lane → Lane) : (s.updLane fid f).noroute = s.noroute := rfl
@[simp] theorem State.updLane_routes (s : State) (fid : Nat) (f : Lane → Lane) : (s.updLane fid f).routes = s.routes := rfl
@[simp] theorem State.updLane_sync (s : State) (fid : Nat) (f : Lane → Lane) : (s.updLane fid f).sync = s.sync := rfl
@[simp] theorem State.updLane_root (s : State) (fid : Nat) (f : Lane → Lane) : (s.updLane fid f).root = s.root := rfl
@[simp] theorem State.updLane_rootPort (s : State) (fid : Nat) (f : Lane → Lane) : (s.updLane fid f).rootPort = s.rootPort := rfl
@[simp] theorem State.updLane_offset (s : State) (fid : Nat) (f : Lane → Lane) : (s.updLane fid f).offset = s.offset := rfl
@[simp] theorem State.updLane_lastTime (s : State) (fid : Nat) (f : Lane → Lane) : (s.updLane fid f).lastTime = s.lastTime := rfl
@[simp] theorem State.updLane_isOpen (s : State) (fid : Nat) (f : Lane → Lane) : (s.updLane fid f).isOpen = s.isOpen := rfl
@[simp] theorem State.updLane_broughtUp (s : State) (fid : Nat) (f : Lane → Lane) : (s.updLane fid f).broughtUp = s.broughtUp := rfl
@[simp] theorem State.updLane_ports (s : State) (fid : Nat) (f : Lane → Lane) : (s.updLane fid f).ports = s.ports := rfl
@[simp] theorem State.updLane_dies (s : State) (fid : Nat) (f : Lane → Lane) : (s.updLane fid f).dies = s.dies := rfl
@[simp] theorem State.updLane_memStacks (s : State) (fid : Nat) (f : Lane → Lane) : (s.updLane fid f).memStacks = s.memStacks := rfl
@[simp] theorem State.updLane_hostOut (s : State) (fid : Nat) (f : Lane → Lane) : (s.updLane fid f).hostOut = s.hostOut := rfl
@[simp] theorem State.updLane_netOut (s : State) (fid : Nat) (f : Lane → Lane) : (s.updLane fid f).netOut = s.netOut := rfl

@[simp] theorem State.wr_agenda (s : State) (a : Nat) (b : Byte) : (s.wr a b).agenda = s.agenda := by unfold State.wr; split <;> rfl
@[simp] theorem State.wr_freeCount (s : State) (a : Nat) (b : Byte) : (s.wr a b).freeCount = s.freeCount := by unfold State.wr; split <;> rfl
@[simp] theorem State.wr_focus (s : State) (a : Nat) (b : Byte) : (s.wr a b).focus = s.focus := by unfold State.wr; split <;> rfl
@[simp] theorem State.wr_cycle (s : State) (a : Nat) (b : Byte) : (s.wr a b).cycle = s.cycle := by unfold State.wr; split <;> rfl
@[simp] theorem State.wr_tick (s : State) (a : Nat) (b : Byte) : (s.wr a b).tick = s.tick := by unfold State.wr; split <;> rfl
@[simp] theorem State.wr_tickFrac (s : State) (a : Nat) (b : Byte) : (s.wr a b).tickFrac = s.tickFrac := by unfold State.wr; split <;> rfl
@[simp] theorem State.wr_slew (s : State) (a : Nat) (b : Byte) : (s.wr a b).slew = s.slew := by unfold State.wr; split <;> rfl
@[simp] theorem State.wr_cores (s : State) (a : Nat) (b : Byte) : (s.wr a b).cores = s.cores := by unfold State.wr; split <;> rfl
@[simp] theorem State.wr_fold (s : State) (a : Nat) (b : Byte) : (s.wr a b).fold = s.fold := by unfold State.wr; split <;> rfl
@[simp] theorem State.wr_eldest (s : State) (a : Nat) (b : Byte) : (s.wr a b).eldest = s.eldest := by unfold State.wr; split <;> rfl
@[simp] theorem State.wr_ready (s : State) (a : Nat) (b : Byte) : (s.wr a b).ready = s.ready := by unfold State.wr; split <;> rfl
@[simp] theorem State.wr_pens (s : State) (a : Nat) (b : Byte) : (s.wr a b).pens = s.pens := by unfold State.wr; split <;> rfl
@[simp] theorem State.wr_resumed (s : State) (a : Nat) (b : Byte) : (s.wr a b).resumed = s.resumed := by unfold State.wr; split <;> rfl
@[simp] theorem State.wr_flocks (s : State) (a : Nat) (b : Byte) : (s.wr a b).flocks = s.flocks := by unfold State.wr; split <;> rfl
@[simp] theorem State.wr_accesses (s : State) (a : Nat) (b : Byte) : (s.wr a b).accesses = s.accesses := by unfold State.wr; split <;> rfl
@[simp] theorem State.wr_transit (s : State) (a : Nat) (b : Byte) : (s.wr a b).transit = s.transit := by unfold State.wr; split <;> rfl
@[simp] theorem State.wr_held (s : State) (a : Nat) (b : Byte) : (s.wr a b).held = s.held := by unfold State.wr; split <;> rfl
@[simp] theorem State.wr_owed (s : State) (a : Nat) (b : Byte) : (s.wr a b).owed = s.owed := by unfold State.wr; split <;> rfl
@[simp] theorem State.wr_paid (s : State) (a : Nat) (b : Byte) : (s.wr a b).paid = s.paid := by unfold State.wr; split <;> rfl
@[simp] theorem State.wr_asking (s : State) (a : Nat) (b : Byte) : (s.wr a b).asking = s.asking := by unfold State.wr; split <;> rfl
@[simp] theorem State.wr_outbox (s : State) (a : Nat) (b : Byte) : (s.wr a b).outbox = s.outbox := by unfold State.wr; split <;> rfl
@[simp] theorem State.wr_gangCores (s : State) (a : Nat) (b : Byte) : (s.wr a b).gangCores = s.gangCores := by unfold State.wr; split <;> rfl
@[simp] theorem State.wr_notices (s : State) (a : Nat) (b : Byte) : (s.wr a b).notices = s.notices := by unfold State.wr; split <;> rfl
@[simp] theorem State.wr_acks (s : State) (a : Nat) (b : Byte) : (s.wr a b).acks = s.acks := by unfold State.wr; split <;> rfl
@[simp] theorem State.wr_acts (s : State) (a : Nat) (b : Byte) : (s.wr a b).acts = s.acts := by unfold State.wr; split <;> rfl
@[simp] theorem State.wr_filters (s : State) (a : Nat) (b : Byte) : (s.wr a b).filters = s.filters := by unfold State.wr; split <;> rfl
@[simp] theorem State.wr_ctxs (s : State) (a : Nat) (b : Byte) : (s.wr a b).ctxs = s.ctxs := by unfold State.wr; split <;> rfl
@[simp] theorem State.wr_queues (s : State) (a : Nat) (b : Byte) : (s.wr a b).queues = s.queues := by unfold State.wr; split <;> rfl
@[simp] theorem State.wr_refused (s : State) (a : Nat) (b : Byte) : (s.wr a b).refused = s.refused := by unfold State.wr; split <;> rfl
@[simp] theorem State.wr_admitted (s : State) (a : Nat) (b : Byte) : (s.wr a b).admitted = s.admitted := by unfold State.wr; split <;> rfl
@[simp] theorem State.wr_kept (s : State) (a : Nat) (b : Byte) : (s.wr a b).kept = s.kept := by unfold State.wr; split <;> rfl
@[simp] theorem State.wr_spawns (s : State) (a : Nat) (b : Byte) : (s.wr a b).spawns = s.spawns := by unfold State.wr; split <;> rfl
@[simp] theorem State.wr_answers (s : State) (a : Nat) (b : Byte) : (s.wr a b).answers = s.answers := by unfold State.wr; split <;> rfl
@[simp] theorem State.wr_hresSubs (s : State) (a : Nat) (b : Byte) : (s.wr a b).hresSubs = s.hresSubs := by unfold State.wr; split <;> rfl
@[simp] theorem State.wr_handlerQ (s : State) (a : Nat) (b : Byte) : (s.wr a b).handlerQ = s.handlerQ := by unfold State.wr; split <;> rfl
@[simp] theorem State.wr_pinHeld (s : State) (a : Nat) (b : Byte) : (s.wr a b).pinHeld = s.pinHeld := by unfold State.wr; split <;> rfl
@[simp] theorem State.wr_pinext (s : State) (a : Nat) (b : Byte) : (s.wr a b).pinext = s.pinext := by unfold State.wr; split <;> rfl
@[simp] theorem State.wr_orc (s : State) (a : Nat) (b : Byte) : (s.wr a b).orc = s.orc := by unfold State.wr; split <;> rfl
@[simp] theorem State.wr_orcClock (s : State) (a : Nat) (b : Byte) : (s.wr a b).orcClock = s.orcClock := by unfold State.wr; split <;> rfl
@[simp] theorem State.wr_resWords (s : State) (a : Nat) (b : Byte) : (s.wr a b).resWords = s.resWords := by unfold State.wr; split <;> rfl
@[simp] theorem State.wr_l1 (s : State) (a : Nat) (b : Byte) : (s.wr a b).l1 = s.l1 := by unfold State.wr; split <;> rfl
@[simp] theorem State.wr_bridge (s : State) (a : Nat) (b : Byte) : (s.wr a b).bridge = s.bridge := by unfold State.wr; split <;> rfl
@[simp] theorem State.wr_remoteOut (s : State) (a : Nat) (b : Byte) : (s.wr a b).remoteOut = s.remoteOut := by unfold State.wr; split <;> rfl
@[simp] theorem State.wr_reqSeq (s : State) (a : Nat) (b : Byte) : (s.wr a b).reqSeq = s.reqSeq := by unfold State.wr; split <;> rfl
@[simp] theorem State.wr_errors (s : State) (a : Nat) (b : Byte) : (s.wr a b).errors = s.errors := by unfold State.wr; split <;> rfl
@[simp] theorem State.wr_targets (s : State) (a : Nat) (b : Byte) : (s.wr a b).targets = s.targets := by unfold State.wr; split <;> rfl
@[simp] theorem State.wr_arrivals (s : State) (a : Nat) (b : Byte) : (s.wr a b).arrivals = s.arrivals := by unfold State.wr; split <;> rfl
@[simp] theorem State.wr_waiters (s : State) (a : Nat) (b : Byte) : (s.wr a b).waiters = s.waiters := by unfold State.wr; split <;> rfl
@[simp] theorem State.wr_fetches (s : State) (a : Nat) (b : Byte) : (s.wr a b).fetches = s.fetches := by unfold State.wr; split <;> rfl
@[simp] theorem State.wr_hostWrites (s : State) (a : Nat) (b : Byte) : (s.wr a b).hostWrites = s.hostWrites := by unfold State.wr; split <;> rfl
@[simp] theorem State.wr_cmds (s : State) (a : Nat) (b : Byte) : (s.wr a b).cmds = s.cmds := by unfold State.wr; split <;> rfl
@[simp] theorem State.wr_cmdSeq (s : State) (a : Nat) (b : Byte) : (s.wr a b).cmdSeq = s.cmdSeq := by unfold State.wr; split <;> rfl
@[simp] theorem State.wr_banks (s : State) (a : Nat) (b : Byte) : (s.wr a b).banks = s.banks := by unfold State.wr; split <;> rfl
@[simp] theorem State.wr_lkSlots (s : State) (a : Nat) (b : Byte) : (s.wr a b).lkSlots = s.lkSlots := by unfold State.wr; split <;> rfl
@[simp] theorem State.wr_lkClaims (s : State) (a : Nat) (b : Byte) : (s.wr a b).lkClaims = s.lkClaims := by unfold State.wr; split <;> rfl
@[simp] theorem State.wr_buffers (s : State) (a : Nat) (b : Byte) : (s.wr a b).buffers = s.buffers := by unfold State.wr; split <;> rfl
@[simp] theorem State.wr_otpool (s : State) (a : Nat) (b : Byte) : (s.wr a b).otpool = s.otpool := by unfold State.wr; split <;> rfl
@[simp] theorem State.wr_otBadw (s : State) (a : Nat) (b : Byte) : (s.wr a b).otBadw = s.otBadw := by unfold State.wr; split <;> rfl
@[simp] theorem State.wr_otOvf (s : State) (a : Nat) (b : Byte) : (s.wr a b).otOvf = s.otOvf := by unfold State.wr; split <;> rfl
@[simp] theorem State.wr_otSeq (s : State) (a : Nat) (b : Byte) : (s.wr a b).otSeq = s.otSeq := by unfold State.wr; split <;> rfl
@[simp] theorem State.wr_otq (s : State) (a : Nat) (b : Byte) : (s.wr a b).otq = s.otq := by unfold State.wr; split <;> rfl
@[simp] theorem State.wr_unpublished (s : State) (a : Nat) (b : Byte) : (s.wr a b).unpublished = s.unpublished := by unfold State.wr; split <;> rfl
@[simp] theorem State.wr_ownShoots (s : State) (a : Nat) (b : Byte) : (s.wr a b).ownShoots = s.ownShoots := by unfold State.wr; split <;> rfl
@[simp] theorem State.wr_savepool (s : State) (a : Nat) (b : Byte) : (s.wr a b).savepool = s.savepool := by unfold State.wr; split <;> rfl
@[simp] theorem State.wr_saveBadw (s : State) (a : Nat) (b : Byte) : (s.wr a b).saveBadw = s.saveBadw := by unfold State.wr; split <;> rfl
@[simp] theorem State.wr_saveCarve (s : State) (a : Nat) (b : Byte) : (s.wr a b).saveCarve = s.saveCarve := by unfold State.wr; split <;> rfl
@[simp] theorem State.wr_defseed (s : State) (a : Nat) (b : Byte) : (s.wr a b).defseed = s.defseed := by unfold State.wr; split <;> rfl
@[simp] theorem State.wr_seedWas (s : State) (a : Nat) (b : Byte) : (s.wr a b).seedWas = s.seedWas := by unfold State.wr; split <;> rfl
@[simp] theorem State.wr_pwrcap (s : State) (a : Nat) (b : Byte) : (s.wr a b).pwrcap = s.pwrcap := by unfold State.wr; split <;> rfl
@[simp] theorem State.wr_alarm (s : State) (a : Nat) (b : Byte) : (s.wr a b).alarm = s.alarm := by unfold State.wr; split <;> rfl
@[simp] theorem State.wr_hotLayer (s : State) (a : Nat) (b : Byte) : (s.wr a b).hotLayer = s.hotLayer := by unfold State.wr; split <;> rfl
@[simp] theorem State.wr_arbiterAt (s : State) (a : Nat) (b : Byte) : (s.wr a b).arbiterAt = s.arbiterAt := by unfold State.wr; split <;> rfl
@[simp] theorem State.wr_watts (s : State) (a : Nat) (b : Byte) : (s.wr a b).watts = s.watts := by unfold State.wr; split <;> rfl
@[simp] theorem State.wr_fwSvn (s : State) (a : Nat) (b : Byte) : (s.wr a b).fwSvn = s.fwSvn := by unfold State.wr; split <;> rfl
@[simp] theorem State.wr_fwState (s : State) (a : Nat) (b : Byte) : (s.wr a b).fwState = s.fwState := by unfold State.wr; split <;> rfl
@[simp] theorem State.wr_fwSlot (s : State) (a : Nat) (b : Byte) : (s.wr a b).fwSlot = s.fwSlot := by unfold State.wr; split <;> rfl
@[simp] theorem State.wr_fwLasterr (s : State) (a : Nat) (b : Byte) : (s.wr a b).fwLasterr = s.fwLasterr := by unfold State.wr; split <;> rfl
@[simp] theorem State.wr_fwCmd (s : State) (a : Nat) (b : Byte) : (s.wr a b).fwCmd = s.fwCmd := by unfold State.wr; split <;> rfl
@[simp] theorem State.wr_fwOther (s : State) (a : Nat) (b : Byte) : (s.wr a b).fwOther = s.fwOther := by unfold State.wr; split <;> rfl
@[simp] theorem State.wr_fwImage (s : State) (a : Nat) (b : Byte) : (s.wr a b).fwImage = s.fwImage := by unfold State.wr; split <;> rfl
@[simp] theorem State.wr_fwCount (s : State) (a : Nat) (b : Byte) : (s.wr a b).fwCount = s.fwCount := by unfold State.wr; split <;> rfl
@[simp] theorem State.wr_pkgid (s : State) (a : Nat) (b : Byte) : (s.wr a b).pkgid = s.pkgid := by unfold State.wr; split <;> rfl
@[simp] theorem State.wr_peerwin (s : State) (a : Nat) (b : Byte) : (s.wr a b).peerwin = s.peerwin := by unfold State.wr; split <;> rfl
@[simp] theorem State.wr_noroute (s : State) (a : Nat) (b : Byte) : (s.wr a b).noroute = s.noroute := by unfold State.wr; split <;> rfl
@[simp] theorem State.wr_routes (s : State) (a : Nat) (b : Byte) : (s.wr a b).routes = s.routes := by unfold State.wr; split <;> rfl
@[simp] theorem State.wr_sync (s : State) (a : Nat) (b : Byte) : (s.wr a b).sync = s.sync := by unfold State.wr; split <;> rfl
@[simp] theorem State.wr_root (s : State) (a : Nat) (b : Byte) : (s.wr a b).root = s.root := by unfold State.wr; split <;> rfl
@[simp] theorem State.wr_rootPort (s : State) (a : Nat) (b : Byte) : (s.wr a b).rootPort = s.rootPort := by unfold State.wr; split <;> rfl
@[simp] theorem State.wr_offset (s : State) (a : Nat) (b : Byte) : (s.wr a b).offset = s.offset := by unfold State.wr; split <;> rfl
@[simp] theorem State.wr_lastTime (s : State) (a : Nat) (b : Byte) : (s.wr a b).lastTime = s.lastTime := by unfold State.wr; split <;> rfl
@[simp] theorem State.wr_isOpen (s : State) (a : Nat) (b : Byte) : (s.wr a b).isOpen = s.isOpen := by unfold State.wr; split <;> rfl
@[simp] theorem State.wr_broughtUp (s : State) (a : Nat) (b : Byte) : (s.wr a b).broughtUp = s.broughtUp := by unfold State.wr; split <;> rfl
@[simp] theorem State.wr_ports (s : State) (a : Nat) (b : Byte) : (s.wr a b).ports = s.ports := by unfold State.wr; split <;> rfl
@[simp] theorem State.wr_dies (s : State) (a : Nat) (b : Byte) : (s.wr a b).dies = s.dies := by unfold State.wr; split <;> rfl
@[simp] theorem State.wr_memStacks (s : State) (a : Nat) (b : Byte) : (s.wr a b).memStacks = s.memStacks := by unfold State.wr; split <;> rfl
@[simp] theorem State.wr_hostOut (s : State) (a : Nat) (b : Byte) : (s.wr a b).hostOut = s.hostOut := by unfold State.wr; split <;> rfl
@[simp] theorem State.wr_netOut (s : State) (a : Nat) (b : Byte) : (s.wr a b).netOut = s.netOut := by unfold State.wr; split <;> rfl

@[simp] theorem State.updCore_cores (s : State) (c : Nat) (f : Core → Core) : (s.updCore c f).cores = s.cores.modify c f := rfl
@[simp] theorem State.updCtx_ctxs (s : State) (x : Nat) (f : Ctx → Ctx) :
    (s.updCtx x f).ctxs = replaceFirst (·.id == x) f s.ctxs := rfl
@[simp] theorem State.updFlock_flocks (s : State) (id : Nat) (f : Flock → Flock) :
    (s.updFlock id f).flocks = replaceFirst (·.id == id) f s.flocks := rfl
@[simp] theorem State.updLane_flocks (s : State) (fid : Nat) (f : Lane → Lane) :
    (s.updLane fid f).flocks = s.flocks.map fun fl => fl.updLane fid f := rfl
@[simp] theorem State.updLane_ctxs (s : State) (fid : Nat) (f : Lane → Lane) :
    (s.updLane fid f).ctxs = s.ctxs.map fun c => c.updLane fid f := rfl
@[simp] theorem State.updLane_resumed (s : State) (fid : Nat) (f : Lane → Lane) :
    (s.updLane fid f).resumed = s.resumed.map fun r => { r with lane := r.lane.updIf fid f } := rfl
@[simp] theorem State.wr_mem (s : State) (a : Nat) (b : Byte) :
    (s.wr a b).mem = if isMemory a then Memory.write s.mem a b else s.mem := by unfold State.wr; split <;> rfl

end Sys2Proof.Machine
end

