-- ==== Sys2Proof/Laws/Lanes.lean ====
section
/-! SUPPORT. What is found after an update: a core, a context, a firing. -/

namespace Sys2Proof.Machine

theorem find?_replaceFirst_same {α : Type} {p : α → Bool} {f : α → α} (hf : ∀ x, p (f x) = p x) (l : List α) :
    (replaceFirst p f l).find? p = (l.find? p).map f := by
  induction l with
  | nil => rfl
  | cons x r ih => by_cases hx : p x = true <;> simp_all [replaceFirst]

theorem find?_replaceFirst_other {α : Type} {p q : α → Bool} {f : α → α} (hq : ∀ x, p x = true → q x = false)
    (hf : ∀ x, p x = true → q (f x) = false) (l : List α) : (replaceFirst p f l).find? q = l.find? q := by
  induction l with
  | nil => rfl
  | cons x r ih => by_cases hx : p x = true <;> simp_all [replaceFirst, List.find?_cons]

theorem State.ctx?_updCtx_same {s : State} {x : Nat} {f : Ctx → Ctx} (hf : ∀ c, (f c).id = c.id) :
    (s.updCtx x f).ctx? x = (s.ctx? x).map f :=
  find?_replaceFirst_same (fun c => by simp [hf]) _

theorem State.ctx?_updCtx_other {s : State} {x y : Nat} {f : Ctx → Ctx} (hf : ∀ c, (f c).id = c.id) (h : y ≠ x) :
    (s.updCtx x f).ctx? y = s.ctx? y :=
  find?_replaceFirst_other (fun c hc => by simp_all; exact fun e => h e.symm) (fun c hc => by simp_all; exact fun e => h e.symm) _

theorem State.core_updCore_same {s : State} {c : Nat} {f : Core → Core} (h : c < s.cores.length) :
    (s.updCore c f).core c = f (s.core c) := by
  simp [State.core, h]

theorem State.core_updCore_other {s : State} {c d : Nat} {f : Core → Core} (h : d ≠ c) : (s.updCore c f).core d = s.core d := by
  simp [State.core, Ne.symm h]

/-! ### Firings -/

theorem Flock.any_updLane {fl : Flock} {fid g : Nat} {f : Lane → Lane} (hf : ∀ l, (f l).fid = l.fid) :
    (fl.updLane fid f).lanes.any (·.fid == g) = fl.lanes.any (·.fid == g) := by
  simp only [Flock.updLane]
  generalize fl.lanes = l
  induction l with
  | nil => rfl
  | cons x r ih => by_cases hx : x.fid = fid <;> simp_all [replaceFirst]

theorem Flock.lane?_updLane_same {fl : Flock} {fid : Nat} {f : Lane → Lane} (hf : ∀ l, (f l).fid = l.fid) :
    (fl.updLane fid f).lane? fid = (fl.lane? fid).map f :=
  find?_replaceFirst_same (fun l => by simp [hf]) _

theorem Flock.lane?_updLane_other {fl : Flock} {fid g : Nat} {f : Lane → Lane} (hf : ∀ l, (f l).fid = l.fid) (h : g ≠ fid) :
    (fl.updLane fid f).lane? g = fl.lane? g :=
  find?_replaceFirst_other (fun l hl => by simp_all; exact fun e => h e.symm) (fun l hl => by simp_all; exact fun e => h e.symm) _

theorem State.flockOf?_updLane {s : State} {fid g : Nat} {f : Lane → Lane} (hf : ∀ l, (f l).fid = l.fid) :
    (s.updLane fid f).flockOf? g = (s.flockOf? g).map fun fl => fl.updLane fid f := by
  simp only [State.flockOf?, State.updLane_flocks]
  induction s.flocks with
  | nil => rfl
  | cons x r ih => simp [Flock.any_updLane hf, List.find?_cons, ih]; split <;> simp

theorem State.lane?_updLane_same {s : State} {fid : Nat} {f : Lane → Lane} (hf : ∀ l, (f l).fid = l.fid) :
    (s.updLane fid f).lane? fid = (s.lane? fid).map f := by
  simp only [State.lane?, State.flockOf?_updLane hf]
  cases s.flockOf? fid <;> simp [Flock.lane?_updLane_same hf]

theorem State.lane?_updLane_other {s : State} {fid g : Nat} {f : Lane → Lane} (hf : ∀ l, (f l).fid = l.fid) (h : g ≠ fid) :
    (s.updLane fid f).lane? g = s.lane? g := by
  simp only [State.lane?, State.flockOf?_updLane hf]
  cases s.flockOf? g <;> simp [Flock.lane?_updLane_other hf h]

@[simp] theorem Lane.deliver_fid (j : Nat) (v : Option Val) (t : Target) (ln : Lane) : (ln.deliver j v t).fid = ln.fid := by
  unfold Lane.deliver
  split
  · rfl
  · rfl
  · split <;> rfl

@[simp] theorem Lane.complete_fid (j : Nat) (perf : Bool) (t0 t1 : Target) (r0 r1 : Val) (ln : Lane) :
    (ln.complete j perf t0 t1 r0 r1).fid = ln.fid := by
  simp [Lane.complete]

@[simp] theorem Lane.issue_fid (j : Nat) (ln : Lane) : (ln.issue j).fid = ln.fid := rfl

/-- A delivery to a lane is found there. -/
theorem State.lane?_completeLane {s : State} {fid : Nat} {ln : Lane} (h : s.lane? fid = some ln) (j : Nat) (t0 t1 : Target) (r0 r1 : Val) :
    (s.completeLane fid j t0 t1 r0 r1).lane? fid = some (ln.complete j true t0 t1 r0 r1) := by
  rw [State.completeLane, lane?_updLane_same (by simp), h]; rfl

end Sys2Proof.Machine
end

