-- ==== Sys2Proof/Laws/Memory.lean ====
section
/-! SUPPORT. Memory: a read after a write, and that every operation that writes memory keeps its canonical form. -/

namespace Sys2Proof.Machine

theorem Memory.wfFrom_mono {lo lo' : Nat} {m : List Host.Cell} (h : wfFrom lo m = true) (hl : lo' ≤ lo) :
    wfFrom lo' m = true := by
  cases m with
  | nil => rfl
  | cons c r =>
    obtain ⟨a, b⟩ := c
    simp only [wfFrom, Bool.and_eq_true, decide_eq_true_eq] at h ⊢
    exact ⟨⟨by omega, h.1.2⟩, h.2⟩

theorem Memory.read_cons (a : Nat) (b : Byte) (r : List Host.Cell) (x : Nat) :
    read ((a, b) :: r) x = if a = x then b else if x < a then 0 else read r x := rfl

/-- An address below every listed one reads 0. -/
theorem Memory.read_below {lo x : Nat} {m : List Host.Cell} (h : wfFrom lo m = true) (hx : x < lo) : read m x = 0 := by
  cases m with
  | nil => rfl
  | cons c r =>
    obtain ⟨a, b⟩ := c
    simp only [wfFrom, Bool.and_eq_true, decide_eq_true_eq] at h
    rw [read, if_neg (by omega), if_pos (by omega)]

theorem Memory.wfFrom_write {lo x : Nat} {m : List Host.Cell} (v : Byte) (h : wfFrom lo m = true) (hx : lo ≤ x) :
    wfFrom lo (write m x v) = true := by
  induction m generalizing lo with
  | nil => unfold write; split <;> simp_all [wfFrom]
  | cons c r ih =>
    obtain ⟨a, b⟩ := c
    simp only [wfFrom, Bool.and_eq_true, decide_eq_true_eq] at h
    unfold write
    split
    · split <;> simp_all [wfFrom]
      all_goals omega
    · split
      · split
        · exact wfFrom_mono h.2 (by omega)
        · simp_all [wfFrom]
      · simp only [wfFrom, Bool.and_eq_true, decide_eq_true_eq]
        exact ⟨h.1, ih h.2 (by omega)⟩

theorem Memory.wf_write {x : Nat} {m : List Host.Cell} (v : Byte) (h : wf m = true) : wf (write m x v) = true :=
  wfFrom_write v h (Nat.zero_le x)

theorem Memory.read_write_same {lo : Nat} {m : List Host.Cell} (x : Nat) (v : Byte) (h : wfFrom lo m = true) :
    read (write m x v) x = v := by
  induction m generalizing lo with
  | nil => unfold write; split <;> simp_all [read]
  | cons c r ih =>
    obtain ⟨a, b⟩ := c
    simp only [wfFrom, Bool.and_eq_true, decide_eq_true_eq] at h
    unfold write
    split
    · split <;> simp_all [read]
      omega
    · split
      · split
        · rename_i hv; rw [hv]; exact read_below h.2 (by omega)
        · simp_all [read]
      · rw [read, if_neg (by omega), if_neg (by omega)]
        exact ih h.2

theorem Memory.read_write_other {lo : Nat} {m : List Host.Cell} {x y : Nat} (v : Byte) (h : wfFrom lo m = true) (hxy : y ≠ x) :
    read (write m x v) y = read m y := by
  induction m generalizing lo with
  | nil =>
    unfold write
    split
    · rfl
    · rw [read_cons, if_neg (Ne.symm hxy)]; split <;> rfl
  | cons c r ih =>
    obtain ⟨a, b⟩ := c
    simp only [wfFrom, Bool.and_eq_true, decide_eq_true_eq] at h
    unfold write
    split
    · split
      · rfl
      · rw [read_cons, if_neg (Ne.symm hxy)]
        split
        · rw [read_cons, if_neg (by omega), if_pos (by omega)]
        · rfl
    · split
      · rename_i hxa
        split
        · rw [read_cons, if_neg (by omega)]
          split
          · exact read_below h.2 (by omega)
          · rfl
        · simp only [read_cons, if_neg (show ¬a = y by omega)]
      · rw [read_cons, read_cons, ih h.2]

theorem Memory.wfFrom_clear {lo : Nat} {m : List Host.Cell} (h : wfFrom lo m = true) (p : Host.Cell → Bool) :
    wfFrom lo (m.filter p) = true := by
  induction m generalizing lo with
  | nil => rfl
  | cons c r ih =>
    obtain ⟨a, b⟩ := c
    simp only [wfFrom, Bool.and_eq_true, decide_eq_true_eq] at h
    rw [List.filter_cons]
    split
    · simp only [wfFrom, Bool.and_eq_true, decide_eq_true_eq]
      exact ⟨h.1, ih h.2⟩
    · exact wfFrom_mono (ih h.2) (by omega)

theorem reset_memOk : State.reset.memOk := rfl

/-! ### Bytes of a state -/

theorem State.rd_wr_same {s : State} (h : s.memOk) {a : Nat} (b : Byte) (ha : isMemory a = true) : (s.wr a b).rd a = b := by
  simp only [State.rd, State.wr, if_pos ha]
  exact Memory.read_write_same a b h

theorem State.rd_wr_other {s : State} (h : s.memOk) {a x : Nat} (b : Byte) (hx : x ≠ a) : (s.wr a b).rd x = s.rd x := by
  unfold State.wr
  split
  · unfold State.rd; rw [Memory.read_write_other b h hx]
  · rfl

/-! ### The canonical form is kept -/

theorem State.memOk_of_mem {s t : State} (h : s.memOk) (e : t.mem = s.mem) : t.memOk := by
  unfold State.memOk at *; rwa [e]

theorem State.memOk_foldl {α : Type} {f : State → α → State} (hf : ∀ (s : State) (x : α), s.memOk → (f s x).memOk) (l : List α) :
    ∀ s : State, s.memOk → (l.foldl f s).memOk := by
  induction l with
  | nil => exact fun _ h => h
  | cons x r ih => exact fun s h => ih _ (hf s x h)

theorem State.memOk_wr {s : State} (h : s.memOk) (a : Nat) (b : Byte) : (s.wr a b).memOk := by
  unfold State.wr
  split
  · exact Memory.wf_write b h
  · exact h

theorem State.memOk_wrN (l : List Byte) : ∀ {s : State} (_ : s.memOk) (a : Nat), (s.wrN a l).memOk := by
  induction l with
  | nil => exact fun h _ => h
  | cons b r ih => exact fun h a => ih (memOk_wr h a b) (a + 1)

theorem State.memOk_clearMem {s : State} (h : s.memOk) (lo n : Nat) : (s.clearMem lo n).memOk := Memory.wfFrom_clear h _

theorem State.memOk_wrAll {s : State} (h : s.memOk) (l : List (Nat × Byte)) : (s.wrAll l).memOk :=
  memOk_foldl (fun _ x h => memOk_wr h x.1 x.2) _ _ h

theorem State.memOk_drainBridge {s : State} (h : s.memOk) (p : BridgeWrite → Bool) : (s.drainBridge p).memOk :=
  memOk_foldl (fun _ w h => memOk_wrAll h w.data) _ _ h

theorem State.memOk_homeWrite {s : State} (h : s.memOk) (die a : Nat) (b : Byte) : (s.homeWrite die a b).memOk :=
  memOk_wr (memOk_drainBridge h _) a b

theorem State.memOk_homeView {s : State} (h : s.memOk) (die a : Nat) : (s.homeView die a).memOk := memOk_drainBridge h _

theorem State.memOk_chargeUnits {s : State} (h : s.memOk) (l : List Nat) : (s.chargeUnits l).memOk :=
  memOk_foldl (f := fun s b => { s with memStacks := s.memStacks.modify (stackOf (64 * b)) fun k =>
    if k.left = 0xFFFFFFFF then k else { k with left := k.left - 1 } }) (fun _ _ h => h) _ s h

theorem State.memOk_sendOut {s : State} (h : s.memOk) (p : Nat) (m : LinkMsg) : (s.sendOut p m).memOk := by
  unfold State.sendOut
  split <;> exact h

theorem State.memOk_postWrite {s : State} (h : s.memOk) (core ctx p : Nat) (post : Option Poster) (l : List (Nat × Byte)) :
    (s.postWrite core ctx p post l).memOk := by
  unfold State.postWrite
  split
  · exact h
  · refine memOk_sendOut (s := { s with reqSeq := _, remoteOut := _ }) ?_ _ _
    exact h

theorem State.memOk_pushBytes {s : State} (h : s.memOk) (sc : Scope) (core ctx : Nat) (pkg : Option Nat) (l : List (Nat × Byte)) :
    (s.pushBytes sc core ctx pkg l).memOk := by
  unfold State.pushBytes
  split
  · exact h
  · split
    · split
      · exact h
      · exact memOk_chargeUnits (memOk_wrAll (memOk_homeView h _ _) _) _
    · exact memOk_postWrite h _ _ _ _ _

theorem State.memOk_writeBackOf {s : State} (h : s.memOk) (sc : Scope) (m : Sector → BitVec 32) : (s.writeBackOf sc m).memOk :=
  memOk_foldl (fun _ _ h => memOk_pushBytes h _ _ _ _ _) s.l1 s h

theorem State.memOk_writeBack {s : State} (h : s.memOk) (sc : Scope) (p : Sector → Bool) : (s.writeBack sc p).memOk :=
  memOk_writeBackOf h _ _

theorem State.memOk_release {s : State} (h : s.memOk) (core : Nat) (sc : Scope) : (s.release core sc).memOk := by
  unfold State.release
  split
  · exact h
  · exact memOk_writeBackOf h _ _
  · exact memOk_drainBridge (memOk_writeBackOf h _ _) _
  · exact memOk_drainBridge (memOk_writeBackOf h _ _) _

theorem State.memOk_acquire {s : State} (h : s.memOk) (core : Nat) (sc : Option Scope) : (s.acquire core sc).memOk := by
  unfold State.acquire
  split
  · exact h
  · exact h
  · dsimp only
    split
    · exact memOk_of_mem (memOk_writeBack (s := s.updCore core fun c => { c with agen := (s.core core).agen + 1 }) h _ _) rfl
    · exact memOk_of_mem h rfl

theorem State.memOk_l1Room {s : State} (h : s.memOk) (core a : Nat) (pkg : Option Nat) : (s.l1Room core a pkg).memOk := by
  unfold State.l1Room
  dsimp only
  split
  · exact h
  · exact memOk_of_mem (memOk_writeBack h _ _) rfl

theorem State.memOk_fill {s : State} (h : s.memOk) (core ctx coh a : Nat) : (s.fill core ctx coh a).memOk := by
  have hv := memOk_homeView h (dieOf core) a
  unfold State.fill
  dsimp only
  split
  · exact memOk_of_mem (memOk_l1Room hv core (a / 32 * 32) none) rfl
  · exact memOk_of_mem hv rfl

theorem State.memOk_loadByte {s : State} (h : s.memOk) (core ctx coh a : Nat) : (s.loadByte core ctx coh a).1.memOk := by
  unfold State.loadByte
  split
  · exact memOk_homeView h _ _
  · exact memOk_fill h _ _ _ _

theorem State.memOk_storeL1 {s : State} (h : s.memOk) (core ctx coh : Nat) (pkg : Option Nat) (a : Nat) (b : Byte) :
    (s.storeL1 core ctx coh pkg a b).memOk := by
  unfold State.storeL1
  dsimp only
  split
  · exact memOk_of_mem (memOk_l1Room h core (a / 32 * 32) pkg) rfl
  · exact memOk_of_mem h rfl

theorem State.memOk_storeByte {s : State} (h : s.memOk) (core ctx coh a : Nat) (b : Byte) : (s.storeByte core ctx coh a b).memOk := by
  unfold State.storeByte
  split
  · exact memOk_homeWrite h _ _ _
  · exact memOk_storeL1 h _ _ _ _ _ _

theorem State.memOk_loadBytes (l : List Nat) (core ctx coh : Nat) : ∀ {s : State} (_ : s.memOk), (s.loadBytes core ctx coh l).1.memOk := by
  induction l with
  | nil => exact fun h => h
  | cons a r ih => exact fun h => ih (memOk_loadByte h core ctx coh a)

theorem State.memOk_storeBytes (l : List Nat) (core ctx coh : Nat) :
    ∀ {s : State} (_ : s.memOk) (d : List Byte), (s.storeBytes core ctx coh l d).memOk := by
  induction l with
  | nil => exact fun h d => by cases d <;> exact h
  | cons a r ih =>
    intro s h d
    cases d with
    | nil => exact h
    | cons b bs => exact ih (memOk_storeByte h core ctx coh a b) bs

theorem State.memOk_flushLines {s : State} (h : s.memOk) (core : Nat) (pkg : Option Nat) (as : List Nat) :
    (s.flushLines core pkg as).memOk :=
  memOk_writeBack h _ _

end Sys2Proof.Machine
end

