-- ==== Sys2Proof/Laws/PerInstr.lean ====
section
/-! SUPPORT. The round trip of every instruction: decoding the word of a legal instruction gives it back. -/

set_option Elab.async false
set_option linter.unusedSimpArgs false

namespace Sys2Proof.Laws.RoundTrip

open Sys2Proof

/-- What the round trip says of one instruction. -/
def Statement (i : Instr) : Prop := i.wf = true → decode (encode i) = .ok i

theorem ldf (pm : Pm) (n : BitVec 4) (t0 : Target) (t1 : Target) : Statement (.ldf pm n t0 t1) := by
  intro h
  show decode (mkF2 0x01#8 pm.toBits n t0.toBits t1.toBits) = _
  simp [decode, decodeFields, decode0, withPm, withTarget, withField, mustBeZero, mustBe, h]

theorem ldfv (pm : Pm) (n : BitVec 4) (t0 : Target) (t1 : Target) : Statement (.ldfv pm n t0 t1) := by
  intro h
  show decode (mkF2 0x02#8 pm.toBits n t0.toBits t1.toBits) = _
  simp [decode, decodeFields, decode0, withPm, withTarget, withField, mustBeZero, mustBe, h]

theorem ldk (pm : Pm) (n : BitVec 4) (t0 : Target) (t1 : Target) : Statement (.ldk pm n t0 t1) := by
  intro h
  show decode (mkF2 0x03#8 pm.toBits n t0.toBits t1.toBits) = _
  simp [decode, decodeFields, decode0, withPm, withTarget, withField, mustBeZero, mustBe, h]

theorem getx (pm : Pm) (t0 : Target) (x : BitVec 6) : Statement (.getx pm t0 x) := by
  intro h
  show decode (mkFI 0x04#8 pm.toBits t0.toBits (0#7 ++ x)) = _
  simp [decode, decodeFields, decode0, withPm, withTarget, withField, mustBeZero, mustBe, h]

theorem gets (pm : Pm) (sr : SpecialReg) (t0 : Target) : Statement (.gets pm sr t0) := by
  intro h
  show decode (mkFX 0x05#8 pm.toBits sr.toBits t0.toBits) = _
  simp [decode, decodeFields, decode0, withPm, withTarget, withField, mustBeZero, mustBe, h]

theorem movi (pm : Pm) (t0 : Target) (imm : BitVec 13) : Statement (.movi pm t0 imm) := by
  intro h
  show decode (mkFI 0x06#8 pm.toBits t0.toBits imm) = _
  simp [decode, decodeFields, decode0, withPm, withTarget, withField, mustBeZero, mustBe, h]

theorem movhi (pm : Pm) (t0 : Target) (imm : BitVec 13) : Statement (.movhi pm t0 imm) := by
  intro h
  show decode (mkFI 0x07#8 pm.toBits t0.toBits imm) = _
  simp [decode, decodeFields, decode0, withPm, withTarget, withField, mustBeZero, mustBe, h]

theorem nop (pm : Pm) (t0 : Target) (t1 : Target) : Statement (.nop pm t0 t1) := by
  intro h
  show decode (mkF2 0x08#8 pm.toBits 0#4 t0.toBits t1.toBits) = _
  simp [decode, decodeFields, decode0, withPm, withTarget, withField, mustBeZero, mustBe, h]

theorem send (pm : Pm) (tm : Tm) (slot : BitVec 3) (blk : BitVec 12) (rel : Option Scope) (close : Bool) : Statement (.send pm tm slot blk rel close) := by
  intro h
  show decode (mkFS 0x10#8 pm.toBits tm.toBits slot blk ((relBits rel) ++ (boolBits close))) = _
  simp [decode, decodeFields, decode1, withPm, withTarget, withField, mustBeZero, mustBe, h]

theorem sendx (pm : Pm) (rel : Option Scope) (close : Bool) : Statement (.sendx pm rel close) := by
  intro h
  show decode (mkFS 0x11#8 pm.toBits 0#3 0#3 0#12 ((relBits rel) ++ (boolBits close))) = _
  simp [decode, decodeFields, decode1, withPm, withTarget, withField, mustBeZero, mustBe, h]

theorem sendv (pm : Pm) (tm : Tm) (slot : BitVec 3) (blk : BitVec 12) (rel : Option Scope) (close : Bool) : Statement (.sendv pm tm slot blk rel close) := by
  intro h
  show decode (mkFS 0x12#8 pm.toBits tm.toBits slot blk ((relBits rel) ++ (boolBits close))) = _
  simp [decode, decodeFields, decode1, withPm, withTarget, withField, mustBeZero, mustBe, h]

theorem steer (tm : Tm) (slot : BitVec 3) (blk : BitVec 12) (rel : Option Scope) (void : Bool) : Statement (.steer tm slot blk rel void) := by
  intro h
  show decode (mkFS 0x13#8 0#2 tm.toBits slot blk ((relBits rel) ++ (boolBits void))) = _
  simp [decode, decodeFields, decode1, withPm, withTarget, withField, mustBeZero, mustBe, h]

theorem cont (pm : Pm) (tm : Tm) (slot : BitVec 3) (blk : BitVec 12) (x : BitVec 4) : Statement (.cont pm tm slot blk x) := by
  intro h
  show decode (mkFS 0x14#8 pm.toBits tm.toBits slot blk x) = _
  simp [decode, decodeFields, decode1, withPm, withTarget, withField, mustBeZero, mustBe, h]

theorem enter (pm : Pm) (slot : BitVec 3) (blk : BitVec 12) (rel : Option Scope) (close : Bool) : Statement (.enter pm slot blk rel close) := by
  intro h
  show decode (mkFS 0x15#8 pm.toBits 2#3 slot blk ((relBits rel) ++ (boolBits close))) = _
  simp [decode, decodeFields, decode1, withPm, withTarget, withField, mustBeZero, mustBe, h]

theorem entermAnd (pm : Pm) (slot : BitVec 3) (blk : BitVec 12) (rel : Option Scope) (close : Bool) : Statement (.entermAnd pm slot blk rel close) := by
  intro h
  show decode (mkFS 0x16#8 pm.toBits 3#3 slot blk ((relBits rel) ++ (boolBits close))) = _
  simp [decode, decodeFields, decode1, withPm, withTarget, withField, mustBeZero, mustBe, h]

theorem entermOr (pm : Pm) (slot : BitVec 3) (blk : BitVec 12) (rel : Option Scope) (close : Bool) : Statement (.entermOr pm slot blk rel close) := by
  intro h
  show decode (mkFS 0x17#8 pm.toBits 3#3 slot blk ((relBits rel) ++ (boolBits close))) = _
  simp [decode, decodeFields, decode1, withPm, withTarget, withField, mustBeZero, mustBe, h]

theorem next (pm : Pm) (slot : BitVec 3) (blk : BitVec 12) (rel : Option Scope) (close : Bool) : Statement (.next pm slot blk rel close) := by
  intro h
  show decode (mkFS 0x18#8 pm.toBits 1#3 slot blk ((relBits rel) ++ (boolBits close))) = _
  simp [decode, decodeFields, decode1, withPm, withTarget, withField, mustBeZero, mustBe, h]

theorem leave (pm : Pm) (slot : BitVec 3) (blk : BitVec 12) (rel : Option Scope) (close : Bool) : Statement (.leave pm slot blk rel close) := by
  intro h
  show decode (mkFS 0x19#8 pm.toBits 4#3 slot blk ((relBits rel) ++ (boolBits close))) = _
  simp [decode, decodeFields, decode1, withPm, withTarget, withField, mustBeZero, mustBe, h]

theorem dkill (pm : Pm) (t0 : Target) (t1 : Target) : Statement (.dkill pm t0 t1) := by
  intro h
  show decode (mkF2 0x1A#8 pm.toBits 0#4 t0.toBits t1.toBits) = _
  simp [decode, decodeFields, decode1, withPm, withTarget, withField, mustBeZero, mustBe, h]

theorem spawn (pm : Pm) (t0 : Target) (t1 : Target) : Statement (.spawn pm t0 t1) := by
  intro h
  show decode (mkF2 0x1B#8 pm.toBits 0#4 t0.toBits t1.toBits) = _
  simp [decode, decodeFields, decode1, withPm, withTarget, withField, mustBeZero, mustBe, h]

theorem add (pm : Pm) (ty : Ity) (t0 : Target) (t1 : Target) : Statement (.add pm ty t0 t1) := by
  intro h
  show decode (mkF2 0x20#8 pm.toBits ty.toBits t0.toBits t1.toBits) = _
  simp [decode, decodeFields, decode2, withPm, withTarget, withField, mustBeZero, mustBe, h]

theorem addSat (pm : Pm) (ty : Ity) (t0 : Target) (t1 : Target) : Statement (.addSat pm ty t0 t1) := by
  intro h
  show decode (mkF2 0x21#8 pm.toBits ty.toBits t0.toBits t1.toBits) = _
  simp [decode, decodeFields, decode2, withPm, withTarget, withField, mustBeZero, mustBe, h]

theorem sub (pm : Pm) (ty : Ity) (t0 : Target) (t1 : Target) : Statement (.sub pm ty t0 t1) := by
  intro h
  show decode (mkF2 0x22#8 pm.toBits ty.toBits t0.toBits t1.toBits) = _
  simp [decode, decodeFields, decode2, withPm, withTarget, withField, mustBeZero, mustBe, h]

theorem subSat (pm : Pm) (ty : Ity) (t0 : Target) (t1 : Target) : Statement (.subSat pm ty t0 t1) := by
  intro h
  show decode (mkF2 0x23#8 pm.toBits ty.toBits t0.toBits t1.toBits) = _
  simp [decode, decodeFields, decode2, withPm, withTarget, withField, mustBeZero, mustBe, h]

theorem addi (pm : Pm) (t0 : Target) (imm : BitVec 13) : Statement (.addi pm t0 imm) := by
  intro h
  show decode (mkFI 0x24#8 pm.toBits t0.toBits imm) = _
  simp [decode, decodeFields, decode2, withPm, withTarget, withField, mustBeZero, mustBe, h]

theorem mul (pm : Pm) (ty : Ity) (t0 : Target) (t1 : Target) : Statement (.mul pm ty t0 t1) := by
  intro h
  show decode (mkF2 0x25#8 pm.toBits ty.toBits t0.toBits t1.toBits) = _
  simp [decode, decodeFields, decode2, withPm, withTarget, withField, mustBeZero, mustBe, h]

theorem mulh (pm : Pm) (ty : Ity) (t0 : Target) (t1 : Target) : Statement (.mulh pm ty t0 t1) := by
  intro h
  show decode (mkF2 0x26#8 pm.toBits ty.toBits t0.toBits t1.toBits) = _
  simp [decode, decodeFields, decode2, withPm, withTarget, withField, mustBeZero, mustBe, h]

theorem madd (pm : Pm) (ty : Ity) (t0 : Target) (t1 : Target) : Statement (.madd pm ty t0 t1) := by
  intro h
  show decode (mkF2 0x27#8 pm.toBits ty.toBits t0.toBits t1.toBits) = _
  simp [decode, decodeFields, decode2, withPm, withTarget, withField, mustBeZero, mustBe, h]

theorem div (pm : Pm) (ty : Ity) (t0 : Target) (t1 : Target) : Statement (.div pm ty t0 t1) := by
  intro h
  show decode (mkF2 0x28#8 pm.toBits ty.toBits t0.toBits t1.toBits) = _
  simp [decode, decodeFields, decode2, withPm, withTarget, withField, mustBeZero, mustBe, h]

theorem rem (pm : Pm) (ty : Ity) (t0 : Target) (t1 : Target) : Statement (.rem pm ty t0 t1) := by
  intro h
  show decode (mkF2 0x29#8 pm.toBits ty.toBits t0.toBits t1.toBits) = _
  simp [decode, decodeFields, decode2, withPm, withTarget, withField, mustBeZero, mustBe, h]

theorem min (pm : Pm) (ty : Ity) (t0 : Target) (t1 : Target) : Statement (.min pm ty t0 t1) := by
  intro h
  show decode (mkF2 0x2A#8 pm.toBits ty.toBits t0.toBits t1.toBits) = _
  simp [decode, decodeFields, decode2, withPm, withTarget, withField, mustBeZero, mustBe, h]

theorem max (pm : Pm) (ty : Ity) (t0 : Target) (t1 : Target) : Statement (.max pm ty t0 t1) := by
  intro h
  show decode (mkF2 0x2B#8 pm.toBits ty.toBits t0.toBits t1.toBits) = _
  simp [decode, decodeFields, decode2, withPm, withTarget, withField, mustBeZero, mustBe, h]

theorem abs (pm : Pm) (ty : Ity) (t0 : Target) (t1 : Target) : Statement (.abs pm ty t0 t1) := by
  intro h
  show decode (mkF2 0x2C#8 pm.toBits ty.toBits t0.toBits t1.toBits) = _
  simp [decode, decodeFields, decode2, withPm, withTarget, withField, mustBeZero, mustBe, h]

theorem neg (pm : Pm) (ty : Ity) (t0 : Target) (t1 : Target) : Statement (.neg pm ty t0 t1) := by
  intro h
  show decode (mkF2 0x2D#8 pm.toBits ty.toBits t0.toBits t1.toBits) = _
  simp [decode, decodeFields, decode2, withPm, withTarget, withField, mustBeZero, mustBe, h]

theorem and (pm : Pm) (t0 : Target) (t1 : Target) : Statement (.and pm t0 t1) := by
  intro h
  show decode (mkF2 0x30#8 pm.toBits 0#4 t0.toBits t1.toBits) = _
  simp [decode, decodeFields, decode3, withPm, withTarget, withField, mustBeZero, mustBe, h]

theorem or (pm : Pm) (t0 : Target) (t1 : Target) : Statement (.or pm t0 t1) := by
  intro h
  show decode (mkF2 0x31#8 pm.toBits 0#4 t0.toBits t1.toBits) = _
  simp [decode, decodeFields, decode3, withPm, withTarget, withField, mustBeZero, mustBe, h]

theorem xor (pm : Pm) (t0 : Target) (t1 : Target) : Statement (.xor pm t0 t1) := by
  intro h
  show decode (mkF2 0x32#8 pm.toBits 0#4 t0.toBits t1.toBits) = _
  simp [decode, decodeFields, decode3, withPm, withTarget, withField, mustBeZero, mustBe, h]

theorem andn (pm : Pm) (t0 : Target) (t1 : Target) : Statement (.andn pm t0 t1) := by
  intro h
  show decode (mkF2 0x33#8 pm.toBits 0#4 t0.toBits t1.toBits) = _
  simp [decode, decodeFields, decode3, withPm, withTarget, withField, mustBeZero, mustBe, h]

theorem not (pm : Pm) (t0 : Target) (t1 : Target) : Statement (.not pm t0 t1) := by
  intro h
  show decode (mkF2 0x34#8 pm.toBits 0#4 t0.toBits t1.toBits) = _
  simp [decode, decodeFields, decode3, withPm, withTarget, withField, mustBeZero, mustBe, h]

theorem shl (pm : Pm) (w : Width) (t0 : Target) (t1 : Target) : Statement (.shl pm w t0 t1) := by
  intro h
  show decode (mkF2 0x35#8 pm.toBits (0#2 ++ w.toBits) t0.toBits t1.toBits) = _
  simp [decode, decodeFields, decode3, withPm, withTarget, withField, mustBeZero, mustBe, h]

theorem shr (pm : Pm) (w : Width) (t0 : Target) (t1 : Target) : Statement (.shr pm w t0 t1) := by
  intro h
  show decode (mkF2 0x36#8 pm.toBits (0#2 ++ w.toBits) t0.toBits t1.toBits) = _
  simp [decode, decodeFields, decode3, withPm, withTarget, withField, mustBeZero, mustBe, h]

theorem sar (pm : Pm) (w : Width) (t0 : Target) (t1 : Target) : Statement (.sar pm w t0 t1) := by
  intro h
  show decode (mkF2 0x37#8 pm.toBits (0#2 ++ w.toBits) t0.toBits t1.toBits) = _
  simp [decode, decodeFields, decode3, withPm, withTarget, withField, mustBeZero, mustBe, h]

theorem rotl (pm : Pm) (w : Width) (t0 : Target) (t1 : Target) : Statement (.rotl pm w t0 t1) := by
  intro h
  show decode (mkF2 0x38#8 pm.toBits (0#2 ++ w.toBits) t0.toBits t1.toBits) = _
  simp [decode, decodeFields, decode3, withPm, withTarget, withField, mustBeZero, mustBe, h]

theorem shli (pm : Pm) (t0 : Target) (w : Width) (amt : BitVec 6) : Statement (.shli pm t0 w amt) := by
  intro h
  have h1 : BitVec.extractLsb' 8 5 (0#5 ++ (w.toBits ++ amt)) = 0#5 := part_shift_hi ..
  have h2 : BitVec.extractLsb' 6 2 (0#5 ++ (w.toBits ++ amt)) = w.toBits := part_shift_mid ..
  have h3 : BitVec.extractLsb' 0 6 (0#5 ++ (w.toBits ++ amt)) = amt := part_shift_lo ..
  show decode (mkFI 0x39#8 pm.toBits t0.toBits (0#5 ++ (w.toBits ++ amt))) = _
  simp [decode, decodeFields, decode3, withPm, withTarget, withField, mustBeZero, h, h1, h2, h3]

theorem shri (pm : Pm) (t0 : Target) (w : Width) (amt : BitVec 6) : Statement (.shri pm t0 w amt) := by
  intro h
  have h1 : BitVec.extractLsb' 8 5 (0#5 ++ (w.toBits ++ amt)) = 0#5 := part_shift_hi ..
  have h2 : BitVec.extractLsb' 6 2 (0#5 ++ (w.toBits ++ amt)) = w.toBits := part_shift_mid ..
  have h3 : BitVec.extractLsb' 0 6 (0#5 ++ (w.toBits ++ amt)) = amt := part_shift_lo ..
  show decode (mkFI 0x3A#8 pm.toBits t0.toBits (0#5 ++ (w.toBits ++ amt))) = _
  simp [decode, decodeFields, decode3, withPm, withTarget, withField, mustBeZero, h, h1, h2, h3]

theorem sari (pm : Pm) (t0 : Target) (w : Width) (amt : BitVec 6) : Statement (.sari pm t0 w amt) := by
  intro h
  have h1 : BitVec.extractLsb' 8 5 (0#5 ++ (w.toBits ++ amt)) = 0#5 := part_shift_hi ..
  have h2 : BitVec.extractLsb' 6 2 (0#5 ++ (w.toBits ++ amt)) = w.toBits := part_shift_mid ..
  have h3 : BitVec.extractLsb' 0 6 (0#5 ++ (w.toBits ++ amt)) = amt := part_shift_lo ..
  show decode (mkFI 0x3B#8 pm.toBits t0.toBits (0#5 ++ (w.toBits ++ amt))) = _
  simp [decode, decodeFields, decode3, withPm, withTarget, withField, mustBeZero, h, h1, h2, h3]

theorem rotli (pm : Pm) (t0 : Target) (w : Width) (amt : BitVec 6) : Statement (.rotli pm t0 w amt) := by
  intro h
  have h1 : BitVec.extractLsb' 8 5 (0#5 ++ (w.toBits ++ amt)) = 0#5 := part_shift_hi ..
  have h2 : BitVec.extractLsb' 6 2 (0#5 ++ (w.toBits ++ amt)) = w.toBits := part_shift_mid ..
  have h3 : BitVec.extractLsb' 0 6 (0#5 ++ (w.toBits ++ amt)) = amt := part_shift_lo ..
  show decode (mkFI 0x3C#8 pm.toBits t0.toBits (0#5 ++ (w.toBits ++ amt))) = _
  simp [decode, decodeFields, decode3, withPm, withTarget, withField, mustBeZero, h, h1, h2, h3]

theorem clz (pm : Pm) (w : Width) (t0 : Target) (t1 : Target) : Statement (.clz pm w t0 t1) := by
  intro h
  show decode (mkF2 0x3D#8 pm.toBits (0#2 ++ w.toBits) t0.toBits t1.toBits) = _
  simp [decode, decodeFields, decode3, withPm, withTarget, withField, mustBeZero, mustBe, h]

theorem ctz (pm : Pm) (w : Width) (t0 : Target) (t1 : Target) : Statement (.ctz pm w t0 t1) := by
  intro h
  show decode (mkF2 0x3E#8 pm.toBits (0#2 ++ w.toBits) t0.toBits t1.toBits) = _
  simp [decode, decodeFields, decode3, withPm, withTarget, withField, mustBeZero, mustBe, h]

theorem popc (pm : Pm) (w : Width) (t0 : Target) (t1 : Target) : Statement (.popc pm w t0 t1) := by
  intro h
  show decode (mkF2 0x3F#8 pm.toBits (0#2 ++ w.toBits) t0.toBits t1.toBits) = _
  simp [decode, decodeFields, decode3, withPm, withTarget, withField, mustBeZero, mustBe, h]

theorem brev (pm : Pm) (w : Width) (t0 : Target) (t1 : Target) : Statement (.brev pm w t0 t1) := by
  intro h
  show decode (mkF2 0x40#8 pm.toBits (0#2 ++ w.toBits) t0.toBits t1.toBits) = _
  simp [decode, decodeFields, decode4, withPm, withTarget, withField, mustBeZero, mustBe, h]

theorem bswap (pm : Pm) (w : Width) (t0 : Target) (t1 : Target) : Statement (.bswap pm w t0 t1) := by
  intro h
  show decode (mkF2 0x41#8 pm.toBits (0#2 ++ w.toBits) t0.toBits t1.toBits) = _
  simp [decode, decodeFields, decode4, withPm, withTarget, withField, mustBeZero, mustBe, h]

theorem bfx (pm : Pm) (sg : Bool) (t0 : Target) (t1 : Target) : Statement (.bfx pm sg t0 t1) := by
  intro h
  show decode (mkF2 0x42#8 pm.toBits (0#3 ++ (boolBits sg)) t0.toBits t1.toBits) = _
  simp [decode, decodeFields, decode4, withPm, withTarget, withField, mustBeZero, mustBe, h]

theorem bfi (pm : Pm) (t0 : Target) (t1 : Target) : Statement (.bfi pm t0 t1) := by
  intro h
  show decode (mkF2 0x43#8 pm.toBits 0#4 t0.toBits t1.toBits) = _
  simp [decode, decodeFields, decode4, withPm, withTarget, withField, mustBeZero, mustBe, h]

theorem sext (pm : Pm) (w : Width) (t0 : Target) (t1 : Target) : Statement (.sext pm w t0 t1) := by
  intro h
  show decode (mkF2 0x44#8 pm.toBits (0#2 ++ w.toBits) t0.toBits t1.toBits) = _
  simp [decode, decodeFields, decode4, withPm, withTarget, withField, mustBeZero, mustBe, h]

theorem zext (pm : Pm) (w : Width) (t0 : Target) (t1 : Target) : Statement (.zext pm w t0 t1) := by
  intro h
  show decode (mkF2 0x45#8 pm.toBits (0#2 ++ w.toBits) t0.toBits t1.toBits) = _
  simp [decode, decodeFields, decode4, withPm, withTarget, withField, mustBeZero, mustBe, h]

theorem cmp (pm : Pm) (c : Cond) (t0 : Target) (t1 : Target) : Statement (.cmp pm c t0 t1) := by
  intro h
  show decode (mkF2 0x46#8 pm.toBits c.toBits t0.toBits t1.toBits) = _
  simp [decode, decodeFields, decode4, withPm, withTarget, withField, mustBeZero, mustBe, h]

theorem cmpi (pm : Pm) (t0 : Target) (c : Cond) (imm : BitVec 10) : Statement (.cmpi pm t0 c imm) := by
  intro h
  show decode (mkFI 0x47#8 pm.toBits t0.toBits (c.toBits3 ++ imm)) = _
  simp [decode, decodeFields, decode4, withPm, withTarget, withField, mustBeZero, mustBe, h]

theorem sel (pm : Pm) (t0 : Target) (t1 : Target) : Statement (.sel pm t0 t1) := by
  intro h
  show decode (mkF2 0x48#8 pm.toBits 0#4 t0.toBits t1.toBits) = _
  simp [decode, decodeFields, decode4, withPm, withTarget, withField, mustBeZero, mustBe, h]

theorem pand (pm : Pm) (t0 : Target) (t1 : Target) : Statement (.pand pm t0 t1) := by
  intro h
  show decode (mkF2 0x49#8 pm.toBits 0#4 t0.toBits t1.toBits) = _
  simp [decode, decodeFields, decode4, withPm, withTarget, withField, mustBeZero, mustBe, h]

theorem por (pm : Pm) (t0 : Target) (t1 : Target) : Statement (.por pm t0 t1) := by
  intro h
  show decode (mkF2 0x4A#8 pm.toBits 0#4 t0.toBits t1.toBits) = _
  simp [decode, decodeFields, decode4, withPm, withTarget, withField, mustBeZero, mustBe, h]

theorem pxor (pm : Pm) (t0 : Target) (t1 : Target) : Statement (.pxor pm t0 t1) := by
  intro h
  show decode (mkF2 0x4B#8 pm.toBits 0#4 t0.toBits t1.toBits) = _
  simp [decode, decodeFields, decode4, withPm, withTarget, withField, mustBeZero, mustBe, h]

theorem pnot (pm : Pm) (t0 : Target) (t1 : Target) : Statement (.pnot pm t0 t1) := by
  intro h
  show decode (mkF2 0x4C#8 pm.toBits 0#4 t0.toBits t1.toBits) = _
  simp [decode, decodeFields, decode4, withPm, withTarget, withField, mustBeZero, mustBe, h]

theorem pack2 (pm : Pm) (h_ : Half) (t0 : Target) (t1 : Target) : Statement (.pack2 pm h_ t0 t1) := by
  intro h
  show decode (mkF2 0x4D#8 pm.toBits (0#3 ++ h_.toBits) t0.toBits t1.toBits) = _
  simp [decode, decodeFields, decode4, withPm, withTarget, withField, mustBeZero, mustBe, h]

theorem unpk (pm : Pm) (h_ : Half) (t0 : Target) (t1 : Target) : Statement (.unpk pm h_ t0 t1) := by
  intro h
  show decode (mkF2 0x4E#8 pm.toBits (0#3 ++ h_.toBits) t0.toBits t1.toBits) = _
  simp [decode, decodeFields, decode4, withPm, withTarget, withField, mustBeZero, mustBe, h]

theorem fadd (pm : Pm) (rm : Rnd) (ty : FTy) (t0 : Target) (t1 : Target) : Statement (.fadd pm rm ty t0 t1) := by
  intro h
  show decode (mkF2 0x50#8 pm.toBits (rm.toBits ++ ty.toBits) t0.toBits t1.toBits) = _
  simp [decode, decodeFields, decode5, withPm, withTarget, withField, mustBeZero, mustBe, h]

theorem fsub (pm : Pm) (rm : Rnd) (ty : FTy) (t0 : Target) (t1 : Target) : Statement (.fsub pm rm ty t0 t1) := by
  intro h
  show decode (mkF2 0x51#8 pm.toBits (rm.toBits ++ ty.toBits) t0.toBits t1.toBits) = _
  simp [decode, decodeFields, decode5, withPm, withTarget, withField, mustBeZero, mustBe, h]

theorem fmul (pm : Pm) (rm : Rnd) (ty : FTy) (t0 : Target) (t1 : Target) : Statement (.fmul pm rm ty t0 t1) := by
  intro h
  show decode (mkF2 0x52#8 pm.toBits (rm.toBits ++ ty.toBits) t0.toBits t1.toBits) = _
  simp [decode, decodeFields, decode5, withPm, withTarget, withField, mustBeZero, mustBe, h]

theorem ffma (pm : Pm) (rm : Rnd) (ty : FTy) (t0 : Target) (t1 : Target) : Statement (.ffma pm rm ty t0 t1) := by
  intro h
  show decode (mkF2 0x53#8 pm.toBits (rm.toBits ++ ty.toBits) t0.toBits t1.toBits) = _
  simp [decode, decodeFields, decode5, withPm, withTarget, withField, mustBeZero, mustBe, h]

theorem fmin (pm : Pm) (ty : FTy) (t0 : Target) (t1 : Target) : Statement (.fmin pm ty t0 t1) := by
  intro h
  show decode (mkF2 0x54#8 pm.toBits (0#2 ++ ty.toBits) t0.toBits t1.toBits) = _
  simp [decode, decodeFields, decode5, withPm, withTarget, withField, mustBeZero, mustBe, h]

theorem fmax (pm : Pm) (ty : FTy) (t0 : Target) (t1 : Target) : Statement (.fmax pm ty t0 t1) := by
  intro h
  show decode (mkF2 0x55#8 pm.toBits (0#2 ++ ty.toBits) t0.toBits t1.toBits) = _
  simp [decode, decodeFields, decode5, withPm, withTarget, withField, mustBeZero, mustBe, h]

theorem fabs (pm : Pm) (ty : FTy) (t0 : Target) (t1 : Target) : Statement (.fabs pm ty t0 t1) := by
  intro h
  show decode (mkF2 0x56#8 pm.toBits (0#2 ++ ty.toBits) t0.toBits t1.toBits) = _
  simp [decode, decodeFields, decode5, withPm, withTarget, withField, mustBeZero, mustBe, h]

theorem fneg (pm : Pm) (ty : FTy) (t0 : Target) (t1 : Target) : Statement (.fneg pm ty t0 t1) := by
  intro h
  show decode (mkF2 0x57#8 pm.toBits (0#2 ++ ty.toBits) t0.toBits t1.toBits) = _
  simp [decode, decodeFields, decode5, withPm, withTarget, withField, mustBeZero, mustBe, h]

theorem fcmp (pm : Pm) (c : FCond) (ty : FTy) (t0 : Target) (t1 : Target) : Statement (.fcmp pm c ty t0 t1) := by
  intro h
  show decode (mkF2 0x58#8 pm.toBits (c.toBits ++ ty.toBits) t0.toBits t1.toBits) = _
  simp [decode, decodeFields, decode5, withPm, withTarget, withField, mustBeZero, mustBe, h]

theorem fclass (pm : Pm) (ty : FTy) (t0 : Target) (t1 : Target) : Statement (.fclass pm ty t0 t1) := by
  intro h
  show decode (mkF2 0x59#8 pm.toBits (0#2 ++ ty.toBits) t0.toBits t1.toBits) = _
  simp [decode, decodeFields, decode5, withPm, withTarget, withField, mustBeZero, mustBe, h]

theorem fdiv (pm : Pm) (rm : Rnd) (ty : FTy) (t0 : Target) (t1 : Target) : Statement (.fdiv pm rm ty t0 t1) := by
  intro h
  show decode (mkF2 0x5A#8 pm.toBits (rm.toBits ++ ty.toBits) t0.toBits t1.toBits) = _
  simp [decode, decodeFields, decode5, withPm, withTarget, withField, mustBeZero, mustBe, h]

theorem fsqrt (pm : Pm) (rm : Rnd) (ty : FTy) (t0 : Target) (t1 : Target) : Statement (.fsqrt pm rm ty t0 t1) := by
  intro h
  show decode (mkF2 0x5B#8 pm.toBits (rm.toBits ++ ty.toBits) t0.toBits t1.toBits) = _
  simp [decode, decodeFields, decode5, withPm, withTarget, withField, mustBeZero, mustBe, h]

theorem frcpe (pm : Pm) (t0 : Target) (t1 : Target) : Statement (.frcpe pm t0 t1) := by
  intro h
  show decode (mkF2 0x5C#8 pm.toBits 0#4 t0.toBits t1.toBits) = _
  simp [decode, decodeFields, decode5, withPm, withTarget, withField, mustBeZero, mustBe, h]

theorem frsqe (pm : Pm) (t0 : Target) (t1 : Target) : Statement (.frsqe pm t0 t1) := by
  intro h
  show decode (mkF2 0x5D#8 pm.toBits 0#4 t0.toBits t1.toBits) = _
  simp [decode, decodeFields, decode5, withPm, withTarget, withField, mustBeZero, mustBe, h]

theorem fexp2 (pm : Pm) (t0 : Target) (t1 : Target) : Statement (.fexp2 pm t0 t1) := by
  intro h
  show decode (mkF2 0x5E#8 pm.toBits 0#4 t0.toBits t1.toBits) = _
  simp [decode, decodeFields, decode5, withPm, withTarget, withField, mustBeZero, mustBe, h]

theorem flog2 (pm : Pm) (t0 : Target) (t1 : Target) : Statement (.flog2 pm t0 t1) := by
  intro h
  show decode (mkF2 0x5F#8 pm.toBits 0#4 t0.toBits t1.toBits) = _
  simp [decode, decodeFields, decode5, withPm, withTarget, withField, mustBeZero, mustBe, h]

theorem fsin (pm : Pm) (t0 : Target) (t1 : Target) : Statement (.fsin pm t0 t1) := by
  intro h
  show decode (mkF2 0x60#8 pm.toBits 0#4 t0.toBits t1.toBits) = _
  simp [decode, decodeFields, decode6, withPm, withTarget, withField, mustBeZero, mustBe, h]

theorem fcos (pm : Pm) (t0 : Target) (t1 : Target) : Statement (.fcos pm t0 t1) := by
  intro h
  show decode (mkF2 0x61#8 pm.toBits 0#4 t0.toBits t1.toBits) = _
  simp [decode, decodeFields, decode6, withPm, withTarget, withField, mustBeZero, mustBe, h]

theorem ftanh (pm : Pm) (t0 : Target) (t1 : Target) : Statement (.ftanh pm t0 t1) := by
  intro h
  show decode (mkF2 0x62#8 pm.toBits 0#4 t0.toBits t1.toBits) = _
  simp [decode, decodeFields, decode6, withPm, withTarget, withField, mustBeZero, mustBe, h]

theorem fround (pm : Pm) (rm : Rnd) (ty : FTy) (t0 : Target) (t1 : Target) : Statement (.fround pm rm ty t0 t1) := by
  intro h
  show decode (mkF2 0x63#8 pm.toBits (rm.toBits ++ ty.toBits) t0.toBits t1.toBits) = _
  simp [decode, decodeFields, decode6, withPm, withTarget, withField, mustBeZero, mustBe, h]

theorem cvt (rm : Rnd) (pm : Pm) (sat : Bool) (dst : Fmt) (src : Fmt) (t0 : Target) : Statement (.cvt rm pm sat dst src t0) := by
  intro h
  have h1 : BitVec.extractLsb' 12 1 (boolBits sat ++ (dst.toBits ++ src.toBits)) = boolBits sat := part_cvt_hi ..
  have h2 : BitVec.extractLsb' 6 6 (boolBits sat ++ (dst.toBits ++ src.toBits)) = dst.toBits := part_cvt_mid ..
  have h3 : BitVec.extractLsb' 0 6 (boolBits sat ++ (dst.toBits ++ src.toBits)) = src.toBits := part_cvt_lo ..
  cases rm <;>
    (show decode (mkFX _ pm.toBits (boolBits sat ++ (dst.toBits ++ src.toBits)) t0.toBits) = _
     simp [decode, decodeFields, decode6, withPm, withTarget, withField, h, h1, h2, h3, Rnd.ofBits, Rnd.toBits])

theorem cvtsr (pm : Pm) (sat : Bool) (dst : Fmt) (src : Fmt) (t0 : Target) : Statement (.cvtsr pm sat dst src t0) := by
  intro h
  have h1 : BitVec.extractLsb' 12 1 (boolBits sat ++ (dst.toBits ++ src.toBits)) = boolBits sat := part_cvt_hi ..
  have h2 : BitVec.extractLsb' 6 6 (boolBits sat ++ (dst.toBits ++ src.toBits)) = dst.toBits := part_cvt_mid ..
  have h3 : BitVec.extractLsb' 0 6 (boolBits sat ++ (dst.toBits ++ src.toBits)) = src.toBits := part_cvt_lo ..
  show decode (mkFX 0x68#8 pm.toBits ((boolBits sat) ++ (dst.toBits ++ src.toBits)) t0.toBits) = _
  simp [decode, decodeFields, decode6, withPm, withTarget, withField, h, h1, h2, h3]

theorem hadd2 (pm : Pm) (rm : Rnd) (ty : FTy) (t0 : Target) (t1 : Target) : Statement (.hadd2 pm rm ty t0 t1) := by
  intro h
  show decode (mkF2 0x69#8 pm.toBits (rm.toBits ++ ty.toBits) t0.toBits t1.toBits) = _
  simp [decode, decodeFields, decode6, withPm, withTarget, withField, mustBeZero, mustBe, h]

theorem hmul2 (pm : Pm) (rm : Rnd) (ty : FTy) (t0 : Target) (t1 : Target) : Statement (.hmul2 pm rm ty t0 t1) := by
  intro h
  show decode (mkF2 0x6A#8 pm.toBits (rm.toBits ++ ty.toBits) t0.toBits t1.toBits) = _
  simp [decode, decodeFields, decode6, withPm, withTarget, withField, mustBeZero, mustBe, h]

theorem hfma2 (pm : Pm) (rm : Rnd) (ty : FTy) (t0 : Target) (t1 : Target) : Statement (.hfma2 pm rm ty t0 t1) := by
  intro h
  show decode (mkF2 0x6B#8 pm.toBits (rm.toBits ++ ty.toBits) t0.toBits t1.toBits) = _
  simp [decode, decodeFields, decode6, withPm, withTarget, withField, mustBeZero, mustBe, h]

theorem hmax2 (pm : Pm) (ty : FTy) (t0 : Target) (t1 : Target) : Statement (.hmax2 pm ty t0 t1) := by
  intro h
  show decode (mkF2 0x6C#8 pm.toBits (0#2 ++ ty.toBits) t0.toBits t1.toBits) = _
  simp [decode, decodeFields, decode6, withPm, withTarget, withField, mustBeZero, mustBe, h]

theorem dot4 (pm : Pm) (ty : Dot4Ty) (t0 : Target) (t1 : Target) : Statement (.dot4 pm ty t0 t1) := by
  intro h
  show decode (mkF2 0x6D#8 pm.toBits ty.toBits t0.toBits t1.toBits) = _
  simp [decode, decodeFields, decode6, withPm, withTarget, withField, mustBeZero, mustBe, h]

theorem shfl (pm : Pm) (t0 : Target) (t1 : Target) : Statement (.shfl pm t0 t1) := by
  intro h
  show decode (mkF2 0x80#8 pm.toBits 0#4 t0.toBits t1.toBits) = _
  simp [decode, decodeFields, decode8, withPm, withTarget, withField, mustBeZero, mustBe, h]

theorem shfx (pm : Pm) (t0 : Target) (t1 : Target) : Statement (.shfx pm t0 t1) := by
  intro h
  show decode (mkF2 0x81#8 pm.toBits 0#4 t0.toBits t1.toBits) = _
  simp [decode, decodeFields, decode8, withPm, withTarget, withField, mustBeZero, mustBe, h]

theorem shup (pm : Pm) (t0 : Target) (t1 : Target) : Statement (.shup pm t0 t1) := by
  intro h
  show decode (mkF2 0x82#8 pm.toBits 0#4 t0.toBits t1.toBits) = _
  simp [decode, decodeFields, decode8, withPm, withTarget, withField, mustBeZero, mustBe, h]

theorem shdn (pm : Pm) (t0 : Target) (t1 : Target) : Statement (.shdn pm t0 t1) := by
  intro h
  show decode (mkF2 0x83#8 pm.toBits 0#4 t0.toBits t1.toBits) = _
  simp [decode, decodeFields, decode8, withPm, withTarget, withField, mustBeZero, mustBe, h]

theorem ballot (pm : Pm) (t0 : Target) (t1 : Target) : Statement (.ballot pm t0 t1) := by
  intro h
  show decode (mkF2 0x84#8 pm.toBits 0#4 t0.toBits t1.toBits) = _
  simp [decode, decodeFields, decode8, withPm, withTarget, withField, mustBeZero, mustBe, h]

theorem vany (pm : Pm) (t0 : Target) (t1 : Target) : Statement (.vany pm t0 t1) := by
  intro h
  show decode (mkF2 0x85#8 pm.toBits 0#4 t0.toBits t1.toBits) = _
  simp [decode, decodeFields, decode8, withPm, withTarget, withField, mustBeZero, mustBe, h]

theorem vall (pm : Pm) (t0 : Target) (t1 : Target) : Statement (.vall pm t0 t1) := by
  intro h
  show decode (mkF2 0x86#8 pm.toBits 0#4 t0.toBits t1.toBits) = _
  simp [decode, decodeFields, decode8, withPm, withTarget, withField, mustBeZero, mustBe, h]

theorem scan (pm : Pm) (op : RedOp) (t0 : Target) (t1 : Target) : Statement (.scan pm op t0 t1) := by
  intro h
  show decode (mkF2 0x87#8 pm.toBits op.toBits t0.toBits t1.toBits) = _
  simp [decode, decodeFields, decode8, withPm, withTarget, withField, mustBeZero, mustBe, h]

theorem redl (pm : Pm) (op : RedOp) (t0 : Target) (t1 : Target) : Statement (.redl pm op t0 t1) := by
  intro h
  show decode (mkF2 0x88#8 pm.toBits op.toBits t0.toBits t1.toBits) = _
  simp [decode, decodeFields, decode8, withPm, withTarget, withField, mustBeZero, mustBe, h]

theorem bcast (pm : Pm) (t0 : Target) (t1 : Target) : Statement (.bcast pm t0 t1) := by
  intro h
  show decode (mkF2 0x89#8 pm.toBits 0#4 t0.toBits t1.toBits) = _
  simp [decode, decodeFields, decode8, withPm, withTarget, withField, mustBeZero, mustBe, h]

theorem curs (pm : Pm) (d : CursDim) (t0 : Target) (t1 : Target) : Statement (.curs pm d t0 t1) := by
  intro h
  show decode (mkF2 0x90#8 pm.toBits d.toBits t0.toBits t1.toBits) = _
  simp [decode, decodeFields, decode9, withPm, withTarget, withField, mustBeZero, mustBe, h]

theorem cursi (pm : Pm) (t0 : Target) (d : Dim) (imm : BitVec 10) : Statement (.cursi pm t0 d imm) := by
  intro h
  show decode (mkFI 0x91#8 pm.toBits t0.toBits (d.toBits ++ imm)) = _
  simp [decode, decodeFields, decode9, withPm, withTarget, withField, mustBeZero, mustBe, h]

theorem ld (pm : Pm) (w : MemTy) (t0 : Target) (t1 : Target) : Statement (.ld pm w t0 t1) := by
  intro h
  show decode (mkF2 0x92#8 pm.toBits w.toBits t0.toBits t1.toBits) = _
  simp [decode, decodeFields, decode9, withPm, withTarget, withField, mustBeZero, mustBe, h]

theorem st (pm : Pm) (w : MemTy) (t0 : Target) (t1 : Target) : Statement (.st pm w t0 t1) := by
  intro h
  show decode (mkF2 0x93#8 pm.toBits w.toBits t0.toBits t1.toBits) = _
  simp [decode, decodeFields, decode9, withPm, withTarget, withField, mustBeZero, mustBe, h]

theorem ldsp (pm : Pm) (w : Width) (t0 : Target) (t1 : Target) : Statement (.ldsp pm w t0 t1) := by
  intro h
  show decode (mkF2 0x94#8 pm.toBits (0#2 ++ w.toBits) t0.toBits t1.toBits) = _
  simp [decode, decodeFields, decode9, withPm, withTarget, withField, mustBeZero, mustBe, h]

theorem stsp (pm : Pm) (w : Width) (t0 : Target) (t1 : Target) : Statement (.stsp pm w t0 t1) := by
  intro h
  show decode (mkF2 0x95#8 pm.toBits (0#2 ++ w.toBits) t0.toBits t1.toBits) = _
  simp [decode, decodeFields, decode9, withPm, withTarget, withField, mustBeZero, mustBe, h]

theorem lda (pm : Pm) (w : Width) (t0 : Target) (t1 : Target) : Statement (.lda pm w t0 t1) := by
  intro h
  show decode (mkF2 0x96#8 pm.toBits (0#2 ++ w.toBits) t0.toBits t1.toBits) = _
  simp [decode, decodeFields, decode9, withPm, withTarget, withField, mustBeZero, mustBe, h]

theorem sta (pm : Pm) (w : Width) (t0 : Target) (t1 : Target) : Statement (.sta pm w t0 t1) := by
  intro h
  show decode (mkF2 0x97#8 pm.toBits (0#2 ++ w.toBits) t0.toBits t1.toBits) = _
  simp [decode, decodeFields, decode9, withPm, withTarget, withField, mustBeZero, mustBe, h]

theorem atom (pm : Pm) (op : AtomOp) (t0 : Target) (w64 : Bool) (ord : Order) (sc : Scope) : Statement (.atom pm op t0 w64 ord sc) := by
  intro h
  show decode (mkF2 0x98#8 pm.toBits op.toBits t0.toBits (mkOrd (boolBits w64) ord.toBits sc.toBits)) = _
  simp [decode, decodeFields, decode9, withPm, withTarget, withField, mustBeZero, mustBe, h]

theorem cas (pm : Pm) (t0 : Target) (w64 : Bool) (ord : Order) (sc : Scope) : Statement (.cas pm t0 w64 ord sc) := by
  intro h
  show decode (mkF2 0x99#8 pm.toBits 0#4 t0.toBits (mkOrd (boolBits w64) ord.toBits sc.toBits)) = _
  simp [decode, decodeFields, decode9, withPm, withTarget, withField, mustBeZero, mustBe, h]

theorem fatom (pm : Pm) (op : FatomOp) (t0 : Target) (ord : Order) (sc : Scope) : Statement (.fatom pm op t0 ord sc) := by
  intro h
  show decode (mkF2 0x9A#8 pm.toBits op.toBits t0.toBits (mkOrd 0#1 ord.toBits sc.toBits)) = _
  simp [decode, decodeFields, decode9, withPm, withTarget, withField, mustBeZero, mustBe, h]

theorem redo (pm : Pm) (t0 : Target) (relOrd : Bool) (sc : Scope) : Statement (.redo pm t0 relOrd sc) := by
  intro h
  show decode (mkF2 0x9B#8 pm.toBits 0#4 t0.toBits (mkOrd 0#1 (boolBits relOrd ++ 0#1) sc.toBits)) = _
  simp [decode, decodeFields, decode9, withPm, withTarget, withField, mustBeZero, mustBe, h]

theorem fence (pm : Pm) (sc : Scope) (t0 : Target) (t1 : Target) : Statement (.fence pm sc t0 t1) := by
  intro h
  show decode (mkF2 0x9C#8 pm.toBits (0#2 ++ sc.toBits) t0.toBits t1.toBits) = _
  simp [decode, decodeFields, decode9, withPm, withTarget, withField, mustBeZero, mustBe, h]

theorem pref (pm : Pm) (lv : PrefLevel) (t0 : Target) (t1 : Target) : Statement (.pref pm lv t0 t1) := by
  intro h
  show decode (mkF2 0x9D#8 pm.toBits (0#3 ++ lv.toBits) t0.toBits t1.toBits) = _
  simp [decode, decodeFields, decode9, withPm, withTarget, withField, mustBeZero, mustBe, h]

theorem hqry (pm : Pm) (q : HqryItem) (t0 : Target) (t1 : Target) : Statement (.hqry pm q t0 t1) := by
  intro h
  show decode (mkF2 0x9E#8 pm.toBits q.toBits t0.toBits t1.toBits) = _
  simp [decode, decodeFields, decode9, withPm, withTarget, withField, mustBeZero, mustBe, h]

theorem arrive (pm : Pm) (t0 : Target) (t1 : Target) : Statement (.arrive pm t0 t1) := by
  intro h
  show decode (mkF2 0x9F#8 pm.toBits 0#4 t0.toBits t1.toBits) = _
  simp [decode, decodeFields, decode9, withPm, withTarget, withField, mustBeZero, mustBe, h]

theorem waitb (pm : Pm) (t0 : Target) (t1 : Target) : Statement (.waitb pm t0 t1) := by
  intro h
  show decode (mkF2 0xA0#8 pm.toBits 0#4 t0.toBits t1.toBits) = _
  simp [decode, decodeFields, decodeA, withPm, withTarget, withField, mustBeZero, mustBe, h]

theorem hresFetch (pm : Pm) (t0 : Target) (t1 : Target) : Statement (.hresFetch pm t0 t1) := by
  intro h
  show decode (mkF2 0xA1#8 pm.toBits 0#4 t0.toBits t1.toBits) = _
  simp [decode, decodeFields, decodeA, withPm, withTarget, withField, mustBeZero, mustBe, h]

theorem hresRelease (pm : Pm) (t0 : Target) (t1 : Target) : Statement (.hresRelease pm t0 t1) := by
  intro h
  show decode (mkF2 0xA1#8 pm.toBits 1#4 t0.toBits t1.toBits) = _
  simp [decode, decodeFields, decodeA, withPm, withTarget, withField, mustBeZero, mustBe, h]

theorem mma (pm : Pm) (ty : MxTy) (t0 : Target) (t1 : Target) : Statement (.mma pm ty t0 t1) := by
  intro h
  have h1 : MxTy.ofBits ((ty.toBits.setWidth 3).setWidth 4) = some ty := by cases ty <;> rfl
  show decode (mkF2 0xB0#8 pm.toBits (0#1 ++ (ty.toBits.setWidth 3)) t0.toBits t1.toBits) = _
  simp [-BitVec.setWidth_setWidth, decode, decodeFields, decodeB, withPm, withTarget, withField, mustBeZero, h, h1]

theorem mmas (pm : Pm) (ty : MxTy) (t0 : Target) (t1 : Target) : Statement (.mmas pm ty t0 t1) := by
  intro h
  show decode (mkF2 0xB1#8 pm.toBits ty.toBits t0.toBits t1.toBits) = _
  simp [decode, decodeFields, decodeB, withPm, withTarget, withField, mustBeZero, mustBe, h]

theorem wld (pm : Pm) (ty : MxTy) (t0 : Target) (t1 : Target) : Statement (.wld pm ty t0 t1) := by
  intro h
  have h1 : MxTy.ofBits ((ty.toBits.setWidth 3).setWidth 4) = some ty := by cases ty <;> rfl
  show decode (mkF2 0xB2#8 pm.toBits (0#1 ++ (ty.toBits.setWidth 3)) t0.toBits t1.toBits) = _
  simp [-BitVec.setWidth_setWidth, decode, decodeFields, decodeB, withPm, withTarget, withField, mustBeZero, h, h1]

theorem aclr (pm : Pm) (t0 : Target) (t1 : Target) : Statement (.aclr pm t0 t1) := by
  intro h
  show decode (mkF2 0xB3#8 pm.toBits 0#4 t0.toBits t1.toBits) = _
  simp [decode, decodeFields, decodeB, withPm, withTarget, withField, mustBeZero, mustBe, h]

theorem acvt (pm : Pm) (ty : AcvtTy) (t0 : Target) (t1 : Target) : Statement (.acvt pm ty t0 t1) := by
  intro h
  show decode (mkF2 0xB4#8 pm.toBits ty.toBits t0.toBits t1.toBits) = _
  simp [decode, decodeFields, decodeB, withPm, withTarget, withField, mustBeZero, mustBe, h]

theorem aadd (pm : Pm) (t0 : Target) (t1 : Target) : Statement (.aadd pm t0 t1) := by
  intro h
  show decode (mkF2 0xB5#8 pm.toBits 0#4 t0.toBits t1.toBits) = _
  simp [decode, decodeFields, decodeB, withPm, withTarget, withField, mustBeZero, mustBe, h]

theorem cpy (pm : Pm) (t0 : Target) (t1 : Target) : Statement (.cpy pm t0 t1) := by
  intro h
  show decode (mkF2 0xC0#8 pm.toBits 0#4 t0.toBits t1.toBits) = _
  simp [decode, decodeFields, decodeC, withPm, withTarget, withField, mustBeZero, mustBe, h]

theorem cpyg (pm : Pm) (t0 : Target) (t1 : Target) : Statement (.cpyg pm t0 t1) := by
  intro h
  show decode (mkF2 0xC1#8 pm.toBits 0#4 t0.toBits t1.toBits) = _
  simp [decode, decodeFields, decodeC, withPm, withTarget, withField, mustBeZero, mustBe, h]

theorem cpys (pm : Pm) (t0 : Target) (t1 : Target) : Statement (.cpys pm t0 t1) := by
  intro h
  show decode (mkF2 0xC2#8 pm.toBits 0#4 t0.toBits t1.toBits) = _
  simp [decode, decodeFields, decodeC, withPm, withTarget, withField, mustBeZero, mustBe, h]

theorem cpyr (pm : Pm) (op : CpyrOp) (t0 : Target) (t1 : Target) : Statement (.cpyr pm op t0 t1) := by
  intro h
  show decode (mkF2 0xC3#8 pm.toBits (0#2 ++ op.toBits) t0.toBits t1.toBits) = _
  simp [decode, decodeFields, decodeC, withPm, withTarget, withField, mustBeZero, mustBe, h]

theorem cpybsToplanes (pm : Pm) (t0 : Target) (t1 : Target) : Statement (.cpybsToplanes pm t0 t1) := by
  intro h
  show decode (mkF2 0xC4#8 pm.toBits 0#4 t0.toBits t1.toBits) = _
  simp [decode, decodeFields, decodeC, withPm, withTarget, withField, mustBeZero, mustBe, h]

theorem cpybsFromplanes (pm : Pm) (t0 : Target) (t1 : Target) : Statement (.cpybsFromplanes pm t0 t1) := by
  intro h
  show decode (mkF2 0xC4#8 pm.toBits 1#4 t0.toBits t1.toBits) = _
  simp [decode, decodeFields, decodeC, withPm, withTarget, withField, mustBeZero, mustBe, h]

theorem cpyt (pm : Pm) (t0 : Target) (t1 : Target) : Statement (.cpyt pm t0 t1) := by
  intro h
  show decode (mkF2 0xC5#8 pm.toBits 0#4 t0.toBits t1.toBits) = _
  simp [decode, decodeFields, decodeC, withPm, withTarget, withField, mustBeZero, mustBe, h]

theorem cpyhTohost (pm : Pm) (t0 : Target) (t1 : Target) : Statement (.cpyhTohost pm t0 t1) := by
  intro h
  show decode (mkF2 0xC6#8 pm.toBits 0#4 t0.toBits t1.toBits) = _
  simp [decode, decodeFields, decodeC, withPm, withTarget, withField, mustBeZero, mustBe, h]

theorem cpyhFromhost (pm : Pm) (t0 : Target) (t1 : Target) : Statement (.cpyhFromhost pm t0 t1) := by
  intro h
  show decode (mkF2 0xC6#8 pm.toBits 1#4 t0.toBits t1.toBits) = _
  simp [decode, decodeFields, decodeC, withPm, withTarget, withField, mustBeZero, mustBe, h]

theorem cpyf (pm : Pm) (t0 : Target) (t1 : Target) : Statement (.cpyf pm t0 t1) := by
  intro h
  show decode (mkF2 0xC7#8 pm.toBits 0#4 t0.toBits t1.toBits) = _
  simp [decode, decodeFields, decodeC, withPm, withTarget, withField, mustBeZero, mustBe, h]

theorem lkctx (pm : Pm) (sl : BitVec 2) (t0 : Target) (t1 : Target) : Statement (.lkctx pm sl t0 t1) := by
  intro h
  show decode (mkF2 0xD0#8 pm.toBits (0#2 ++ sl) t0.toBits t1.toBits) = _
  simp [decode, decodeFields, decodeD, withPm, withTarget, withField, mustBeZero, mustBe, h]

theorem lkrun (pm : Pm) (sl : BitVec 2) (t0 : Target) (t1 : Target) : Statement (.lkrun pm sl t0 t1) := by
  intro h
  show decode (mkF2 0xD1#8 pm.toBits (0#2 ++ sl) t0.toBits t1.toBits) = _
  simp [decode, decodeFields, decodeD, withPm, withTarget, withField, mustBeZero, mustBe, h]

theorem lkst (pm : Pm) (t0 : Target) (t1 : Target) : Statement (.lkst pm t0 t1) := by
  intro h
  show decode (mkF2 0xD2#8 pm.toBits 0#4 t0.toBits t1.toBits) = _
  simp [decode, decodeFields, decodeD, withPm, withTarget, withField, mustBeZero, mustBe, h]

theorem tvec (pm : Pm) (t0 : Target) (t1 : Target) : Statement (.tvec pm t0 t1) := by
  intro h
  show decode (mkF2 0xD8#8 pm.toBits 0#4 t0.toBits t1.toBits) = _
  simp [decode, decodeFields, decodeD, withPm, withTarget, withField, mustBeZero, mustBe, h]

theorem tgemv (pm : Pm) (ty : MxTy) (t0 : Target) (t1 : Target) : Statement (.tgemv pm ty t0 t1) := by
  intro h
  show decode (mkF2 0xD9#8 pm.toBits ty.toBits t0.toBits t1.toBits) = _
  simp [decode, decodeFields, decodeD, withPm, withTarget, withField, mustBeZero, mustBe, h]

theorem tgemvs (pm : Pm) (ty : MxTy) (t0 : Target) (t1 : Target) : Statement (.tgemvs pm ty t0 t1) := by
  intro h
  show decode (mkF2 0xDA#8 pm.toBits ty.toBits t0.toBits t1.toBits) = _
  simp [decode, decodeFields, decodeD, withPm, withTarget, withField, mustBeZero, mustBe, h]

theorem tred (pm : Pm) (t0 : Target) (t1 : Target) : Statement (.tred pm t0 t1) := by
  intro h
  show decode (mkF2 0xDB#8 pm.toBits 0#4 t0.toBits t1.toBits) = _
  simp [decode, decodeFields, decodeD, withPm, withTarget, withField, mustBeZero, mustBe, h]

theorem trap (pm : Pm) (code : BitVec 13) (t0 : Target) : Statement (.trap pm code t0) := by
  intro h
  show decode (mkFX 0xE0#8 pm.toBits code t0.toBits) = _
  simp [decode, decodeFields, decodeE, withPm, withTarget, withField, mustBeZero, mustBe, h]

theorem brk (pm : Pm) (code : BitVec 13) (t0 : Target) : Statement (.brk pm code t0) := by
  intro h
  show decode (mkFX 0xE1#8 pm.toBits code t0.toBits) = _
  simp [decode, decodeFields, decodeE, withPm, withTarget, withField, mustBeZero, mustBe, h]

theorem rdsr (pm : Pm) (sr : SysReg) (t0 : Target) : Statement (.rdsr pm sr t0) := by
  intro h
  show decode (mkFX 0xE2#8 pm.toBits sr.toBits t0.toBits) = _
  simp [decode, decodeFields, decodeE, withPm, withTarget, withField, mustBeZero, mustBe, h]

theorem wrsr (pm : Pm) (sr : SysReg) (t0 : Target) : Statement (.wrsr pm sr t0) := by
  intro h
  show decode (mkFX 0xE3#8 pm.toBits sr.toBits t0.toBits) = _
  simp [decode, decodeFields, decodeE, withPm, withTarget, withField, mustBeZero, mustBe, h]

theorem resume (pm : Pm) (t0 : Target) : Statement (.resume pm t0) := by
  intro h
  show decode (mkFX 0xE4#8 pm.toBits 0#13 t0.toBits) = _
  simp [decode, decodeFields, decodeE, withPm, withTarget, withField, mustBeZero, mustBe, h]

theorem retry (pm : Pm) (t0 : Target) : Statement (.retry pm t0) := by
  intro h
  show decode (mkFX 0xE5#8 pm.toBits 0#13 t0.toBits) = _
  simp [decode, decodeFields, decodeE, withPm, withTarget, withField, mustBeZero, mustBe, h]

theorem abort (pm : Pm) (t0 : Target) : Statement (.abort pm t0) := by
  intro h
  show decode (mkFX 0xE6#8 pm.toBits 0#13 t0.toBits) = _
  simp [decode, decodeFields, decodeE, withPm, withTarget, withField, mustBeZero, mustBe, h]

theorem emx (k : BitVec 4) (pm : Pm) (sub : BitVec 4) (t0 : Target) (t1 : Target) : Statement (.emx k pm sub t0 t1) := by
  intro h
  have h1 : BitVec.extractLsb' 4 4 (15#4 ++ k) = 15#4 := extract_hi ..
  have h2 : BitVec.extractLsb' 0 4 (15#4 ++ k) = k := extract_lo ..
  show decode (mkF2 (15#4 ++ k) pm.toBits sub t0.toBits t1.toBits) = _
  simp only [decode, decodeFields, mkF2_28_4, h1]
  simp [withPm, withTarget, h, h2]

theorem launch (port : Nat) : Statement (.launch port) := fun h => by cases h

theorem tokenArrival (k : Nat) : Statement (.tokenArrival k) := fun h => by cases h

theorem penTimerExpiry (core : Nat) (pen : Nat) : Statement (.penTimerExpiry core pen) := fun h => by cases h

theorem flockRelease (core : Nat) : Statement (.flockRelease core) := fun h => by cases h

theorem priorityAging (core : Nat) : Statement (.priorityAging core) := fun h => by cases h

theorem memAccessPerformed (k : Nat) : Statement (.memAccessPerformed k) := fun h => by cases h

theorem releaseTokenDelivery (k : Nat) : Statement (.releaseTokenDelivery k) := fun h => by cases h

theorem spawnSubmission (k : Nat) : Statement (.spawnSubmission k) := fun h => by cases h

theorem spawnAnswer (k : Nat) : Statement (.spawnAnswer k) := fun h => by cases h

theorem nextGrant (core : Nat) : Statement (.nextGrant core) := fun h => by cases h

theorem enterGrant (core : Nat) : Statement (.enterGrant core) := fun h => by cases h

theorem entermGrant (core : Nat) : Statement (.entermGrant core) := fun h => by cases h

theorem explicitGrant (core : Nat) : Statement (.explicitGrant core) := fun h => by cases h

theorem contTokenGrant (core : Nat) : Statement (.contTokenGrant core) := fun h => by cases h

theorem leaveServe (core : Nat) : Statement (.leaveServe core) := fun h => by cases h

theorem closeServe (core : Nat) : Statement (.closeServe core) := fun h => by cases h

theorem dkillServe (core : Nat) : Statement (.dkillServe core) := fun h => by cases h

theorem killNotice (k : Nat) : Statement (.killNotice k) := fun h => by cases h

theorem killNoticeAck (k : Nat) : Statement (.killNoticeAck k) := fun h => by cases h

theorem eldestQuery (core : Nat) (k : Nat) : Statement (.eldestQuery core k) := fun h => by cases h

theorem eldestAnswer (core : Nat) (k : Nat) : Statement (.eldestAnswer core k) := fun h => by cases h

theorem spillRepresent (core : Nat) (ctx : Nat) : Statement (.spillRepresent core ctx) := fun h => by cases h

theorem quiescenceDetect (ctx : Nat) : Statement (.quiescenceDetect ctx) := fun h => by cases h

theorem droverForward (ctx : Nat) (comp : Nat) : Statement (.droverForward ctx comp) := fun h => by cases h

theorem launchComplete (ctx : Nat) : Statement (.launchComplete ctx) := fun h => by cases h

theorem orderedArrival (k : Nat) : Statement (.orderedArrival k) := fun h => by cases h

theorem orderedArrivalUnstall (k : Nat) : Statement (.orderedArrivalUnstall k) := fun h => by cases h

theorem barrierArrival (k : Nat) : Statement (.barrierArrival k) := fun h => by cases h

theorem barrierRegistration (k : Nat) : Statement (.barrierRegistration k) := fun h => by cases h

theorem otpoolWrite (v : Word) : Statement (.otpoolWrite v) := fun h => by cases h

theorem shootAck (core : Nat) : Statement (.shootAck core) := fun h => by cases h

theorem walk (k : Nat) : Statement (.walk k) := fun h => by cases h

theorem answer (v : Word) : Statement (.answer v) := fun h => by cases h

theorem wldExec (core : Nat) : Statement (.wldExec core) := fun h => by cases h

theorem mmaExec (core : Nat) : Statement (.mmaExec core) := fun h => by cases h

theorem mmasExec (core : Nat) : Statement (.mmasExec core) := fun h => by cases h

theorem aclrExec (core : Nat) : Statement (.aclrExec core) := fun h => by cases h

theorem acvtExec (core : Nat) : Statement (.acvtExec core) := fun h => by cases h

theorem aaddExec (core : Nat) : Statement (.aaddExec core) := fun h => by cases h

theorem mxuCompletion (core : Nat) : Statement (.mxuCompletion core) := fun h => by cases h

theorem cpyExec (core : Nat) : Statement (.cpyExec core) := fun h => by cases h

theorem cpygExec (core : Nat) : Statement (.cpygExec core) := fun h => by cases h

theorem cpysExec (core : Nat) : Statement (.cpysExec core) := fun h => by cases h

theorem cpyrExec (core : Nat) : Statement (.cpyrExec core) := fun h => by cases h

theorem cpybsExec (core : Nat) : Statement (.cpybsExec core) := fun h => by cases h

theorem cpytExec (core : Nat) : Statement (.cpytExec core) := fun h => by cases h

theorem cpyhExec (core : Nat) : Statement (.cpyhExec core) := fun h => by cases h

theorem cpyfExec (core : Nat) : Statement (.cpyfExec core) := fun h => by cases h

theorem copyCompletion (core : Nat) : Statement (.copyCompletion core) := fun h => by cases h

theorem lkfClaim (core : Nat) : Statement (.lkfClaim core) := fun h => by cases h

theorem lkfRelease (core : Nat) : Statement (.lkfRelease core) := fun h => by cases h

theorem lkfSlotFree (core : Nat) (slot : Nat) : Statement (.lkfSlotFree core slot) := fun h => by cases h

theorem lkrunExec (core : Nat) : Statement (.lkrunExec core) := fun h => by cases h

theorem lkrunCompletion (core : Nat) : Statement (.lkrunCompletion core) := fun h => by cases h

theorem tvecExec (core : Nat) : Statement (.tvecExec core) := fun h => by cases h

theorem tgemvExec (core : Nat) : Statement (.tgemvExec core) := fun h => by cases h

theorem tgemvsExec (core : Nat) : Statement (.tgemvsExec core) := fun h => by cases h

theorem tredExec (core : Nat) : Statement (.tredExec core) := fun h => by cases h

theorem troughCompletion (core : Nat) : Statement (.troughCompletion core) := fun h => by cases h

theorem handlerDispatch (ctx : Nat) (r : Nat) : Statement (.handlerDispatch ctx r) := fun h => by cases h

theorem responseTakesEffect (k : Nat) : Statement (.responseTakesEffect k) := fun h => by cases h

theorem drainComplete (ctx : Nat) : Statement (.drainComplete ctx) := fun h => by cases h

theorem preemption (ctx : Nat) (core : Nat) : Statement (.preemption ctx core) := fun h => by cases h

theorem preemptDump (ctx : Nat) (core : Nat) : Statement (.preemptDump ctx core) := fun h => by cases h

theorem restore (ctx : Nat) (core : Nat) : Statement (.restore ctx core) := fun h => by cases h

theorem pinfoldSlotFree (ctx : Nat) : Statement (.pinfoldSlotFree ctx) := fun h => by cases h

theorem pinextWrite (ctx : Nat) (k : Nat) (v : Word) : Statement (.pinextWrite ctx k v) := fun h => by cases h

theorem clockGate (core : Nat) : Statement (.clockGate core) := fun h => by cases h

theorem powerGate (core : Nat) : Statement (.powerGate core) := fun h => by cases h

theorem powerWake (core : Nat) : Statement (.powerWake core) := fun h => by cases h

theorem wakeComplete (core : Nat) : Statement (.wakeComplete core) := fun h => by cases h

theorem shedctlWrite (core : Nat) (v : Word) : Statement (.shedctlWrite core v) := fun h => by cases h

theorem shedReconfiguration (core : Nat) : Statement (.shedReconfiguration core) := fun h => by cases h

theorem coreCool (core : Nat) : Statement (.coreCool core) := fun h => by cases h

theorem linkFrame (port : Nat) (f : LinkFrame) : Statement (.linkFrame port f) := fun h => by cases h

theorem resendTimeout (port : Nat) : Statement (.resendTimeout port) := fun h => by cases h

theorem portDown (port : Nat) : Statement (.portDown port) := fun h => by cases h

theorem wread (port : Nat) : Statement (.wread port) := fun h => by cases h

theorem wwrite (port : Nat) : Statement (.wwrite port) := fun h => by cases h

theorem memreq (port : Nat) : Statement (.memreq port) := fun h => by cases h

theorem memrsp (port : Nat) : Statement (.memrsp port) := fun h => by cases h

theorem registerWrite (addr : Nat) (v : Word) : Statement (.registerWrite addr v) := fun h => by cases h

theorem gangStart (ctx : Nat) : Statement (.gangStart ctx) := fun h => by cases h

theorem gangControl (port : Nat) : Statement (.gangControl port) := fun h => by cases h

theorem timeExchange (port : Nat) : Statement (.timeExchange port) := fun h => by cases h

theorem powerArbiter (dieW stackW : Nat) (budgets : List Nat) : Statement (.powerArbiter dieW stackW budgets) := fun h => by cases h

theorem budgetWindow (stack : Nat) : Statement (.budgetWindow stack) := fun h => by cases h

theorem currentAlarm (die : Nat) : Statement (.currentAlarm die) := fun h => by cases h

theorem refreshTemperature (stack : Nat) (layer : Nat) (temp : Nat) : Statement (.refreshTemperature stack layer temp) := fun h => by cases h

theorem portRetrained (port : Nat) : Statement (.portRetrained port) := fun h => by cases h

theorem railAlarmClear (die : Nat) : Statement (.railAlarmClear die) := fun h => by cases h

theorem lastingListClear (addr : Nat) : Statement (.lastingListClear addr) := fun h => by cases h

theorem launchAdmission : Statement (.launchAdmission) := fun h => by cases h

theorem shoot : Statement (.shoot) := fun h => by cases h

theorem publish : Statement (.publish) := fun h => by cases h

theorem shootres : Statement (.shootres) := fun h => by cases h

theorem claimCycle : Statement (.claimCycle) := fun h => by cases h

theorem topo : Statement (.topo) := fun h => by cases h

theorem verify : Statement (.verify) := fun h => by cases h

theorem activate : Statement (.activate) := fun h => by cases h

theorem attest : Statement (.attest) := fun h => by cases h

theorem syncLoss : Statement (.syncLoss) := fun h => by cases h

theorem reset : Statement (.reset) := fun h => by cases h

end Sys2Proof.Laws.RoundTrip
end

