-- ==== Sys2Proof/Tests/Slice0.lean ====
section
/-! SUPPORT. Tests: ill-formed terms that each check refuses; words of the spec's own encodings; results that the spec's tables
and worked examples give; and, for the statements that have hypotheses, states and operands that meet them. Expected results
are the spec's (the rule or chapter stands at each). -/

namespace Sys2Proof.Tests
open Sys2Proof Sys2Proof.Machine

/-! ### Well-formedness: a term that each check refuses -/

theorem test_wf_same_targets : Instr.wf (.add .always .i8 (.reg 3) (.reg 3)) = false := by decide
theorem test_wf_both_none : Instr.wf (.add .always .i8 .none .none) = true := by decide
theorem test_wf_frame_slot : Instr.wf (.ldf .always 8 .none .none) = false := by decide
theorem test_wf_frame_void_slot : Instr.wf (.ldfv .always 8 .none .none) = false := by decide
theorem test_wf_constant : Instr.wf (.ldk .always 15 .none .none) = false := by decide
theorem test_wf_send_mode : Instr.wf (.send .always .next 0 0 none false) = false := by decide
theorem test_wf_sendv_mode : Instr.wf (.sendv .always .enter 0 0 none false) = false := by decide
theorem test_wf_cont_mode : Instr.wf (.cont .always .enter 0 0 0) = false := by decide
theorem test_wf_abs_unsigned : Instr.wf (.abs .always .n8 .none .none) = false := by decide
theorem test_wf_shift_amount : Instr.wf (.shri .always .none .w32 32) = false := by decide
theorem test_wf_bswap_byte : Instr.wf (.bswap .always .w8 .none .none) = false := by decide
theorem test_wf_sext_full : Instr.wf (.sext .always .w64 .none .none) = false := by decide
theorem test_wf_zext_full : Instr.wf (.zext .always .w64 .none .none) = false := by decide
theorem test_wf_packed_type : Instr.wf (.hadd2 .always .rne .f32 .none .none) = false := by decide
theorem test_wf_cvt_pair : Instr.wf (.cvt .rne .always false (.int .i8) (.b8 false false .p4) .none) = false := by decide
theorem test_wf_mmas_type : Instr.wf (.mmas .always .bf16 .none .none) = false := by decide
theorem test_wf_tgemv_type : Instr.wf (.tgemv .always .i4 .none .none) = false := by decide
theorem test_wf_tgemvs_type : Instr.wf (.tgemvs .always .i8 .none .none) = false := by decide
theorem test_wf_wrsr_read_only : Instr.wf (.wrsr .always .fcount .none) = false := by decide
theorem test_wf_event : Instr.wf .launchAdmission = false := by decide

/-! ### Decoding: words of the spec's encodings, one or more of each family -/

theorem test_decode_movi : decode 0x06082002 = .ok (.movi .always (.latch .a 1) 2) := by rfl
theorem test_decode_unpk : decode 0x4E050442 = .ok (.unpk .always .h32 (.latch .b 2) (.latch .a 2)) := by rfl
theorem test_decode_div : decode 0x28188683 = .ok (.div .always .n32 (.latch .a 3) (.latch .b 3)) := by rfl
theorem test_decode_cmpi : decode 0x4720A401 = .ok (.cmpi .always (.latch .p 5) .lt 1) := by rfl
theorem test_decode_ffma : decode 0x533B0400 = .ok (.ffma .always .rup .bf16 (.reg 2) .none) := by rfl
theorem test_decode_cvt : decode 0x64292185 = .ok (.cvt .rne .always true .bf16 .f32 (.reg 5)) := by rfl
theorem test_decode_send : decode 0x10000010 = .ok (.send .always .same 0 1 none false) := by rfl
theorem test_decode_next : decode 0x1809009B = .ok (.next .always 1 9 (some .die) true) := by rfl
theorem test_decode_scan : decode 0x87070784 = .ok (.scan .always .addF32 (.reg 3) (.reg 4)) := by rfl
theorem test_decode_curs : decode 0x90230600 = .ok (.curs .always .pair0 (.reg 3) .none) := by rfl
theorem test_decode_cas : decode 0x99030A06 = .ok (.cas .always (.reg 5) false .acq .pkg) := by rfl
theorem test_decode_cpyr : decode 0xC3080000 = .ok (.cpyr .always .maxF32 .none .none) := by rfl
theorem test_decode_lkctx : decode 0xD00B1200 = .ok (.lkctx .always 2 (.reg 9) .none) := by rfl
theorem test_decode_tgemv : decode 0xD9030800 = .ok (.tgemv .always .bf16 (.reg 4) .none) := by rfl
theorem test_decode_brk : decode 0xE1000B81 = .ok (.brk .always 5 (.reg 1)) := by rfl
theorem test_decode_emx : decode 0xF0010600 = .ok (.emx 0 .always 0 (.latch .b 3) .none) := by rfl
/-- R79: an amount not less than the width is illegal; R56: opcode 0x00; R74: `abs` of an unsigned type. -/
theorem test_decode_refuses_amount : (decode 0x3A0000A0).toOption = none := by rfl
theorem test_decode_refuses_zero : (decode 0x00000000).toOption = none := by rfl
theorem test_decode_refuses_abs_unsigned : (decode 0x2C100000).toOption = none := by rfl

/-! ### One word issued to one lane -/

/-- The flock of one lane whose only instruction has the latches of `k`. -/
def flk (k : Cell := {}) : Flock := { oneLaneFlock with lanes := oneLaneFlock.lanes.map fun l => { l with cells := [k] } }

/-- Its lane. -/
def lan (k : Cell := {}) : Lane :=
  { fid := 2, lane := 0, fsize := 1, tag := Tag.ofBits 0, epoch := 0, hpkg := 0, frame := [(0, false)], place := none, cells := [k] }

/-- After reset, a word placed and issued to that lane. -/
def st (i : Instr) (k : Cell := {}) : State :=
  let s := State.reset.placeWord (encode i)
  { s with agenda := [], focus := some { flock := 1, idx := 0 }, flocks := [flk k] }

/-- Latches that hold values. -/
def abc (a b c : Word) (p : Bool := false) : Cell := { a := { bits := a }, b := { bits := b }, c := { bits := c }, p := p }

/-- What an instruction delivers to T0 and T1 from some latches. -/
def gives (i : Instr) (k : Cell) : Option (Word × Word) :=
  match exec i (st i k) with
  | .next t => ((t.lane? 2).bind (·.cells[0]?)).map fun c => (c.r0.bits, c.r1.bits)
  | _ => none

/-! R76, the table of borderline results. -/
theorem test_div_negative : gives (.div .always .i8 .none .none) (abc 0xF9 2 0) = some (0xFFFFFFFFFFFFFFFD, 0xFFFFFFFFFFFFFFFF) := by decide
theorem test_div_by_zero : gives (.div .always .n8 .none .none) (abc 0xFB 0 0) = some (0xFF, 0xFB) := by decide
theorem test_rem_overflow : gives (.rem .always .i8 .none .none) (abc 0x80 0xFF 0) = some (0, 0) := by decide
theorem test_addSat_clamps : gives (.addSat .always .i8 .none .none) (abc 100 100 0) = some (0x7F, 0x7F) := by decide
theorem test_subSat_clamps : gives (.subSat .always .n8 .none .none) (abc 3 9 0) = some (0, 0) := by decide
theorem test_abs_least : gives (.abs .always .i8 .none .none) (abc 0x80 0 0) = some (0xFFFFFFFFFFFFFF80, 0xFFFFFFFFFFFFFF80) := by decide
theorem test_mulh_signed : gives (.mulh .always .i8 .none .none) (abc 0x80 2 0) = some (0xFFFFFFFFFFFFFFFF, 0xFFFFFFFFFFFFFFFF) := by decide
theorem test_mulh_natural : gives (.mulh .always .n8 .none .none) (abc 0x80 2 0) = some (1, 1) := by decide
/-! R86 with its worked program; R78 at and above the width; R83's example of an immediate below zero. -/
theorem test_unpk : gives (.unpk .always .h32 .none .none) (abc 0x0000006400000007 0 0) = some (7, 100) := by decide
theorem test_pack2 : gives (.pack2 .always .h32 .none .none) (abc 14 2 0) = some (0x000000020000000E, 0x000000020000000E) := by decide
theorem test_sar_width : gives (.sar .always .w8 .none .none) (abc 0x80 8 0) = some (0xFFFFFFFFFFFFFFFF, 0xFFFFFFFFFFFFFFFF) := by decide
theorem test_rotl_wraps : gives (.rotl .always .w8 .none .none) (abc 0x81 9 0) = some (3, 3) := by decide
theorem test_cmpi_ltu : gives (.cmpi .always .none .ltu 0x3FF) (abc 0xFFFFFFFFFFFFFFFF 0 0) = some (0, 0) := by decide
theorem test_bfx_signed : gives (.bfx .always true .none .none) (abc 0xF0 0x0404 0) = some (0xFFFFFFFFFFFFFFFF, 0xFFFFFFFFFFFFFFFF) := by decide
theorem test_movhi_chain : gives (.movhi .always .none 5) (abc 1 0 0) = some (0x2005, 0x2005) := by decide
/-! R28: not performed delivers nothing; R84. -/
theorem test_not_performed : gives (.add .ifTrue .i8 .none .none) (abc 1 1 0) = some (0, 0) := by decide
theorem test_sel_false : gives (.sel .always .none .none) (abc 7 9 0) = some (9, 9) := by decide
/-! Number formats: the worked encodings and conversions. -/
theorem test_cvt_b8p4_rne : gives (.cvt .rne .always false (.b8 false false .p4) .f32 .none) (abc 0x3E99999A 0 0) = some (0x32, 0x32) := by decide
theorem test_cvt_b8p4_rdn_negative : gives (.cvt .rdn .always false (.b8 false false .p4) .f32 .none) (abc 0xBE99999A 0 0) = some (0xB2, 0xB2) := by decide
theorem test_cvt_f16_overflow : gives (.cvt .rne .always false .f16 .f32 .none) (abc 0x477FF000 0 0) = some (0x7C00, 0x7C00) := by decide
theorem test_cvt_int_clamps : gives (.cvt .rne .always false (.int .i8) .f32 .none) (abc 0x4348B333 0 0) = some (127, 127) := by decide
theorem test_cvt_e2m1_saturates : gives (.cvt .rne .always false .e2m1 .f32 .none) (abc 0x40E00000 0 0) = some (7, 7) := by decide
theorem test_aligned_sum_keeps : alignedSum [decodeFmt .f32 0x4B800000, decodeFmt .f32 0x3F800000, decodeFmt .f32 0xCB800000] = 0x3F800000 := by decide
theorem test_aligned_sum_truncates :
    alignedSum [(decodeFmt .bf16 0x3380).mul (decodeFmt .bf16 0x3F80), (decodeFmt .bf16 0x3080).mul (decodeFmt .bf16 0x3080),
      decodeFmt .f32 0x3F800000] = 0x3F800000 := by decide
/-! Floating point: 1/3 is estimated and refined (R118, R111); R113; R116 and R121. -/
theorem test_fdiv : gives (.fdiv .always .rne .f32 .none .none) (abc 0x3F800000 0x40400000 0) = some (0x3EAAAAAB, 0x3EAAAAAB) := by decide
theorem test_fneg_nan : gives (.fneg .always .f16 .none .none) (abc 0x7E01 0 0) = some (0x7E00, 0x7E00) := by decide
theorem test_fclass_subnormal : gives (.fclass .always .bf16 .none .none) (abc 0x8001 0 0) = some (4, 4) := by decide
theorem test_fcmp_unordered : gives (.fcmp .always .eq .f32 .none .none) (abc 0x7FC00000 0x7FC00000 0) = some (0, 1) := by decide
/-! R426, a token from core 5 of package 3 to core 66 of package 8. -/
theorem test_token_header : msgHeader 8 66 3 5 0 0 = 0x001084000C140000 := by decide
/-! Tensor objects: the tiled example's offsets and coordinates, and the cursor steps over it. -/

/-- The record of handle 12 in the tiled example. -/
def tiled : ObjRec :=
  { fill := 0, smode := 0, first := 0, tn := 0, tmode := 1, td0 := 2, td1 := 1, swz := 0, rmap := 0, splane := 0, str := [8, 16],
    ext := [6, 3], base := 0x40000000, state := 1, kind := 0, format := 0x12, scale := 0, rank := 2, coh := 0, resmg := false,
    eng := false, atomp := false, write := false, read := true, oospol := 1, gran := 0, gen := 0, pkg := 0, reservedZero := true,
    dw0 := 1 }

/-- The core's record cache holds a record under handle 12. -/
def withRec (r : ObjRec) (s : State) : State := { s with orc := [{ core := 0, ctx := 0, handle := 12, rec_ := r, used := 0 }] }

/-- What a cursor word delivers from a cursor of that handle. -/
def steps (i : Instr) (k : Cell) : Option Word :=
  match exec i (withRec tiled (st i k)) with
  | .next t => ((t.lane? 2).bind (·.cells[0]?)).map fun c => c.r0.bits
  | _ => none

theorem test_tiled_offset : tiled.offset [5, 1] = 13 ∧ tiled.offset [5, 2] = 25 := by decide
theorem test_tiled_coords : tiled.coords 7 = some [3, 1] ∧ tiled.coords 29 = none ∧ tiled.coords 32 = none := by decide
theorem test_curs_pair : steps (.curs .always .pair0 .none .none) (abc 0x0000C00000000000 5 2) = some 0x0000C00000000019 := by decide
theorem test_cursi_leaves : steps (.cursi .always .none .d1 1) (abc 0x0000C00000000019 0 0) = some 0x8000C00000000019 := by decide
theorem test_ld_out_fills : steps (.ld .always .elem .none .none) (abc 0x8000C00000000019 0 0) = some 0 := by decide
theorem test_cursi_sticky : steps (.cursi .always .none .d1 0x3FF) (abc 0x8000C00000000019 0 0) = some 0x8000C00000000019 := by decide

/-! Cross-lane results, worked: group 0 without lane 4. -/

/-- A lane of the worked group with its A and B. -/
def gl (n : Nat) (a b : Word) : Lane :=
  { fid := 2 + n, lane := n, fsize := 7, tag := Tag.ofBits 0, epoch := 0, hpkg := 0, frame := [], place := none, cells := [abc a b 0] }

/-- What a cross-lane word delivers to T0 and T1 of every lane. -/
def cross (i : Instr) (l : List Lane) : List (Word × Word) :=
  match exec i { st i with flocks := [{ flk with lanes := l }] } with
  | .next t => t.flocks.flatMap fun f => f.lanes.flatMap fun ln => ln.cells.map fun c => (c.r0.bits, c.r1.bits)
  | _ => []

def flags : List Lane := [gl 0 1 0, gl 1 0 0, gl 2 1 0, gl 3 1 0, gl 5 1 0, gl 6 1 0, gl 7 1 0]
def values : List Lane := [gl 0 3 1, gl 1 0 1, gl 2 5 1, gl 3 1 1, gl 5 2 1, gl 6 4 1, gl 7 1 1]

theorem test_scan : cross (.scan .always .addI64 .none .none) flags = [(1, 0), (1, 1), (2, 1), (3, 2), (4, 3), (5, 4), (6, 5)] := by decide
theorem test_shup : (cross (.shup .always .none .none) values).map (·.1) = [3, 3, 0, 5, 2, 2, 4] := by decide
theorem test_shfx : (cross (.shfx .always .none .none) values).map (·.1) = [0, 3, 1, 5, 2, 1, 4] := by decide
theorem test_ballot : (cross (.ballot .always .none .none) flags).map (·.1) = List.replicate 7 0xED := by decide
theorem test_vall : (cross (.vall .always .none .none) flags).map (·.1) = List.replicate 7 0 := by decide

/-! ### Witnesses: states and operands that meet the hypotheses of the statements

`Issued` and `OneLane` for every word: the statements on integer, floating-point, block-input, cross-lane, send, memory, engine and
system words. -/

theorem witness_Issued (i : Instr) (k : Cell) : Issued (st i k) (flk k) 0 := ⟨rfl, rfl⟩

theorem witness_OneLane (i : Instr) (a b c : Word) : OneLane (st i (abc a b c)) (flk (abc a b c)) 0 (lan (abc a b c)) (abc a b c) .always :=
  ⟨⟨rfl, rfl⟩, rfl, rfl, rfl, rfl⟩

/-- DecodeEncode and EncodeDecode. -/
theorem witness_DecodeEncode : Instr.wf (.cas .always (.reg 5) false .acq .pkg) = true ∧ Instr.wf .launchAdmission = false := by decide
theorem witness_EncodeDecode : decode 0x99030A06 = .ok (.cas .always (.reg 5) false .acq .pkg) := rfl

/-- UnassignedOpcodesRefused: the ends of every range. -/
theorem witness_UnassignedOpcodesRefused :
    ([0x00123456, 0x09000000, 0x0FFFFFFF, 0x1C000000, 0x1FFFFFFF, 0x2E000000, 0x2F000000, 0x4F000000, 0x6E000000, 0x7F000000, 0x8A000000,
      0x8F000000, 0xA2000000, 0xAF000000, 0xB6000000, 0xBF000000, 0xC8000000, 0xCF000000, 0xD3000000, 0xD7000000, 0xDC000000, 0xDF000000,
      0xE7000000, 0xEF000000] : List IWord).map (fun w => w.toNat / 2 ^ 24) =
    [0x00, 0x09, 0x0F, 0x1C, 0x1F, 0x2E, 0x2F, 0x4F, 0x6E, 0x7F, 0x8A, 0x8F, 0xA2, 0xAF, 0xB6, 0xBF, 0xC8, 0xCF, 0xD3, 0xD7, 0xDC, 0xDF,
      0xE7, 0xEF] := by decide

/-- StepRunsTheInstruction: the chosen word of an issue, and a step with no word. -/
theorem witness_StepRunsTheInstruction :
    let s : State := { st (.movi .always (.reg 1) 2) with focus := none }
    s.issueChoice 0 0 = some (flk, 0) ∧ (s.codeOf flk)[0]? = some (encode (.movi .always (.reg 1) 2)) ∧
      decode (encode (.movi .always (.reg 1) 2)) = .ok (.movi .always (.reg 1) 2) ∧ hasWord .launchAdmission = false := ⟨rfl, rfl, rfl, rfl⟩

/-- NotPerformedOnlyCounts. -/
theorem witness_NotPerformedOnlyCounts :
    let i := Instr.add .ifTrue .i8 (.reg 1) .none
    (flk).lanes.filter (Lane.activeAt 0) = [lan] ∧ (st i).flockOf? (lan).fid = some flk ∧ (flk).lane? (lan).fid = some lan ∧
      (lan).cells[0]? = some (abc 0 0 0) ∧ hasWord i = true ∧ performs (pmOf i) false = false := ⟨rfl, rfl, rfl, rfl, rfl, rfl⟩

/-- StepKeepsMemory: a step from a state of canonical memory. -/
theorem witness_StepKeepsMemory :
    let s : State := { State.reset with mem := [(3, 7)], agenda := [.elapse 1] }
    s.memOk ∧ ∃ t, step s = .next t := ⟨rfl, _, rfl⟩

/-- IntegerArithmetic: the three cases of a division. -/
theorem witness_division : val .i8 0x80 = least .i8 ∧ val .i8 0xFF = -1 ∧ val .n8 0 = 0 ∧ val .n8 3 ≠ 0 := by decide

/-- ShiftsAndCounts: an amount at the width. -/
theorem witness_shift_amount : Width.w32.bits ≤ (32 : BitVec 6).toNat := by decide

/-- BlockInputs: a constant; a lane register written below and one written above only; each special register's case. -/
theorem witness_constant : let b : LBlock := { oneWordBlock 0 with consts := [5] }
    let s : State := { st (.ldk .always 0 .none .none) with ctxs := [{ oneWordCtx 0 with blocks := [b] }] }
    s.block? 0 0 = some b ∧ b.consts[0]? = some 5 := ⟨rfl, rfl⟩
theorem witness_registers : let ln : Lane := { lan with regs := [{ x := 1, idx := 0, val := { bits := 9 } }, { x := 2, idx := 3, val := {bits := 4} }] }
    ln.image = none ∧ (∀ v ∈ ln.regs, v.x = 1 → v.idx < 2 → v = { x := 1, idx := 0, val := { bits := 9 } }) ∧
      (∀ w ∈ ln.regs, w.x = 2 → 2 ≤ w.idx) := by decide
theorem witness_special : ∃ c : Ctx, (st (.gets .always .pasture .none)).ctx? 0 = some c ∧ c.gang = none ∧ c.pasture.length < 65536 ∧ 0 ∈ c.pasture :=
  ⟨_, rfl, rfl, by decide, by decide⟩
theorem witness_emulation : let h : Handles := { record := 3, trap := some (0xF0000000, 0, { bits := 7 }, Val.zero, Val.zero, true) }
    ({ lan with hrec := some h } : Lane).hrec = some h ∧ (lan).hrec = none ∧ ({ record := 3, trap := none } : Handles).trap = none := ⟨rfl, rfl, rfl⟩
theorem witness_image : let img := List.replicate 64 ({ bits := 5 } : Val)
    let ln : Lane := { lan with image := some (4, img), regs := [{ x := 1, idx := 2, val := { bits := 9 } }, { x := 2, idx := 6, val := { bits := 8 } }] }
    ln.image = some (4, img) ∧ img[1]? = some { bits := 5 } ∧ (∀ w ∈ ln.regs, w.x = 1 → w.idx < 7 → 4 ≤ 7 ∧ w.idx < 4) ∧
      (∀ w ∈ ln.regs, w.x = 2 → 4 ≤ w.idx) := by decide

/-- ResultsReachTargets: a later instruction's latch; deliveries of which none, and of which several, perform. -/
theorem witness_ResultsReachTargets : let ln : Lane := { lan with cells := [abc 0 0 0, { waitA := 1 }] }
    ln.cells[0]? = some (abc 0 0 0) ∧ ln.cells[(1 : BitVec 6).toNat]? = some ({ waitA := 1 } : Cell) ∧ 0 < (1 : BitVec 6).toNat := by decide
theorem witness_HighestProducer : let l : List (Nat × Option Val) := [(4, none), (2, some { bits := 7 }), (0, some { bits := 9 })]
    (l.map Prod.fst).Nodup ∧ (2, some { bits := 7 }) ∈ l ∧ ∀ d ∈ l, d.2 = some { bits := 9 } → d.1 ≤ 2 := by decide

/-- FloatArithmetic, FloatComparisonAndEstimates: operands of every case. -/
theorem witness_float_cases : ffF32.decode 0x7FC00000 = .nan ∧ ffF32.decode 0xFF800000 = .inf true ∧ ffF32.decode 0x80000000 = .fin true 0 (2 ^ 149) ∧
    ffF32.decode 0x40800000 = .fin false 8388608 2097152 ∧ 8388608 * (1 * 1) = 2 * 2 * 2097152 ∧ (ffOf .f16).decode 0x3C00 ≠ .nan := by decide


/-- SendsExecute: every send passes; SendsFault: a bad continuation, a tag of another domain. -/
theorem alone_st (i : Instr) (k : Cell) : Alone (st i k) (flk k) :=
  ⟨by simp [flk, oneLaneFlock], fun ln h => by simp [flk, oneLaneFlock] at h; subst h; rfl⟩
theorem witness_SendsExecute :
    let i := Instr.send .always .same 0 0 none false
    Alone (st i) flk ∧ (st i).ctx? 0 = some (oneWordCtx (encode i)) ∧ AllPerform flk 0 .always ∧
      ∃ es, (st i).emits (oneWordCtx (encode i)) (senderOf flk lan) i (abc 0 0 0) = .ok es :=
  ⟨alone_st _ _, rfl, fun ln h _ => by simp [flk, oneLaneFlock] at h; subst h; exact ⟨_, rfl, rfl⟩, _, rfl⟩
theorem witness_SendsFault : let c := oneWordCtx 0
    c.contOk 1 = false ∧ (Tag.ofBits ((0x3F000000 : Word).setWidth 40)).dom.toNat ≠ c.domOf 0 := by decide

/-- SendEmissions: a root tag and an iteration tag under EXPLICIT, a continuation of each kind, both arms of `steer`. -/
def twoDoms : Ctx := { oneWordCtx 0 with doms := [(0, 8)], blocks := [oneWordBlock 0, { oneWordBlock 0 with dom := 1 }] }
theorem witness_SendEmissions : let t := Tag.ofBits ((0x0001000000 : Word).setWidth 40)
    t.dom = 1 ∧ t.dom.toNat = twoDoms.domOf 1 ∧ (State.reset.core t.home.toNat).enabled = true ∧ (Tag.ofBits 0).dom.toNat = twoDoms.domOf 0 ∧
      twoDoms.contOk 0xC000000000000000 = true ∧ twoDoms.contOk 0xC000010001000000 = true := by decide
theorem witness_steer : let k := abc 5 0xC000000000000000 0
    let sd := senderOf flk lan
    ∃ x y, (st (.nop .always .none .none)).emits twoDoms sd (.send .always .same 0 0 none false) { k with b := k.c } = .ok x ∧
      (st (.nop .always .none .none)).emits twoDoms sd (.sendx .always none false) { k with a := { k.a with void := true } } = .ok y :=
  ⟨_, _, rfl, rfl⟩

/-- FiringEnds: a firing whose one instruction, a send, has executed. -/
def sent : State :=
  let i := Instr.send .always .same 0 0 none false
  { st i { (abc 7 0 0) with issued := true, done := true, perf := true } with focus := none }
theorem witness_FiringEnds : ∃ (fl : Flock) (ln : Lane) (c : Ctx) (toks : List (Token × Nat)),
    sent.flockOf? ln.fid = some fl ∧ sent.flock? fl.id = some fl ∧ fl.lane? ln.fid = some ln ∧ sent.ctx? fl.ctx = some c ∧
    ln.status = .running ∧ sent.finished ln = true ∧
    sent.outputs c (senderOf fl ln) ((c.blocks[fl.block]?.map (·.code)).getD []) ln = .ok (toks.map fun x => .token x.1 sent.pkgid x.2) ∧
    toks.length = 1 ∧ (∀ x ∈ toks, x.1.rel = none) :=
  ⟨flk { (abc 7 0 0) with issued := true, done := true, perf := true }, lan { (abc 7 0 0) with issued := true, done := true, perf := true }, _,
   [({ block := 0, slot := 0, tag := Tag.ofBits 0, epoch := 0, void := false, rel := none, hpkg := 0, payload := 7 }, 0)],
   rfl, rfl, rfl, rfl, rfl, rfl, rfl, rfl, by simp⟩

/-! Memory words. -/

/-- A flat object of 100 bytes that no cache holds. -/
def flat : ObjRec := { tiled with kind := 1, rank := 1, format := 4, str := [1], ext := [100], tmode := 0, td0 := 0, td1 := 0, coh := 3,
                                  write := true, base := 0x80000000 }

/-- MemoryWordsIssue: no record cached; with marks set and clear. -/
theorem witness_MemoryWordsIssue (i : Instr) : (st i (abc 0 0 0)).orcHit 0 0 ((0 : Word).extractLsb' 44 19).toNat = none := rfl
/-- MarkedOperandsAndCursors, RegionAndFlatAccesses: a cached record; coordinates of an offset; a step inside and a step outside; the
bytes inside and past the extent. -/
theorem witness_Cached (i : Instr) (b c : Word) :
    Cached (withRec flat (st i (abc 0x0000C00000000005 b c))) (flk (abc 0x0000C00000000005 b c)) 0x0000C00000000005 flat := rfl
theorem witness_Prefetch (i : Instr) (a b c : Word) :
    (withRec flat (st i (abc a b c))).bridge = [] ∧ (∀ x ∈ (withRec flat (st i (abc a b c))).l1, x.core ≠ 0) ∧
      flat.permits { read := true } = true ∧ ({ flat with coh := 1 } : ObjRec).coh ≠ 3 := ⟨rfl, by simp [withRec, st, State.placeWord, State.reset], rfl, by decide⟩
theorem witness_CursorSteps : flat.coords 5 = some [5] ∧ flat.coords 100 = none ∧
    (∀ l : List Nat, (∀ n < flat.rank, l[n]?.getD 0 < flat.ext[n]?.getD 0) → flat.offset l < 2 ^ 44) := by
  refine ⟨by decide, by decide, fun l h => ?_⟩
  have h0 := h 0 (by decide)
  simp [flat, tiled] at h0
  simp [ObjRec.offset, ObjRec.strOf, flat, tiled, List.range_succ]
  omega
theorem witness_Regions (i : Instr) : ∃ (c : Ctx) (g : Region), (st i).ctx? 0 = some c ∧ c.regions.find? (·.core = 0) = some g ∧
    65532 + 4 ≤ 65536 * g.scratch ∧ 65536 * g.scratch < 65533 + 4 ∧ 32764 + 4 ≤ 32768 * g.accum ∧ 32768 * g.accum < 32765 + 4 ∧
    (st i).accesses = [] :=
  ⟨_, _, rfl, rfl, by decide, by decide, by decide, by decide, rfl⟩
theorem witness_FlatAccesses : flat.kind = 1 ∧ flat.rank = 1 ∧ flat.format = 4 ∧ flat.str.head? = some 1 ∧ flat.scale = 0 ∧ flat.tmode = 0 ∧
    flat.smode = 0 ∧ flat.swz = 0 ∧ flat.rmap = 0 ∧ flat.read = true ∧ flat.write = true ∧ 96 + 4 ≤ flat.ext[0]?.getD 0 ∧
    ¬97 + 4 ≤ flat.ext[0]?.getD 0 ∧ ({ flat with oospol := 0 }).oospol = 0 ∧ flat.oospol = 1 ∧ ({ flat with oospol := 2 }).oospol = 2 := by decide

/-- A state with one access that is due, and the access. -/
def acc (i : Instr) (bytes : List Nat) (b c : Word := 0) : Access :=
  { id := 1, core := 0, ctx := 0, flock := 1, fid := 2, idx := 0, instr := i, a := { bits := 0 }, b := { bits := b }, c := { bits := c },
    space := .hbm, phase := .ready, coh := 3, bytes := bytes }
def sa (a : Access) (m : List Host.Cell := []) : State :=
  { st a.instr { (abc 0 0 0) with issued := true } with focus := none, accesses := [a], mem := m }

/-- No die of it has lost a block. -/
theorem dies_sa (a : Access) (m : List Host.Cell) : ∀ d ∈ (sa a m).dies, d.lasting = [] := fun d h => by
  have h2 : d ∈ (State.reset.dies.modify 0 fun d => { d with slow := false }) := h
  clear h; revert d; decide

/-- StepKeepsNumbers: a step from a state with two accesses under way and two sectors of one address. -/
theorem witness_StepKeepsNumbers :
    let a : Access := acc (.ld .always .n8 .none .none) [256]
    let x : Sector := { core := 0, ctx := 0, addr := 64, coh := 2, agen := 0, bytes := List.replicate 32 0, valid := 0, dirty := 0 }
    let s : State := { State.reset with reqSeq := 9, accesses := [a, { a with id := 9 }], l1 := [x, { x with core := 1 }], agenda := [.elapse 1] }
    s.numbered ∧ ∃ t, step s = .next t := ⟨by unfold State.numbered; decide, _, rfl⟩

/-- PlainAccessesPerformed, CachedStores, AtomicsPerformed, FencesAndBarriers, OrderedReduction: an access that is due. -/
theorem witness_Due_ld : let a := acc (.ld .always .n32 .none .none) [256, 257, 258, 259]
    Due (sa a) 0 a (lan { (abc 0 0 0) with issued := true }) ∧ (∀ x ∈ a.bytes, isMemory x = true) ∧ a.bytes.Nodup :=
  ⟨⟨rfl, by decide, rfl, rfl, rfl, rfl, rfl, rfl, rfl, rfl, rfl, rfl, rfl, dies_sa _ _, rfl⟩, by decide, by decide⟩
theorem witness_CachedStores : let a := { acc (.st .always .n32 .none .none) [256, 257, 258, 259] with coh := 1 }
    Due (sa a) 0 a (lan { (abc 0 0 0) with issued := true }) := ⟨rfl, by decide, rfl, rfl, rfl, rfl, rfl, rfl, rfl, rfl, rfl, rfl, rfl, dies_sa _ _, rfl⟩
theorem witness_AtomicsPerformed : let a := acc (.cas .always (.reg 1) false .relaxed .pkg) ((List.range 4).map (256 + ·)) 0 9
    Due (sa a) 0 a (lan { (abc 0 0 0) with issued := true }) ∧ (∀ c ∈ (sa a).ctxs, c.det = false) :=
  ⟨⟨rfl, by decide, rfl, rfl, rfl, rfl, rfl, rfl, rfl, rfl, rfl, rfl, rfl, dies_sa _ _, rfl⟩, by decide⟩
theorem witness_FencePerformed : let a := acc (.fence .always .die .none .none) []
    Due (sa a) 0 a (lan { (abc 0 0 0) with issued := true }) ∧ ∃ c, (sa a).cores[a.core]? = some c :=
  ⟨⟨rfl, by decide, rfl, rfl, rfl, rfl, rfl, rfl, rfl, rfl, rfl, rfl, rfl, dies_sa _ _, rfl⟩, _, rfl⟩
theorem witness_OrderedReduction : let a := acc (.redo .always .none false .pkg) ((List.range 4).map (256 + ·)) 0x3F800000 0
    Due (sa a) 0 a (lan { (abc 0 0 0) with issued := true }) ∧ ∃ c, (sa a).ctx? a.ctx = some c ∧ c.draining = none :=
  ⟨⟨rfl, by decide, rfl, rfl, rfl, rfl, rfl, rfl, rfl, rfl, rfl, rfl, rfl, dies_sa _ _, rfl⟩, _, rfl, rfl⟩
/-- A barrier word that expects two; a waiter for its phase 0. -/
theorem witness_Barriers : let a := acc (.arrive .always .none .none) ((List.range 8).map (256 + ·)) 1
    let s := sa a [(256, 2)]
    Due s 0 a (lan { (abc 0 0 0) with issued := true }) ∧ natLE (a.bytes.map s.rd) % 2 ^ 24 ≠ 0 ∧ a.b.bits.toNat ≠ 0 ∧
      natLE (a.bytes.map s.rd) / 2 ^ 48 = 0 ∧ s.waiters.length < 4096 :=
  ⟨⟨rfl, by decide, rfl, rfl, rfl, rfl, rfl, rfl, rfl, rfl, rfl, rfl, rfl, dies_sa _ _, rfl⟩, by decide, by decide, by decide, by decide⟩
/-- OrderedReduction: a stalled arrival whose lane waits. -/
theorem witness_StalledArrivals : let q := { acc (.redo .always .none false .pkg) ((List.range 4).map (256 + ·)) 0x3F800000 3 with phase := .atUnit }
    let s := { sa q with arrivals := [{ die := 0, ctx := 0, addr := 256, key := 3, last := false, x := 0x3F800000, acc := some 1, stalled := true }] }
    (∃ c, s.ctx? 0 = some c ∧ c.draining = none) ∧ s.lane? q.fid = some (lan { (abc 0 0 0) with issued := true }) ∧ q.orphan = false ∧ 0 < 3 :=
  ⟨⟨_, rfl, rfl⟩, rfl, rfl, by decide⟩


/-! Walks: a moving record, no record, and a valid one. -/
/-- The 128 bytes of the flat object's record. -/
def flatBits : Nat :=
  at_ 1 62 + at_ 1 59 + at_ 4 53 + at_ 1 48 + at_ 3 46 + at_ 1 42 + at_ 1 41 + at_ 1 39 + at_ 0x80000000 64 + at_ 100 128 + at_ 1 288
def walking : State := sa { acc (.ld .always .n32 .none .none) [] with phase := .walking, handle := 12 }
theorem witness_Walks : walking.accesses[0]? = some { acc (.ld .always .n32 .none .none) [] with phase := .walking, handle := 12 } ∧
    (walking.accesses.map (·.id)).Nodup ∧ 12 < 2 ^ (walking.otpool.toNat % 32) ∧
    (parseRec (natLE ((walking.wr 1543 0x80).rdN 1536 128))).state = 2 ∧ (parseRec (natLE (walking.rdN 1536 128))).state = 0 ∧
    (parseRec (natLE ((walking.wrN 1536 (bytesLE 128 flatBits)).rdN 1536 128))).state = 1 ∧
    (parseRec (natLE ((walking.wrN 1536 (bytesLE 128 flatBits)).rdN 1536 128))).wellFormed walking.pool = true := by decide +kernel

/-! Engines. -/

/-- A parameter block at the start of the context's scratchpad. -/
def pad (v : Nat) (s : State) : State := s.wrN 0x0F0000010000 (bytesLE 64 v)

/-- EngineSubmission: a block that passes; BlockChecks: one outside the region, one misaligned, a wrong command, a misaligned field. -/
theorem witness_EngineSubmission : let i := Instr.aclr .always .none .none
    let s := pad (4 + at_ 4 96) (st i (abc 0 0 0))
    (s.checkBlock (oneWordCtx (encode i)) 0 i 0).toOption.isSome = true ∧ (s.queued 0 (engineOf i)).length < queueRoom (engineOf i) ∧
      (s.checkBlock (oneWordCtx (encode i)) 0 i 65472).toOption.isSome = false := by decide +kernel
theorem witness_BlockChecks : 65536 * 1 < 65473 + 64 ∧ 65408 + 1 + 64 ≤ 65536 * 1 ∧ (65409 % 64 ≠ 0) ∧
    (BitVec.ofNat 512 2).extractLsb' 0 4 ≠ (3 : BitVec 4) ∧ (BitVec.ofNat 512 (4 + at_ 2 64)).extractLsb' 0 4 = (4 : BitVec 4) ∧
    (BitVec.ofNat 512 (4 + at_ 2 64)).extractLsb' 6 58 = (0 : BitVec 58) := by decide +kernel

/-- FabricSlotsAndClaims: a free slot, a held one, one of a releasing slot, two claims in a cycle. -/
def held (i : Instr) (k : Cell) : State := { st i k with lkSlots := [{ core := 0, slot := 2, ctx := 0, releasing := false, records := [] }] }
theorem witness_FabricSlots (i : Instr) :
    (∃ c, (held i (abc 1 0 0)).ctx? 0 = some c ∧ c.draining = none) ∧ (∀ q ∈ (st i).lkSlots, q.slot ≠ 2) ∧ (held i (abc 1 0 0)).holdsSlot 0 0 2 = true ∧
      (held i (abc 1 0 0)).holdsSlot 0 0 (0x2ABC / 4096) = true ∧ (0x2ABC : Word).toNat < 2 ^ 14 ∧
      (held i (abc 1 0 0)).holdsSlot 0 0 (0x1ABC / 4096 % 4) = false ∧ (held i (abc 1 0 0)).accesses = [] :=
  ⟨⟨_, rfl, rfl⟩, by simp [st, State.placeWord, State.reset], rfl, rfl, by decide, rfl, rfl⟩
theorem witness_SlotFreed : let q : LkSlot := { core := 0, slot := 2, ctx := 0, releasing := true, records := [] }
    let s : State := { State.reset with lkSlots := [q], lkClaims := [{ core := 0, cmd := 1, ctx := 1, slot := 2, level := 0, since := 0 }] }
    q ∈ s.lkSlots ∧ s.lkSlots.Nodup ∧ (∀ w ∈ s.lkClaims, w.core = 0 ∧ w.slot = 2 ∧ w.saved = false) ∧ s.cmds = [] := by decide
theorem witness_FabricClaims : let p : LkSlot := { core := 0, slot := 0, ctx := 0, releasing := false, records := [] }
    let q : LkSlot := { core := 0, slot := 1, ctx := 1, releasing := false, records := [] }
    let x := oneWordCtx 0
    let y := { oneWordCtx 0 with id := 1, admission := 1 }
    let s : State := { State.reset with ctxs := [x, y], lkSlots := [p, q], lkClaims := [{ core := 0, cmd := 1, ctx := 1, slot := 0, level := 0, since := 0 },
                                                                                      { core := 0, cmd := 2, ctx := 0, slot := 1, level := 0, since := 0 }] }
    p.ctx = x.id ∧ q.ctx = y.id ∧ x.id ≠ y.id ∧ (p.core, p.slot) ≠ (q.core, q.slot) ∧ s.ctx? x.id = some x ∧ s.ctx? y.id = some y ∧
      x.admission < y.admission := ⟨rfl, rfl, by decide, by decide, rfl, rfl, by decide⟩

/-- A core with one command at the head of an engine's queue. -/
def cmd (e : Engine) (i : Instr) (b : Nat) : EngineCmd :=
  { id := 1, engine := e, instr := i, core := 0, ctx := 0, fid := 2, liter := 0, cont := 0, block := BitVec.ofNat 512 b, scope := .core }
def se (k : EngineCmd) : State := { st k.instr { (abc 0 0 0) with issued := true } with focus := none, cmds := [k] }

/-- An endpoint of a block: a region of the issuing core. -/
def ep (o kind fmt off pitch : Nat) : Nat := at_ 1 (o + 47) + at_ kind (o + 48) + at_ fmt (o + 50) + at_ off (o + 64) + at_ pitch (o + 96)

/-- A copy of 4 by 2 bytes from scratchpad 0 to scratchpad 0x100. -/
def copy (i : Instr) (more : Nat := 0) : EngineCmd := cmd .copy i (at_ 1 32 + at_ 3 48 + ep 256 1 4 0 4 + ep 384 1 4 0x100 4 + more)

theorem fresh_cmd (e : Engine) (i : Instr) (b : Nat) : (cmd e i b).fresh := ⟨rfl, rfl, rfl, rfl, rfl, rfl, rfl, rfl, rfl, rfl, rfl⟩
theorem sound_se (k : EngineCmd) : (se k).sound :=
  ⟨rfl, rfl, fun d h => by
    have h2 : d ∈ (State.reset.dies.modify 0 fun d => { d with slow := false }) := h
    clear h; revert d; decide⟩

/-- AccumulatorsAndWeights, Products: head commands; a bank that fits. -/
theorem witness_Accumulators : let k := cmd .mxu (.aclr .always .none .none) (4 + at_ 8 96)
    (se k).headCmd 0 .mxu = some k ∧ k ∈ (se k).cmds ∧ (se k).sound ∧ k.fresh ∧ 8 % 4 = 0 ∧ isMemory ((se k).regionOf 0 0 true).1 = true :=
  ⟨by decide +kernel, List.mem_singleton.mpr rfl, sound_se _, fresh_cmd _ _ _, by decide, by decide +kernel⟩
theorem witness_Additions : (aaddChecks (BitVec.ofNat 512 (6 + at_ 4 160 + at_ 16 192 + at_ 4 224))).all (·.2) = true := by decide +kernel
theorem witness_WeightLoads : let k := cmd .mxu (.wld .always .i8 .none .none) (3 + at_ 31 31 + at_ 0x1000 320 + at_ 32 352)
    (se k).headCmd 0 .mxu = some k ∧ k.block.toNat / 2 ^ 9 % 2 ^ 1 = 0 ∧ ∀ x ∈ (se k).banks, ¬(x.core = 0 ∧ x.bank = k.block.toNat / 2 ^ 6 % 2 ^ 1) :=
  ⟨by decide +kernel, by decide +kernel, by simp [se, st, State.placeWord, State.reset]⟩
def bank : MxuBank := { core := 0, bank := 0, valid := true, ctx := 0, wid := 0, sub := .i8, scaled := false, sblk := 0, k := 32, n := 1,
                        w := [List.replicate 32 1], scales := [] }
theorem witness_Products : let b := BitVec.ofNat 512 (1 + at_ 32 96 + at_ 4 160)
    let k := cmd .mxu (.mma .always .i8 .none .none) (1 + at_ 32 96 + at_ 4 160)
    let s := { se k with banks := [bank] }
    s.headCmd 0 .mxu = some k ∧ s.bank? 0 (k.block.toNat / 2 ^ 6 % 2 ^ 1) = some bank ∧ bank.wid = k.block.toNat / 2 ^ 48 % 2 ^ 16 ∧
      (mmaChecks .i8 false bank.k bank.n (max bank.sblk 1) b).all (·.2) = true ∧ s.inRegions k (mmaRanges .i8 false bank.k bank.n (max bank.sblk 1) b) ∧
      (let r := mmaRanges .i8 false bank.k bank.n (max bank.sblk 1) b
       s.apart k (r.filter fun x => !x.1) (r.filter (·.1))) :=
  ⟨by decide +kernel, by decide +kernel, by decide +kernel, by decide +kernel, by unfold State.inRegions; decide +kernel, by unfold State.apart; decide +kernel⟩
theorem witness_SumsWithoutOrder : [XNum.fin false 1 1, .nan].Perm [XNum.nan, .fin false 1 1] ∧ [(1 : Int), 2].Perm [2, 1] := by decide

/-- RegionCommands: each command at the head of its queue, its endpoints regions, its ranges inside. -/
theorem witness_RegionCommands : let k := copy (.cpy .always .none .none)
    (se k).queued 0 .copy = [k] ∧ (cSrc k.block).own (.int .n8) ∧ (cDst k.block).own (.int .n8) ∧ pairOk (.int .n8) (.int .n8) = true ∧
      ((se k).core 0).power = .running ∧ (∃ c, (se k).ctx? 0 = some c ∧ c.section? 0 = none) ∧
      (se k).inRegions k (copySrcRange .cpy k.block) ∧ (se k).inRegions k (copyDstRange .cpy k.block) ∧
      (∀ x ∈ copySrcRange .cpy k.block, ∀ y ∈ copyDstRange .cpy k.block, overlap ((se k).spanOf k x) ((se k).spanOf k y) = false) ∧
      4 * (fmtBits (.int .n8) / 8) ≤ (cDst k.block).pitch :=
  ⟨by decide +kernel, by unfold Endpoint.own; decide +kernel, by unfold Endpoint.own; decide +kernel, by decide +kernel, rfl, ⟨_, rfl, rfl⟩, by unfold State.inRegions; decide +kernel,
    by unfold State.inRegions; decide +kernel, by decide +kernel, by decide +kernel⟩
theorem witness_IndexedCommands : let k := copy (.cpyg .always .none .none) (at_ 1 11)
    (se k).queued 0 .copy = [k] ∧ k.block.toNat / 2 ^ 11 % 2 ^ 1 = 1 ∧ (se k).inRegions k (copySrcRange .cpyg k.block) ∧
      (se k).inRegions k (copyDstRange .cpyg k.block) :=
  ⟨by decide +kernel, by decide +kernel, by unfold State.inRegions; decide +kernel, by unfold State.inRegions; decide +kernel⟩
theorem witness_Planes : let b := BitVec.ofNat 512 (at_ 1 32 + at_ 3 48 + at_ 0 192 + ep 256 1 4 0 4 + ep 384 1 7 0x100 32)
    (cSrc b).own (.int .n8) ∧ (cDst b).own (.int .n64) ∧ intFmt (.int .n8) 1 = true ∧
      (se (cmd .copy (.cpybsToplanes .always .none .none) b.toNat)).inRegions (cmd .copy (.cpybsToplanes .always .none .none) b.toNat)
        (copyDstRange (.planes true) b) :=
  ⟨by unfold Endpoint.own; decide +kernel, by unfold Endpoint.own; decide +kernel, by decide +kernel, by unfold State.inRegions; decide +kernel⟩
theorem witness_Reductions : cpyrSrcOk .maxF32 .f32 = true ∧ cpyrDst .maxF32 = .f32 := by decide

/-- StreamsAndWindows: a stream of records into a held slot; a window of the host's memory; a conversion into the scratchpad. -/
theorem witness_Stream : let k := cmd .copy (.cpyt .always .none .none) (at_ 3 48 + ep 256 1 4 0 0 + at_ 2 242 + at_ 1 247)
    let s := { se k with lkSlots := [{ core := 0, slot := 2, ctx := 0, releasing := false, records := [] }] }
    s.queued 0 .copy = [k] ∧ (cSrc k.block).own (.int .n8) ∧ s.inRegions k (copySrcRange .cpyt k.block) ∧
      k.block.toNat / 2 ^ 247 % 2 ^ 1 = 1 ∧ s.holdsSlot 0 0 (k.block.toNat / 2 ^ 242 % 2 ^ 2) = true :=
  ⟨by decide +kernel, by unfold Endpoint.own; decide +kernel, by unfold State.inRegions; decide +kernel, by decide +kernel, by decide +kernel⟩
/-- A window of 100 bytes. -/
def hostWindow : ObjRec := { flat with kind := 2, eng := true, base := Config.hostLow }
theorem witness_Window : let k := cmd .copy (.cpyhTohost .always .none .none) (at_ 3 48 + at_ 1 13 + at_ 0x0000C00000000000 448)
    let s := withRec hostWindow (se k)
    s.queued 0 .copy = [k] ∧ (cDst k.block).kind = 0 ∧ s.orcHit 0 0 (((cDst k.block).cur.extractLsb' 44 19).toNat) = some hostWindow ∧
      hostWindow.kind = 2 ∧ hostWindow.eng = true ∧ (cDst k.block).cur.getLsbD 63 = false ∧
      ((cDst k.block).cur.extractLsb' 0 44).toNat + 4 ≤ hostWindow.ext[0]?.getD 0 ∧ s.ports.all (fun p => p.state = 0) = true := by decide +kernel
theorem witness_windows_up : ∀ a, State.reset.windowDown a = false := fun a => by unfold State.windowDown windowPortOf; split <;> decide +kernel
theorem witness_Acvt : let k := cmd .mxu (.acvt .always .bf16 .none .none) (5 + at_ 4 160 + at_ 2 416)
    (se k).headCmd 0 .mxu = some k ∧ k.block.toNat / 2 ^ 10 % 2 ^ 1 = 0 := by decide +kernel

/-- FabricRuns: the three-cell network of the worked example. -/
def majority : LkSlot :=
  { core := 0, slot := 2, ctx := 0, releasing := false,
    records := [(0, 0x00000000000000E8B000000000200400#128), (1, 0x00000000000000963000000000200400#128), (2, 0x0000000000000008A000000000080600#128)] }
def network : EngineCmd := { cmd .fabric (.lkrun .always 2 .none .none) (7 + at_ 0x0000001000020002 64 + at_ 0x0000001800000400 128 + at_ 0x0000001000000480 192) with
                             slot := 2 }
def planes : State := { (se network) with lkSlots := [majority] }
theorem witness_FabricRuns : planes.headCmd 0 .fabric = some network ∧
    planes.lkSlots.find? (fun p => p.core = 0 && p.slot = network.slot && p.ctx = network.ctx) = some majority ∧
    badCell network.block majority = none ∧ network.ended = none ∧ (lkrunChecks network.block).all (·.2) = true ∧
    isMemory ((planes.regionOf 0 0 false).1 + 0x480) = true := by decide +kernel

/-- TroughCommands: a vector of 4 bytes to trough 0, and a product with it over an object of rows. -/
theorem witness_Tvec : let k := cmd .trough (.tvec .always .none .none) (at_ 1 16 + at_ 3 33 + ep 256 1 0x12 0 0)
    (se k).headCmd 0 .trough = some k ∧ (cSrc k.block).own (vFmt k.block) ∧ (se k).inRegions k (tvecRanges k.block) :=
  ⟨by decide +kernel, by unfold Endpoint.own; decide +kernel, by unfold State.inRegions; decide +kernel⟩

def rows : ObjRec := { tiled with smode := 1, tmode := 0, td0 := 0, td1 := 0, ext := [4, 2], str := [1, 4], eng := true }
theorem witness_Tgemv : let k := cmd .trough (.tgemv .always .bf16 .none .none) (at_ 3 17 + ep 320 1 16 0 0 + at_ 0x0000C00000000000 448)
    let s := { withRec rows (se k) with buffers := [{ trough := 0, buf := 0, ctx := 0, valid := true, vid := 0, vfmt := 1, elems := [0, 0, 0, 0] }] }
    s.headCmd 0 .trough = some k ∧ s.orcHit 0 0 (((BitVec.ofNat 64 (k.block.toNat / 2 ^ 448 % 2 ^ 64)).extractLsb' 44 19).toNat) = some rows ∧
      rows.fmt = some (mxFmt .bf16) ∧ curCoords rows (BitVec.ofNat 64 (k.block.toNat / 2 ^ 448 % 2 ^ 64)) = some [0, 0] ∧
      ((List.range 4).all fun i => (objOffset rows (some [0, 0]) i 0).isSome) = true ∧ s.vectorFail k (gTroughs rows 0 1) = none ∧
      (gDst k.block).here = true ∧ (gDst k.block).kind = 1 := by decide +kernel

/-- EngineCompletions: a command that has run, with a continuation. -/
theorem witness_EngineCompletions : let k := { cmd .mxu (.aclr .always .none .none) (4 + at_ 8 96) with ended := some (0, 0, 1), cont := 0xC000000000000000 }
    k.writes = [] ∧ k.broken = [] ∧ ((se k).queued 0 .mxu).head? = some k ∧ (oneWordCtx 0).contOk k.cont = true ∧ (contTag k.cont).dom = 0 := by decide +kernel

/-- SystemWords: a record pending that permits both responses, or not; LaneFaultTaken: a handler, a fatal context, no record free. -/
def sickCtx (w : IWord) (q : Sick) : Ctx := { oneWordCtx w with sick := q :: List.replicate 63 {}, handler := 0x80008000 }
def sickState (i : Instr) (q : Sick) : State := { st i (abc 16320 0 0) with ctxs := [sickCtx (encode i) q] }
theorem witness_Responses : let q : Sick := { status := .pending true, lane := some lan, code := 1 }
    let c := sickCtx 0 q
    64 ≤ 2 ^ State.reset.otrecs ∧ (16320 : Word).toNat = 2 ^ State.reset.otrecs - 64 + 0 ∧ c.sick[0]? = some q ∧ c.permitFor q / 2 ^ 0 % 2 = 1 ∧
      c.permitFor { q with code := 8 } / 2 ^ 1 % 2 = 0 := by decide
theorem witness_LaneFaultTaken : let c := sickCtx 0 { status := .pending true }
    let s := sickState (.nop .always .none .none) { status := .pending true }
    s.flockOf? 2 = some (flk (abc 16320 0 0)) ∧ (flk (abc 16320 0 0)).lane? 2 = some (lan (abc 16320 0 0)) ∧ c.draining = none ∧
      handlerBlock c.handler 1 ≠ none ∧ handlerBlock 0 1 = none ∧ c.sick[1]? = some ({ status := .free } : Sick) ∧ (∀ i q, i < 1 → c.sick[i]? = some q → q.status ≠ .free) ∧
      s.memOk ∧ c.sickBase + 4096 * 1 + 4096 ≤ Config.hbmTop := by
  refine ⟨rfl, rfl, rfl, by decide, by decide, rfl, fun i q hi hq => ?_, rfl, by decide⟩
  obtain rfl : i = 0 := by omega
  simp [sickCtx] at hq; subst hq; simp

/-- HandlersAndResponses: a record pending with its handler; a response that has left. -/
theorem witness_HandlerDispatched : let q : Sick := { status := .pending false, code := 1, flock := 9 }
    let s := { sickState (.nop .always .none .none) q with flocks := [] }
    (∃ c, s.ctx? 0 = some c ∧ c.sick[0]? = some q ∧ handlerBlock c.handler q.code = some 0 ∧ c.saved = []) ∧ s.flock? q.flock = none ∧ s.fold = [] ∧
      ∃ f, s.frame1 ((sickCtx 0 q).handlerCore q) 0 1 = some f := ⟨⟨_, rfl, rfl, rfl, rfl⟩, rfl, rfl, _, rfl⟩
theorem witness_ResponsesTakeEffect : let q : Sick := { status := .leaving 1 7 0, code := 1, flock := 9, lane := some lan }
    let s := { sickState (.nop .always .none .none) q with flocks := [] }
    (∃ c, s.ctx? 0 = some c ∧ c.sick[0]? = some q ∧ (∃ b, c.blocks[q.block]? = some b) ∧ c.faultq = []) ∧ s.flock? q.flock = none ∧ s.accesses = [] :=
  ⟨⟨_, rfl, rfl, ⟨_, rfl⟩, rfl⟩, rfl, rfl⟩

/-! Tokens, pens, units. -/

/-- A token of the one-word block, and a state that the core takes it in. -/
def tok : Token := { block := 0, slot := 0, tag := Tag.ofBits 0, epoch := 0, payload := 7, void := false, rel := none, hpkg := 0 }
def trip : Transit := { src := 256, dst := 0, ctx := 0, tok := tok }
def inq (c : Ctx) : State :=
  { State.reset with cycle := 1, ctxs := [c], cores := State.reset.cores.modify 0 fun k => { k with inq := [trip] } }
theorem reset_cores (f : Core → Core) : 0 < (State.reset.cores.modify 0 f).length := by
  rw [List.length_modify]; exact Nat.lt_of_lt_of_eq (by decide : 0 < 256) (List.length_replicate (n := 256) (a := ({} : Core))).symm
def two : Ctx := { oneWordCtx 0 with blocks := [{ oneWordBlock 0 with inputs := 2 }] }

/-- TokensMatch: a token that arrives alone at a block of one input and of two, that completes an entry, that a filter kills. -/
theorem witness_Arrives : Arrives (inq two) 0 trip [] two ∧ Arrives (inq (oneWordCtx 0)) 0 trip [] (oneWordCtx 0) ∧
    (∃ f, (inq two).frame1 0 0 (frameUnits 2) = some f) ∧ two.inputsOf 0 = 2 :=
  ⟨⟨rfl, Nat.one_pos, rfl, reset_cores (fun k => { k with inq := [trip] }), rfl, rfl, rfl, rfl, rfl, rfl, rfl, rfl, by decide⟩, ⟨rfl, Nat.one_pos, rfl, reset_cores (fun k => { k with inq := [trip] }), rfl, rfl, rfl, rfl, rfl, rfl, rfl, rfl, by decide⟩,
   ⟨_, rfl⟩, rfl⟩
theorem witness_Completes : let e := { entryOf 0 0 tok 2 0 with slots := [none, some (9, false)] }
    let s := { inq two with fold := [e] }
    Arrives s 0 trip [] two ∧ e.state = 0 ∧ e.slots[tok.slot]? = some none ∧ e.slots[1]? = some (some (9, false)) ∧ e.tag = tok.tag :=
  ⟨⟨rfl, Nat.one_pos, rfl, reset_cores (fun k => { k with inq := [trip] }), rfl, rfl, rfl, rfl, rfl, rfl, rfl, rfl, by decide⟩, rfl, rfl, rfl, rfl⟩
theorem witness_Killed : let t1 := { tok with tag := iterTag 0 1 0 0 5 }
    let s := { inq two with filters := [{ core := 0, home := 0, ctx := 0, dom := 1, act := 0, h := 4, hpkg := 0 }] }
    s.filtered 0 0 0 t1.tag 0 = true := by decide
/-- TokensMatch: a held token, with and without a release. -/
def holding (rel : Option Scope) : State := { st (.nop .always .none .none) with held := [{ fid := 9, src := 0, dst := 0, dpkg := 0, ctx := 0, tok := tok, rel := rel }] }
theorem witness_ReleasedTokens : (holding (some .pkg)).held[0]?.map (·.dpkg) = some State.reset.pkgid ∧ (holding none).accesses = [] := by decide

/-- FlocksFormed: an instance that has waited, in a pen; a free slot and a candidate. -/
def rdy : Ready := { core := 0, ctx := 0, block := 0, tag := Tag.ofBits 0, epoch := 0, hpkg := 0, frame := [(7, false)], place := none, since := 0, seq := 0 }
def penned (aligned due : Bool) : State :=
  { State.reset with cycle := 5000, ready := [rdy], pens := [{ core := 0, index := 0, ctx := 0, block := 0, due := due, level := 0, served := 0 }],
                     ctxs := [{ oneWordCtx 0 with blocks := [{ oneWordBlock 0 with aligned := aligned }] }] }
theorem witness_Timers (a : Bool) : ∃ p b, (penned a false).pens.find? (fun p => p.core = 0 && p.index = 0) = some p ∧
    (penned a false).block? p.ctx p.block = some b ∧ b.aligned = a ∧ rdy.since + 16 ≤ (penned a false).cycle := ⟨_, _, rfl, rfl, rfl, by show 0 + 16 ≤ 5000; decide⟩
theorem witness_Flocks : ∃ pipe slot k b, (penned false true).freeSlot 0 = some (pipe, slot) ∧ chooseBy (·.rank) ((penned false true).cands 0) = some k ∧
    k.resumed = none ∧ k.aligned = false ∧ (penned false true).block? k.ctx k.block = some b ∧
    ∃ p ∈ (penned false true).pens, k ∈ (penned false true).penCands p :=
  ⟨_, _, _, _, rfl, rfl, rfl, rfl, rfl, _, List.mem_singleton.mpr rfl, List.mem_singleton.mpr rfl⟩

/-- Grants, IterationsReleased: a request at the head of a unit's queue, its activation with iterations 0 to `top`. -/
def req (m : GrantMode ⊕ ReleaseKind) (l : Nat := 0) (t : Option Token := some tok) : UnitReq :=
  { ctx := 0, mode := m, tag := iterTag 0 1 0 0 l, epoch := 0, tok := t, origin := 0, hpkg := 0, fid := 9, tick := 0 }
def active (top h : Nat := 4294967295) : Activation :=
  { core := 0, ctx := 0, dom := 1, act := 0, parent := Tag.ofBits 0, pepoch := 0, phpkg := 0, base := 0, top := top, closed := 0, h := h, left := false,
    pending := 0 }
def unitOf (g r : List UnitReq) (acts : List Activation) : State :=
  { State.reset with ctxs := [twoDoms], acts := acts, cores := State.reset.cores.modify 0 fun k => { k with grantq := g, relq := r } }
theorem witness_GrantHead (m : GrantMode) (a : List Activation) : GrantHead (unitOf [req (.inl m)] [] a) 0 (req (.inl m)) [] tok twoDoms :=
  ⟨rfl, rfl, reset_cores (fun k => { k with grantq := [req (.inl m)], relq := [] }), rfl, rfl, rfl, rfl, rfl, rfl, rfl⟩
theorem witness_Grants : literOf (req (.inl .next)).tag 0 = 0 ∧ (unitOf [] [] [active 0]).act? 0 0 1 0 = some (active 0) ∧
    (unitOf [] [] []).act? 0 0 1 0 = none ∧ (active 0).h < 2 ^ 32 ∧ (active 0 0).h < 0 + 1 ∧ 0 + 1 < (active 0).base + twoDoms.windowOf 1 ∧
    literOf (iterTag 0 1 0 0 7) 0 + 1 = 8 ∧ (active 7).base + twoDoms.windowOf 1 ≤ 7 + 1 := by decide +kernel
theorem witness_Entered : (∃ k, k < 64 ∧ (unitOf [] [] []).act? 0 0 1 k = none) ∧ ((unitOf [] [] []).acts.filter (·.core = 0)).length < 1024 ∧
    (0x0A : Word).getLsbD 1 = true ∧ (0x0A : Word).getLsbD 3 = true ∧
    ((List.range 64).all fun k => (unitOf [] [] ((List.range 64).map fun k => { active 0 with act := k })).act? 0 0 1 k ≠ none) = true :=
  ⟨⟨0, by decide, rfl⟩, by decide, by decide, by decide, by decide +kernel⟩
theorem witness_ReleaseHead (k : ReleaseKind) (a : List Activation) : ReleaseHead (unitOf [] [req (.inr k)] a) 0 (req (.inr k)) [] twoDoms :=
  ⟨rfl, rfl, reset_cores (fun q => { q with grantq := [], relq := [req (.inr k)] }), rfl, rfl, rfl⟩
theorem witness_Released : (active 3).closedAt 1 = false ∧ 0 ≤ (active 3).top ∧ (active 3).left = false ∧ (active 3).base < literOf (iterTag 0 1 0 0 2) 0 ∧
    literOf (iterTag 0 1 0 0 2) 0 ≤ (active 3).top ∧ literOf (iterTag 0 1 0 0 2) 0 < (active 3).h ∧ twoDoms.pasture ≠ [] ∧
    (∀ b ∈ (unitOf [] [] [active 3]).acts, b.same (active 3) = true → b = active 3) := by decide +kernel

/-- KillsAndSpills. -/
def notice : Notice := { core := 0, home := 0, ctx := 0, dom := 1, act := 0, h := 4, hpkg := 0 }
theorem witness_Kills : let s := { unitOf [] [] [active 3] with notices := [notice], acks := [notice] }
    s.notices[0]? = some notice ∧ s.acks[0]? = some notice ∧ s.ctx? notice.ctx = some twoDoms ∧ (s.core notice.home).waitq = [] ∧
      s.act? notice.home notice.ctx notice.dom notice.act = some (active 3) := ⟨rfl, rfl, rfl, rfl, rfl⟩
def spilled : FoldEntry := { entryOf 0 0 { tok with tag := iterTag 0 1 0 0 0 } 2 0 with state := 1 }
theorem witness_Spills : let c := { twoDoms with reserve := 256, pinBase := [(1, 0x200000000), (0, 0), (0, 0), (0, 0)] }
    let s : State := { unitOf [] [] [active 3] with ctxs := [c], eldest := [(spilled, none)] }
    s.eldest[0]? = some (spilled, none) ∧ spilled.tag.home.toNat = 0 ∧ spilled.tag.dom ≠ 0 ∧ spilled.complete = false ∧ spilled.asked = false ∧ spilled.hpkg = s.pkgid ∧ c.pinFree.isSome = true ∧ s.pinHeld = [] ∧
      (∃ f, s.frame2 0 0 spilled.units = some f) ∧ (∃ f, s.frame1 0 0 spilled.units = some f) ∧ 0 < c.pinCapacity :=
  ⟨rfl, by decide, by decide, by decide, rfl, rfl, by decide, rfl, ⟨_, rfl⟩, ⟨_, rfl⟩, by decide⟩

/-! Launches and their ends. -/

/-- A launch packet of priority 5 for one core, and an image of one block of one word. -/
def launchPkt : HostPkt := { header := BitVec.ofNat 128 (1 + at_ 5 32), body := bytesLE 64 (0x100000 + at_ 5 51 + at_ 6 60 + at_ 1 404) }
def image : List Nat := [0x56090001, 80, 0, 0, 0, 64, 1, 0, 0, 0, 0, 0, 0, 0, 0, 0, 72, 0, 0xB2080000, 0x08000000]
def yard : State :=
  ({ State.reset with isOpen := true, savepool := BitVec.ofNat 64 (at_ 1 48 + at_ 8 30),
                      ports := State.reset.ports.modify 0 fun p => { p with state := 1, inbox := [.host launchPkt] } } : State).wrN 0x100000
    (image.flatMap (bytesLE 4))
theorem witness_LaunchesQueued : yard.hostHead 0 1 = some launchPkt ∧ (yard.port 0).state = 1 ∧
    yard.refusal (hpRecord launchPkt).1 (hpRecord launchPkt).2 (lhImage (hpRecord launchPkt).1) false = none ∧
    ({ yard with isOpen := false } : State).refusal (hpRecord launchPkt).1 (hpRecord launchPkt).2 (lhImage (hpRecord launchPkt).1) false = some 8 := by
  decide +kernel
def queuedLaunch : Queued :=
  { prio := 5, header := (hpRecord launchPkt).1, toks := [], seed := 0, reply := .host 0 5, image := 0x100000 }
theorem witness_LaunchesAdmitted : let s : State := { yard with queues := [queuedLaunch] }
    (s.scan prioDown []).isSome = true ∧ (s.checkImage queuedLaunch).2.toOption.isSome = true ∧
      s.templateBad (s.template (s.imageHdr queuedLaunch.image)) = none := by decide +kernel
def spawnSub : SpawnSub :=
  { id := 1, ended := true, ctx := 0, core := 0, fid := 9, header := BitVec.ofNat 512 (at_ 6 60 + at_ 1 404), toks := [], image := 0x100000,
    cont := 0xC000000000000000, order := 0 }
theorem witness_SpawnsAnswered : let s : State := { yard with spawns := [spawnSub], ctxs := [oneWordCtx 0] }
    s.ctx? 0 = some (oneWordCtx 0) ∧ s.refusal (spawnHeader spawnSub.header spawnSub.image) [] spawnSub.image true = none ∧
      s.refusal (spawnHeader (BitVec.ofNat 512 (at_ 5 60 + at_ 1 404)) spawnSub.image) [] spawnSub.image true = some 1 ∧ spawnSub.cont ≠ 0 ∧
      (oneWordCtx 0).contOk spawnSub.cont = true ∧ (Tag.ofBits (spawnSub.cont.setWidth 40)).dom = 0 := by decide +kernel

/-- ContextsEnd: a component that hands its drover on; a complete launch; a drained one. -/
def chain : Ctx := { oneWordCtx 0 with blocks := [oneWordBlock 0, { oneWordBlock 0 with entry := false, comp := 1 }], comps := [0, 1], edges := [(0, 1)] }
theorem witness_ContextsEnd : let s : State := { yard with ctxs := [chain] }
    chain.compList.contains 0 = true ∧ chain.holdsDrover 0 = true ∧ chain.forwarded.contains 0 = false ∧ ((chain.blocksOf 0).all fun b => !s.liveBlock chain b) = true ∧
      ({ yard with ctxs := [oneWordCtx 0] } : State).isComplete (oneWordCtx 0) = true ∧
      ({ yard with ctxs := [oneWordCtx 0] } : State).occupancy { oneWordCtx 0 with draining := some [] } = 0 := by decide +kernel
/-- ContextsEnd: an entry that waits for a token that never comes; with a handler and free records, and with one pending. -/
def stuck (q : Sick) : Ctx := { sickCtx 0 q with blocks := two.blocks, entryDone := true }
theorem witness_QuiescenceReported : let e := { entryOf 0 0 tok 2 0 with state := 0 }
    let s := fun q => ({ State.reset with ctxs := [stuck q], fold := [e], cycle := 2000000 } : State)
    (s {}).isQuiet (stuck {}) = true ∧ (stuck {}).handler.getLsbD 15 = true ∧ (stuck {}).sick.all (·.status = .free) = true ∧
      (s { status := .pending true, code := 0x18 }).isQuiet (stuck { status := .pending true, code := 0x18 }) = true := by decide +kernel

/-- ObjectCommands: a command not started, one that all cores have acknowledged, and one that a core has still to. -/
theorem witness_ObjectCommands : let c : OtCmd := { op := 1, ctx := 0, handle := 12, granule := 0 }
    let d := { c with started := true, waiting := [0] }
    (State.reset.ctxs = [] ∧ 10 ≤ (14 : Word).toNat % 32 ∧ (20 : Word).toNat % 32 = 20) ∧ c.started = false ∧ 0 ∈ d.waiting ∧
      (∀ a ∈ (sa (acc (.ld .always .n8 .none .none) [256])).accesses, d.holds 0 a = false) ∧ ({ c with op := 2 } : OtCmd).op = 2 := by decide
theorem witness_Answer : let f : Fetch := { ctx := 0, core := 0, req := 3, handle := 12, granule := 1, rmap := 0x2000, cont := 0xC000000000000000 }
    let v : Word := BitVec.ofNat 64 (at_ 1 60 + at_ 3 16)
    [f].find? (fun f => f.ctx = v.toNat / 2 ^ 50 % 2 ^ 10 && f.req = v.toNat / 2 ^ 16 % 2 ^ 16) = some f ∧ v.toNat / 2 ^ 60 = 1 ∧
      (oneWordCtx 0).contOk f.cont = true := by decide

/-- ContextsPreempted: a context that stands in a launch's way, one stopped, one to be restored. -/
def inWay : Ctx := { oneWordCtx 0 with regions := [{ core := 0, frameSeg := 0, frames := 16, scrSeg := 16, scratch := 8, accSeg := 0, accum := 1 }] }
def section0 (stage : Nat) (l : List Ready) : Section :=
  { core := 0, stage := stage, addr := 0, size := 0, entries := [], readies := l, resumed := [], flocks := [], tokens := [], filters := [], notices := [],
    scratch := none, accum := none, region := none, slots := [] }
theorem witness_Preempted : let s : State := { yard with queues := [{ queuedLaunch with header := queuedLaunch.header ||| BitVec.ofNat 512 (at_ 1 128) }], ctxs := [inWay] }
    s.mayPreempt inWay 0 = true ∧ (inWay.section? 0).isNone = true := by decide +kernel
theorem witness_Dumped : let z := { section0 2 [] with addr := 0x200000000, size := 0x100000, takes := (true, true) }
    let c := { inWay with saved := [z] }
    let s : State := { yard with ctxs := [c] }
    s.flocksEnded 0 0 = true ∧ s.drained c 0 z.takes = true ∧ 64 + (s.sectionParts c (s.gather c 0 z)).length + (s.regionOf 0 0 false).2 + (s.regionOf 0 0 true).2 +
      65552 * (s.neededSlots 0 0).length ≤ z.size ∧ z.addr + z.size ≤ Config.hbmTop := by decide +kernel
theorem witness_Restored : let c := { inWay with saved := [section0 4 [rdy]] }
    c.saved = [section0 4 [rdy]] ∧ (section0 4 [rdy]).readies = [rdy] ∧ (State.reset.core 0).parts = false ∧ (section0 5 []).slots = [] ∧
      ((State.reset).flocks.filter (·.core = 0)).length ≤ Config.numPipes * Config.slotsPerPipe := by decide
/-- ContextsPreempted: a register that holds no extent; a slot free with a token held; a core that cools. -/
theorem witness_PinfoldFlows : let c := { twoDoms with pinBase := [(1, 0x200000000), (0, 0), (0, 0), (0, 0)] }
    c.pinBase.length = 4 ∧ (c.pinBase[0]?.map (·.1)) ≠ some 0 ∧ (c.pinBase[1]?.map (·.1)) = some 0 ∧ c.pinFree ≠ none := by decide


/-! Power, links, the device and gangs. -/

/-- The state after reset with another core 0. -/
def core0 (f : Core → Core) : State := { State.reset with cores := State.reset.cores.modify 0 f, cycle := 3000000 }
theorem witness_PowerStates :
    0 < (core0 fun k => k).cores.length ∧ ((core0 fun k => k).core 0).power = .running ∧ ((core0 fun k => k).core 0).idleAt + 256 ≤ 3000000 ∧
      ((core0 fun k => { k with power := .clockGated, ilvPend := some true }).core 0).gatedAt + 2400000 ≤ 3000000 ∧
      ((core0 fun k => { k with power := .powerGated, buffer := [trip] }).core 0).buffer ≠ [] ∧ trip.dst = 0 ∧ trip.mesh = 0 ∧ ({ core0 (fun k => k) with fwState := 1 } : State).fwState = 1 ∧
      ((core0 fun k => { k with power := .waking, buffer := [trip] }).core 0).inq = [] :=
  ⟨reset_cores (fun k => k), rfl, by decide, by show 0 + 2400000 ≤ 3000000; decide, List.cons_ne_nil _ _, rfl, rfl, rfl, rfl⟩
theorem witness_Rails : (State.reset.dies[0]? = some ({} : Die)) ∧ ({ slow := true } : Die).slow = true ∧ (State.reset.memStacks[0]?).isSome = true ∧
    (∀ k, State.reset.memStacks[0]? = some k → k.window + 2400000 ≤ 3000000) ∧ (20000 : Nat) < 2 ^ 32 := by decide +kernel

def frame0 : LinkFrame := { seq := 0, ack := 0, crcOk := true, msgs := [] }
def ported (n : Nat) (p : Port) : State := { State.reset with ports := State.reset.ports.set n p, cycle := 5000 }
theorem witness_LinkFrames :
    (ported 1 { state := 1 }).ports[1]? = some { state := 1 } ∧ msgDest (.time 0 0) = none ∧
      (ported 1 { state := 1, replay := [frame0] }).ports[1]? = some { state := 1, replay := [frame0] } ∧
      (ported 10 { state := 1, failed := 256 }).ports[10]? = some { state := 1, failed := 256 } ∧ (State.reset.hostOut.filter (·.port = 10)).length ≤ 256 ∧
      (ported 1 { state := 1, failed := 256 }).ports[1]? = some { state := 1, failed := 256 } ∧
      (ported 1 { state := 3 }).ports[1]? = some { state := 3 } ∧ (ported 10 { state := 2, holdq := [{ port := 10, type := 1, cookie := 0, arg := 0, body := [] }] }).ports[10]?.isSome = true := by
  decide +kernel

/-- A WREAD or WWRITE packet of an address and a length. -/
def window (type a n : Nat) (body : List Byte) : HostPkt := { header := BitVec.ofNat 128 (type + at_ (a + at_ (n - 1) 48) 64), body := body }
def hosted (opened : Bool) (p : HostPkt) : State :=
  { State.reset with isOpen := opened, ports := State.reset.ports.modify 0 fun q => { q with state := 1, inbox := [.host p] } }
theorem witness_cores_run : ∀ c, (State.reset.core c).power = .running := fun c => by
  simp only [State.core, State.reset, List.getElem?_replicate]; split <;> rfl
theorem witness_HostReads :
    ((hosted true (window 2 0x1000 16 [])).port 0).state = 1 ∧ (hosted true (window 2 0x1000 16 [])).hostHead 0 2 = some (window 2 0x1000 16 []) ∧
      (hpArg (window 2 0x1000 16 [])).getLsbD 63 = false ∧ 0x1000 + 16 ≤ Config.regLow ∧
      (hosted false (window 2 0x1000 16 [])).hostHead 0 2 = some (window 2 0x1000 16 []) ∧
      (hosted true (window 2 0x0E0000050000 8 [])).hostHead 0 2 = some (window 2 0x0E0000050000 8 []) ∧ Config.regLow ≤ 0x0E0000050000 ∧
      (hpArg (window 2 0x0E0000050000 8 [])).toNat % 2 ^ 48 = 0x0E0000050000 ∧ 0x0E0000050000 < Config.regTop := by decide +kernel
theorem witness_HostWrites :
    (hosted true (window 3 0x1000 2 [1, 2])).hostHead 0 3 = some (window 3 0x1000 2 [1, 2]) ∧ (∀ i, i < 2 → isMemory (0x1000 + i) = true) ∧
      (hosted true (window 3 0x0E0000050000 8 (bytesLE 8 5))).hostHead 0 3 = some (window 3 0x0E0000050000 8 (bytesLE 8 5)) := by decide +kernel
theorem witness_Registers : ({ State.reset with fwCmd := some 0 } : State).fwCmd ≠ none ∧ State.reset.fwCmd = none ∧
    (BitVec.ofNat 64 (at_ 2 60)).toNat / 2 ^ 60 = 2 ∧ ({ State.reset with ctxs := [oneWordCtx 0] } : State).ctxs ≠ [] := by decide +kernel

/-- A request from package 5, with a peer window and a route to it. -/
def peer (m : LinkMsg) : State :=
  { State.reset with peerwin := BitVec.ofNat 64 (at_ 1 63), routes := [(5, 1)], ports := State.reset.ports.modify 1 fun q => { q with inbox := [m] } }
def reads (a : Nat) : MemReq := { id := 3, spkg := 5, dpkg := 0, addr := a, op := .read 8 }
def writes : MemReq := { id := 3, spkg := 5, dpkg := 0, addr := 0x1000, op := .write [1, 2] [true, false] }
theorem witness_RemoteRequests :
    ((peer (.memReq (reads 64))).port 1).inbox = [.memReq (reads 64)] ∧ ((peer (.memReq writes)).route? 5).isSome = true ∧
      (∀ d ∈ (peer (.memReq writes)).dies, d.lasting = []) ∧ 1 < (peer (.memReq writes)).ports.length ∧
      (∀ i, i < 8 → (peer (.memReq writes)).peerMay (64 + i) = true) ∧
      (∀ i, i < 2 → (peer (.memReq writes)).peerMay (0x1000 + i) = true ∧ isMemory (0x1000 + i) = true) ∧
      (peer (.memReq writes)).peerMay (2 ^ 40) = false := by decide +kernel
theorem witness_RemoteAnswers : let a := { acc (.ld .always .n8 .none .none) [256] with phase := .remote 3 }
    let r : MemRsp := { id := 3, dpkg := 0, fault := none, data := [7] }
    let s := { sa a with ports := State.reset.ports.modify 1 fun q => { q with inbox := [.memRsp r] } }
    1 < s.ports.length ∧ (s.port 1).inbox = [.memRsp r] ∧ s.accesses = [a] ∧ (s.lane? a.fid).isSome = true ∧ a.orphan = false ∧ a.scaleAt = none ∧
      a.nibble = none ∧ a.coh ≠ 2 ∧ a.bytes.length = r.data.length := by decide +kernel

/-- A firmware command, and a TOPO block that is legal and one that names its own package among the routes. -/
def fw (op a : Nat) (l : List Nat) : State :=
  ({ State.reset with fwCmd := some (BitVec.ofNat 64 (at_ op 60 + a)) } : State).wrN a (l.flatMap (bytesLE 8))
theorem witness_Topo : let l := [at_ 1 16 + 2, at_ 1 63, at_ 3 16 + 7]
    (fw 4 0x1000 l).fwCmd = some (BitVec.ofNat 64 (at_ 4 60 + 0x1000)) ∧ natLE ((fw 4 0x1000 l).rdN 0x1000 8) = at_ 1 16 + 2 ∧
      topoBad (at_ 1 16 + 2) [at_ 3 16 + 7] = false ∧ topoBad (at_ 1 16 + 2) [at_ 3 16 + 2] = true ∧
      peerwinOf (BitVec.ofNat 64 (at_ 1 63)) = BitVec.ofNat 64 (at_ 1 63) := by decide +kernel
theorem witness_Firmware : State.reset.isOpen = false ∧ (fw 1 0x1000 []).fwCmd ≠ none ∧ ({ State.reset with fwOther := some 4 } : State).fwOther = some 4 ∧ State.reset.fwState = 0 ∧ ({ State.reset with fwState := 1 } : State).fwState ≠ 0 ∧
    State.reset.pkgid < 2 ^ 16 ∧ 0x1000 + 0x1000 ≤ Config.hbmTop := by decide +kernel

/-- A member of a gang at its tick, synchronised and not; a loss told to it, live and draining. -/
def gang0 : Gang := { number := 9, members := [(0, 1), (5, 1)], rank := 0, tick := 0, pastures := [(5, [0])] }
def member (d : Option (List Byte)) : Ctx := { oneWordCtx 0 with gang := some gang0, draining := d, entryDone := false }
def ganged (m : LinkMsg) (d : Option (List Byte)) (b : Bool) : State :=
  { State.reset with ctxs := [member d], sync := b, ports := State.reset.ports.modify 1 fun q => { q with inbox := [m] } }
theorem witness_Gangs : let m : LinkMsg := .control 0 5 9 (.lost 5 1)
    (ganged m none true).ctx? 0 = some (member none) ∧ gang0.allTold 0 = true ∧ gang0.tick ≤ (ganged m none true).tick ∧ (member none).entryToks = [] ∧ (member none).pin = [] ∧
      (∀ b ∈ (member none).blocks, b.inputs ≠ 0) ∧ ((ganged m none true).port 1).inbox = [.control State.reset.pkgid 5 9 (.lost 5 1)] ∧
      (ganged m none false).ctxOfGang 9 = some (member none) ∧ (ganged m (some []) false).ctxOfGang 9 = some (member (some [])) := by decide +kernel
theorem witness_TimeKept : ((ganged (.time 0 7) none true).port 1).inbox = [.time 0 7] ∧ (0 : Nat) + 2400000 ≤ 3000000 := by decide +kernel

/-! Clauses of the statements that the states above do not reach, each at an edge of its range. -/

/-- LaneFaultTaken: a higher lane of the flock took record 0 in this cycle; BlockChecks: a run that is no command, one past the last
record, one whose slot is not held; Walks: a spent budget. -/
def twoLanes : Flock :=
  { flk (abc 1 2 3) with lanes := [lan (abc 1 2 3), { lan (abc 4 5 6) with fid := 5, lane := 1, status := .masked 0 (some 0) }] }
def aboveIt : Sick := { status := .pending false, lane := twoLanes.lanes[1]?, flock := 1, code := 1, taken := 7 }
theorem witness_LaneOrder : let s : State := { sickState (.nop .always .none .none) aboveIt with flocks := [twoLanes], cycle := 7 }
    s.flockOf? 2 = some twoLanes ∧ twoLanes.lane? 2 = some (lan (abc 1 2 3)) ∧ (lan (abc 1 2 3)).isMasked = false ∧
      (s.ctx? 0).bind (·.sick[0]?) = some aboveIt ∧ aboveIt.flock = twoLanes.id ∧ aboveIt.taken = s.cycle ∧
      (s.ctx? 0).bind (·.sick[1]?) = some { status := .free } ∧ handlerBlock (sickCtx 0 aboveIt).handler 1 ≠ none := by decide +kernel
theorem witness_RunChecks : let b := network.block
    let past := b ||| BitVec.ofNat 512 (at_ 4094 48)
    b.extractLsb' 0 4 = 7 ∧ (b - 1).extractLsb' 0 4 ≠ 7 ∧ past.extractLsb' 6 42 = 0 ∧ past.extractLsb' 60 4 = 0 ∧
      4096 < (past.extractLsb' 48 12).toNat + (past.extractLsb' 64 12).toNat + 1 ∧ (lkrunChecks b).all (·.2) = true ∧
      (se network).holdsSlot 0 0 2 = false ∧ planes.holdsSlot 0 0 2 = true ∧ planes.rangeBad 0 0 (lkrunRanges b) = none := by decide +kernel
theorem witness_Budgets : let s : State := { walking with memStacks := walking.memStacks.map fun k => { k with left := 0 } }
    s.unitsFor (s.recBytes 0 12) = false ∧ walking.unitsFor (walking.recBytes 0 12) = true ∧
      State.reset.memStacks.all (fun k => k.left = 0xFFFFFFFF) = true := by decide +kernel

/-- AtomicsPerformed: a release that waits, one with a byte to write through, an atomic in the L1; OrderedReduction under DET. -/
theorem witness_AtomicForms : let a := { acc (.atom .always .add .none false .rel .pkg) ((List.range 4).map (256 + ·)) 5 with before := [7] }
    let o := { acc (.st .always .n8 .none .none) [300] with id := 7, fid := 3 }
    let x : Sector := { core := 0, ctx := 0, addr := 512, coh := 2, agen := 0, bytes := List.replicate 32 1, valid := BitVec.allOnes 32, dirty := 1,
                        through := 1 }
    Due (sa a) 0 a (lan { (abc 0 0 0) with issued := true }) ∧ (∃ i ∈ a.before, ∃ q ∈ [a, o], q.id = i ∧ q.fid ≠ a.fid) ∧
      (∀ i ∈ a.before, ∀ q ∈ (sa a).accesses, q.id ≠ i) ∧ x.core = a.core ∧ x.through.getLsbD 0 = true ∧ x.dirty.getLsbD 0 = true ∧
      isMemory (x.addr + 0) = true ∧ x.addr + 0 ∉ a.bytes :=
  ⟨⟨rfl, by decide, rfl, rfl, rfl, rfl, rfl, rfl, rfl, rfl, rfl, rfl, rfl, dies_sa _ _, rfl⟩, by decide, by decide, rfl, by decide, by decide,
    by decide, by decide⟩
theorem witness_Det : let a := acc (.fatom .always .addF32 .none .acq .pkg) ((List.range 4).map (256 + ·)) 0x3F800000 0
    let s : State := { sa a with ctxs := (sa a).ctxs.map fun c => { c with det := true } }
    Due s 0 a (lan { (abc 0 0 0) with issued := true }) ∧ s.isDet 0 = true ∧ a.c.bits.toNat % 2 ^ 32 = 0 := by
  intro a s
  exact ⟨⟨rfl, by decide, rfl, rfl, rfl, rfl, rfl, rfl, rfl, rfl, rfl, rfl, rfl, dies_sa a [], rfl⟩, by decide, by decide⟩

/-- CopiedElements: a fill, a reduction, planes by thresholds, a trough's reduction, each in its regions and apart. -/
theorem witness_CopiedElements : let k := copy (.cpyf .always .none .none)
    (se k).apart k (copySrcRange .cpyf k.block) (copyDstRange .cpyf k.block) ∧ (∀ y ∈ copyDstRange .cpyf k.block, ∀ i, i < ((se k).spanOf k y).2 → isMemory (((se k).spanOf k y).1 + i) = true) ∧
      (4 * fmtBits (.int .n8) + 7) / 8 ≤ (cDst k.block).pitch ∧ threshFmt (.int .i8) = true ∧ intFmt (.int .n8) 8 = true ∧
      (let r := cmd .trough (.tred .always .none .none) (at_ 2 26 + at_ 2 32 + ep 256 1 16 0 16 + ep 384 1 17 0x100 4)
       (se r).headCmd 0 .trough = some r ∧ tredSrcOk r.block .f32 = true ∧ tredDstOk r.block .f16 = true ∧
         (se r).inRegions r ((cSrc r.block).range 3 3) ∧ (se r).inRegions r ((cDst r.block).range 1 3) ∧
         (se r).apart r ((cSrc r.block).range 3 3) ((cDst r.block).range 1 3) ∧ (∀ y ∈ (cDst r.block).range 1 3, ∀ i, i < ((se r).spanOf r y).2 → isMemory (((se r).spanOf r y).1 + i) = true)) := by
  unfold State.apart State.inRegions; decide +kernel

/-- IterationsReleased: BASE closes with the next two closed already, and one above BASE; KillsCarriedOut: a killed ready instance. -/
theorem witness_Closes : let a := { active 3 with closed := 6 }
    0 = a.base ∧ 0 ≤ a.top ∧ 0 ≤ a.h ∧ 3 ≤ a.top + 1 ∧ a.closed.getLsbD (1 - a.base) = true ∧ a.closed.getLsbD (2 - a.base) = true ∧
      ¬(a.closed.getLsbD (3 - a.base) = true ∨ a.h < 3) ∧ a.base < 3 ∧ 3 < a.base + 512 ∧ ¬(a.closed.getLsbD (a.base - a.base) = true ∨ a.h < a.base) ∧
      a.top < 4 := by decide +kernel
theorem witness_KilledReady : notice.upto = none ∧ notice.kills 0 0 (iterTag 0 1 0 0 4) 0 = false ∧ notice.kills 0 0 (iterTag 0 1 0 0 5) 0 = true ∧
    notice.hpkg = State.reset.pkgid := by decide

/-- QuiescenceReported: entries that fit their record, and a grant that waits. -/
theorem witness_Waiting : ({ entryOf 0 0 tok 2 0 with state := 0 } : FoldEntry).Fits ∧
    (let s : State := { State.reset with ctxs := [stuck {}], acts := [active 7], cores := State.reset.cores.modify 0 fun k => { k with waitq := [req (.inl .next) 7] } }
     s.waitingReqs 0 = [(0, req (.inl .next) 7)] ∧ s.act? 0 0 1 0 = some (active 7)) := by unfold FoldEntry.Fits; decide +kernel

/-- ContextsPreempted: a token for a stopped core; regions that fit again; a captured token that fills its entry; the last diverted one. -/
theorem witness_Diverted : let c := { two with saved := [section0 1 []], pinBase := [(1, 0x200000000), (0, 0), (0, 0), (0, 0)] }
    ((inq c).core 0).inq = [trip] ∧ trip.came < (inq c).cycle + 1 ∧ trip.ctx = 0 ∧ trip.dst = 0 ∧ trip.tok.eng ≠ some (0, 0) ∧ c.pinFree = some 0 ∧
      c.gang = none ∧ c.draining = none ∧ (inq c).pinHeld = [] ∧ ({ tok with eng := some (0, 0) } : Token).eng = some (State.reset.pkgid, 0) := by
  decide +kernel
theorem witness_RegionsAgain : let r : Region := { core := 0, frameSeg := 0, frames := 16, scrSeg := 16, scratch := 8, accSeg := 0, accum := 1 }
    let z := { section0 3 [] with takes := (true, true), region := some r, scratch := some 0x200000040, accum := some 0x200090040 }
    let s : State := { yard with ctxs := [{ inWay with regions := z.keptRegion, saved := [z] }] }
    z.region = some r ∧ s.notHeld { inWay with regions := z.keptRegion, saved := [z] } 0 = true ∧
      (fitRegion 0 r.frames r.scratch r.accum (s.usedShed 0) (s.usedAccum 0)).isSome = true ∧ 0x200090040 + 32768 * r.accum ≤ Config.hbmTop := by decide +kernel
theorem witness_Captured : let e := { entryOf 0 0 tok 2 9 with slots := [none, some (5, false)] }
    let p : PinSlot := { slot := 0, entry := entryOf 0 0 tok 2 7, stamp := 7, core := 0, why := .divert }
    e.tag = tok.tag ∧ e.slots.length = two.inputsOf tok.block ∧ e.slots[tok.slot]? = some none ∧
      (∀ k, k < e.slots.length → k ≠ tok.slot → (e.slots[k]?.bind id).isSome = true) ∧ p.stamp = p.entry.arrival ∧ p.entry.complete = false ∧
      (inq two).frame1 0 0 p.entry.units ≠ none := by decide +kernel

/-- RailsAndBudgets: the cycle in which a pipeline may issue again, with and without its die's alarm; PowerStates: a dirty byte. -/
theorem witness_Issue : let s : State := { st (.movi .always (.reg 1) 2) with cycle := 5 }
    let t := s.updCore 0 fun k => { k with issued := [5] }
    (t.core 0).issued[0]? = some (4 + 1) ∧ 4 + 1 ≤ t.cycle ∧ ¬t.cycle ≤ 4 ∧ t.cycle ≤ 4 + 1 ∧ t.dies[dieOf 0]? = some {} ∧
      t.flocks.all (fun f => f.core = 0 && f.pipe = 0 && (f.nextIndex (t.codeOf f)).isSome) = true := by decide +kernel
theorem witness_WrittenBack : let x : Sector := { core := 0, ctx := 0, addr := 0x1000, coh := 2, agen := 0, bytes := List.replicate 32 1,
                                                  valid := BitVec.allOnes 32, dirty := 2 }
    let s : State := { core0 (fun k => { k with power := .clockGated }) with fwState := 1, l1 := [x] }
    s.numbered ∧ s.memOk ∧ x.addr % 32 = 0 ∧ x.dirty.getLsbD 1 = true ∧ x.dirty.getLsbD 0 = false ∧ isMemory (x.addr + 31) = true :=
  ⟨by unfold State.numbered; decide +kernel, rfl, by decide, by decide, by decide, by decide⟩

/-- GangsStartAndEnd: a member that has fallen out, every other routed; a launch that still waits; TimeKept: roots below, at and above the
lowest known. -/
theorem witness_Missed : let s : State := { ganged (.time 0 7) none false with routes := [(5, 1)] }
    let q := { queuedLaunch with header := queuedLaunch.header ||| BitVec.ofNat 512 (at_ 1 432) }
    s.sync = false ∧ (∀ m ∈ gang0.members, m.1 ≠ s.pkgid → (s.route? m.1).isSome = true) ∧ lhGang q.header ≠ 0 ∧ lhTick q.header ≤ s.tick := by decide +kernel
theorem witness_Roots : let s : State := { State.reset with sync := true, root := 3, pkgid := 5, rootPort := 1 }
    let known := if s.sync then min s.root s.pkgid else s.pkgid
    2 < known ∧ 3 = known ∧ 3 < s.pkgid ∧ known < 4 ∧ s.rootPort ≠ 2 ∧ (if State.reset.sync then min State.reset.root 0 else 0) = 0 := by decide +kernel
end Sys2Proof.Tests
end

section
/-! SUPPORT. What a host port sees of a state (its outgoing packets and the state and inbox of each port) stays as it is
when a device register is written: one lemma per operation that a register write can set off. -/

namespace Sys2Proof.Machine

/-- What the host ports show: the packets on their way to hosts, and of each port its state and what waits in it. -/
def State.hostView (s : State) : List HostOut × List (Nat × List LinkMsg) :=
  (s.hostOut, s.ports.map fun p => (p.state, p.inbox))

theorem State.hostView_congr {s t : State} (ho : t.hostOut = s.hostOut) (hp : t.ports = s.ports) : t.hostView = s.hostView := by
  simp [hostView, ho, hp]

theorem State.hostView_foldl {α : Type} {f : State → α → State} (hf : ∀ s x, (f s x).hostView = s.hostView) (l : List α) :
    ∀ s : State, (l.foldl f s).hostView = s.hostView := by
  induction l with
  | nil => exact fun _ => rfl
  | cons x r ih => exact fun s => (ih (f s x)).trans (hf s x)

theorem State.port_state_eq (s : State) (k : Nat) : (s.port k).state = ((s.hostView.2[k]?).map (·.1)).getD 0 := by
  simp only [port, hostView, List.getElem?_map]
  cases s.ports[k]? <;> rfl

theorem State.port_inbox_eq (s : State) (k : Nat) : (s.port k).inbox = ((s.hostView.2[k]?).map (·.2)).getD [] := by
  simp only [port, hostView, List.getElem?_map]
  cases s.ports[k]? <;> rfl

theorem State.port_state_of_hostView {s t : State} (h : t.hostView = s.hostView) (k : Nat) : (t.port k).state = (s.port k).state := by
  rw [port_state_eq, port_state_eq, h]

theorem State.port_inbox_of_hostView {s t : State} (h : t.hostView = s.hostView) (k : Nat) : (t.port k).inbox = (s.port k).inbox := by
  rw [port_inbox_eq, port_inbox_eq, h]

/-! ### Updates -/

@[simp] theorem State.hostView_updCore (s : State) (c : Nat) (f : Core → Core) : (s.updCore c f).hostView = s.hostView := rfl

@[simp] theorem State.hostView_updCtx (s : State) (x : Nat) (f : Ctx → Ctx) : (s.updCtx x f).hostView = s.hostView := rfl

@[simp] theorem State.hostView_moved (s : State) (x : Nat) : (s.moved x).hostView = s.hostView := rfl

@[simp] theorem State.hostView_stir (s : State) (core : Nat) : (s.stir core).hostView = s.hostView := rfl

@[simp] theorem State.hostView_wr (s : State) (a : Nat) (b : Byte) : (s.wr a b).hostView = s.hostView :=
  hostView_congr (by simp) (by simp)

@[simp] theorem State.hostView_wrN (l : List Byte) : ∀ (s : State) (a : Nat), (s.wrN a l).hostView = s.hostView := by
  induction l with
  | nil => exact fun _ _ => rfl
  | cons b r ih => exact fun s a => (ih (s.wr a b) (a + 1)).trans (hostView_wr s a b)

@[simp] theorem State.hostView_sendOut (s : State) (p : Nat) (m : LinkMsg) : (s.sendOut p m).hostView = s.hostView := by
  unfold sendOut; split <;> rfl

/-! ### Tokens and requests that an answer sends -/

@[simp] theorem State.hostView_inject (s : State) (x src : Nat) (t : Token) (pkg core : Nat) :
    (s.inject x src t pkg core).hostView = s.hostView := by
  unfold inject
  split
  · rfl
  · simp

@[simp] theorem State.hostView_enterQueue (s : State) (core : Nat) (r : UnitReq) : (s.enterQueue core r).hostView = s.hostView := rfl

@[simp] theorem State.hostView_postRequest (s : State) (pkg core : Nat) (r : UnitReq) :
    (s.postRequest pkg core r).hostView = s.hostView := by
  unfold postRequest
  dsimp only
  split
  · rfl
  · split <;> split <;> exact hostView_sendOut _ _ _

@[simp] theorem State.hostView_contTo (s : State) (c : Ctx) (src core : Nat) (w payload : Word) (rel : Option Scope) (eng : Option (Nat × Nat)) :
    (s.contTo c src core w payload rel eng).hostView = s.hostView := by
  unfold contTo
  dsimp only
  split
  · rfl
  · refine hostView_foldl (fun s e => ?_) _ s
    cases e with
    | token t p k => exact hostView_inject _ _ _ _ _ _
    | request p k r =>
      dsimp only
      split
      · exact hostView_postRequest _ _ _ _
      · rfl

@[simp] theorem State.hostView_answerCont (s : State) (x src core : Nat) (w payload : Word) (rel : Option Scope) :
    (s.answerCont x src core w payload rel).hostView = s.hostView := by
  unfold answerCont
  split
  · rfl
  · split
    · rfl
    · exact hostView_contTo _ _ _ _ _ _ _ _

/-! ### The pinfold and its context fault -/

theorem State.hostView_pinAdd {s t : State} {e : FoldEntry} {why : PinWhy} (h : s.pinAdd e why = some t) : t.hostView = s.hostView := by
  unfold pinAdd at h
  split at h
  · cases h
  · split at h
    · cases h
    · obtain rfl := Option.some.inj h
      simp

@[simp] theorem State.hostView_writeFatal (s : State) (x : Nat) (l : List Byte) : (s.writeFatal x l).hostView = s.hostView := by
  unfold writeFatal
  split
  · exact hostView_wrN _ _ _
  · rfl

@[simp] theorem State.hostView_drain (s : State) (x : Nat) (report : List Byte) (code : Nat) :
    (s.drain x report code).hostView = s.hostView := by
  unfold drain
  split
  · rfl
  · split
    · rfl
    · rename_i c _ _
      dsimp only
      rcases c.gang with _ | g
      · rfl
      · by_cases hc : code = 0x33
        · simp only [hc, if_true]; rfl
        · simp only [hc, if_false]
          exact hostView_foldl (fun s p => hostView_sendOut s p _) _ _

@[simp] theorem State.hostView_fatalContext (s : State) (x : Nat) (f : PendingFault) : (s.fatalContext x f).hostView = s.hostView := by
  unfold fatalContext
  split
  · rfl
  · simp

@[simp] theorem State.hostView_fillContextRecord (s : State) (x : Nat) (f : PendingFault) :
    (s.fillContextRecord x f).hostView = s.hostView := by
  unfold fillContextRecord
  split
  · rfl
  · split <;> simp

@[simp] theorem State.hostView_captureContext (s : State) (x code : Nat) (detail : List Word) (fatal : Bool) :
    (s.captureContext x code detail fatal).hostView = s.hostView := by
  unfold captureContext
  split
  · rfl
  · dsimp only
    split
    · rfl
    · split <;> simp

@[simp] theorem State.hostView_pinfoldFull (s : State) (x : Nat) (l : List Transit) : (s.pinfoldFull x l).hostView = s.hostView := by
  unfold pinfoldFull
  dsimp only
  split
  · rfl
  · split
    · rfl
    · exact hostView_captureContext _ _ _ _ _

@[simp] theorem State.hostView_pinOrHold (s : State) (e : FoldEntry) (why : PinWhy) (l : List Transit) :
    (s.pinOrHold e why l).hostView = s.hostView := by
  unfold pinOrHold
  split
  · exact hostView_pinAdd ‹_›
  · exact hostView_pinfoldFull _ _ _

/-! ### The fold -/

@[simp] theorem State.hostView_promote (s : State) (core : Nat) : (s.promote core).hostView = s.hostView :=
  hostView_foldl (f := makeReady) (fun _ _ => rfl) _ s

@[simp] theorem State.hostView_rebind (s : State) (core : Nat) : (s.rebind core).hostView = s.hostView := rfl

@[simp] theorem State.hostView_writeFrame (s : State) (e : FoldEntry) : (s.writeFrame e).hostView = s.hostView := by
  unfold writeFrame
  split
  · exact hostView_wrN _ _ _
  · rfl

@[simp] theorem State.hostView_foldAdd (s : State) (e : FoldEntry) : (s.foldAdd e).hostView = s.hostView :=
  hostView_writeFrame _ _

theorem State.hostView_setRoom {s t : State} {e : FoldEntry} (h : s.setRoom e = some t) : t.hostView = s.hostView := by
  unfold setRoom at h
  split at h
  · obtain rfl := Option.some.inj h
    rfl
  · dsimp only at h
    split at h
    · cases h
    · obtain rfl := Option.some.inj h
      refine hostView_foldl (fun s g => ?_) _ _
      cases hp : s.pinAdd _ .spilled with
      | none => rfl
      | some t => exact hostView_pinAdd hp

theorem State.hostView_placeEntry {s t : State} {e : FoldEntry} (h : s.placeEntry e = .at_ t) : t.hostView = s.hostView := by
  unfold placeEntry at h
  split at h
  · obtain rfl := Placed.at_.inj h
    exact hostView_foldAdd _ _
  · split at h
    · cases h
    · split at h
      · obtain rfl := Placed.at_.inj h
        exact hostView_foldAdd _ _
      · split at h <;> cases h

theorem State.hostView_present {s t : State} {e : FoldEntry} (h : s.present e = some t) : t.hostView = s.hostView := by
  unfold present at h
  dsimp only at h
  split at h
  · obtain rfl := Option.some.inj h
    exact hostView_writeFrame _ _
  · split at h
    · cases h
    · rename_i u hu
      rw [← hostView_setRoom hu]
      split at h
      · obtain rfl := Option.some.inj h
        exact hostView_placeEntry ‹_›
      · obtain rfl := Option.some.inj h
        rfl
      · cases h

@[simp] theorem State.hostView_represent (s : State) (p : PinSlot) : (s.represent p).hostView = s.hostView := by
  unfold represent
  split
  · rfl
  · dsimp only
    split
    · rfl
    · split
      · rfl
      · split
        · rename_i hp
          simpa using hostView_present hp
        · rfl

@[simp] theorem State.hostView_representSpilled (s : State) (core x : Nat) : (s.representSpilled core x).hostView = s.hostView := by
  unfold representSpilled
  split
  · rfl
  · dsimp only
    split
    · rfl
    · exact hostView_foldl hostView_represent _ s

@[simp] theorem State.hostView_meetFold (s : State) (e : FoldEntry) (tr : Transit) (held : Bool) :
    (s.meetFold e tr held).hostView = s.hostView := by
  have hspill : ∀ u : State, (if held then u.pinfoldFull e.ctx [tr] else u.pinOrHold e .spilled [tr]).hostView = u.hostView := by
    intro u
    split <;> simp
  unfold meetFold
  dsimp only
  split
  · simp [hspill]
  · split
    · rename_i hp
      simpa using hostView_present hp
    · simp [hspill]

@[simp] theorem State.hostView_arriveAt (s : State) (tr : Transit) (held : Bool) : (s.arriveAt tr held).hostView = s.hostView := by
  unfold arriveAt
  split
  · rfl
  · split
    · rfl
    · dsimp only
      split
      · rfl
      · split
        · split <;> simp
        · split <;> simp

@[simp] theorem State.hostView_flowOne (s : State) (t : Transit) : (s.flowOne t).hostView = s.hostView := by
  unfold flowOne
  split
  · rfl
  · split <;> simp

@[simp] theorem State.hostView_flowHeld (x n : Nat) : ∀ s : State, (State.flowHeld x n s).hostView = s.hostView := by
  induction n with
  | zero => exact fun _ => rfl
  | succ n ih =>
    intro s
    unfold flowHeld
    split
    · split
      · split
        · rfl
        · rfl
        · rw [ih, hostView_flowOne]; rfl
        · rw [ih, hostView_flowOne]; rfl
      · rfl
    · rfl

/-! ### The registers -/

theorem State.hostView_writeOtpool (s : State) (v : Word) : (s.writeOtpool v).hostView = s.hostView := by
  unfold writeOtpool
  dsimp only
  split <;> rfl

theorem State.hostView_writeOtcmd (s : State) (v : Word) : (s.writeOtcmd v).hostView = s.hostView := by
  unfold writeOtcmd
  dsimp only
  split
  · rfl
  · split <;> rfl

/-- An answer to a fetch goes to a continuation on a core, never to a host. -/
theorem State.hostView_writeResans (s : State) (v : Word) : (s.writeResans v).hostView = s.hostView := by
  unfold writeResans
  dsimp only
  split
  · rfl
  · split
    · rfl
    · rw [hostView_moved, hostView_answerCont]
      rfl

theorem State.hostView_writeOt (s : State) (k : Nat) (v : Word) : (s.writeOt k v).hostView = s.hostView := by
  unfold writeOt
  split
  · exact hostView_writeOtpool s v
  · split
    · exact hostView_writeOtcmd s v
    · split
      · rfl
      · exact hostView_writeResans s v

theorem State.hostView_writePinext (s : State) (x k : Nat) (v : Word) : (s.writePinext x k v).hostView = s.hostView := by
  unfold writePinext
  dsimp only
  split
  · simp
  · split <;> rfl

theorem State.hostView_writeSavepool (s : State) (v : Word) : (s.writeSavepool v).hostView = s.hostView := by
  unfold writeSavepool
  split <;> rfl

theorem State.hostView_writePkg (s : State) (k : Nat) (v : Word) : (s.writePkg k v).hostView = s.hostView := by
  unfold writePkg
  split
  · rfl
  · split <;> rfl

theorem State.hostView_writeFwcmd (s : State) (v : Word) : (s.writeFwcmd v).hostView = s.hostView := by
  unfold writeFwcmd
  split
  · rfl
  · split <;> rfl

theorem State.hostView_writeFw (s : State) (k : Nat) (v : Word) : (s.writeFw k v).hostView = s.hostView := by
  unfold writeFw
  split
  · rfl
  · split
    · rfl
    · split
      · rfl
      · split
        · exact hostView_writeFwcmd s v
        · rfl

/-- LINKSTAT clears counts of drops only. -/
theorem State.hostView_writeLink (s : State) (k : Nat) (v : Word) : (s.writeLink k v).hostView = s.hostView := by
  refine Prod.ext rfl ?_
  simp only [hostView, writeLink]
  exact List.ext_getElem? fun i => by
    simp only [List.getElem?_map, List.getElem?_modify]
    cases s.ports[i]? with
    | none => rfl
    | some p => by_cases hi : k = i <;> simp [hi]

/-- A register write sends no packet to a host and takes none from a port. -/
@[simp] theorem State.hostView_writeReg (s : State) (a : Nat) (v : Word) : (s.writeReg a v).hostView = s.hostView := by
  unfold writeReg
  split
  · exact hostView_writeOt _ _ _
  · exact hostView_updCore _ _ _
  · exact hostView_writeSavepool _ _
  · exact hostView_writePinext _ _ _ _
  · split
    · exact hostView_writeLink _ _ _
    · exact hostView_writePkg _ _ _
    · exact hostView_writeFw _ _ _
    · rfl

end Sys2Proof.Machine
end

section
/-! SUPPORT. Runs of bytes in memory: what is read at a run, and what a write of a run stores and leaves. -/

namespace Sys2Proof.Machine

/-- A run of addresses begins with its first one. -/
theorem map_add_range_succ (a n : Nat) : (List.range (n + 1)).map (a + ·) = a :: (List.range n).map (a + 1 + ·) := by
  simp [List.range_succ_eq_map, Function.comp_def, Nat.add_assoc, Nat.add_comm 1]

theorem State.rdN_eq_map (s : State) (n : Nat) : ∀ a, s.rdN a n = ((List.range n).map (a + ·)).map s.rd := by
  induction n with
  | zero => exact fun _ => rfl
  | succ n ih => exact fun a => by rw [rdN, ih, map_add_range_succ, List.map_cons]

theorem State.rd_of_mem {s t : State} (h : t.mem = s.mem) : t.rd = s.rd := by
  funext x; simp only [rd, h]

theorem State.rd_wrN_outside (l : List Byte) : ∀ {s : State} (_ : s.memOk) {a x : Nat} (_ : x < a ∨ a + l.length ≤ x),
    (s.wrN a l).rd x = s.rd x := by
  induction l with
  | nil => exact fun _ _ _ _ => rfl
  | cons b r ih =>
    intro s hs a x hx
    rw [List.length_cons] at hx
    rw [wrN, ih (memOk_wr hs a b) (by omega), rd_wr_other hs b (by omega)]

theorem State.rdN_wrN_same (l : List Byte) : ∀ {s : State} (_ : s.memOk) {a : Nat} (_ : ∀ i, i < l.length → isMemory (a + i) = true),
    (s.wrN a l).rdN a l.length = l := by
  induction l with
  | nil => exact fun _ _ _ => rfl
  | cons b r ih =>
    intro s hs a hm
    have hrest : ∀ i, i < r.length → isMemory (a + 1 + i) = true := fun i hi => by
      rw [Nat.add_right_comm]; exact hm (i + 1) (Nat.succ_lt_succ hi)
    have hfirst : ((s.wr a b).wrN (a + 1) r).rd a = b := by
      rw [rd_wrN_outside r (memOk_wr hs a b) (.inl a.lt_succ_self)]
      exact rd_wr_same hs b (hm 0 (Nat.succ_pos _))
    rw [wrN, List.length_cons, rdN, hfirst, ih (memOk_wr hs a b) hrest]

end Sys2Proof.Machine
end

section
/-! SUPPORT. The steps of a host port's read or write of memory (R435) on a package with every core running, no write on a
die bridge, no planted error and units left in every stack's window; and the answer. -/

namespace Sys2Proof.Machine

/-! ### The answer -/

theorem State.port_popInbox (s : State) (k : Nat) : (s.popInbox k).port k = { s.port k with inbox := (s.port k).inbox.drop 1 } := by
  simp only [State.port, popInbox, List.getElem?_modify_eq]
  cases s.ports[k]? <;> rfl

/-- By a port that is up a packet leaves at once. -/
theorem State.toHost_of_up {s : State} {k : Nat} (h : (s.port k).state = 1) (type : Nat) (cookie : BitVec 32) (arg : Word) (body : List Byte) :
    s.toHost k type cookie arg body =
      { s with hostOut := s.hostOut ++ [{ port := k, type := type, cookie := cookie, arg := arg, body := body }] } := by
  unfold toHost
  dsimp only
  rw [if_neg]
  change ¬(decide ((s.port k).state = 2) || decide ((s.port k).state = 3)) = true
  simp [h]

/-- `t` has answered the packet at the head of a port of `s`: the answer leaves, after what left before, and the packet is gone. -/
def State.Answered (s t : State) (k type : Nat) (p : HostPkt) (st : Nat) (body : List Byte) : Prop :=
  t.hostOut = s.hostOut ++ [{ port := k, type := type, cookie := hpCookie p, arg := BitVec.ofNat 64 st, body := body }] ∧
    (t.port k).inbox = (s.port k).inbox.drop 1

/-- The step of an access after which its packet is answered. -/
def State.answerHost (s : State) (k type : Nat) (p : HostPkt) (st : Nat) (body : List Byte) : State :=
  (s.popInbox k).toHost k type (hpCookie p) (w64 st) body

theorem State.answerHost_eq {s : State} {k : Nat} (h : (s.port k).state = 1) (type : Nat) (p : HostPkt) (st : Nat) (body : List Byte) :
    s.answerHost k type p st body = { s.popInbox k with
      hostOut := s.hostOut ++ [{ port := k, type := type, cookie := hpCookie p, arg := BitVec.ofNat 64 st, body := body }] } :=
  toHost_of_up (by rw [port_popInbox]; exact h) type _ _ body

section
variable {s t : State} {k : Nat} (h : t.hostView = s.hostView) (hp : (s.port k).state = 1)
include h hp

theorem State.answerHost_of_hostView (type : Nat) (p : HostPkt) (st : Nat) (body : List Byte) :
    t.answerHost k type p st body = { t.popInbox k with
      hostOut := s.hostOut ++ [{ port := k, type := type, cookie := hpCookie p, arg := BitVec.ofNat 64 st, body := body }] } := by
  have ho : t.hostOut = s.hostOut := congrArg Prod.fst h
  rw [answerHost_eq ((port_state_of_hostView h k).trans hp), ho]

theorem State.answered_answerHost (type : Nat) (p : HostPkt) (st : Nat) (body : List Byte) :
    s.Answered (t.answerHost k type p st body) k type p st body := by
  rw [answerHost_of_hostView h hp]
  refine ⟨rfl, ?_⟩
  change ((t.popInbox k).port k).inbox = _
  rw [port_popInbox, port_inbox_of_hostView h]

theorem State.answerHost_mem (type : Nat) (p : HostPkt) (st : Nat) (body : List Byte) : (t.answerHost k type p st body).mem = t.mem := by
  rw [answerHost_of_hostView h hp]; rfl

end

/-! ### The access -/

/-- The physical address that ARG names under FORM 0, and the bytes that a WREAD asks for. -/
def hpAddr (p : HostPkt) : Nat := (hpArg p).toNat % 2 ^ 48
def hpSize (p : HostPkt) : Nat := (hpArg p).toNat / 2 ^ 48 % 2 ^ 9 + 1

theorem State.hostAccess_form0 {s : State} {p : HostPkt} (h : (hpArg p).getLsbD 63 = false) (n : Nat) :
    s.hostAccess p n = s.hostPhysical (hpAddr p) n := by
  have hb : bits (hpArg p).toNat 63 1 = 0 := by
    rw [BitVec.getLsbD, Nat.testBit_eq_decide_div_mod_eq] at h
    simpa [bits] using h
  simp only [hostAccess, hb, if_true]
  simp [bits, hpAddr]

/-- Bytes below the registers are none of theirs. -/
theorem isReg_below {a : Nat} (h : a < Config.regLow) : isReg a = false := by
  simp [isReg, Nat.not_le.mpr h]

theorem State.hostPhysical_below (s : State) {a n : Nat} (hn : 0 < n) (ha : a + n ≤ Config.regLow) :
    s.hostPhysical a n = if !s.isOpen && !inStaging a n then .status 3 else .bytes ((List.range n).map (a + ·)) := by
  simp [hostPhysical, isReg_below (show a < Config.regLow by omega), isReg_below (show a + n - 1 < Config.regLow by omega)]

theorem isReg_within {a : Nat} (hlo : Config.regLow ≤ a) (hhi : a < Config.regTop) : isReg a = true := by
  simp [isReg, hlo, hhi]

theorem isReg_headD_run {a n : Nat} (hn : 0 < n) (ha : a + n ≤ Config.regLow) : isReg (((List.range n).map (a + ·)).headD 0) = false := by
  obtain ⟨m, rfl⟩ := Nat.exists_eq_add_one.mpr hn
  rw [map_add_range_succ, List.headD_cons]
  exact isReg_below (by omega)

theorem State.hostPhysical_register (s : State) {a : Nat} (ha : isReg a = true) (h8 : a % 8 = 0) : s.hostPhysical a 8 = .bytes [a] := by
  simp [hostPhysical, ha, h8]

/-! ### The steps of a memory access -/

/-- A package that makes no host access of memory wait or fail: every core runs, no write is queued between dies, no error is planted and
every stack has units left. -/
structure State.Calm (s : State) : Prop where
  running : ∀ c, (s.core c).power = .running
  bridge : s.bridge = []
  errors : s.errors = []
  units : ∀ k ∈ s.memStacks, k.left ≠ 0

theorem State.wakeFor_running {s : State} (h : ∀ c, (s.core c).power = .running) (l : List Nat) : s.wakeFor l = (s, false) := by
  have hstir : (windowCores l).foldl State.stirIfGated s = s := by
    induction windowCores l with
    | nil => rfl
    | cons c r ih => rwa [List.foldl_cons, stirIfGated, if_pos (h c)]
  simp [wakeFor, hstir, h]

theorem State.unitsFor_of_left {s : State} (h : ∀ k ∈ s.memStacks, k.left ≠ 0) (l : List Nat) : s.unitsFor l = true := by
  refine List.all_eq_true.mpr fun x _ => ?_
  cases hk : s.memStacks[stackOf x]? with
  | none => simp
  | some k => simp [h k (List.mem_of_getElem? hk)]

/-- A charge changes the stacks only. -/
theorem State.chargeUnits_eq (s : State) (l : List Nat) : s.chargeUnits l = { s with memStacks := (s.chargeUnits l).memStacks } := by
  unfold chargeUnits
  generalize ((l.filter (· < Config.hbmTop)).map (· / 64)).eraseDups = bs
  induction bs generalizing s with
  | nil => rfl
  | cons b r ih => rw [List.foldl_cons, ih]

@[simp] theorem State.hostView_chargeUnits (s : State) (l : List Nat) : (s.chargeUnits l).hostView = s.hostView := by
  rw [chargeUnits_eq]; rfl

@[simp] theorem State.chargeUnits_mem (s : State) (l : List Nat) : (s.chargeUnits l).mem = s.mem := by rw [chargeUnits_eq]

@[simp] theorem State.chargeUnits_bridge (s : State) (l : List Nat) : (s.chargeUnits l).bridge = s.bridge := by rw [chargeUnits_eq]

@[simp] theorem State.chargeUnits_errors (s : State) (l : List Nat) : (s.chargeUnits l).errors = s.errors := by rw [chargeUnits_eq]

theorem State.hostMeets_of_no_errors {s : State} (h : s.errors = []) (p : HostPkt) (l : List Nat) : s.hostMeets p l = (s, false) := by
  simp [hostMeets, h]

theorem State.drainBridge_of_empty {s : State} (h : s.bridge = []) (p : BridgeWrite → Bool) : s.drainBridge p = s := by
  simp only [drainBridge, h, List.filter_nil, List.foldl_nil]
  rw [← h]

theorem State.hostRead_of_empty {s : State} (h : s.bridge = []) (l : List Nat) : s.hostRead l = (s, l.map s.rd) := by
  have hs : l.foldl (fun (s : State) a => s.drainBridge fun w => w.dst = homeDie a && a < Config.hbmTop) s = s := by
    induction l with
    | nil => rfl
    | cons a r ih => rwa [List.foldl_cons, drainBridge_of_empty h]
  simp only [hostRead, hs]

theorem State.hostWrite_run (bs : List Byte) : ∀ {s : State} (_ : s.bridge = []) (a : Nat),
    s.hostWrite ((List.range bs.length).map (a + ·)) bs = s.wrN a bs := by
  induction bs with
  | nil => exact fun _ _ => rfl
  | cons b r ih =>
    intro s h a
    have hw : (s.wr a b).bridge = [] := by rw [wr_bridge, h]
    rw [List.length_cons, map_add_range_succ, wrN, ← ih hw (a + 1)]
    simp only [hostWrite, List.zip_cons_cons, List.foldl_cons, drainBridge_of_empty h]

/-! ### WREAD and WWRITE by the access they come to -/

section
variable {s : State} {port : Nat} {p : HostPkt}

theorem exec_wread_status {c : Nat} (hd : s.hostHead port 2 = some p) (hc : s.hostAccess p (hpSize p) = .status c) :
    exec (.wread port) s = .next (s.answerHost port 0x85 p c []) := by
  change execWread port s = _
  rw [hpSize] at hc
  simp only [execWread, hd, bits, hc]
  rfl

theorem exec_wread_register {a : Nat} (hd : s.hostHead port 2 = some p) (hc : s.hostAccess p (hpSize p) = .bytes [a])
    (ha : isReg a = true) : exec (.wread port) s = .next (s.answerHost port 0x85 p 0 (bytesLE 8 (s.readReg a))) := by
  change execWread port s = _
  rw [hpSize] at hc
  simp only [execWread, hd, bits, hc, List.headD_cons, ha, if_true]
  rfl

theorem exec_wwrite_register {a : Nat} (hd : s.hostHead port 3 = some p) (hf : (hpArg p).getLsbD 63 = false)
    (hc : s.hostAccess p p.body.length = .bytes [a]) (ha : isReg a = true) :
    exec (.wwrite port) s = .next ((s.writeReg a (w64 (natLE p.body))).answerHost port 0x86 p 0 []) := by
  change execWwrite port s = _
  simp only [execWwrite, hd, hf, Bool.false_eq_true, if_false, hc, List.headD_cons, ha, if_true]
  rfl

variable (h : s.Calm)
include h

theorem exec_wread_bytes {l : List Nat} (hd : s.hostHead port 2 = some p)
    (hc : s.hostAccess p (hpSize p) = .bytes l) (hr : isReg (l.headD 0) = false) :
    exec (.wread port) s = .next ((s.chargeUnits l).answerHost port 0x85 p 0 (l.map s.rd)) := by
  have hm : (s.chargeUnits l).hostMeets p l = (s.chargeUnits l, false) := State.hostMeets_of_no_errors (by simp [h.errors]) p l
  have hb : (s.chargeUnits l).hostRead l = (s.chargeUnits l, l.map s.rd) := by
    rw [State.hostRead_of_empty (by simp [h.bridge]), State.rd_of_mem (s.chargeUnits_mem l)]
  change execWread port s = _
  rw [hpSize] at hc
  simp only [execWread, hd, bits, hc, hr, Bool.false_eq_true, if_false, State.wakeFor_running h.running, State.unitsFor_of_left h.units,
    Bool.not_true, Bool.or_self, hm, hb]
  rfl

theorem exec_wwrite_bytes {a : Nat} (hd : s.hostHead port 3 = some p) (hf : (hpArg p).getLsbD 63 = false)
    (hc : s.hostAccess p p.body.length = .bytes ((List.range p.body.length).map (a + ·)))
    (hr : isReg (((List.range p.body.length).map (a + ·)).headD 0) = false) :
    exec (.wwrite port) s =
      .next (((s.chargeUnits ((List.range p.body.length).map (a + ·))).wrN a p.body).answerHost port 0x86 p 0 []) := by
  change execWwrite port s = _
  simp only [execWwrite, hd, hf, Bool.false_eq_true, if_false, hc, hr, State.wakeFor_running h.running, State.unitsFor_of_left h.units,
    Bool.not_true, Bool.or_self]
  rw [State.hostWrite_run p.body (by simp [h.bridge]) a]
  rfl

end

/-! ### What WREAD and WWRITE answer and store -/

section
variable {s : State} {port : Nat} {p : HostPkt} (hup : (s.port port).state = 1) (hf : (hpArg p).getLsbD 63 = false)
include hup hf

/-- A read that names bytes below the registers, all of which may be reached. -/
theorem wread_memory (h : s.Calm) (hd : s.hostHead port 2 = some p) (ha : hpAddr p + hpSize p ≤ Config.regLow)
    (hreach : s.isOpen = true ∨ inStaging (hpAddr p) (hpSize p) = true) :
    ∃ t, exec (.wread port) s = .next t ∧ s.Answered t port 0x85 p 0 (s.rdN (hpAddr p) (hpSize p)) ∧ t.mem = s.mem := by
  have hn : 0 < hpSize p := Nat.succ_pos _
  have hc := (State.hostAccess_form0 hf (hpSize p)).trans (s.hostPhysical_below hn ha)
  rw [if_neg (by rcases hreach with ho | hs <;> simp [*])] at hc
  have hv := s.hostView_chargeUnits ((List.range (hpSize p)).map (hpAddr p + ·))
  refine ⟨_, exec_wread_bytes h hd hc (isReg_headD_run hn ha), ?_, ?_⟩
  · rw [State.rdN_eq_map]
    exact State.answered_answerHost hv hup _ _ _ _
  · rw [State.answerHost_mem hv hup, State.chargeUnits_mem]

/-- Before bring-up a read of anything but the staging buffer is refused. -/
theorem wread_refused (hd : s.hostHead port 2 = some p) (ha : hpAddr p + hpSize p ≤ Config.regLow)
    (ho : s.isOpen = false) (hs : ¬inStaging (hpAddr p) (hpSize p) = true) :
    ∃ t, exec (.wread port) s = .next t ∧ s.Answered t port 0x85 p 3 [] ∧ t.mem = s.mem := by
  have hc := (State.hostAccess_form0 hf (hpSize p)).trans (s.hostPhysical_below (Nat.succ_pos _) ha)
  rw [if_pos (by simp [ho, hs])] at hc
  exact ⟨_, exec_wread_status hd hc, State.answered_answerHost rfl hup _ _ _ _, State.answerHost_mem rfl hup _ _ _ _⟩

theorem wread_register (hd : s.hostHead port 2 = some p) (hr : isReg (hpAddr p) = true) (hn : hpSize p = 8) (h8 : hpAddr p % 8 = 0) :
    ∃ t, exec (.wread port) s = .next t ∧ s.Answered t port 0x85 p 0 (bytesLE 8 (s.readReg (hpAddr p))) ∧ t.mem = s.mem := by
  have hc := (State.hostAccess_form0 hf 8).trans (s.hostPhysical_register hr h8)
  rw [← hn] at hc
  exact ⟨_, exec_wread_register hd hc hr, State.answered_answerHost rfl hup _ _ _ _, State.answerHost_mem rfl hup _ _ _ _⟩

theorem wwrite_memory (h : s.Calm) (hmem : s.memOk) (hd : s.hostHead port 3 = some p) (ho : s.isOpen = true) (hb : p.body ≠ [])
    (ha : hpAddr p + p.body.length ≤ Config.regLow) (hm : ∀ i, i < p.body.length → isMemory (hpAddr p + i) = true) :
    ∃ t, exec (.wwrite port) s = .next t ∧ s.Answered t port 0x86 p 0 [] ∧ t.rdN (hpAddr p) p.body.length = p.body ∧
      ∀ x, x < hpAddr p ∨ hpAddr p + p.body.length ≤ x → t.rd x = s.rd x := by
  have hn : 0 < p.body.length := List.length_pos_iff.mpr hb
  have hc := (State.hostAccess_form0 hf p.body.length).trans (s.hostPhysical_below hn ha)
  rw [ho, Bool.not_true, Bool.false_and, if_neg Bool.false_ne_true] at hc
  let u := s.chargeUnits ((List.range p.body.length).map (hpAddr p + ·))
  have hu : u.memOk := State.memOk_chargeUnits hmem _
  have hv : (u.wrN (hpAddr p) p.body).hostView = s.hostView := by simp [u]
  have hrd := State.rd_of_mem (State.answerHost_mem hv hup 0x86 p 0 [])
  refine ⟨_, exec_wwrite_bytes h hd hf hc (isReg_headD_run hn ha), State.answered_answerHost hv hup _ _ _ _, ?_, fun x hx => ?_⟩
  · rw [State.rdN_eq_map, hrd, ← State.rdN_eq_map, State.rdN_wrN_same p.body hu hm]
  · rw [hrd, State.rd_wrN_outside p.body hu hx, State.rd_of_mem (s.chargeUnits_mem _)]

theorem wwrite_register (hd : s.hostHead port 3 = some p) (hr : isReg (hpAddr p) = true) (hn : p.body.length = 8) (h8 : hpAddr p % 8 = 0) :
    ∃ t, exec (.wwrite port) s = .next t ∧ s.Answered t port 0x86 p 0 [] ∧
      t = { s.writeReg (hpAddr p) (BitVec.ofNat 64 (natLE p.body)) with hostOut := t.hostOut, ports := t.ports } := by
  have hc := (State.hostAccess_form0 hf 8).trans (s.hostPhysical_register hr h8)
  rw [← hn] at hc
  have hv := s.hostView_writeReg (hpAddr p) (w64 (natLE p.body))
  refine ⟨_, exec_wwrite_register hd hf hc hr, State.answered_answerHost hv hup _ _ _ _, ?_⟩
  rw [State.answerHost_of_hostView hv hup]
  rfl

end

end Sys2Proof.Machine
end

section
/-! SUPPORT. Which register a write of an address reaches (R248). -/

namespace Sys2Proof.Machine

theorem exec_registerWrite (a : Nat) (v : Word) (s : State) : exec (.registerWrite a v) s = .next (s.writeReg a v) := rfl

theorem regIndex_outside {base n a : Nat} (h : a < base ∨ base + 8 * n ≤ a) : regIndex base n a = none := by
  simp only [regIndex, ite_eq_right_iff, Bool.and_eq_true, decide_eq_true_eq]
  omega

/-- An address in none of the writable rows is discarded. -/
theorem State.writeReg_unoccupied {s : State} {a : Nat} (v : Word)
    (h : a < regOtpool ∨ (regPinext + 8 * 4096 ≤ a ∧ a < regLinkstat) ∨ regDefseed + 8 * 5 ≤ a) : s.writeReg a v = s := by
  simp only [regOtpool, regPinext, regLinkstat, regDefseed] at h
  unfold writeReg
  rw [regIndex_outside (base := regOtpool) (by unfold regOtpool; omega), regIndex_outside (base := regShedctl) (by unfold regShedctl; omega),
    regIndex_outside (base := regSavepool) (by unfold regSavepool; omega), regIndex_outside (base := regPinext) (by unfold regPinext; omega),
    regIndex_outside (base := regLinkstat) (by unfold regLinkstat Config.numPorts; omega),
    regIndex_outside (base := regPkgid) (by unfold regPkgid; omega), regIndex_outside (base := regDefseed) (by unfold regDefseed; omega)]

theorem State.writeReg_defseed (s : State) (v : Word) : s.writeReg 0x0E0000050000 v = s.writeFw 0 v := rfl
theorem State.writeReg_pwrcap (s : State) (v : Word) : s.writeReg 0x0E0000050008 v = s.writeFw 1 v := rfl
theorem State.writeReg_alarm (s : State) (v : Word) : s.writeReg 0x0E0000050010 v = s.writeFw 2 v := rfl
theorem State.writeReg_fwcmd (s : State) (v : Word) : s.writeReg 0x0E0000050020 v = s.writeFwcmd v := rfl
theorem State.writeReg_otstat (s : State) (v : Word) : s.writeReg 0x0E0000010010 v = s.writeOtstat v := rfl
theorem State.writeReg_savepool (s : State) (v : Word) : s.writeReg 0x0E0000030000 v = s.writeSavepool v := rfl

theorem State.writeFw_pwrcap (s : State) (v : Word) : s.writeFw 1 v = { s with pwrcap := max 1200 (min 3600 (v.toNat % 2 ^ 12)) } := by
  simp [writeFw, bits]

theorem State.writeFwcmd_busy {s : State} (h : s.fwCmd ≠ none) (v : Word) : s.writeFwcmd v = { s with fwLasterr := 5 } :=
  if_pos (Option.isSome_iff_ne_none.mpr h)

theorem State.writeFwcmd_assigned {s : State} (h : s.fwCmd = none) {v : Word} (hlo : 1 ≤ v.toNat / 2 ^ 60) (hhi : v.toNat / 2 ^ 60 ≤ 4) :
    s.writeFwcmd v = { s with fwCmd := some v } := by
  have hop : bits v.toNat 60 4 = v.toNat / 2 ^ 60 := Nat.mod_eq_of_lt (by omega)
  rw [writeFwcmd, if_neg (by simp [h]), hop, decide_eq_true hlo, decide_eq_true hhi]
  rfl

theorem State.writeSavepool_live {s : State} (h : s.ctxs ≠ []) (v : Word) : s.writeSavepool v = { s with saveBadw := true } := by
  simp [writeSavepool, h]

/-- SIZE and BASE of SAVEPOOL stand side by side. -/
theorem savepool_fields (n : Nat) : at_ (bits n 48 8) 48 + at_ (bits n 30 18) 30 = n / 2 ^ 30 % 2 ^ 26 * 2 ^ 30 := by
  simp only [at_, bits]
  omega

theorem State.writeSavepool_idle {s : State} (h : s.ctxs = []) (v : Word) :
    (s.writeSavepool v).savepool = BitVec.ofNat 64 (v.toNat / 2 ^ 30 % 2 ^ 26 * 2 ^ 30) := by
  simp only [writeSavepool, h, List.isEmpty_nil, if_true, savepool_fields, w64]

end Sys2Proof.Machine
end

section
/-! CERTIFICATE. Host reads and writes of memory and registers. -/

namespace Sys2Proof.Machine

/-- Settles O57: by the access that an ARG of FORM 0 comes to (memory, the staging buffer, a register), and by the register that an address
names. -/
theorem hostAccesses : Obligations.HostAccesses := by
  unfold Obligations.HostAccesses
  refine ⟨?_, fun s v => ?_⟩
  · intro s port p hup hbridge herrors hmem hrun hunits a n answered hf
    have hcalm : s.Calm := ⟨hrun, hbridge, herrors, hunits⟩
    refine ⟨fun hd => ⟨fun ho ha => wread_memory hup hf hcalm hd ha (.inl ho), fun ho ha => ?_, fun hlo hhi hn h8 =>
        wread_register hup hf hd (isReg_within hlo hhi) hn h8⟩,
      fun hd => ⟨fun ho hb ha hm => wwrite_memory hup hf hcalm hmem hd ho hb ha hm, fun hlo hhi hn h8 =>
        wwrite_register hup hf hd (isReg_within hlo hhi) hn h8⟩⟩
    by_cases hs : inStaging a n = true
    · obtain ⟨t, he, hans, hkeep⟩ := wread_memory hup hf hcalm hd ha (.inr hs)
      exact ⟨t, he, hkeep, by rw [if_pos hs]; exact hans⟩
    · obtain ⟨t, he, hans, hkeep⟩ := wread_refused hup hf hd ha ho hs
      exact ⟨t, he, hkeep, by rw [if_neg hs]; exact hans⟩
  · simp only [exec_registerWrite]
    refine ⟨?_, ?_, ?_, ?_, fun hbusy => ?_, fun hidle hlo hhi => ?_, fun hlive => ?_, fun hnone => ⟨_, rfl, ?_⟩, fun a ha => ?_, fun k hk => ?_⟩
    · rw [State.writeReg_defseed]; rfl
    · rw [State.writeReg_pwrcap, State.writeFw_pwrcap]
    · rw [State.writeReg_alarm]; rfl
    · rw [State.writeReg_otstat]; rfl
    · rw [State.writeReg_fwcmd, State.writeFwcmd_busy hbusy]
    · rw [State.writeReg_fwcmd, State.writeFwcmd_assigned hidle hlo hhi]
    · rw [State.writeReg_savepool, State.writeSavepool_live hlive]
    · rw [State.writeReg_savepool, State.writeSavepool_idle hnone]
    · rw [State.writeReg_unoccupied v (by simp only [regOtpool, regDefseed]; omega)]
    · rw [State.writeReg_unoccupied v (by simp only [regDefseed]; omega)]

end Sys2Proof.Machine
end

section
/-! SUPPORT. What every step keeps of storage: memory in its canonical form, access numbers distinct and bounded, one sector of an
address in a core. `Storage.Keeps` says it of the four fields of State that hold them, so that an operation on any other
field keeps it by definition. -/

namespace Sys2Proof.Machine

/-- Memory, the accesses on their way, the last request number and the L1 sectors. -/
structure Storage where
  mem : List Host.Cell
  accesses : List Access
  reqSeq : Nat
  l1 : List Sector

def State.storage (s : State) : Storage := ⟨s.mem, s.accesses, s.reqSeq, s.l1⟩

/-- Where a sector stands, and how many bytes it lists. -/
def Sector.shape (k : Sector) : (Nat × Nat × Option Nat) × Nat := ((k.core, k.addr, k.pkg), k.bytes.length)

/-- No two sectors of a list stand in the same place, and each lists 32 bytes (R255). -/
def ShapesOk (l : List ((Nat × Nat × Option Nat) × Nat)) : Prop := (∀ p ∈ l, p.2 = 32) ∧ (l.map Prod.fst).Nodup

/-- Access numbers are distinct and at most `n`. -/
def NumbersOk (n : Nat) (l : List Nat) : Prop := (∀ i ∈ l, i ≤ n) ∧ l.Nodup

/-- `numbered` of a state, by the numbers of its accesses and the shapes of its sectors. -/
def Storage.Numbered (x : Storage) : Prop := NumbersOk x.reqSeq (x.accesses.map (·.id)) ∧ ShapesOk (x.l1.map Sector.shape)

theorem State.numbered_iff (s : State) : s.numbered ↔ s.storage.Numbered := by
  have hl : (s.l1.Pairwise fun x y => ¬(x.core = y.core ∧ x.addr = y.addr ∧ x.pkg = y.pkg)) ↔
      ((s.l1.map Sector.shape).map Prod.fst).Nodup := by
    rw [List.map_map, List.Nodup, List.pairwise_map]
    simp [Sector.shape]
  simp only [State.numbered, State.storage, Storage.Numbered, NumbersOk, ShapesOk, hl, List.forall_mem_map, and_assoc]
  rfl

/-- What comes after keeps both invariants of what came before. -/
def Storage.Keeps (x y : Storage) : Prop := (x.Numbered → y.Numbered) ∧ (Memory.wf x.mem = true → Memory.wf y.mem = true)

/-- The state an outcome gives, if it gives one, keeps both invariants. -/
def Storage.KeepsRes (x : Storage) (r : Res) : Prop := ∀ t, r = .next t → x.Keeps t.storage

/-- The same of an operation that may give no state. -/
def Storage.KeepsOpt (x : Storage) (o : Option State) : Prop := ∀ t, o = some t → x.Keeps t.storage

theorem Storage.KeepsRes.fault (x : Storage) (f : Fault) : x.KeepsRes (.fault f) := by
  intro t h; cases h

theorem Storage.KeepsRes.refused (x : Storage) (r : Refusal) : x.KeepsRes (.refused r) := by
  intro t h; cases h

theorem Storage.KeepsOpt.none (x : Storage) : x.KeepsOpt Option.none := by
  intro t h; cases h

theorem Storage.KeepsRes.next {x : Storage} {s : State} (h : x.Keeps s.storage) : x.KeepsRes (.next s) := by
  rintro t ⟨⟩; exact h

theorem Storage.KeepsOpt.some {x : Storage} {s : State} (h : x.Keeps s.storage) : x.KeepsOpt (Option.some s) := by
  rintro t ⟨⟩; exact h

theorem Storage.KeepsOpt.ite {σ : Storage} {p : Prop} [Decidable p] {o o' : Option State} (ho : σ.KeepsOpt o) (ho' : σ.KeepsOpt o') :
    σ.KeepsOpt (if p then o else o') := by
  split <;> assumption

namespace Storage.Keeps

variable {x : Storage} {s t : State}

theorem refl (x : Storage) : x.Keeps x := ⟨id, id⟩

theorem ite {p : Prop} [Decidable p] (hs : x.Keeps s.storage) (ht : x.Keeps t.storage) : x.Keeps (if p then s else t).storage := by
  split <;> assumption

theorem iteFst {α : Type} {p : Prop} [Decidable p] {a b : State × α} (ha : x.Keeps a.1.storage) (hb : x.Keeps b.1.storage) :
    x.Keeps (if p then a else b).1.storage := by
  split <;> assumption

theorem ofFst {β : Type} {p : State × β} {b : β} (e : p = (t, b)) (h : x.Keeps p.1.storage) : x.Keeps t.storage := by
  rwa [e] at h

theorem foldl {α : Type} {f : State → α → State} {l : List α} (h : x.Keeps s.storage)
    (hf : ∀ s a, x.Keeps s.storage → x.Keeps (f s a).storage) : x.Keeps (l.foldl f s).storage := by
  induction l generalizing s with
  | nil => exact h
  | cons a r ih => exact ih (hf s a h)

theorem foldlFst {α β : Type} {f : State × β → α → State × β} {b : β} {l : List α} (h : x.Keeps s.storage)
    (hf : ∀ p a, x.Keeps p.1.storage → x.Keeps (f p a).1.storage) : x.Keeps (l.foldl f (s, b)).1.storage := by
  generalize hp : (s, b) = p
  replace h : x.Keeps p.1.storage := by rwa [← hp]
  clear hp
  induction l generalizing p with
  | nil => exact h
  | cons a r ih => exact ih _ (hf p a h)

section
variable {m m' : List Host.Cell} {a a' : List Access} {n n' : Nat} {l l' : List Sector}

theorem ofMem (h : x.Keeps ⟨m, a, n, l⟩) (hm : Memory.wf m = true → Memory.wf m' = true) : x.Keeps ⟨m', a, n, l⟩ :=
  ⟨h.1, fun w => hm (h.2 w)⟩

/-- The last request number rises. -/
theorem ofSeq (h : x.Keeps ⟨m, a, n, l⟩) (hn : n ≤ n') : x.Keeps ⟨m, a, n', l⟩ := by
  refine ⟨fun w => ?_, h.2⟩
  obtain ⟨⟨hle, hnd⟩, hl⟩ := h.1 w
  exact ⟨⟨fun i hi => (hle i hi).trans hn, hnd⟩, hl⟩

/-- Accesses go, and others change all but their numbers. -/
theorem ofAccesses (h : x.Keeps ⟨m, a, n, l⟩) (ha : (a'.map (·.id)).Sublist (a.map (·.id))) : x.Keeps ⟨m, a', n, l⟩ := by
  refine ⟨fun w => ?_, h.2⟩
  obtain ⟨⟨hle, hnd⟩, hl⟩ := h.1 w
  exact ⟨⟨fun i hi => hle i (ha.subset hi), hnd.sublist ha⟩, hl⟩

/-- An access takes the next number. -/
theorem ofNewAccess {k : Access} (h : x.Keeps ⟨m, a, n, l⟩) (hk : k.id = n + 1) : x.Keeps ⟨m, a ++ [k], n + 1, l⟩ := by
  refine ⟨fun w => ?_, h.2⟩
  obtain ⟨⟨hle, hnd⟩, hl⟩ := h.1 w
  simp only at hle hnd
  refine ⟨⟨fun i hi => ?_, ?_⟩, hl⟩
  · simp only [List.map_append, List.mem_append, List.map_cons, List.map_nil, List.mem_singleton] at hi
    rcases hi with hi | rfl
    · exact (hle i hi).trans (Nat.le_succ n)
    · exact hk.le
  · simp only [List.map_append, List.map_cons, List.map_nil]
    refine List.nodup_append.mpr ⟨hnd, List.nodup_singleton _, fun i hi j hj => ?_⟩
    obtain rfl := List.mem_singleton.mp hj
    have := hle i hi
    omega

/-- Sectors go, and others change all but their places and lengths. -/
theorem ofSectors (h : x.Keeps ⟨m, a, n, l⟩)
    (hl : (∀ k ∈ l, k.bytes.length = 32) → (l'.map Sector.shape).Sublist (l.map Sector.shape)) : x.Keeps ⟨m, a, n, l'⟩ := by
  refine ⟨fun w => ?_, h.2⟩
  obtain ⟨ha, h32, hnd⟩ := h.1 w
  replace hl := hl fun k hk => h32 _ (List.mem_map_of_mem hk)
  exact ⟨ha, fun p hp => h32 p (hl.subset hp), hnd.sublist (hl.map Prod.fst)⟩

/-- A sector comes where none stands. -/
theorem ofNewSector {k : Sector} (h : x.Keeps ⟨m, a, n, l⟩) (h32 : k.bytes.length = 32)
    (hk : l.find? (sectorIs k.core k.addr k.pkg) = none) : x.Keeps ⟨m, a, n, l ++ [k]⟩ := by
  refine ⟨fun w => ?_, h.2⟩
  obtain ⟨ha, hall, hnd⟩ := h.1 w
  refine ⟨ha, fun p hp => ?_, ?_⟩
  · simp only [List.map_append, List.mem_append, List.map_cons, List.map_nil, List.mem_singleton] at hp
    rcases hp with hp | rfl
    · exact hall p hp
    · exact h32
  · simp only [List.map_append, List.map_cons, List.map_nil]
    refine List.nodup_append.mpr ⟨hnd, List.nodup_singleton _, fun q hq r hr => ?_⟩
    obtain rfl := List.mem_singleton.mp hr
    simp only [List.mem_map] at hq
    obtain ⟨p, ⟨y, hy, rfl⟩, rfl⟩ := hq
    have hno := List.find?_eq_none.mp hk y hy
    simpa [Sector.shape, sectorIs, and_assoc] using hno

end

/-- Dropping sectors keeps what stands of the rest. -/
theorem filterL1 {p : Sector → Bool} (h : x.Keeps s.storage) : x.Keeps { s with l1 := s.l1.filter p }.storage :=
  ofSectors h fun _ => List.filter_sublist.map _

theorem mapL1 {f : Sector → Sector} (h : x.Keeps s.storage) (hf : ∀ k, k.bytes.length = 32 → (f k).shape = k.shape) :
    x.Keeps { s with l1 := s.l1.map f }.storage := by
  refine ofSectors h fun h32 => ?_
  have hmap : (s.l1.map f).map Sector.shape = s.l1.map Sector.shape := by
    rw [List.map_map]
    exact List.map_congr_left fun k hk => hf k (h32 k hk)
  exact hmap ▸ List.Sublist.refl _

theorem filterAccesses {p : Access → Bool} (h : x.Keeps s.storage) : x.Keeps { s with accesses := s.accesses.filter p }.storage :=
  ofAccesses h (List.filter_sublist.map _)

theorem mapAccesses {f : Access → Access} (h : x.Keeps s.storage) (hf : ∀ a, (f a).id = a.id) :
    x.Keeps { s with accesses := s.accesses.map f }.storage :=
  ofAccesses h (by simp [Function.comp_def, hf])

end Storage.Keeps

end Sys2Proof.Machine
end

section
/-! SUPPORT. Every step keeps the storage invariants: the operations of Machine/Ops.lean. -/

namespace Sys2Proof.Machine

variable {σ : Storage} {s : State}

/-! ### Updates and memory -/

theorem Storage.Keeps.updCore {c : Nat} {f : Core → Core} (h : σ.Keeps s.storage) : σ.Keeps (s.updCore c f).storage := h

theorem Storage.Keeps.updCtx {c : Nat} {f : Ctx → Ctx} (h : σ.Keeps s.storage) : σ.Keeps (s.updCtx c f).storage := h

theorem Storage.Keeps.updFlock {id : Nat} {f : Flock → Flock} (h : σ.Keeps s.storage) : σ.Keeps (s.updFlock id f).storage := h

theorem Storage.Keeps.updLane {fid : Nat} {f : Lane → Lane} (h : σ.Keeps s.storage) : σ.Keeps (s.updLane fid f).storage := h

theorem Storage.Keeps.draw {c k : Nat} (h : σ.Keeps s.storage) : σ.Keeps (s.draw c k).storage := h

theorem Storage.Keeps.moved {c : Nat} (h : σ.Keeps s.storage) : σ.Keeps (s.moved c).storage := h

theorem Storage.Keeps.wr {a : Nat} {b : Byte} (h : σ.Keeps s.storage) : σ.Keeps (s.wr a b).storage := by
  unfold State.wr
  split
  · exact ofMem h (Memory.wf_write b)
  · exact h

theorem Storage.Keeps.wrN {l : List Byte} {a : Nat} (h : σ.Keeps s.storage) : σ.Keeps (s.wrN a l).storage := by
  induction l generalizing s a with
  | nil => exact h
  | cons b r ih => exact ih h.wr

theorem Storage.Keeps.clearMem {lo n : Nat} (h : σ.Keeps s.storage) : σ.Keeps (s.clearMem lo n).storage :=
  ofMem h fun w => Memory.wfFrom_clear w _

/-! ### The L1 -/

theorem Sector.shape_clean (m : BitVec 32) (k : Sector) : (k.clean m).shape = k.shape := rfl

theorem Sector.shape_store (c : Nat) (shrd : Bool) (i : Nat) (b : Byte) (k : Sector) : (k.store c shrd i b).shape = k.shape := by
  simp [shape, store]

theorem State.rdN_length (s : State) (n : Nat) : ∀ a, (s.rdN a n).length = n := by
  induction n with
  | zero => exact fun _ => rfl
  | succ n ih => exact fun a => congrArg Nat.succ (ih (a + 1))

theorem Storage.Keeps.chargeUnits {l : List Nat} (h : σ.Keeps s.storage) : σ.Keeps (s.chargeUnits l).storage :=
  h.foldl fun _ _ h => h

theorem Storage.Keeps.sendOut {p : Nat} {m : LinkMsg} (h : σ.Keeps s.storage) : σ.Keeps (s.sendOut p m).storage := by
  unfold State.sendOut
  split <;> exact h

theorem Storage.Keeps.countRoute {p : Nat} (h : σ.Keeps s.storage) : σ.Keeps (s.countRoute p).storage := by
  unfold State.countRoute
  split <;> exact h

theorem Storage.Keeps.postWrite {core ctx p : Nat} {post : Option Poster} {l : List (Nat × Byte)} (h : σ.Keeps s.storage) :
    σ.Keeps (s.postWrite core ctx p post l).storage := by
  unfold State.postWrite
  split
  · exact h
  · refine Storage.Keeps.sendOut ?_
    exact ofSeq h (Nat.le_succ _)

theorem Storage.Keeps.wrAll {l : List (Nat × Byte)} (h : σ.Keeps s.storage) : σ.Keeps (s.wrAll l).storage :=
  h.foldl fun _ _ h => h.wr

theorem Storage.Keeps.drainBridge {p : BridgeWrite → Bool} (h : σ.Keeps s.storage) : σ.Keeps (s.drainBridge p).storage :=
  h.foldl fun _ _ h => h.wrAll

theorem Storage.Keeps.homeWrite {die a : Nat} {b : Byte} (h : σ.Keeps s.storage) : σ.Keeps (s.homeWrite die a b).storage :=
  h.drainBridge.wr

theorem Storage.Keeps.homeView {die a : Nat} (h : σ.Keeps s.storage) : σ.Keeps (s.homeView die a).storage := h.drainBridge

theorem Storage.Keeps.pushBytes {sc : Scope} {core ctx : Nat} {pkg : Option Nat} {l : List (Nat × Byte)} (h : σ.Keeps s.storage) :
    σ.Keeps (s.pushBytes sc core ctx pkg l).storage := by
  unfold State.pushBytes
  split
  · exact h
  · split
    · split
      · exact h
      · exact h.homeView.wrAll.chargeUnits
    · exact h.postWrite

theorem Storage.Keeps.writeBackOf {sc : Scope} {m : Sector → BitVec 32} (h : σ.Keeps s.storage) :
    σ.Keeps (s.writeBackOf sc m).storage :=
  mapL1 (h.foldl fun _ _ h => h.pushBytes) fun k _ => k.shape_clean (m k)

theorem Storage.Keeps.writeBack {sc : Scope} {p : Sector → Bool} (h : σ.Keeps s.storage) : σ.Keeps (s.writeBack sc p).storage :=
  h.writeBackOf

theorem Storage.Keeps.release {core : Nat} {sc : Scope} (h : σ.Keeps s.storage) : σ.Keeps (s.release core sc).storage := by
  unfold State.release
  split
  · exact h
  · exact h.writeBackOf
  · exact h.writeBackOf.drainBridge
  · exact h.writeBackOf.drainBridge

theorem Storage.Keeps.acquire {core : Nat} {sc : Option Scope} (h : σ.Keeps s.storage) : σ.Keeps (s.acquire core sc).storage := by
  unfold State.acquire
  split
  · exact h
  · exact h
  · dsimp only
    split
    · exact h.updCore.writeBack.filterL1
    · exact h

/-! ### What a core's L1 holds after a write-back -/

theorem State.l1_foldl {α : Type} {f : State → α → State} (hf : ∀ s a, (f s a).l1 = s.l1) (l : List α) :
    ∀ s : State, (l.foldl f s).l1 = s.l1 := by
  induction l with
  | nil => exact fun _ => rfl
  | cons a r ih => exact fun s => (ih (f s a)).trans (hf s a)

@[simp] theorem State.l1_wrAll (s : State) (l : List (Nat × Byte)) : (s.wrAll l).l1 = s.l1 :=
  l1_foldl (f := fun s (x : Nat × Byte) => s.wr x.1 x.2) (fun s x => s.wr_l1 x.1 x.2) l s

@[simp] theorem State.l1_chargeUnits (s : State) (l : List Nat) : (s.chargeUnits l).l1 = s.l1 := by rw [chargeUnits_eq]

@[simp] theorem State.l1_drainBridge (s : State) (p : BridgeWrite → Bool) : (s.drainBridge p).l1 = s.l1 :=
  l1_foldl (fun s (w : BridgeWrite) => s.l1_wrAll w.data) _ s

@[simp] theorem State.l1_homeView (s : State) (die a : Nat) : (s.homeView die a).l1 = s.l1 := s.l1_drainBridge _

@[simp] theorem State.l1_sendOut (s : State) (p : Nat) (m : LinkMsg) : (s.sendOut p m).l1 = s.l1 := by
  unfold sendOut
  split <;> rfl

@[simp] theorem State.l1_postWrite (s : State) (core ctx p : Nat) (post : Option Poster) (l : List (Nat × Byte)) :
    (s.postWrite core ctx p post l).l1 = s.l1 := by
  unfold postWrite
  split
  · rfl
  · exact l1_sendOut _ _ _

@[simp] theorem State.l1_pushBytes (s : State) (sc : Scope) (core ctx : Nat) (pkg : Option Nat) (l : List (Nat × Byte)) :
    (s.pushBytes sc core ctx pkg l).l1 = s.l1 := by
  unfold pushBytes
  split
  · rfl
  · split
    · split
      · rfl
      · simp
    · simp

theorem State.l1_writeBackOf (s : State) (sc : Scope) (m : Sector → BitVec 32) :
    (s.writeBackOf sc m).l1 = s.l1.map fun k => k.clean (m k) :=
  congrArg (List.map _) (l1_foldl (fun _ _ => l1_pushBytes _ _ _ _ _ _) s.l1 s)

/-- Making room in an L1 brings no sector to a place. -/
theorem State.find?_l1Room {s : State} {c b : Nat} {p : Option Nat} (h : s.l1.find? (sectorIs c b p) = none) (core a : Nat)
    (pkg : Option Nat) : (s.l1Room core a pkg).l1.find? (sectorIs c b p) = none := by
  unfold l1Room
  dsimp only
  split
  · exact h
  · simp only [writeBack, l1_writeBackOf, List.find?_eq_none, List.mem_filter, List.mem_map] at h ⊢
    rintro _ ⟨⟨k, hk, rfl⟩, -⟩
    exact h k hk

theorem Storage.Keeps.l1Room {core a : Nat} {pkg : Option Nat} (h : σ.Keeps s.storage) : σ.Keeps (s.l1Room core a pkg).storage := by
  unfold State.l1Room
  dsimp only
  split
  · exact h
  · exact h.writeBack.filterL1

theorem Storage.Keeps.fill {core ctx coh a : Nat} (h : σ.Keeps s.storage) : σ.Keeps (s.fill core ctx coh a).storage := by
  unfold State.fill
  dsimp only
  split
  · next hf => exact ofNewSector h.homeView.l1Room (State.rdN_length _ _ _) (State.find?_l1Room hf _ _ _)
  · refine mapL1 h.homeView fun k hk => ?_
    split
    · split
      · rfl
      · simp [Sector.shape, hk]
    · rfl

theorem Storage.Keeps.loadByte {core ctx coh a : Nat} (h : σ.Keeps s.storage) : σ.Keeps (s.loadByte core ctx coh a).1.storage := by
  unfold State.loadByte
  split
  · exact h.homeView
  · exact h.fill

theorem Storage.Keeps.storeL1 {core ctx coh : Nat} {pkg : Option Nat} {a : Nat} {b : Byte} (h : σ.Keeps s.storage) :
    σ.Keeps (s.storeL1 core ctx coh pkg a b).storage := by
  unfold State.storeL1
  dsimp only
  split
  · next hf => exact ofNewSector h.l1Room (by simp [Sector.store]) (State.find?_l1Room hf _ _ _)
  · refine mapL1 h fun k _ => ?_
    split
    · exact k.shape_store _ _ _ _
    · rfl

theorem Storage.Keeps.storeByte {core ctx coh a : Nat} {b : Byte} (h : σ.Keeps s.storage) :
    σ.Keeps (s.storeByte core ctx coh a b).storage := by
  unfold State.storeByte
  split
  · exact h.homeWrite
  · exact h.storeL1

theorem Storage.Keeps.farFill {core ctx p : Nat} {y : Nat × Byte} (h : σ.Keeps s.storage) :
    σ.Keeps (s.farFill core ctx p y).storage := by
  unfold State.farFill
  dsimp only
  split
  · next hf => exact ofNewSector h.l1Room (by simp) (State.find?_l1Room hf _ _ _)
  · refine mapL1 h fun k _ => ?_
    split
    · simp only [Sector.shape]
      split <;> simp
    · rfl

theorem Storage.Keeps.farPut {core p : Nat} {y : Nat × Byte} (h : σ.Keeps s.storage) : σ.Keeps (s.farPut core p y).storage :=
  h.mapL1 fun k _ => by split <;> simp [Sector.shape, Sector.clean]

theorem Storage.Keeps.loadBytes {l : List Nat} {core ctx coh : Nat} (h : σ.Keeps s.storage) :
    σ.Keeps (s.loadBytes core ctx coh l).1.storage := by
  induction l generalizing s with
  | nil => exact h
  | cons a r ih => exact ih h.loadByte

theorem Storage.Keeps.storeBytes {l : List Nat} {core ctx coh : Nat} {d : List Byte} (h : σ.Keeps s.storage) :
    σ.Keeps (s.storeBytes core ctx coh l d).storage := by
  induction l generalizing s d with
  | nil => exact h
  | cons a r ih =>
    cases d with
    | nil => exact h
    | cons b bs => exact ih h.storeByte

theorem Storage.Keeps.flushLines {core : Nat} {pkg : Option Nat} {as : List Nat} (h : σ.Keeps s.storage) :
    σ.Keeps (s.flushLines core pkg as).storage := h.writeBack.filterL1

/-! ### Taking a fault -/

theorem Storage.Keeps.discardFiring {fid : Nat} (h : σ.Keeps s.storage) : σ.Keeps (s.discardFiring fid).storage :=
  h.mapAccesses fun _ => by split <;> rfl

theorem Storage.Keeps.discardLane {flock fid : Nat} (h : σ.Keeps s.storage) : σ.Keeps (s.discardLane flock fid).storage :=
  (h.discardFiring.updFlock).filterAccesses

theorem Storage.Keeps.drain {c : Nat} {report : List Byte} {code : Nat} (h : σ.Keeps s.storage) :
    σ.Keeps (s.drain c report code).storage := by
  unfold State.drain
  split
  · exact h
  · split
    · exact h
    · dsimp only
      refine mapAccesses (filterAccesses ?_) fun _ => by split <;> rfl
      split
      · exact h.updCtx
      · split
        · exact h.updCtx
        · exact h.updCtx.foldl fun _ _ h => h.sendOut

theorem Storage.Keeps.maskAccesses {code : List IWord} {ln : Lane} (h : σ.Keeps s.storage) :
    σ.Keeps (s.maskAccesses code ln).storage := h.filterAccesses

end Sys2Proof.Machine
end

section
/-! SUPPORT. Every step keeps the storage invariants: faults, tokens, the fold and the domain units. -/

namespace Sys2Proof.Machine

variable {σ : Storage} {s : State}

/-! ### Faults -/

theorem Storage.Keeps.writeFatal {x : Nat} {bytes : List Byte} (h : σ.Keeps s.storage) :
    σ.Keeps (s.writeFatal x bytes).storage := by
  unfold State.writeFatal
  split
  · exact h.wrN
  · exact h

theorem Storage.Keeps.swapRecords {x i j : Nat} (h : σ.Keeps s.storage) : σ.Keeps (s.swapRecords x i j).storage := by
  unfold State.swapRecords
  dsimp only
  split
  · exact h
  · split
    · split
      · refine .updLane ?_
        split
        · exact h.wrN.wrN.updCtx.updLane
        · exact h.wrN.wrN.updCtx
      · split
        · exact h.wrN.wrN.updCtx.updLane
        · exact h.wrN.wrN.updCtx
    · exact h

theorem Storage.Keeps.orderRecords {c r : Nat} (h : σ.Keeps s.storage) : σ.Keeps (s.orderRecords c r).storage := by
  unfold State.orderRecords
  split
  · exact h.foldlFst fun _ _ h => h.swapRecords
  · exact h

theorem Storage.Keeps.fillRecord {x : Nat} {f : PendingFault} (h : σ.Keeps s.storage) : σ.Keeps (s.fillRecord x f).storage := by
  unfold State.fillRecord
  split
  · split
    · exact h.wrN.draw.updLane.updCtx.orderRecords
    · exact h.updCtx
  · exact h

theorem Storage.Keeps.capture {fid idx code : Nat} {detail : List Word} (h : σ.Keeps s.storage) :
    σ.Keeps (s.capture fid idx code detail).storage := by
  unfold State.capture
  split
  · exact h
  · split
    · split
      · exact h
      · split
        · exact h.updCtx.discardLane
        · split
          · exact h.updCtx.updCtx.discardLane.drain
          · split
            · exact h.updCtx.updCtx.writeFatal.draw.discardLane.drain
            · exact h.updCtx.updCtx.updLane.maskAccesses.updLane.fillRecord
    · exact h

/-! ### Tokens -/

theorem Storage.Keeps.inject {x src : Nat} {t : Token} {pkg core : Nat} (h : σ.Keeps s.storage) :
    σ.Keeps (s.inject x src t pkg core).storage := by
  unfold State.inject
  split
  · exact h
  · exact h.updCtx.sendOut

theorem Storage.Keeps.sendToken {fid src x : Nat} {t : Token} {pkg core : Nat} (h : σ.Keeps s.storage) :
    σ.Keeps (s.sendToken fid src x t pkg core).storage := by
  unfold State.sendToken
  split
  · exact h
  · exact h.inject

theorem Storage.Keeps.enterQueue {core : Nat} {r : UnitReq} (h : σ.Keeps s.storage) :
    σ.Keeps (s.enterQueue core r).storage := h.updCore

theorem Storage.Keeps.postRequest {pkg core : Nat} {r : UnitReq} (h : σ.Keeps s.storage) :
    σ.Keeps (s.postRequest pkg core r).storage := by
  unfold State.postRequest
  dsimp only
  split
  · exact h.enterQueue
  · split <;> split
    · exact .sendOut (.updCtx h)
    · refine .sendOut ?_
      exact ofSeq h (Nat.le_succ _)
    · exact .sendOut (.updCtx h)
    · refine .sendOut ?_
      exact ofSeq h (Nat.le_succ _)

theorem Storage.Keeps.contTo {c : Ctx} {src core : Nat} {w payload : Word} {rel : Option Scope} {eng : Option (Nat × Nat)}
    (h : σ.Keeps s.storage) :
    σ.Keeps (s.contTo c src core w payload rel eng).storage := by
  unfold State.contTo
  dsimp only
  split
  · exact h
  · refine h.foldl fun _ _ h => ?_
    split
    · exact h.inject
    · split
      · exact h.postRequest
      · exact h

theorem Storage.Keeps.answerCont {x src core : Nat} {w payload : Word} {rel : Option Scope} (h : σ.Keeps s.storage) :
    σ.Keeps (s.answerCont x src core w payload rel).storage := by
  unfold State.answerCont
  split
  · exact h
  · split
    · exact h
    · exact h.contTo

theorem Storage.Keeps.flushOutbox (h : σ.Keeps s.storage) : σ.Keeps (s.flushOutbox).storage := by
  unfold State.flushOutbox
  refine .foldl h fun _ _ h => ?_
  split
  · exact .postRequest h
  · exact h

/-! ### The fold and the pinfold -/

theorem Storage.KeepsOpt.pinAdd {e : FoldEntry} {why : PinWhy} (h : σ.Keeps s.storage) : σ.KeepsOpt (s.pinAdd e why) := by
  unfold Machine.State.pinAdd
  split
  · exact .none _
  · split
    · exact .none _
    · exact .some h.wrN.updCtx.moved

theorem Storage.Keeps.fillContextRecord {x : Nat} {f : PendingFault} (h : σ.Keeps s.storage) :
    σ.Keeps (s.fillContextRecord x f).storage := by
  unfold State.fillContextRecord
  split
  · exact h
  · split
    · exact h.wrN.updCtx
    · exact h.updCtx

theorem Storage.Keeps.fatalContext {x : Nat} {f : PendingFault} (h : σ.Keeps s.storage) : σ.Keeps (s.fatalContext x f).storage := by
  unfold State.fatalContext
  split
  · exact h
  · exact h.writeFatal.drain

theorem Storage.Keeps.captureContext {x code : Nat} {detail : List Word} {fatal : Bool} (h : σ.Keeps s.storage) :
    σ.Keeps (s.captureContext x code detail fatal).storage := by
  unfold State.captureContext
  split
  · exact h
  · split
    · exact h.updCtx
    · split
      · exact h.updCtx.fatalContext
      · exact h.updCtx.fillContextRecord

theorem Storage.Keeps.pinfoldFull {x : Nat} {l : List Transit} (h : σ.Keeps s.storage) : σ.Keeps (s.pinfoldFull x l).storage := by
  unfold State.pinfoldFull
  dsimp only
  split
  · exact h
  · split
    · exact h
    · exact .captureContext (.updCtx h)

theorem Storage.Keeps.pinOrHold {e : FoldEntry} {why : PinWhy} {l : List Transit} (h : σ.Keeps s.storage) :
    σ.Keeps (s.pinOrHold e why l).storage := by
  unfold State.pinOrHold
  split
  · exact Storage.KeepsOpt.pinAdd h _ ‹_›
  · exact h.pinfoldFull

theorem Storage.Keeps.stir {core : Nat} (h : σ.Keeps s.storage) : σ.Keeps (s.stir core).storage := h.updCore

theorem Storage.Keeps.makeReady {e : FoldEntry} (h : σ.Keeps s.storage) : σ.Keeps (s.makeReady e).storage := .stir h

theorem Storage.Keeps.promote {core : Nat} (h : σ.Keeps s.storage) :
    σ.Keeps (s.promote core).storage := h.foldl fun _ _ h => h.makeReady

theorem Storage.Keeps.rebind {core : Nat} (h : σ.Keeps s.storage) : σ.Keeps (s.rebind core).storage := h

theorem Storage.Keeps.writeFrame {e : FoldEntry} (h : σ.Keeps s.storage) : σ.Keeps (s.writeFrame e).storage := by
  unfold State.writeFrame
  split
  · exact h.wrN
  · exact h

theorem Storage.Keeps.foldAdd {e : FoldEntry} (h : σ.Keeps s.storage) : σ.Keeps (s.foldAdd e).storage := .writeFrame h

theorem Storage.KeepsOpt.getD {o : Option State} (ho : σ.KeepsOpt o) (h : σ.Keeps s.storage) : σ.Keeps (o.getD s).storage := by
  cases o with
  | none => exact h
  | some t => exact ho t rfl

theorem Storage.KeepsOpt.setRoom {e : FoldEntry} (h : σ.Keeps s.storage) : σ.KeepsOpt (s.setRoom e) := by
  unfold State.setRoom
  split
  · exact .some h
  · dsimp only
    split
    · exact .none _
    · refine .some (.foldl ?_ fun _ _ h => Storage.KeepsOpt.getD (.pinAdd h) h)
      exact h

theorem Storage.Keeps.addComplete {e : FoldEntry} (h : σ.Keeps s.storage) : σ.Keeps (s.addComplete e).storage := by
  unfold State.addComplete
  split
  · exact h.makeReady.rebind
  · split
    · exact .foldAdd (Storage.KeepsOpt.setRoom h _ ‹_›)
    · exact h.pinOrHold

theorem Storage.Keeps.placeEntry {e : FoldEntry} {t : State} (h : σ.Keeps s.storage) (ht : s.placeEntry e = .at_ t) :
    σ.Keeps t.storage := by
  unfold State.placeEntry at ht
  split at ht
  · obtain rfl := Placed.at_.inj ht
    exact h.foldAdd
  · split at ht
    · cases ht
    · split at ht
      · obtain rfl := Placed.at_.inj ht
        exact h.foldAdd
      · split at ht <;> cases ht

theorem Storage.KeepsOpt.present {e : FoldEntry} (h : σ.Keeps s.storage) : σ.KeepsOpt (s.present e) := by
  unfold State.present
  dsimp only
  split
  · exact .some (.writeFrame h)
  · split
    · exact .none _
    · have hr := Storage.KeepsOpt.setRoom h _ ‹_›
      split
      · exact .some (hr.placeEntry ‹_›)
      · exact .some hr
      · exact .none _

theorem Storage.Keeps.captureToken {x core stamp : Nat} {t : Token} (h : σ.Keeps s.storage) :
    σ.Keeps (s.captureToken x core stamp t).storage := h.updCtx.moved

theorem Storage.Keeps.represent {p : PinSlot} (h : σ.Keeps s.storage) : σ.Keeps (s.represent p).storage := by
  unfold State.represent
  dsimp only
  split
  · exact h
  · split
    · exact h.updCtx.updCtx
    · split
      · exact h
      · split
        · exact (((Storage.KeepsOpt.present h.updCtx _ ‹_›).promote).rebind).moved
        · exact h

theorem Storage.Keeps.representSpilled {core x : Nat} (h : σ.Keeps s.storage) : σ.Keeps (s.representSpilled core x).storage := by
  unfold State.representSpilled
  split
  · exact h
  · split
    · exact h
    · exact h.foldl fun _ _ h => h.represent

theorem Storage.Keeps.representFreed (h : σ.Keeps s.storage) :
    σ.Keeps (s.representFreed).storage := h.foldl fun _ _ h => h.representSpilled

theorem Storage.Keeps.meetFold {e : FoldEntry} {tr : Transit} {held : Bool} (h : σ.Keeps s.storage) :
    σ.Keeps (s.meetFold e tr held).storage := by
  unfold State.meetFold
  dsimp only
  split
  · split
    · exact h.representSpilled.pinfoldFull
    · exact h.representSpilled.pinOrHold
  · split
    · exact (((Storage.KeepsOpt.present h.representSpilled _ ‹_›).promote).rebind).moved
    · split
      · exact h.representSpilled.pinfoldFull
      · exact h.representSpilled.pinOrHold

theorem Storage.Keeps.arriveAt {tr : Transit} {held : Bool} (h : σ.Keeps s.storage) : σ.Keeps (s.arriveAt tr held).storage := by
  unfold State.arriveAt
  dsimp only
  split
  · exact h
  · split
    · exact h
    · split
      · exact h.captureToken
      · split
        · split
          · exact h.pinfoldFull
          · exact h.pinOrHold
        · split
          · exact h.updCtx
          · exact h.meetFold

theorem Storage.Keeps.arrive {tr : Transit} (h : σ.Keeps s.storage) : σ.Keeps (s.arrive tr).storage := h.arriveAt

/-! ### The domain units -/

theorem Storage.Keeps.setAct {a : Activation} (h : σ.Keeps s.storage) : σ.Keeps (s.setAct a).storage := h

theorem Storage.Keeps.countStray {x : Nat} (h : σ.Keeps s.storage) : σ.Keeps (s.countStray x).storage := h.updCtx

theorem Storage.Keeps.countKilled {x n : Nat} (h : σ.Keeps s.storage) : σ.Keeps (s.countKilled x n).storage := h.updCtx

theorem Storage.Keeps.forward {core : Nat} {r : UnitReq} {tag : Tag} {e : BitVec 22} {hpkg : Nat} (h : σ.Keeps s.storage) :
    σ.Keeps (s.forward core r tag e hpkg).storage := by
  unfold State.forward
  dsimp only
  split
  · split
    · exact h
    · exact h.inject
  · exact h

theorem Storage.KeepsOpt.enterAct {core : Nat} {r : UnitReq} {dom base top : Nat} {closed : BitVec 512} {ks : List Nat}
    (h : σ.Keeps s.storage) : σ.KeepsOpt (s.enterAct core r dom base top closed ks) := by
  unfold State.enterAct
  dsimp only
  split
  · exact .none _
  · refine .some (.foldl ?_ fun _ _ h => h.forward)
    exact h

theorem Storage.KeepsOpt.tryGrant {core : Nat} {r : UnitReq} (h : σ.Keeps s.storage) : σ.KeepsOpt (s.tryGrant core r) := by
  unfold Machine.State.tryGrant
  split
  · exact .some h
  · refine .ite (.some h) ?_
    extract_lets dom nextFrom sameAt
    have hnext {a l} : σ.KeepsOpt (nextFrom a l) := .ite (.some h.countKilled) (.ite (.some h.setAct.forward) (.none _))
    have hsame {a} : σ.KeepsOpt (sameAt a) := by
      unfold sameAt
      split
      · exact .some h.countStray
      · exact .ite (.some h.countStray) (.ite (.some h.countKilled) (.some h.forward))
    clear_value nextFrom sameAt
    split
    · exact .some h
    · exact .enterAct h
    · split
      · exact .some h
      · exact .enterAct h
    · split
      · exact .some h.countStray
      · split
        · exact hnext
        · split
          · exact .some h.countStray
          · exact hnext
        · exact .some h.forward
        · exact hsame
        · exact hsame
        · exact .some h
        · exact .some h

theorem Storage.Keeps.firstGrant {core : Nat} {rest l : List UnitReq} {t : State} (h : σ.Keeps s.storage) :
    ∀ {seen}, Machine.firstGrant s core seen rest = some (t, l) → σ.Keeps t.storage := by
  induction rest with
  | nil => exact nofun
  | cons r rest ih =>
    intro seen ht
    unfold Machine.firstGrant at ht
    split at ht
    · obtain ⟨rfl, -⟩ := Prod.mk.inj (Option.some.inj ht)
      exact Storage.KeepsOpt.tryGrant h _ ‹_›
    · exact ih ht

theorem Storage.Keeps.regrant {core n : Nat} (h : σ.Keeps s.storage) : σ.Keeps (State.regrant core n s).storage := by
  induction n generalizing s with
  | zero => exact h
  | succ n ih =>
    unfold State.regrant
    split
    · exact h
    · exact ih (h.firstGrant ‹_›).updCore

theorem Storage.Keeps.withdraw {x home dom act hpkg : Nat} (h : σ.Keeps s.storage) :
    σ.Keeps (s.withdraw x home dom act hpkg).storage := .updCtx h

theorem Storage.Keeps.tellOthers {x : Nat} {m : GangMsg} (h : σ.Keeps s.storage) : σ.Keeps (s.tellOthers x m).storage := by
  unfold State.tellOthers
  split
  · exact h
  · refine h.foldl fun _ _ h => ?_
    split
    · exact h
    · exact h.sendOut

theorem Storage.Keeps.settleAct {a : Activation} (h : σ.Keeps s.storage) : σ.Keeps (s.settleAct a).storage := by
  unfold State.settleAct
  refine .regrant ?_
  dsimp only
  split
  · exact .tellOthers (.withdraw h)
  · exact h

theorem Storage.Keeps.lowerH {a : Activation} {top : Nat} (h : σ.Keeps s.storage) : σ.Keeps (s.lowerH a top).storage := by
  unfold State.lowerH
  split
  · exact h
  · exact .settleAct (.foldl h fun _ _ h => .sendOut h)

theorem Storage.Keeps.closeFirst {core : Nat} {r : UnitReq} (h : σ.Keeps s.storage) : σ.Keeps (s.closeFirst core r).storage := by
  unfold State.closeFirst
  split
  · exact h.updCore.settleAct
  · exact h

theorem Storage.KeepsOpt.closeReq {core : Nat} {r : UnitReq} {y1 : ReleaseKind} (h : σ.Keeps s.storage) :
    σ.KeepsOpt (closeReq core s r y1) := by
  unfold Machine.closeReq
  dsimp only
  split
  · exact .some h.updCore.countStray
  · exact .some h.updCore.settleAct

theorem Storage.KeepsOpt.leaveReq {core : Nat} {r : UnitReq} {k : ReleaseKind} (h : σ.Keeps s.storage) :
    σ.KeepsOpt (leaveReq core s r k) := by
  unfold Machine.leaveReq
  dsimp only
  split
  · exact .some h.countStray
  · split
    · split
      · exact .some h.countStray.settleAct
      · split
        · exact .some h.forward.settleAct.lowerH
        · exact .some h.forward.settleAct.settleAct
    · exact .some h.forward

theorem Storage.KeepsOpt.dkillReq {core : Nat} {r : UnitReq} {k : ReleaseKind} (h : σ.Keeps s.storage) :
    σ.KeepsOpt (dkillReq core s r k) := by
  unfold Machine.dkillReq
  split
  · split
    · split
      · exact .some h.lowerH
      · exact .none _
    · exact .some h
  · exact .some h.countStray
  · exact .some h

theorem Storage.Keeps.serveRelease {core : Nat} {p : ReleaseKind → Bool} {f : State → UnitReq → ReleaseKind → Option State}
    (h : σ.Keeps s.storage) (hf : ∀ s r k, σ.Keeps s.storage → σ.KeepsOpt (f s r k)) :
    σ.Keeps (s.serveRelease core p f).storage := by
  unfold State.serveRelease
  split
  · exact h
  · split
    · exact h
    · split
      · exact h
      · split
        · exact .moved (hf _ _ _ h.updCore _ ‹_›)
        · exact h

theorem Storage.Keeps.serveGrant {core : Nat} {p : GrantMode → Bool} (h : σ.Keeps s.storage) :
    σ.Keeps (s.serveGrant core p).storage := by
  unfold State.serveGrant
  dsimp only
  split
  · exact h
  · split
    · exact h
    · split
      · exact h
      · split
        · exact (Storage.KeepsOpt.tryGrant h.updCore.closeFirst _ ‹_›).moved
        · split <;> exact h.updCore.closeFirst.updCore

theorem Storage.Keeps.ackNotice {n : Notice} (h : σ.Keeps s.storage) : σ.Keeps (s.ackNotice n).storage := by
  unfold State.ackNotice
  split
  · exact h
  · exact h.sendOut

theorem Storage.Keeps.installFilter {n : Notice} (h : σ.Keeps s.storage) : σ.Keeps (s.installFilter n).storage := h

theorem Storage.Keeps.applyNotice {n : Notice} (h : σ.Keeps s.storage) : σ.Keeps (s.applyNotice n).storage := by
  unfold State.applyNotice
  refine .rebind ?_
  refine .promote ?_
  split
  · exact .installFilter (.countKilled (.updCtx h))
  · exact .countKilled (.updCtx h)

theorem Storage.KeepsRes.execKillNotice {k : Nat} (h : σ.Keeps s.storage) : σ.KeepsRes (execKillNotice k s) := by
  unfold Machine.execKillNotice
  refine .next ?_
  split
  · exact h
  · split
    · exact h
    · split
      · exact .ackNotice (.updCtx h)
      · split
        · exact .moved (.ackNotice (.applyNotice h))
        · exact h

theorem Storage.Keeps.takeAck {home x dom act : Nat} (h : σ.Keeps s.storage) : σ.Keeps (s.takeAck home x dom act).storage := by
  unfold State.takeAck
  split
  · exact h
  · exact h.settleAct

theorem Storage.KeepsRes.execKillNoticeAck {k : Nat} (h : σ.Keeps s.storage) : σ.KeepsRes (execKillNoticeAck k s) := by
  unfold Machine.execKillNoticeAck
  refine .next ?_
  split
  · exact h
  · exact .takeAck h

theorem Storage.KeepsRes.execEldestQuery {core k : Nat} (h : σ.Keeps s.storage) : σ.KeepsRes (execEldestQuery core k s) := by
  unfold Machine.execEldestQuery
  refine .next ?_
  split
  · split
    · exact h
    · split
      · exact h
      · exact .sendOut h
  · exact h

theorem Storage.Keeps.spillEntry {e : FoldEntry} (h : σ.Keeps s.storage) : σ.Keeps (s.spillEntry e).storage := by
  unfold State.spillEntry
  split
  · exact h.pinfoldFull
  · exact h.pinOrHold

theorem Storage.KeepsRes.execEldestAnswer {core k : Nat} (h : σ.Keeps s.storage) :
    σ.KeepsRes (Machine.execEldestAnswer core k s) := by
  unfold Machine.execEldestAnswer
  refine .next ?_
  split
  · split
    · exact h
    · dsimp only
      split
      · exact .spillEntry h
      · rename_i hr
        split
        · refine .moved (.rebind (.promote (.foldAdd ?_)))
          split at hr
          · exact Storage.KeepsOpt.setRoom (s := { s with eldest := removeAt k s.eldest }) h _ hr
          · cases hr
        · exact .spillEntry h
  · exact h

end Sys2Proof.Machine
end

section
/-! SUPPORT. Every step keeps the storage invariants: firings, object records and the memory instructions. -/

namespace Sys2Proof.Machine

variable {σ : Storage} {s : State}

/-! ### Words over the lanes of a flock -/

theorem Storage.KeepsRes.withFocus {k : Flock → Nat → Res} (hk : ∀ fl j, σ.KeepsRes (k fl j)) :
    σ.KeepsRes (Machine.withFocus s k) := by
  unfold Machine.withFocus
  split
  · exact .fault _ _
  · split
    · exact .fault _ _
    · exact hk _ _

theorem Storage.KeepsRes.laneOp {pm : Pm} {t0 t1 : Target} {f : State → Flock → Nat → Lane → Cell → Val × Val}
    (h : σ.Keeps s.storage) :
    σ.KeepsRes (Machine.laneOp pm t0 t1 f s) := .withFocus fun _ _ => .next h.updFlock

theorem Storage.KeepsRes.valueOp {pm : Pm} {r : Reads} {t0 t1 : Target} {g : Word → Word → Word → Bool → Word × Word}
    (h : σ.Keeps s.storage) : σ.KeepsRes (Machine.valueOp pm r t0 t1 g s) := .laneOp h

theorem Storage.KeepsRes.effectOp {pm : Pm} {t0 t1 : Target} {f : State → Flock → Nat → Lane → Cell → State} (h : σ.Keeps s.storage)
    (hf : ∀ s fl j ln k, σ.Keeps s.storage → σ.Keeps (f s fl j ln k).storage) : σ.KeepsRes (Machine.effectOp pm t0 t1 f s) := by
  refine .withFocus fun fl j => .next (h.foldl fun s ln h => ?_)
  split
  · split
    · exact hf _ _ _ _ _ h
    · exact h.updLane
  · exact h

/-! ### The end of a firing -/

theorem Storage.Keeps.completeLane {fid j : Nat} {t0 t1 : Target} {r0 r1 : Val} (h : σ.Keeps s.storage) :
    σ.Keeps (s.completeLane fid j t0 t1 r0 r1).storage := h.updLane

theorem Storage.Keeps.retireFlocks (h : σ.Keeps s.storage) : σ.Keeps (s.retireFlocks).storage := h

theorem Storage.Keeps.faultLane {fid j code : Nat} {detail : List Word} (h : σ.Keeps s.storage) :
    σ.Keeps (s.faultLane fid j code detail).storage := h.capture.retireFlocks

theorem Storage.Keeps.faultStore {w : Poster} {code : Nat} {detail : List Word} (h : σ.Keeps s.storage) :
    σ.Keeps (s.faultStore w code detail).storage := by
  unfold State.faultStore
  split
  · split
    · exact h
    · exact h.updLane.faultLane
  · exact h

theorem Storage.Keeps.postSome {release : Bool} {l : List Emit} (h : σ.Keeps s.storage) :
    σ.Keeps (s.postSome release l).1.storage := by
  induction l generalizing s with
  | nil => exact h
  | cons e r ih =>
    cases e with
    | token t p k => exact h
    | request p k q =>
      unfold State.postSome
      split
      · exact ih h.postRequest
      · exact h

theorem Storage.Keeps.toHost {port type : Nat} {cookie : BitVec 32} {arg : Word} {body : List Byte} (h : σ.Keeps s.storage) :
    σ.Keeps (s.toHost port type cookie arg body).storage := by
  unfold State.toHost
  dsimp only
  split <;> exact h

theorem Storage.Keeps.submitHres {core : Nat} {r : HresSub} (h : σ.Keeps s.storage) : σ.Keeps (s.submitHres core r).storage := by
  unfold State.submitHres
  dsimp only
  split
  · exact h
  · split
    · exact h.answerCont
    · split <;> exact h.toHost

theorem Storage.Keeps.finish {fl : Flock} {ln : Lane} {es : List Emit} (h : σ.Keeps s.storage) :
    σ.Keeps (s.finish fl ln es).storage := by
  unfold State.finish
  refine .moved (.updCore (.retireFlocks (.updFlock (.mapAccesses ?_ fun _ => by split <;> rfl))))
  refine Storage.Keeps.foldl ?_ fun _ _ h => h.submitHres
  refine h.foldl fun _ e h => ?_
  split
  · exact h.sendToken
  · exact h

theorem Storage.Keeps.tryEnd {fid : Nat} (h : σ.Keeps s.storage) : σ.Keeps (s.tryEnd fid).storage := by
  unfold State.tryEnd
  split
  · exact h
  · split
    · dsimp only
      refine .ite h ?_
      split
      · exact .faultLane h
      · exact .ite (.finish (.ite h.postSome.postSome.release h.postSome.postSome)) h.postSome.postSome.updLane
    · exact h

/-! ### Object records -/

theorem Storage.Keeps.orcUse {core x top : Nat} (h : σ.Keeps s.storage) : σ.Keeps (s.orcUse core x top).storage := h

theorem Storage.Keeps.orcInstall {core x top : Nat} {r : ObjRec} (h : σ.Keeps s.storage) :
    σ.Keeps (s.orcInstall core x top r).storage := h

theorem Storage.Keeps.residency {core x top rmap g : Nat} (h : σ.Keeps s.storage) :
    σ.Keeps (s.residency core x top rmap g).1.storage := by
  unfold State.residency
  dsimp only
  split
  · exact h
  · split <;> exact h

theorem Storage.Keeps.firstAbsent {core c hd rmap : Nat} {l : List Nat} (h : σ.Keeps s.storage) :
    σ.Keeps (s.firstAbsent core c hd rmap l).1.storage := by
  induction l generalizing s with
  | nil => exact h
  | cons g r ih =>
    unfold State.firstAbsent
    dsimp only
    split
    · exact ih h.residency
    · exact h.residency

theorem Storage.Keeps.translate {core c : Nat} {cur : Word} {r : ObjRec} {u : Use} {need : List Nat} {cov : Nat → List Nat}
    {pre : Option (Nat × List Word)} {extra : Nat → Option (Nat × List Word)} (h : σ.Keeps s.storage) :
    σ.Keeps (s.translate core c cur r u need cov pre extra).1.storage := by
  unfold State.translate
  dsimp only
  split
  · exact h
  · split
    · exact h
    · split
      · exact h
      · split
        · exact h
        · split
          · exact h
          · split
            · exact h
            · split
              · exact .ofFst ‹_› h.firstAbsent
              · exact .ofFst ‹_› h.firstAbsent
              · split <;> exact .ofFst ‹_› h.firstAbsent

/-! ### Accesses -/

theorem Storage.Keeps.updAccess {id : Nat} {f : Access → Access} (h : σ.Keeps s.storage)
    (hf : ∀ a, a.id = id → (f a).id = id := by exact fun _ e => e) : σ.Keeps (s.updAccess id f).storage := by
  refine ofAccesses h ?_
  have hids : (replaceFirst (·.id == id) f s.accesses).map (·.id) = s.accesses.map (·.id) := by
    induction s.accesses with
    | nil => rfl
    | cons a r ih =>
      unfold replaceFirst
      split
      · next ha => simp_all
      · simp [ih]
  exact hids ▸ List.Sublist.refl _

theorem Storage.Keeps.dropAccess {id : Nat} (h : σ.Keeps s.storage) : σ.Keeps (s.dropAccess id).storage := h.filterAccesses

theorem Storage.Keeps.deliverAccess {a : Access} {v : Val} (h : σ.Keeps s.storage) : σ.Keeps (s.deliverAccess a v).storage := by
  unfold State.deliverAccess
  split
  · exact h.dropAccess.moved
  · exact h.dropAccess.moved.completeLane

theorem Storage.Keeps.faultAccess {a : Access} {code : Nat} {detail : List Word} (h : σ.Keeps s.storage) :
    σ.Keeps (s.faultAccess a code detail).storage := by
  unfold State.faultAccess
  split
  · exact h.dropAccess
  · exact h.dropAccess.faultLane

theorem Storage.Keeps.newAccess {i : Instr} {sp : Space} {ph : AccPhase} {fl : Flock} {j : Nat} {ln : Lane} {k : Cell}
    (h : σ.Keeps s.storage) : σ.Keeps (s.newAccess i sp ph fl j ln k).1.storage := .updLane (ofNewAccess h rfl)

theorem Storage.Keeps.sendRemote {a : Access} {p : Nat} {op : RemoteOp} (h : σ.Keeps s.storage) :
    σ.Keeps (s.sendRemote a p op).storage := by
  unfold State.sendRemote
  refine .sendOut (.updAccess ?_)
  exact ofSeq h (Nat.le_succ _)

theorem Storage.Keeps.dropClean {core a : Nat} (h : σ.Keeps s.storage) : σ.Keeps (s.dropClean core a).storage :=
  h.mapL1 fun _ _ => by split <;> rfl

theorem Storage.Keeps.deliverNow {ln : Lane} {j : Nat} {i : Instr} {v : Val} (h : σ.Keeps s.storage) :
    σ.Keeps (s.deliverNow ln j i v).storage := h.completeLane

theorem Storage.Keeps.queryVal {a : Access} {q : HqryItem} {r : ObjRec} (h : σ.Keeps s.storage) :
    σ.Keeps (s.queryVal a q r).1.storage := by
  unfold State.queryVal
  split
  · exact h
  · exact h
  · exact h
  · exact h
  · split
    · exact h
    · split
      · exact h
      · exact h.residency

theorem Storage.Keeps.translateFor {a : Access} {r : ObjRec} (h : σ.Keeps s.storage) : σ.Keeps (s.translateFor a r).1.storage :=
  h.translate

theorem Storage.Keeps.setReady {a : Access} {r : ObjRec} {l : List Nat} (h : σ.Keeps s.storage) :
    σ.Keeps (s.setReady a r l).storage := h.updAccess

/-- An access with its record, once `proceed` has checked its translation; `k` is what its word then does. -/
def State.checked (s : State) (a : Access) (r : ObjRec) (k : State → List Nat → State) : State :=
  if a.a.void then
    (if !r.permits (useOf a.instr) then s.faultAccess a 0x03 [w64 a.handle, w64 r.gen, Config.useCode (useOf a.instr).num]
     else s.faultAccess a 0x01 (oosDetail a (curOffset a.a.bits)))
  else
    match s.translateFor a r with
    | (s, .fault c d) => s.faultAccess a c d
    | (s, .outOfShape f) =>
      (match outOfShapeVal a.instr r (s.isDet a.ctx) with
       | some v => s.deliverAccess a v
       | none => s.faultAccess a 0x01 (oosDetail a f))
    | (s, .bytes l) => k s l

theorem Storage.Keeps.checked {a : Access} {r : ObjRec} {k : State → List Nat → State} (h : σ.Keeps s.storage)
    (hk : ∀ s l, σ.Keeps s.storage → σ.Keeps (k s l).storage) : σ.Keeps (s.checked a r k).storage := by
  unfold State.checked
  split
  · split <;> exact h.faultAccess
  · split
    · exact .faultAccess (.ofFst ‹_› h.translateFor)
    · split
      · exact .deliverAccess (.ofFst ‹_› h.translateFor)
      · exact .faultAccess (.ofFst ‹_› h.translateFor)
    · exact hk _ _ (.ofFst ‹_› h.translateFor)

/-- The check of a continuation in B before what a word does. -/
theorem Storage.Keeps.contChecked {a : Access} {w : Word} {t : State} (h : σ.Keeps s.storage) (ht : σ.Keeps t.storage) :
    σ.Keeps (match s.ctx? a.ctx with
      | some c => if w = 0 || c.contOk w then t else s.faultAccess a 0x05 [w]
      | none => s : State).storage := by
  split
  · exact .ite ht h.faultAccess
  · exact h

theorem Storage.Keeps.proceed {a : Access} {r : ObjRec} (h : σ.Keeps s.storage) : σ.Keeps (s.proceed a r).storage := by
  unfold State.proceed
  dsimp only
  split
  · exact h.deliverAccess
  · exact h.deliverAccess
  · exact h.queryVal.deliverAccess
  · exact .ite h.faultAccess (.ite h.faultAccess (.contChecked h (.deliverAccess h)))
  · exact .ite h.faultAccess (.ite h.faultAccess (.contChecked h (.deliverAccess h)))
  · exact .ite h.faultAccess (.checked h fun _ _ h => .contChecked h h.setReady)
  · exact .checked h fun _ _ h => .ite h.faultAccess h.setReady
  · exact .checked h fun _ _ h => .ite h.faultAccess (.contChecked h (.ite h.deliverAccess h.setReady))
  · exact .checked h fun _ _ h => .ite h.countRoute.faultAccess h.setReady

theorem Storage.Keeps.seek {a : Access} (h : σ.Keeps s.storage) : σ.Keeps (s.seek a).storage := by
  unfold State.seek
  split
  · exact h.orcUse.proceed
  · exact h

theorem Storage.Keeps.prefRecord {core x top : Nat} (h : σ.Keeps s.storage) : σ.Keeps (s.prefRecord core x top).1.storage := by
  unfold State.prefRecord
  split
  · exact h.orcUse
  · split
    · exact h.orcInstall
    · exact h

/-! ### Performing -/

theorem Storage.Keeps.releaseFor {a : Access} {sc : Scope} (h : σ.Keeps s.storage) : σ.Keeps (s.releaseFor a sc).1.storage := by
  unfold State.releaseFor
  dsimp only
  split
  · exact h.release
  · exact h

theorem Storage.Keeps.listLasting {a : Nat} (h : σ.Keeps s.storage) : σ.Keeps (s.listLasting a).storage := h

theorem Storage.Keeps.retire {x top rmap g : Nat} {span : List (Nat × Nat)} (h : σ.Keeps s.storage) :
    σ.Keeps (s.retire x top rmap g span).storage := h.wrN

theorem Storage.Keeps.faultEcc {a : Access} {d : List Word} (h : σ.Keeps s.storage) : σ.Keeps (s.faultEcc a d).storage := by
  unfold State.faultEcc
  split
  · exact h.updAccess
  · exact h.faultAccess

theorem Storage.Keeps.meetError {a : Access} {t : State} {d : Option (List Word)} (h : σ.Keeps s.storage)
    (ht : s.meetError a = some (t, d)) : σ.Keeps t.storage := by
  unfold State.meetError at ht
  split at ht
  · cases ht
  · dsimp only at ht
    split at ht
    · cases ht; exact h
    · split at ht
      · cases ht; exact h
      · split at ht
        · split at ht
          · cases ht; exact h
          · cases ht; exact .updCtx (.dropClean h)
        · split at ht
          · cases ht; exact h
          · split at ht
            · cases ht; exact .retire h
            · cases ht; exact .listLasting h

theorem Storage.Keeps.meetErrors {n : Nat} {a : Access} (h : σ.Keeps s.storage) : σ.Keeps (State.meetErrors n s a).1.storage := by
  induction n generalizing s with
  | zero => exact h
  | succ n ih =>
    unfold State.meetErrors
    split
    · exact h
    · exact ih (h.meetError ‹_›)
    · exact h.meetError ‹_›

theorem Storage.Keeps.atomicHome {die : Nat} {l : List Nat} {op : Nat} {w64 : Bool} {b c : Nat} (h : σ.Keeps s.storage) :
    σ.Keeps (s.atomicHome die l op w64 b c).1.storage := by
  unfold State.atomicHome
  dsimp only
  split
  · exact h.homeView
  · exact h.homeView.foldl fun _ _ h => h.homeWrite

theorem Storage.Keeps.atomicL1 {a : Access} {op : Nat} {w64 : Bool} (h : σ.Keeps s.storage) :
    σ.Keeps (s.atomicL1 a op w64).1.storage := by
  unfold State.atomicL1
  dsimp only
  split
  · exact h.loadBytes
  · exact h.loadBytes.storeBytes

theorem Storage.Keeps.remoteGot {a : Access} {p : Nat} {l : List Nat} {bs : List Byte} (h : σ.Keeps s.storage) :
    σ.Keeps (s.remoteGot a p l bs).1.storage := by
  unfold State.remoteGot
  split
  · exact h
  · exact h.foldl fun _ _ h => h.farFill

theorem Storage.Keeps.performLoad {a : Access} (h : σ.Keeps s.storage) : σ.Keeps (s.performLoad a).storage := by
  unfold State.performLoad
  split
  · split
    · exact h.deliverAccess
    · exact h.sendRemote
  · split
    · refine .deliverAccess ?_
      split
      · exact h.loadBytes.loadByte
      · exact h.loadBytes
    · exact h.deliverAccess

theorem Storage.Keeps.remoteStore {a : Access} {p : Nat} {l : List (Nat × Byte)} (h : σ.Keeps s.storage) :
    σ.Keeps (s.remoteStore a p l).storage := by
  unfold State.remoteStore
  split
  · exact h.foldl fun _ _ h => h.storeL1
  · exact h.postWrite

theorem Storage.Keeps.performStore {a : Access} (h : σ.Keeps s.storage) : σ.Keeps (s.performStore a).storage := by
  unfold State.performStore
  dsimp only
  split
  · split
    · exact h.sendRemote
    · exact h.remoteStore.deliverAccess
  · split
    · refine .deliverAccess ?_
      refine .storeBytes ?_
      split
      · exact h.loadBytes
      · exact h
    · exact h.wrAll.deliverAccess

theorem Storage.Keeps.byteAccess {a : Access} {i : Nat} (h : σ.Keeps s.storage) : σ.Keeps (s.byteAccess a i).storage := by
  unfold State.byteAccess
  split
  · exact h
  · dsimp only
    split
    · exact .updAccess h.remoteStore
    · refine .updAccess ?_
      split
      · exact h.storeByte
      · exact h.wr
    · split
      · exact .updAccess h
      · exact .sendRemote (.updAccess h)
    · split
      · exact .updAccess h.loadByte
      · exact .updAccess h

/-- A release that an ordered word waits for, where its order asks for one. -/
theorem Storage.Keeps.releaseIf {a : Access} {sc : Scope} {p : Bool} (h : σ.Keeps s.storage) :
    σ.Keeps (if p then s.releaseFor a sc else (s, true)).1.storage := by
  split
  · exact h.releaseFor
  · exact h

theorem Storage.Keeps.performAtomic {a : Access} {op : Nat} {w64 : Bool} {ord : Order} {sc : Scope} (h : σ.Keeps s.storage) :
    σ.Keeps (s.performAtomic a op w64 ord sc).storage := by
  unfold State.performAtomic
  dsimp only
  split
  · exact .ofFst ‹_› h.releaseIf
  · next u hu =>
    have hr : σ.Keeps u.storage := .ofFst hu h.releaseIf
    split
    · exact hr.flushLines.sendRemote
    · have hv : σ.Keeps (if a.scopeOf sc = .core && (a.coh = 1 || a.coh = 2) then u.atomicL1 a op w64
          else (u.flushLines a.core none a.bytes).atomicHome (dieOf a.core) a.bytes op w64 a.b.bits.toNat a.c.bits.toNat).1.storage := by
        split
        · exact hr.atomicL1
        · exact hr.flushLines.atomicHome
      split
      · exact .deliverAccess (.acquire hv)
      · exact .deliverAccess hv

theorem Storage.Keeps.sendArrival {a : Access} {rel : Bool} {sc : Scope} (h : σ.Keeps s.storage) :
    σ.Keeps (s.sendArrival a rel sc).storage := by
  unfold State.sendArrival
  dsimp only
  split
  · exact .ofFst ‹_› h.releaseIf
  · next u hu =>
    have hr : σ.Keeps u.storage := .ofFst hu h.releaseIf
    split
    · exact hr.flushLines.sendRemote
    · exact .updAccess hr.flushLines

theorem Storage.Keeps.performFence {a : Access} {sc : Scope} (h : σ.Keeps s.storage) : σ.Keeps (s.performFence a sc).storage := by
  unfold State.performFence
  split
  · exact Storage.Keeps.ofFst ‹_› h.releaseFor
  · exact ((Storage.Keeps.ofFst ‹_› h.releaseFor).acquire).deliverAccess

theorem Storage.Keeps.performSpawnHeader {a : Access} (h : σ.Keeps s.storage) : σ.Keeps (s.performSpawnHeader a).storage := by
  unfold State.performSpawnHeader
  dsimp only
  split
  · exact .faultAccess (.ofFst ‹_› h.loadBytes.translate)
  · exact .faultAccess (.ofFst ‹_› h.loadBytes.translate)
  · exact .updAccess (.ofFst ‹_› h.loadBytes.translate)

theorem Storage.Keeps.performSpawn {a : Access} (h : σ.Keeps s.storage) : σ.Keeps (s.performSpawn a).storage := by
  unfold State.performSpawn
  split
  · exact h.performSpawnHeader
  · dsimp only
    split
    · exact h.loadBytes.faultAccess
    · split
      · exact h.loadBytes.faultAccess
      · exact .deliverAccess h.loadBytes

theorem Storage.Keeps.perform {a : Access} (h : σ.Keeps s.storage) : σ.Keeps (s.perform a).storage := by
  have hm : ∀ p : Bool, σ.Keeps (if p then State.meetErrors s.errors.length s a else (s, none)).1.storage := fun p => by
    split
    · exact h.meetErrors
    · exact h
  unfold State.perform
  dsimp only
  split
  · exact h.faultAccess
  · exact .faultEcc (.ofFst ‹_› (hm _))
  · next u _ hu =>
    replace hm : σ.Keeps u.storage := .ofFst hu (hm _)
    split
    · exact hm.performLoad
    · exact hm.performLoad
    · exact hm.performLoad
    · exact hm.performStore
    · exact hm.performStore
    · exact hm.performStore
    · exact hm.sendArrival
    · exact hm.performFence
    · exact hm.performSpawn
    · split
      · split
        · exact hm.sendArrival
        · exact hm.performAtomic
      · exact hm.performAtomic
      · exact hm

theorem Storage.Keeps.charge {a : Access} (h : σ.Keeps s.storage) : σ.Keeps (s.charge a).storage := by
  unfold State.charge
  split
  · exact h
  · exact h.chargeUnits

theorem Storage.Keeps.performCharged {a : Access} (h : σ.Keeps s.storage) : σ.Keeps (s.performCharged a).storage := by
  unfold State.performCharged
  dsimp only
  split
  · exact h.perform
  · exact h.perform.charge

theorem Storage.Keeps.performIf {a : Access} (h : σ.Keeps s.storage) : σ.Keeps (s.performIf a).storage := by
  unfold State.performIf
  dsimp only
  split
  · split
    · split
      · exact h.performCharged.performCharged
      · exact h.performCharged
    · exact h.performCharged
  · exact h

theorem Storage.Keeps.performByte {k i : Nat} (h : σ.Keeps s.storage) : σ.Keeps (s.performByte k i).storage := by
  unfold State.performByte
  split
  · exact h
  · split
    · exact h.byteAccess
    · exact h

theorem Storage.KeepsRes.execWalk {k : Nat} (h : σ.Keeps s.storage) : σ.KeepsRes (execWalk k s) := by
  unfold Machine.execWalk
  dsimp only
  refine .next ?_
  split
  · exact h
  · split
    · exact h
    · split
      · exact h.chargeUnits.orcInstall.proceed
      · exact h.chargeUnits.updAccess
      · exact h.chargeUnits.faultAccess

/-! ### Barriers -/

theorem Storage.Keeps.releaseWaiter {w : Waiter} {word : Word} (h : σ.Keeps s.storage) :
    σ.Keeps (s.releaseWaiter w word).storage := h.answerCont.moved

theorem Storage.Keeps.releaseAll {addr : Nat} {word : Word} (h : σ.Keeps s.storage) :
    σ.Keeps (s.releaseAll addr word).storage := .foldl h fun _ _ h => .releaseWaiter h

theorem Storage.Keeps.readWord {a : Access} {k : State → State} (h : σ.Keeps s.storage)
    (hk : ∀ s, σ.Keeps s.storage → σ.Keeps (k s).storage) : σ.Keeps (s.readWord a k).storage := by
  unfold State.readWord
  split
  · exact h.faultAccess
  · exact .faultEcc (.ofFst ‹_› h.meetErrors)
  · exact hk _ (.ofFst ‹_› h.meetErrors)

theorem Storage.KeepsRes.execBarrierArrival {k : Nat} (h : σ.Keeps s.storage) : σ.KeepsRes (Machine.execBarrierArrival k s) := by
  unfold Machine.execBarrierArrival
  refine .next ?_
  split
  · exact h
  · split
    · split
      · exact h
      · split
        · exact .ofFst ‹_› h.releaseFor
        · refine .readWord (.ofFst ‹_› h.releaseFor) fun u h => ?_
          dsimp only
          split
          · exact h.charge.flushLines.homeView.faultAccess
          · split
            · exact h.charge.flushLines.homeView.deliverAccess
            · refine .deliverAccess ?_
              split
              · exact h.charge.flushLines.homeView.wrN.releaseAll
              · exact h.charge.flushLines.homeView.wrN
    · exact h

theorem Storage.KeepsRes.execBarrierRegistration {k : Nat} (h : σ.Keeps s.storage) :
    σ.KeepsRes (Machine.execBarrierRegistration k s) := by
  unfold Machine.execBarrierRegistration
  refine .next ?_
  split
  · exact h
  · split
    · split
      · exact h
      · refine .readWord h fun u h => ?_
        dsimp only
        split
        · exact h.charge.flushLines.homeView.releaseWaiter.deliverAccess
        · split
          · exact h.deliverAccess
          · split
            · exact h
            · exact .deliverAccess h.charge.flushLines.homeView
    · exact h

theorem Storage.Keeps.waiterCheck (h : σ.Keeps s.storage) : σ.Keeps (s.waiterCheck).storage := by
  unfold State.waiterCheck
  split
  · exact h
  · exact h.releaseAll

end Sys2Proof.Machine
end

section
/-! SUPPORT. Every step keeps the storage invariants: the memory words, the yard, the pens and the system words. -/

namespace Sys2Proof.Machine

variable {σ : Storage} {s : State}

/-! ### Memory words -/

theorem Storage.KeepsRes.cursorOp {i : Instr} {pm : Pm} {early : Cell → Option Val} (h : σ.Keeps s.storage) :
    σ.KeepsRes (cursorOp i pm early s) := by
  unfold Machine.cursorOp
  refine .effectOp h fun _ _ _ _ _ h => ?_
  split
  · exact h.deliverNow
  · exact h.newAccess.seek

theorem Storage.KeepsRes.regionOp {i : Instr} {pm : Pm} {accum : Bool} {n : Nat} {early : Cell → Option Val}
    (h : σ.Keeps s.storage) :
    σ.KeepsRes (Machine.regionOp i pm accum n early s) := by
  refine .effectOp h fun s fl j ln k h => ?_
  dsimp only
  split
  · exact h.deliverNow
  · exact .ite h.faultLane (.updAccess h.newAccess)

theorem Storage.KeepsRes.execRedo {pm : Pm} {t0 : Target} {relOrd : Bool} {sc : Scope} (h : σ.Keeps s.storage) :
    σ.KeepsRes (execRedo pm t0 relOrd sc s) := .cursorOp h

theorem Storage.KeepsRes.execFence {pm : Pm} {sc : Scope} {t0 t1 : Target} (h : σ.Keeps s.storage) :
    σ.KeepsRes (execFence pm sc t0 t1 s) := .effectOp h fun _ _ _ _ _ h => h.newAccess

theorem Storage.KeepsRes.execPref {pm : Pm} {lv : PrefLevel} {t0 t1 : Target} (h : σ.Keeps s.storage) :
    σ.KeepsRes (execPref pm lv t0 t1 s) := by
  unfold Machine.execPref
  dsimp only
  refine .effectOp h fun _ _ _ _ _ h => ?_
  split
  · exact Storage.Keeps.ofFst ‹_› h.deliverNow.prefRecord
  · split
    · exact Storage.Keeps.ofFst ‹_› h.deliverNow.prefRecord
    · split
      · exact Storage.Keeps.ofFst ‹_› h.deliverNow.prefRecord
      · exact ((Storage.Keeps.ofFst ‹_› h.deliverNow.prefRecord).fill).fill

/-! ### The yard -/

theorem Storage.Keeps.accept {top : BitVec 512} {toks : List (BitVec 128)} {image prio : Nat} {reply : Reply}
    (h : σ.Keeps s.storage) :
    σ.Keeps (s.accept top toks image prio reply).storage := h

theorem Storage.Keeps.popInbox {port : Nat} (h : σ.Keeps s.storage) : σ.Keeps (s.popInbox port).storage := h

theorem Storage.Keeps.noteRefused {top : BitVec 512} (h : σ.Keeps s.storage) : σ.Keeps (s.noteRefused top).storage := by
  unfold State.noteRefused
  dsimp only
  split <;> exact h

theorem Storage.KeepsRes.execLaunch {port : Nat} (h : σ.Keeps s.storage) : σ.KeepsRes (Machine.execLaunch port s) := by
  unfold Machine.execLaunch
  refine .next ?_
  dsimp only
  split
  · exact h
  · split
    · exact h.popInbox.noteRefused.toHost
    · exact h.popInbox.accept

theorem Storage.Keeps.repartition {core : Nat} {gone : List Region} (h : σ.Keeps s.storage) :
    σ.Keeps (s.repartition core gone).storage := h.updCore

theorem Storage.Keeps.uncarve {a : Nat} (h : σ.Keeps s.storage) : σ.Keeps (s.uncarve a).storage := h

theorem Storage.Keeps.installTable {x : Nat} {l : List (Nat × Nat)} {pen obj0 : Nat} (h : σ.Keeps s.storage) :
    σ.Keeps (s.installTable x l pen obj0).storage := by
  unfold State.installTable
  refine .foldl ?_ fun _ _ h => h.wrN
  split
  · exact h.clearMem.foldl fun _ _ h => h.wrN
  · exact ((h.clearMem.foldl fun _ _ h => h.wrN).wrN).clearMem

theorem Storage.Keeps.failLaunch {q : Queued} {x block index code : Nat} {detail : List Word} (h : σ.Keeps s.storage) :
    σ.Keeps (s.failLaunch q x block index code detail).storage := by
  unfold State.failLaunch
  split
  · exact h.toHost
  · split <;> exact h.toHost

theorem Storage.Keeps.checkImage {q : Queued} (h : σ.Keeps s.storage) : σ.Keeps (s.checkImage q).1.storage := by
  unfold State.checkImage
  dsimp only
  split <;> exact h

theorem Storage.Keeps.injectEntries {c : Nat} (h : σ.Keeps s.storage) : σ.Keeps (s.injectEntries c).storage := by
  unfold State.injectEntries
  split
  · exact h
  · refine .moved (.updCtx (.foldl (.foldl h fun _ _ h => .ite h.inject h) fun _ _ h => ?_))
    exact .ite (.ite h.addComplete h) h

/-- The regions a new context takes are repartitioned and read zero. -/
theorem Storage.Keeps.takeRegions {l : List Region} {p : List (Nat × Nat × Nat × Nat)} {cs : List Ctx}
    {g : List (Nat × Nat × List Nat)}
    (h : σ.Keeps s.storage) :
    σ.Keeps (l.foldl (fun (s : State) r => (s.clearMem (shedAddr r.core (65536 * r.scrSeg)) (65536 * r.scratch)).clearMem
      (accumAddr r.core (32768 * r.accSeg)) (32768 * r.accum))
      (l.foldl (fun (s : State) r => s.repartition r.core []) { s with pinext := p, ctxs := cs, gangCores := g })).storage :=
  .foldl (.foldl h fun _ _ h => h.repartition) fun _ _ h => h.clearMem.clearMem

theorem Storage.Keeps.admitLaunch {q : Queued} {a : Admission} (h : σ.Keeps s.storage) : σ.Keeps (s.admitLaunch q a).storage := by
  unfold State.admitLaunch
  extract_lets adm s1 s2
  have h1 : σ.Keeps s1.storage := h
  have h2 : σ.Keeps s2.storage := by
    unfold s2
    split
    · exact h1.toHost
    · exact h1
  split
  · exact .failLaunch (.ofFst ‹_› h2.checkImage)
  · next u l hu =>
    have hu : σ.Keeps u.storage := .ofFst hu h2.checkImage
    dsimp only
    split
    · exact hu.failLaunch
    · have h3 : σ.Keeps (State.storage { u with saveCarve := a.carved }) := hu
      split
      · exact .injectEntries (.takeRegions h3.installTable)
      · exact .tellOthers (.takeRegions h3.installTable)

theorem Storage.KeepsRes.execLaunchAdmission (h : σ.Keeps s.storage) : σ.KeepsRes (execLaunchAdmission s) := by
  unfold Machine.execLaunchAdmission
  refine .next ?_
  split
  · exact h
  · exact h.admitLaunch

theorem Storage.KeepsRes.execSpawnSubmission {k : Nat} (h : σ.Keeps s.storage) : σ.KeepsRes (Machine.execSpawnSubmission k s) := by
  unfold Machine.execSpawnSubmission
  refine .next ?_
  dsimp only
  split
  · exact h
  · refine .ite h ?_
    split
    · exact h.release
    · split
      · exact .ite h.release h.release
      · exact h.release

theorem Storage.KeepsRes.execSpawnAnswer {k : Nat} (h : σ.Keeps s.storage) : σ.KeepsRes (execSpawnAnswer k s) := by
  unfold Machine.execSpawnAnswer
  dsimp only
  refine .next ?_
  split
  · exact h
  · split
    · exact h
    · split
      · exact h
      · split
        · exact .countStray h
        · exact .moved (.answerCont h)

theorem Storage.KeepsRes.execDroverForward {ctx comp : Nat} (h : σ.Keeps s.storage) :
    σ.KeepsRes (execDroverForward ctx comp s) := by
  unfold Machine.execDroverForward
  refine .next ?_
  split
  · exact h
  · split
    · exact h.updCtx
    · exact h

theorem Storage.Keeps.endCtx {c : Ctx} (h : σ.Keeps s.storage) : σ.Keeps (s.endCtx c).storage :=
  .foldl (.filterL1 (.foldl h.writeBackOf.drainBridge fun _ _ h => h.repartition)) fun _ _ h => h.regrant

theorem Storage.Keeps.tellSpawner {c : Ctx} {detail outcome : Nat} (h : σ.Keeps s.storage) :
    σ.Keeps (s.tellSpawner c detail outcome).storage := by
  unfold State.tellSpawner
  split
  · split <;> exact h
  · exact h

theorem Storage.KeepsRes.execLaunchComplete {ctx : Nat} (h : σ.Keeps s.storage) : σ.KeepsRes (execLaunchComplete ctx s) := by
  unfold Machine.execLaunchComplete
  refine .next ?_
  split
  · exact h
  · split
    · exact h
    · exact h.endCtx.tellSpawner.toHost

theorem Storage.KeepsRes.execDrainComplete {ctx : Nat} (h : σ.Keeps s.storage) : σ.KeepsRes (execDrainComplete ctx s) := by
  unfold Machine.execDrainComplete
  refine .next ?_
  split
  · exact h
  · split
    · exact h
    · split
      · exact h
      · exact h.endCtx.tellSpawner.toHost

theorem Storage.KeepsRes.execQuiescenceDetect {ctx : Nat} (h : σ.Keeps s.storage) : σ.KeepsRes (execQuiescenceDetect ctx s) := by
  unfold Machine.execQuiescenceDetect
  refine .next ?_
  split
  · exact h
  · split
    · exact h
    · exact h.moved.captureContext

/-! ### Pens and the tokens' way -/

theorem Storage.Keeps.releaseFlock {core pipe slot : Nat} {k : Cand} (h : σ.Keeps s.storage) :
    σ.Keeps (s.releaseFlock core pipe slot k).storage := by
  unfold State.releaseFlock
  split
  · exact h
  · dsimp only
    split
    · exact .moved (.stir (ofSeq h (Nat.le_succ _)))
    · refine .moved (.acquire (.rebind (.promote (.updCtx ?_))))
      exact ofSeq h ((Nat.le_succ _).trans (Nat.le_add_right _ _))

theorem Storage.KeepsRes.execFlockRelease {core : Nat} (h : σ.Keeps s.storage) : σ.KeepsRes (execFlockRelease core s) := by
  unfold Machine.execFlockRelease
  refine .next ?_
  split
  · exact h.releaseFlock
  · exact h

theorem Storage.Keeps.askGroups {x : Nat} {l : List Ready} (h : σ.Keeps s.storage) : σ.Keeps (s.askGroups x l).storage := by
  unfold State.askGroups
  split
  · exact h
  · exact h.foldl fun _ _ h => h.sendOut

theorem Storage.KeepsRes.execPenTimerExpiry {core pen : Nat} (h : σ.Keeps s.storage) :
    σ.KeepsRes (execPenTimerExpiry core pen s) := by
  unfold Machine.execPenTimerExpiry
  refine .next ?_
  split
  · exact h
  · split
    · exact h
    · split
      · exact .askGroups h
      · exact h

theorem Storage.KeepsRes.execPriorityAging {core : Nat} (h : σ.Keeps s.storage) : σ.KeepsRes (execPriorityAging core s) := .next h

theorem Storage.Keeps.resetAges (h : σ.Keeps s.storage) : σ.Keeps (s.resetAges).storage := h

theorem Storage.Keeps.fallBack {x : Nat} {on : Nat → Bool} (h : σ.Keeps s.storage) : σ.Keeps (s.fallBack x on).storage := h

theorem Storage.Keeps.offer {t : Transit} (h : σ.Keeps s.storage) : σ.Keeps (s.offer t).storage := by
  unfold State.offer
  split
  · exact h
  · exact h.arrive

theorem Storage.KeepsRes.execTokenArrival {core : Nat} (h : σ.Keeps s.storage) : σ.KeepsRes (execTokenArrival core s) := by
  unfold Machine.execTokenArrival
  refine .next ?_
  split
  · exact h
  · split
    · exact h
    · exact h.updCore.offer

theorem Storage.Keeps.pinHot {t : Transit} (h : σ.Keeps s.storage) : σ.Keeps (s.pinHot t).storage := by
  unfold State.pinHot
  split
  · exact h
  · split
    · exact h
    · split
      · exact h.pinfoldFull
      · exact h.pinOrHold

theorem Storage.Keeps.enqueue {t : Transit} (h : σ.Keeps s.storage) : σ.Keeps (s.enqueue t).storage := by
  unfold State.enqueue
  split
  · exact h.pinHot
  · exact h.updCore

theorem Storage.Keeps.stampOne {t : Transit} (h : σ.Keeps s.storage) : σ.Keeps (s.stampOne t).storage := by
  unfold State.stampOne
  dsimp only
  split
  · exact h.updCore.updCore
  · exact h.updCore.updCore
  · exact h.updCore.enqueue

theorem Storage.Keeps.stampLanded (h : σ.Keeps s.storage) : σ.Keeps (s.stampLanded).storage := .foldl h fun _ _ h => .stampOne h

theorem Storage.Keeps.reach {t : Transit} (h : σ.Keeps s.storage) : σ.Keeps (s.reach t).storage := h.updCore

theorem Storage.Keeps.hop {k : Nat} (h : σ.Keeps s.storage) : σ.Keeps (s.hop k).storage := by
  unfold State.hop
  split
  · exact h
  · split
    · exact h
    · split
      · exact .reach h
      · exact .reach (.stir h)
      · split
        · exact .reach h
        · exact h

theorem Storage.KeepsRes.execCoreCool {core : Nat} (h : σ.Keeps s.storage) : σ.KeepsRes (execCoreCool core s) := by
  unfold Machine.execCoreCool
  dsimp only
  refine .next ?_
  split
  · refine .foldl (.foldl (.updCore h) fun _ _ h => .offer h) fun _ _ h => ?_
    split
    · exact h
    · exact .represent h
  · exact h

theorem Storage.Keeps.flowOne {t : Transit} (h : σ.Keeps s.storage) : σ.Keeps (s.flowOne t).storage := by
  unfold State.flowOne
  split
  · exact h
  · split
    · exact h.pinOrHold
    · exact h.arriveAt

theorem Storage.Keeps.flowHeld {c n : Nat} (h : σ.Keeps s.storage) : σ.Keeps (State.flowHeld c n s).storage := by
  induction n generalizing s with
  | zero => exact h
  | succ n ih =>
    unfold State.flowHeld
    split
    · split
      · split
        · exact h.stir
        · exact h
        · exact ih (.flowOne (.stir h))
        · exact ih (.flowOne h)
      · exact h
    · exact h

theorem Storage.KeepsRes.execPinfoldSlotFree {ctx : Nat} (h : σ.Keeps s.storage) :
    σ.KeepsRes (execPinfoldSlotFree ctx s) := .next h.flowHeld

theorem Storage.Keeps.writePinext {ctx k : Nat} {v : Word} (h : σ.Keeps s.storage) : σ.Keeps (s.writePinext ctx k v).storage := by
  unfold State.writePinext
  split
  · exact h.updCtx.flowHeld
  · split <;> exact h

theorem Storage.KeepsRes.execPinextWrite {ctx k : Nat} {v : Word} (h : σ.Keeps s.storage) :
    σ.KeepsRes (execPinextWrite ctx k v s) := .next h.writePinext

theorem Storage.Keeps.releaseFiring {core x fid : Nat} {sc : Scope} (h : σ.Keeps s.storage) :
    σ.Keeps (s.releaseFiring core x fid sc).1.storage := by
  unfold State.releaseFiring
  split
  · exact h.release
  · exact h

theorem Storage.Keeps.heldRelease {top : Held} (h : σ.Keeps s.storage) : σ.Keeps (s.heldRelease top).1.storage := by
  unfold State.heldRelease
  split
  · split <;> exact h
  · exact h
  · exact h.releaseFiring

theorem Storage.KeepsRes.execReleaseTokenDelivery {k : Nat} (h : σ.Keeps s.storage) :
    σ.KeepsRes (Machine.execReleaseTokenDelivery k s) := by
  unfold Machine.execReleaseTokenDelivery
  refine .next ?_
  split
  · refine .ite h ?_
    split
    · next hr =>
      have hu := Storage.Keeps.ofFst hr h.heldRelease
      exact .inject hu
    · next hr => exact .ofFst hr h.heldRelease
  · split
    · exact h
    · split
      · next hr => exact .ofFst hr h.releaseFiring
      · next hr =>
        have hu := Storage.Keeps.ofFst hr h.releaseFiring
        exact .sendOut hu

/-! ### System words -/

theorem Storage.KeepsRes.execTrap {pm : Pm} {code : BitVec 13} {t0 : Target} (h : σ.Keeps s.storage) :
    σ.KeepsRes (execTrap pm code t0 s) := .effectOp h fun _ _ _ _ _ h => h.faultLane

theorem Storage.KeepsRes.execBrk {pm : Pm} {code : BitVec 13} {t0 : Target} (h : σ.Keeps s.storage) :
    σ.KeepsRes (execBrk pm code t0 s) := .effectOp h fun _ _ _ _ _ h => h.faultLane.updCtx.fallBack

theorem Storage.KeepsRes.execEmx {_k : BitVec 4} {pm : Pm} {_sub : BitVec 4} {t0 t1 : Target} (h : σ.Keeps s.storage) :
    σ.KeepsRes (execEmx _k pm _sub t0 t1 s) := .effectOp h fun _ _ _ _ _ h => h.faultLane

theorem Storage.KeepsRes.execRdsr {pm : Pm} {sr : SysReg} {t0 : Target} (h : σ.Keeps s.storage) :
    σ.KeepsRes (execRdsr pm sr t0 s) := .laneOp h

theorem Storage.KeepsRes.execWrsr {pm : Pm} {sr : SysReg} {t0 : Target} (h : σ.Keeps s.storage) :
    σ.KeepsRes (execWrsr pm sr t0 s) := by
  unfold Machine.execWrsr
  refine .effectOp h fun _ _ _ _ _ h => ?_
  refine .completeLane ?_
  split
  · exact h.updCtx
  · exact h

theorem Storage.KeepsRes.reserveOp {op : Nat} {pm : Pm} {t0 : Target} (h : σ.Keeps s.storage) :
    σ.KeepsRes (reserveOp op pm t0 s) := by
  unfold Machine.reserveOp
  refine .effectOp h fun _ _ _ _ _ h => ?_
  split
  · exact h.completeLane
  · split
    · split
      · split
        · split
          · exact h.completeLane
          · exact h.updCtx.completeLane
        · exact h.completeLane
      · exact h.completeLane
    · exact h.completeLane

theorem Storage.KeepsRes.execResume {pm : Pm} {t0 : Target} (h : σ.Keeps s.storage) :
    σ.KeepsRes (execResume pm t0 s) := .reserveOp h

theorem Storage.KeepsRes.execRetry {pm : Pm} {t0 : Target} (h : σ.Keeps s.storage) : σ.KeepsRes (execRetry pm t0 s) := .reserveOp h

theorem Storage.KeepsRes.execAbort {pm : Pm} {t0 : Target} (h : σ.Keeps s.storage) : σ.KeepsRes (execAbort pm t0 s) := by
  unfold Machine.execAbort
  refine .effectOp h fun _ _ _ _ _ h => ?_
  split
  · exact h
  · exact h.completeLane.drain

theorem Storage.Keeps.placeHandler {c : Ctx} {r : Nat} {e : FoldEntry} {lane : Bool} (h : σ.Keeps s.storage) :
    σ.Keeps (s.placeHandler c r e lane).storage := by
  unfold State.placeHandler
  extract_lets s1 s2 yard wait
  have h2 : σ.Keeps s2.storage := Storage.Keeps.representSpilled h.updCore
  have hy : σ.Keeps (yard s2).storage := h2
  have hw : ∀ why, σ.Keeps (wait s2 why).storage := fun why => Storage.KeepsOpt.getD (.pinAdd h2) hy
  refine .ite hy (.ite (hw _) ?_)
  split
  · exact hw _
  · next t ht =>
    have ht : σ.Keeps t.storage := Storage.KeepsOpt.setRoom h2 t ht
    split
    · exact .moved (.rebind (.promote (.foldAdd ht)))
    · exact hw _

theorem Storage.KeepsRes.execHandlerDispatch {ctx r : Nat} (h : σ.Keeps s.storage) : σ.KeepsRes (execHandlerDispatch ctx r s) := by
  unfold Machine.execHandlerDispatch
  dsimp only
  refine .next ?_
  split
  · exact h
  · split
    · exact h.placeHandler
    · exact h
    · split
      · split
        · split
          · exact h.updCtx.placeHandler
          · exact h
        · split
          · exact h.updCtx.placeHandler
          · exact h
      · exact h
    · exact h

theorem Storage.Keeps.leaveFlock {flock fid : Nat} (h : σ.Keeps s.storage) :
    σ.Keeps (s.leaveFlock flock fid).storage := h.updFlock.retireFlocks

theorem Storage.Keeps.resumeRecord {c : Ctx} {r : Nat} {k : Sick} {ln : Lane} (h : σ.Keeps s.storage) :
    σ.Keeps (s.resumeRecord c r k ln).storage := by
  unfold State.resumeRecord
  extract_lets
  exact .ite (.updFlock h) (.stir h)

theorem Storage.Keeps.reenter {c : Ctx} {k : Sick} {ln : Lane} (h : σ.Keeps s.storage) :
    σ.Keeps (s.reenter c k ln).storage := h.discardFiring.leaveFlock.addComplete

theorem Storage.Keeps.retryRecord {c : Ctx} {r : Nat} {k : Sick} {ln : Lane} (h : σ.Keeps s.storage) :
    σ.Keeps (s.retryRecord c r k ln).storage := by
  unfold State.retryRecord
  split
  · exact h
  · extract_lets s1
    have h1 : σ.Keeps s1.storage := h
    split
    · extract_lets fids s2 s3 n s4
      have h2 : σ.Keeps s2.storage := h1.foldl fun _ _ h => h.discardFiring
      have h4 : σ.Keeps s4.storage := ofSeq h2 (Nat.le_add_right _ _)
      exact .ite (.updFlock h4) h1.reenter
    · exact h1.reenter

theorem Storage.Keeps.resumeContext {c : Ctx} {r : Nat} {k : Sick} (h : σ.Keeps s.storage) :
    σ.Keeps (s.resumeContext c r k).storage := by
  unfold State.resumeContext
  split
  · exact h.updCtx.moved
  · split
    · exact h.updCtx.moved.updCtx
    · exact h.updCtx.moved.updCtx.pinfoldFull

theorem Storage.Keeps.fillNext {x : Nat} (h : σ.Keeps s.storage) : σ.Keeps (s.fillNext x).storage := by
  unfold State.fillNext
  split
  · exact h
  · split
    · exact h
    · split
      · refine .retireFlocks ?_
        split
        · exact h.updCtx.fillContextRecord
        · exact h.updCtx.fillRecord
      · exact h

theorem Storage.KeepsRes.execResponseTakesEffect {k : Nat} (h : σ.Keeps s.storage) : σ.KeepsRes (execResponseTakesEffect k s) := by
  unfold Machine.execResponseTakesEffect
  dsimp only
  refine .next ?_
  split
  · exact h
  · split
    · exact h
    · split
      · split
        · exact h
        · refine .moved ?_
          refine .foldl ?_ fun _ _ h => h.fillNext
          split
          · exact h.release.resumeContext
          · split
            · exact h.release.resumeRecord
            · exact h.release.retryRecord
      · exact h

end Sys2Proof.Machine
end

section
/-! SUPPORT. Every step keeps the storage invariants: an engine command's run, by the accesses and loops it is made of. -/

namespace Sys2Proof.Machine

variable {σ : Storage} {s : State} {r : Run}

/-! ### A run's loops -/

theorem Storage.Keeps.ofFstRun {β : Type} {p : Run × β} {u : Run} {b : β} (e : p = (u, b)) (h : σ.Keeps p.1.s.storage) :
    σ.Keeps u.s.storage := by
  rwa [e] at h

theorem Storage.Keeps.foldlRun {α : Type} {f : Run → α → Run} {l : List α} (h : σ.Keeps r.s.storage)
    (hf : ∀ r a, σ.Keeps r.s.storage → σ.Keeps (f r a).s.storage) : σ.Keeps (l.foldl f r).s.storage := by
  induction l generalizing r with
  | nil => exact h
  | cons a l ih => exact ih (hf r a h)

theorem Storage.Keeps.foldlRunFst {α β : Type} {f : Run × β → α → Run × β} {b : β} {l : List α} (h : σ.Keeps r.s.storage)
    (hf : ∀ p a, σ.Keeps p.1.s.storage → σ.Keeps (f p a).1.s.storage) : σ.Keeps (l.foldl f (r, b)).1.s.storage := by
  induction l generalizing r b with
  | nil => exact h
  | cons a l ih => exact ih (hf (r, b) a h)

theorem Storage.Keeps.iteRun {p : Prop} [Decidable p] {t : Run} (hr : σ.Keeps r.s.storage) (ht : σ.Keeps t.s.storage) :
    σ.Keeps (if p then r else t).s.storage := by
  split <;> assumption

theorem Storage.Keeps.iteRunFst {α : Type} {p : Prop} [Decidable p] {t u : Run × α} (ht : σ.Keeps t.1.s.storage)
    (hu : σ.Keeps u.1.s.storage) : σ.Keeps (if p then t else u).1.s.storage := by
  split <;> assumption

theorem Storage.Keeps.elemLoop {f : Run → Nat → Run} {n : Nat} (h : σ.Keeps r.s.storage)
    (hf : ∀ r i, σ.Keeps r.s.storage → σ.Keeps (f r i).s.storage) : σ.Keeps (elemLoop f n r).s.storage := by
  refine h.foldlRun fun r i h => ?_
  split
  · exact hf r i h
  · exact h

theorem Storage.Keeps.rowLoop {f : Run → Nat → Run} {l : List Nat} {n : Nat} (h : σ.Keeps r.s.storage)
    (hf : ∀ r i, σ.Keeps r.s.storage → σ.Keeps (f r i).s.storage) : σ.Keeps (rowLoop f l r n).1.s.storage := by
  induction l generalizing r n with
  | nil => exact h
  | cons i l ih =>
    unfold Machine.rowLoop
    dsimp only
    split
    · exact ih (hf r i h)
    · exact hf r i h

theorem Storage.Keeps.countLoop {f : Run → Nat → Run × Bool} {n : Nat} (h : σ.Keeps r.s.storage)
    (hf : ∀ r i, σ.Keeps r.s.storage → σ.Keeps (f r i).1.s.storage) : σ.Keeps (countLoop f n r).1.s.storage := by
  refine h.foldlRunFst fun p i h => ?_
  split
  · exact h
  · exact hf p.1 i h

theorem Storage.Keeps.runGather {α : Type} {f : Run → Nat → Run × α} {n : Nat} (h : σ.Keeps r.s.storage)
    (hf : ∀ r i, σ.Keeps r.s.storage → σ.Keeps (f r i).1.s.storage) : σ.Keeps (r.gather n f).1.s.storage :=
  h.foldlRunFst fun p i h => hf p.1 i h

theorem Storage.Keeps.runFail {status detail : Nat} (h : σ.Keeps r.s.storage) : σ.Keeps (r.fail status detail).s.storage := by
  unfold Run.fail
  split <;> exact h

theorem Storage.Keeps.runOnce {f : Run → Run × List Nat} (h : σ.Keeps r.s.storage)
    (hf : ∀ r, σ.Keeps r.s.storage → σ.Keeps (f r).1.s.storage) : σ.Keeps (r.once f).1.s.storage := by
  unfold Run.once
  split
  · exact h
  · split
    · exact h
    · split
      · exact h.runFail
      · split
        · exact h
        · have hr := hf { r with k := { r.k with fuel := r.k.fuel.map (· - 1) } } h
          dsimp only
          split <;> exact hr

theorem Storage.Keeps.runDoes {f : Run → Run} (h : σ.Keeps r.s.storage)
    (hf : ∀ r, σ.Keeps r.s.storage → σ.Keeps (f r).s.storage) : σ.Keeps (r.does f).s.storage :=
  h.runOnce hf

/-! ### Accesses of a run -/

theorem Storage.Keeps.runWalked {hd : Nat} {u : Use} (h : σ.Keeps r.s.storage) : σ.Keeps (r.walked hd u).1.s.storage := by
  have hc := h.chargeUnits (l := r.s.recBytes r.k.ctx hd)
  unfold Run.walked
  extract_lets core x got
  have hg : σ.Keeps got.1.storage := by
    unfold got
    split
    · exact h.orcUse
    · split
      · exact hc.orcInstall
      · exact hc
  split
  · exact h
  · clear_value got
    obtain ⟨t, w⟩ := got
    cases w with
    | use o => exact .iteRunFst hg h.runFail
    | moving => exact h
    | bad _ => exact h.runFail

theorem Storage.Keeps.engineReq {k : EngineCmd} {p addr : Nat} {op : RemoteOp} (h : σ.Keeps s.storage) :
    σ.Keeps (s.engineReq k p addr op).1.storage :=
  .sendOut (ofSeq h (Nat.le_succ _))

theorem Storage.Keeps.runRecord {cur : Word} {u : Use} (h : σ.Keeps r.s.storage) : σ.Keeps (r.record cur u).1.s.storage := by
  unfold Run.record
  dsimp only
  split
  · exact h
  · split
    · split
      · exact h
      · exact h.runFail
    · split
      · next hw =>
        have hu := Storage.Keeps.ofFstRun hw h.runWalked
        exact hu
      · next hw => exact .ofFstRun hw h.runWalked

theorem Storage.Keeps.runRecordNow {top : Nat} {o : ObjRec} {u : Use} (h : σ.Keeps r.s.storage) :
    σ.Keeps (r.recordNow top o u).1.s.storage := by
  unfold Run.recordNow
  split
  · split
    · exact Storage.Keeps.ofFstRun ‹_› h.runWalked
    · exact (Storage.Keeps.ofFstRun ‹_› h.runWalked).runFail
  · exact Storage.Keeps.ofFstRun ‹_› h.runWalked

theorem Storage.Keeps.runPlace {e : Endpoint} {u : Use} {ranges : List Rng} (h : σ.Keeps r.s.storage) :
    σ.Keeps (r.place e u ranges).1.s.storage := by
  unfold Run.place
  dsimp only
  split
  · exact h
  · split
    · split <;> exact Storage.Keeps.ofFstRun ‹_› h.runRecord
    · split
      · exact h
      · split
        · exact h
        · split
          · exact h.runFail
          · exact h

theorem Storage.Keeps.runResident {top : Nat} {o : ObjRec} {bytes : List Nat} (h : σ.Keeps r.s.storage) :
    σ.Keeps (r.resident top o bytes).s.storage := by
  unfold Run.resident
  split
  · split
    · exact Storage.Keeps.ofFst ‹_› h.firstAbsent
    · exact (Storage.Keeps.ofFst ‹_› h.firstAbsent).runFail
  · exact (Storage.Keeps.ofFst ‹_› h.firstAbsent).runFail
  · split
    · exact (Storage.Keeps.ofFst ‹_› h.firstAbsent).runFail
    · exact Storage.Keeps.ofFst ‹_› h.firstAbsent

theorem Storage.Keeps.runMeetOne {top : Nat} {o : ObjRec} {bytes : List Nat} {plane : Bool} (h : σ.Keeps r.s.storage) :
    σ.Keeps (r.meetOne top o bytes plane).s.storage := by
  unfold Run.meetOne
  dsimp only
  split
  · exact h
  · split
    · split
      · exact .runFail h
      · exact .updCtx (.dropClean h)
    · split
      · exact .updCtx h
      · split
        · exact .retire h
        · exact .runFail (.listLasting h)

theorem Storage.Keeps.runMeet {top : Nat} {o : ObjRec} {bytes : List Nat} {plane : Bool} (h : σ.Keeps r.s.storage) :
    σ.Keeps (r.meet top o bytes plane).s.storage := by
  unfold Run.meet
  split
  · exact h.runFail
  · refine h.foldlRun fun _ _ h => ?_
    split
    · exact h.runMeetOne
    · exact h

theorem Storage.Keeps.runSend {top : Nat} {o : ObjRec} {addr : Nat} {op : RemoteOp} {row elem : Nat} (h : σ.Keeps r.s.storage) :
    σ.Keeps (r.send top o addr op row elem).s.storage := by
  unfold Run.send
  split
  · exact h.countRoute.runFail
  · exact h.engineReq

theorem Storage.Keeps.runFetchFar {hd : Nat} {o : ObjRec} {l : List Nat} (h : σ.Keeps r.s.storage) :
    σ.Keeps (r.fetchFar hd o l).1.s.storage := by
  unfold Run.fetchFar
  extract_lets shrd come held got new
  split
  · exact .foldl h fun _ _ h => h.farFill
  · split
    · exact .runFail (.countRoute h)
    · have hq := h.engineReq (k := r.k) (p := o.pkg) (addr := l.headD 0) (op := .read l.length)
      exact hq

theorem Storage.Keeps.runFetch {top : Nat} {o : ObjRec} {l : List Nat} {plane : Bool} (h : σ.Keeps r.s.storage) :
    σ.Keeps (r.fetch top o l plane).1.s.storage := by
  unfold Run.fetch
  dsimp only
  split
  · exact h
  · split
    · exact h.runFetchFar
    · split
      · split
        · exact h.runFail
        · exact h
      · split
        · split
          · exact h.runMeet
          · exact h.runMeet.chargeUnits.loadBytes
        · split
          · exact h
          · exact h.chargeUnits.loadBytes

theorem Storage.Keeps.runReadBytes {addr n : Nat} (h : σ.Keeps r.s.storage) : σ.Keeps (r.readBytes addr n).s.storage := by
  unfold Run.readBytes
  split
  · exact h
  · exact .runFail h

theorem Storage.Keeps.runRemember {l : List Nat} {old : List Byte} (h : σ.Keeps r.s.storage) :
    σ.Keeps (r.remember l old).s.storage := by
  unfold Run.remember
  split <;> exact h

theorem Storage.Keeps.runEither {l : List Nat} {bs : List Byte} (h : σ.Keeps r.s.storage) :
    σ.Keeps (r.either l bs).1.s.storage := by
  unfold Run.either
  split <;> exact h

theorem Storage.Keeps.runSense {addr n : Nat} (h : σ.Keeps r.s.storage) : σ.Keeps (r.sense addr n).s.storage := by
  unfold Run.sense
  dsimp only
  refine h.foldlRun fun _ _ h => ?_
  split <;> exact h

theorem Storage.Keeps.runBytesAt {addr n : Nat} (h : σ.Keeps r.s.storage) : σ.Keeps (r.bytesAt addr n).1.s.storage := by
  unfold Run.bytesAt
  exact h.runOnce fun _ h => h.runReadBytes.runSense.runEither

theorem Storage.Keeps.runPadElem {row eb k : Nat} (h : σ.Keeps r.s.storage) :
    σ.Keeps (r.padElem row eb k).1.s.storage := h.runBytesAt

theorem Storage.Keeps.runReadSpan {addr n : Nat} (h : σ.Keeps r.s.storage) : σ.Keeps (r.readSpan addr n).s.storage := by
  unfold Run.readSpan
  split
  · exact h
  · exact h.foldlRun fun _ _ h => h.runDoes fun _ h => h.runReadBytes.runSense

theorem Storage.Keeps.runWordAt {addr : Nat} (h : σ.Keeps r.s.storage) : σ.Keeps (r.wordAt addr).1.s.storage := by
  unfold Run.wordAt
  exact h.runOnce fun _ h => h.runReadBytes

theorem Storage.Keeps.runSetWord {addr v : Nat} (h : σ.Keeps r.s.storage) :
    σ.Keeps (r.setWord addr v).s.storage := h.runDoes fun _ h => h.wrN

theorem Storage.Keeps.runOutside {top : Nat} {o : ObjRec} (h : σ.Keeps r.s.storage) : σ.Keeps (r.outside top o).1.s.storage := by
  unfold Run.outside
  split
  · exact h
  · split
    · exact h
    · exact h.runFail

theorem Storage.Keeps.runReadObj {hd : Nat} {o : ObjRec} {cur : Word} {i0 i1 : Nat} {plane : Bool} (h : σ.Keeps r.s.storage) :
    σ.Keeps (r.readObj hd o cur i0 i1 plane).1.s.storage := by
  unfold Run.readObj
  split
  · exact h.runOutside
  · next e _ =>
    have h1 := (Storage.Keeps.iteRun (p := r.far o = true) h (h.runResident (top := hd) (o := o) (bytes := o.elemAddrs e))).runFetch
      (top := hd) (o := o) (l := o.elemAddrs e) (plane := false)
    dsimp only at h1 ⊢
    generalize (Run.fetch _ _ _ _ _) = p at h1 ⊢
    have h2 := Storage.Keeps.iteRunFst (p := p.1.far o = true) h1 (h1.runEither (l := o.elemAddrs e) (bs := p.2))
    split
    · exact h2
    · exact h2.runFetch

theorem Storage.Keeps.runRead {p : Place} {i0 i1 : Nat} {plane : Bool} (h : σ.Keeps r.s.storage) :
    σ.Keeps (r.read p i0 i1 plane).1.s.storage := by
  unfold Run.read
  split
  · exact h.runPadElem
  · refine h.runOnce fun _ h => ?_
    split
    · exact (Storage.Keeps.ofFstRun ‹_› h.runRecordNow).runReadObj
    · exact Storage.Keeps.ofFstRun ‹_› h.runRecordNow

theorem Storage.Keeps.runTarget {p : Place} {i0 i1 : Nat} (h : σ.Keeps r.s.storage) : σ.Keeps (r.target p i0 i1).1.s.storage := by
  unfold Run.target
  dsimp only
  split
  · exact h
  · split
    · exact Storage.Keeps.ofFstRun ‹_› h.runRecordNow
    · split
      · split
        · exact (Storage.Keeps.ofFstRun ‹_› h.runRecordNow).runFail
        · exact Storage.Keeps.ofFstRun ‹_› h.runRecordNow
      · split
        · split <;> exact Storage.Keeps.ofFstRun ‹_› h.runRecordNow
        · split <;> exact (Storage.Keeps.ofFstRun ‹_› h.runRecordNow).runResident

theorem Storage.Keeps.runStore {o : Option (Nat × ObjRec)} {l : List Nat} {bs : List Byte} {row elem : Nat}
    (h : σ.Keeps r.s.storage) :
    σ.Keeps (r.store o l bs row elem).s.storage := by
  unfold Run.store
  split
  · exact h.runRemember.foldl fun _ _ h => h.wr
  · split
    · exact (h.foldl fun _ _ h => h.farPut).runSend
    · split
      · split
        · exact h.runFail
        · exact h
      · split
        · exact h
        · exact h.runRemember.chargeUnits.storeBytes

theorem Storage.Keeps.runWriteBy {p : Place} {i0 i1 row : Nat} {code : Nat → Nat} (h : σ.Keeps r.s.storage) :
    σ.Keeps (r.writeBy p i0 i1 row code).1.s.storage := by
  unfold Run.writeBy
  dsimp only
  refine h.runOnce fun _ h => ?_
  split
  · exact Storage.Keeps.ofFstRun ‹_› h.runTarget
  · split
    · exact (Storage.Keeps.ofFstRun ‹_› h.runTarget).runStore
    · split
      · split
        · exact (Storage.Keeps.ofFstRun ‹_› h.runTarget).runFetch
        · exact ((Storage.Keeps.ofFstRun ‹_› h.runTarget).runFetch).runStore
      · split
        · exact Storage.Keeps.ofFstRun ‹_› h.runTarget
        · exact (Storage.Keeps.ofFstRun ‹_› h.runTarget).runStore

theorem Storage.Keeps.runWrite {p : Place} {i0 i1 row code : Nat} (h : σ.Keeps r.s.storage) :
    σ.Keeps (r.write p i0 i1 row code).s.storage := h.runWriteBy

theorem Storage.Keeps.setCmd {k : EngineCmd} (h : σ.Keeps s.storage) : σ.Keeps (s.setCmd k).storage := h

theorem Storage.Keeps.runFinish {done : Nat} (h : σ.Keeps r.s.storage) : σ.Keeps (r.finish done).storage := by
  unfold Run.finish
  split
  · exact h.setCmd
  · exact h.setCmd.moved

/-! ### Ends and completion -/

theorem Storage.KeepsRes.headIf {core : Nat} {e : Engine} {p : Instr → Bool} {f : EngineCmd → State} (h : σ.Keeps s.storage)
    (hf : ∀ k, σ.Keeps (f k).storage) : σ.KeepsRes (s.headIf core e p f) := by
  refine .next ?_
  split
  · exact h
  · split
    · exact hf _
    · exact h

theorem Storage.Keeps.engineToken {k : EngineCmd} {v : Word} {rel : Option Scope} (h : σ.Keeps s.storage) :
    σ.Keeps (s.engineToken k v rel).storage := by
  unfold State.engineToken
  split
  · exact h
  · exact h.contTo

theorem Storage.Keeps.completeCmd {k : EngineCmd} (h : σ.Keeps s.storage) : σ.Keeps (s.completeCmd k).storage := by
  have h1 := h.release (core := k.core) (sc := k.scope)
  unfold State.completeCmd
  extract_lets s1 s2
  have h2 : σ.Keeps s2.storage := .moved (.updCore h1)
  refine .ite h1 ?_
  split
  · exact .ite h2 h2.engineToken
  · exact h2

theorem Storage.Keeps.complete {core : Nat} {e : Engine} (h : σ.Keeps s.storage) : σ.Keeps (s.complete core e).storage := by
  unfold State.complete
  split
  · exact h
  · exact h.completeCmd

theorem Storage.Keeps.completeAny {id : Nat} (h : σ.Keeps s.storage) : σ.Keeps (s.completeAny id).storage := by
  unfold State.completeAny
  split
  · exact h
  · split
    · exact h.completeCmd
    · exact h

theorem Storage.Keeps.submit {a : Access} (h : σ.Keeps s.storage) : σ.Keeps (s.submit a).storage := by
  unfold State.submit
  split
  · dsimp only
    refine .ite h.deliverAccess (.ite h (.ite h (.ite h.release ?_)))
    split
    · exact h.release.faultAccess
    · exact .ite h.release.faultAccess (.ite h.release (.deliverAccess h.release))
  · exact h

theorem Storage.KeepsRes.engineOp {i : Instr} {pm : Pm} (h : σ.Keeps s.storage) : σ.KeepsRes (engineOp i pm s) := by
  unfold Machine.engineOp
  refine .effectOp h fun _ _ _ _ _ h => ?_
  split
  · exact h.deliverNow
  · exact h.newAccess.submit

end Sys2Proof.Machine
end

section
/-! SUPPORT. Every step keeps the storage invariants: the engines' commands. -/

namespace Sys2Proof.Machine

variable {σ : Storage} {s : State} {r : Run}

/-! ### The matrix unit -/

theorem Storage.Keeps.setBank {b : MxuBank} (h : σ.Keeps s.storage) : σ.Keeps (s.setBank b).storage := h

theorem Storage.Keeps.runFillBank {b : MxuBank} (h : σ.Keeps r.s.storage) :
    σ.Keeps (r.fillBank b).s.storage := h.runDoes fun _ h => h.setBank

theorem Storage.Keeps.runLoad {ty : MxTy} {w : BitVec 512} (h : σ.Keeps r.s.storage) : σ.Keeps (r.load ty w).s.storage := by
  have h1 := h.runDoes (f := fun r => { r with s := r.s.setBank (bankTag r.k ty w 0) }) fun _ h => h.setBank
  unfold Run.load
  dsimp only
  split
  · refine .runFillBank (.runGather (h1.runGather fun _ _ h => h.runReadSpan) fun _ _ h => ?_)
    exact .iteRun h.runReadSpan h
  · split
    · next hr => exact .ofFstRun hr h1.runRecord
    · next hr =>
      have h2 := Storage.Keeps.ofFstRun hr h1.runRecord
      refine .iteRun h2.runFail (.runFillBank (h2.runGather fun _ _ h => h.runGather fun _ _ h => ?_))
      split <;> exact .ofFstRun ‹_› h.runRead

theorem Storage.Keeps.runOf {k : EngineCmd} (h : σ.Keeps s.storage) : σ.Keeps (runOf s k).s.storage := h

theorem Storage.Keeps.wldRun {k : EngineCmd} (h : σ.Keeps s.storage) : σ.Keeps (wldRun s k).storage := by
  have h1 {f : Run → Run × List Nat} (hf : ∀ r, (f r).1 = r) := h.runOf (k := k).runOnce (f := f) fun r h => (hf r).symm ▸ h
  unfold Machine.wldRun
  extract_lets ty
  dsimp only
  exact .ite (h1 fun _ => rfl).runFail.runFinish (h1 fun _ => rfl).runLoad.runFinish

theorem Storage.Keeps.runBank {scaled : Bool} (h : σ.Keeps r.s.storage) : σ.Keeps (r.bank scaled).1.s.storage := by
  unfold Run.bank
  dsimp only
  split
  · exact h.runOnce fun _ h => h
  · split
    · exact (h.runOnce fun _ h => h).runLoad
    · exact (h.runOnce fun _ h => h).runFail

theorem Storage.Keeps.runMmaRow {b : MxuBank} {scaled : Bool} {m : Nat} (h : σ.Keeps r.s.storage) :
    σ.Keeps (r.mmaRow b scaled m).s.storage := by
  unfold Run.mmaRow
  dsimp only
  refine .elemLoop ?_ fun _ _ h => ?_
  · split
    · exact h.runReadSpan.runReadSpan
    · exact h.runReadSpan
  · refine .runSetWord ?_
    split
    · exact h.runWordAt
    · exact h

theorem Storage.Keeps.mmaRun {scaled : Bool} {k : EngineCmd} (h : σ.Keeps s.storage) : σ.Keeps (mmaRun scaled s k).storage := by
  unfold Machine.mmaRun
  dsimp only
  split
  · exact (Storage.Keeps.ofFstRun ‹_› h.runOf.runBank).runFinish
  · split
    · exact ((Storage.Keeps.ofFstRun ‹_› h.runOf.runBank).runFail).runFinish
    · exact ((Storage.Keeps.ofFstRun ‹_› h.runOf.runBank).rowLoop fun _ _ h => h.runMmaRow).runFinish

theorem Storage.Keeps.aclrRun {k : EngineCmd} (h : σ.Keeps s.storage) :
    σ.Keeps (aclrRun s k).storage := (h.runOf.elemLoop fun _ _ h => h.runSetWord).runFinish

theorem Storage.Keeps.runConvert {ty : AcvtTy} {p : Place} {m n : Nat} (h : σ.Keeps r.s.storage) :
    σ.Keeps (r.convert ty p m n).s.storage := h.runWordAt.runWriteBy

theorem Storage.Keeps.acvtRun {k : EngineCmd} (h : σ.Keeps s.storage) : σ.Keeps (acvtRun s k).storage := by
  unfold Machine.acvtRun
  dsimp only
  split
  · exact (h.runOf.rowLoop fun _ _ h => h.elemLoop fun _ _ h => h.runConvert).runFinish
  · split
    · exact (Storage.Keeps.ofFstRun ‹_› h.runOf.runRecord).runFinish
    · split
      · split
        · exact ((Storage.Keeps.ofFstRun ‹_› h.runOf.runRecord).runFail).runFinish
        · exact ((Storage.Keeps.ofFstRun ‹_› h.runOf.runRecord).rowLoop fun _ _ h => h.elemLoop fun _ _ h => h.runConvert).runFinish
      · split
        · exact ((Storage.Keeps.ofFstRun ‹_› h.runOf.runRecord).runFail).runFinish
        · exact ((Storage.Keeps.ofFstRun ‹_› h.runOf.runRecord).rowLoop fun _ _ h => h.elemLoop fun _ _ h => h.runConvert).runFinish

theorem Storage.Keeps.runAddWord {m n : Nat} (h : σ.Keeps r.s.storage) : σ.Keeps (r.addWord m n).s.storage := by
  unfold Run.addWord
  dsimp only
  refine .runSetWord ?_
  split
  · exact h.runWordAt
  · exact h.runWordAt.runWordAt

theorem Storage.Keeps.aaddRun {k : EngineCmd} (h : σ.Keeps s.storage) :
    σ.Keeps (aaddRun s k).storage := (h.runOf.rowLoop fun _ _ h => h.elemLoop fun _ _ h => h.runAddWord).runFinish

theorem Storage.Keeps.mxuRun {k : EngineCmd} (h : σ.Keeps s.storage) : σ.Keeps (mxuRun s k).storage := by
  unfold Machine.mxuRun
  split
  · exact h.mmaRun
  · exact h.mmaRun
  · exact h.wldRun
  · exact h.aclrRun
  · exact h.acvtRun
  · exact h.aaddRun
  · exact h

/-! ### The copy engine -/

theorem Storage.Keeps.runPlaces {ck : CopyKind} {srcUse dstUse : Use} {noSrc : Bool} (h : σ.Keeps r.s.storage) :
    σ.Keeps (r.places ck srcUse dstUse noSrc).1.s.storage := by
  unfold Run.places
  refine .runPlace ?_
  split
  · exact h
  · exact h.runPlace

theorem Storage.Keeps.runPairFormats {s d : Place} (h : σ.Keeps r.s.storage) : σ.Keeps (r.pairFormats s d).s.storage := by
  unfold Run.pairFormats
  dsimp only
  split
  · exact h
  · split
    · split
      · exact h.runFail
      · split
        · split
          · exact h
          · exact h.runFail
        · split
          · exact h
          · exact h.runFail
    · exact h

theorem Storage.Keeps.runMoveElem {s d : Place} {i sr dr row : Nat} (h : σ.Keeps r.s.storage) :
    σ.Keeps (r.moveElem s d i sr dr row).s.storage := by
  unfold Run.moveElem
  split
  · exact (Storage.Keeps.ofFstRun ‹_› h.runRead).runWriteBy
  · exact Storage.Keeps.ofFstRun ‹_› h.runRead

theorem Storage.Keeps.runMoveRows {s d : Place} {rows : RowMap} (h : σ.Keeps r.s.storage) :
    σ.Keeps (r.moveRows s d rows).storage := by
  unfold Run.moveRows
  refine .runFinish ?_
  refine h.rowLoop fun _ _ h => ?_
  split
  · exact h.elemLoop fun _ _ h => h.runMoveElem
  · exact h

theorem Storage.Keeps.runNoHost {l : List (Option Place)} (h : σ.Keeps r.s.storage) : σ.Keeps (r.noHost l).s.storage := by
  unfold Run.noHost
  refine h.foldlRun fun _ _ h => ?_
  split
  · split
    · exact h.runFail
    · exact h
  · exact h

theorem Storage.Keeps.runMoves {ck : CopyKind} {rows : RowMap} (h : σ.Keeps r.s.storage) : σ.Keeps (r.moves ck rows).storage := by
  unfold Run.moves
  dsimp only
  split
  · exact .ite h.runPlaces.runNoHost.runPairFormats.runMoveRows h.runPlaces.runNoHost.runPairFormats.runFinish
  · exact h.runPlaces.runNoHost.runFinish

theorem Storage.Keeps.runIndexList (h : σ.Keeps r.s.storage) : σ.Keeps (r.indexList).1.s.storage := h.runReadSpan

theorem Storage.Keeps.runIndexed {scatter : Bool} {ck : CopyKind} (h : σ.Keeps r.s.storage) :
    σ.Keeps (r.indexed scatter ck).storage := by
  unfold Run.indexed
  split
  · split
    · exact (Storage.Keeps.ofFstRun ‹_› h.runIndexList).runFinish
    · split
      · exact ((Storage.Keeps.ofFstRun ‹_› h.runIndexList).runFail).runFinish
      · exact (Storage.Keeps.ofFstRun ‹_› h.runIndexList).runMoves

theorem Storage.Keeps.runFillRows {d : Place} (h : σ.Keeps r.s.storage) :
    σ.Keeps (r.fillRows d).storage := (h.rowLoop fun _ _ h => h.elemLoop fun _ _ h => h.runWrite).runFinish

theorem Storage.Keeps.runFills {ck : CopyKind} (h : σ.Keeps r.s.storage) : σ.Keeps (r.fills ck).storage := by
  unfold Run.fills
  split
  · split
    · exact (Storage.Keeps.ofFstRun ‹_› h.runPlaces).runFillRows
    · exact (Storage.Keeps.ofFstRun ‹_› h.runPlaces).runFinish
  · exact (Storage.Keeps.ofFstRun ‹_› h.runPlaces).runFinish

theorem Storage.Keeps.runHosts {ck : CopyKind} {outward : Bool} (h : σ.Keeps r.s.storage) :
    σ.Keeps (r.hosts ck outward).storage := by
  unfold Run.hosts
  dsimp only
  split
  · refine .ite h.runPlaces.runFinish (.ite h.runPlaces.runFail.runFinish ?_)
    split
    · exact .ite h.runPlaces.runFail.runFinish h.runPlaces.runFillRows
    · exact .ite h.runPlaces.runPairFormats.runMoveRows h.runPlaces.runPairFormats.runFinish
  · exact h.runPlaces.runFinish

theorem Storage.Keeps.runReduce {op : CpyrOp} {det : Bool} {d : Place} {i row x : Nat} (h : σ.Keeps r.s.storage) :
    σ.Keeps (r.reduce op det d i row x).s.storage := by
  unfold Run.reduce
  dsimp only
  refine h.runDoes fun _ h => ?_
  split
  · exact Storage.Keeps.ofFstRun ‹_› h.runTarget
  · split
    · exact ((Storage.Keeps.ofFstRun ‹_› h.runTarget).runRemember).wrN
    · split
      · exact (Storage.Keeps.ofFstRun ‹_› h.runTarget).runSend
      · split
        · exact (Storage.Keeps.ofFstRun ‹_› h.runTarget).flushLines
        · exact ((Storage.Keeps.ofFstRun ‹_› h.runTarget).flushLines).atomicHome

theorem Storage.Keeps.runReduces {ck : CopyKind} {op : CpyrOp} (h : σ.Keeps r.s.storage) : σ.Keeps (r.reduces ck op).storage := by
  unfold Run.reduces
  extract_lets det
  split
  next hp =>
  have h1 := Storage.Keeps.ofFstRun hp h.runPlaces
  extract_lets r1
  have h2 : σ.Keeps r1.s.storage := h1.runNoHost
  split
  · extract_lets r2 one
    have h3 : σ.Keeps r2.s.storage := .iteRun h2 (.iteRun h2.runFail (.iteRun h2.runFail h2))
    refine .ite h3.runFinish (.runFinish (h3.rowLoop fun _ _ h => h.elemLoop fun _ _ h => ?_))
    unfold one
    split
    · next hr => exact .ofFstRun hr h.runRead
    · next hr => exact (Storage.Keeps.ofFstRun hr h.runRead).runReduce
  · exact h2.runFinish

theorem Storage.Keeps.runThresholds (h : σ.Keeps r.s.storage) : σ.Keeps (r.thresholds).1.s.storage := by
  unfold Run.thresholds
  dsimp only
  split
  · exact h.runReadSpan
  · exact h

theorem Storage.Keeps.runPlaneGroup {sp : Place} {th : List Nat} {g f : Nat} (h : σ.Keeps r.s.storage) :
    σ.Keeps (r.planeGroup sp th g f).1.s.storage := by
  unfold Run.planeGroup
  refine h.foldlRunFst fun _ _ h => ?_
  split
  · exact h
  · split <;> exact Storage.Keeps.ofFstRun ‹_› h.runRead

theorem Storage.Keeps.runToPlanes {sp dp : Place} (h : σ.Keeps r.s.storage) : σ.Keeps (r.toPlanes sp dp).storage := by
  unfold Run.toPlanes
  dsimp only
  refine .runFinish ?_
  refine h.runThresholds.foldlRunFst fun _ _ h => ?_
  split
  · exact h.runPlaneGroup
  · exact h.runPlaneGroup.rowLoop fun _ _ h => h.runWrite

theorem Storage.Keeps.runFromPlanes {sp dp : Place} (h : σ.Keeps r.s.storage) : σ.Keeps (r.fromPlanes sp dp).storage := by
  unfold Run.fromPlanes
  refine .runFinish ?_
  refine h.rowLoop fun _ _ h => ?_
  refine h.elemLoop fun _ _ h => ?_
  refine .runWrite ?_
  refine h.foldlRunFst fun _ _ h => ?_
  split <;> exact Storage.Keeps.ofFstRun ‹_› h.runRead

theorem Storage.Keeps.runBitPlanes {ck : CopyKind} {outward : Bool} (h : σ.Keeps r.s.storage) :
    σ.Keeps (r.bitPlanes ck outward).storage := by
  unfold Run.bitPlanes
  extract_lets b
  split
  next hp =>
  have h1 := Storage.Keeps.ofFstRun hp h.runPlaces
  split
  · extract_lets srcOk dstOk r1
    have h2 : σ.Keeps r1.s.storage := .iteRun h1 (.iteRun h1.runFail (.iteRun h1.runFail h1))
    exact .ite h2.runFinish (.ite h2.runToPlanes h2.runFromPlanes)
  · exact h1.runFinish

theorem Storage.Keeps.setRecord {core slot idx : Nat} {v : BitVec 128} (h : σ.Keeps s.storage) :
    σ.Keeps (s.setRecord core slot idx v).storage := h

theorem Storage.Keeps.runStreamSlot (h : σ.Keeps r.s.storage) : σ.Keeps (r.streamSlot).s.storage := by
  unfold Run.streamSlot
  dsimp only
  split
  · exact h
  · split
    · exact h
    · split
      · exact h.runFail
      · exact h

theorem Storage.Keeps.runStreamRecord {sp : Place} {i : Nat} (h : σ.Keeps r.s.storage) :
    σ.Keeps (r.streamRecord sp i).s.storage := by
  unfold Run.streamRecord
  dsimp only
  split
  · refine h.foldlRunFst fun _ _ h => ?_
    split <;> exact Storage.Keeps.ofFstRun ‹_› h.runRead
  · refine .runDoes ?_ fun _ h => ?_
    · refine h.foldlRunFst fun _ _ h => ?_
      split <;> exact Storage.Keeps.ofFstRun ‹_› h.runRead
    · split
      · exact h.runStreamSlot.setRecord
      · exact h.runStreamSlot

theorem Storage.Keeps.runStreams {ck : CopyKind} (h : σ.Keeps r.s.storage) : σ.Keeps (r.streams ck).storage := by
  unfold Run.streams
  dsimp only
  split
  · exact (Storage.Keeps.ofFstRun ‹_› h.runPlace).runFinish
  · split
    · split
      · exact ((Storage.Keeps.ofFstRun ‹_› h.runPlace).runFail).runFinish
      · refine .runFinish ?_
        split
        · exact ((Storage.Keeps.ofFstRun ‹_› h.runPlace).runDoes fun _ h => h.runStreamSlot).rowLoop fun _ _ h => h.runStreamRecord
        · exact (Storage.Keeps.ofFstRun ‹_› h.runPlace).runDoes fun _ h => h.runStreamSlot
    · split
      · exact ((Storage.Keeps.ofFstRun ‹_› h.runPlace).runFail).runFinish
      · refine .runFinish ?_
        split
        · exact ((Storage.Keeps.ofFstRun ‹_› h.runPlace).runDoes fun _ h => h.runStreamSlot).rowLoop fun _ _ h => h.runStreamRecord
        · exact (Storage.Keeps.ofFstRun ‹_› h.runPlace).runDoes fun _ h => h.runStreamSlot

theorem Storage.Keeps.copyRun {k : EngineCmd} (h : σ.Keeps s.storage) : σ.Keeps (copyRun s k).storage := by
  unfold Machine.copyRun
  split
  · exact h
  · split
    · exact h.runOf.runMoves
    · exact h.runOf.runIndexed
    · exact h.runOf.runIndexed
    · exact h.runOf.runReduces
    · exact h.runOf.runBitPlanes
    · exact h.runOf.runStreams
    · exact h.runOf.runHosts
    · exact h.runOf.runFills

theorem Storage.KeepsRes.copyStep {core : Nat} {p : CopyKind → Bool} (h : σ.Keeps s.storage) : σ.KeepsRes (s.copyStep core p) := by
  unfold Machine.State.copyStep
  refine .next ?_
  split
  · exact h
  · exact h.copyRun

/-! ### The lookup fabric -/

theorem Storage.Keeps.lkAnswer {x core : Nat} {cont : Word} {st d : Nat} (h : σ.Keeps s.storage) :
    σ.Keeps (s.lkAnswer x core cont st d).storage := h.answerCont.moved

theorem Storage.Keeps.grantSlot {x core slot : Nat} {cont : Word} (h : σ.Keeps s.storage) :
    σ.Keeps (s.grantSlot x core slot cont).storage := .lkAnswer h

theorem Storage.Keeps.serveClaim {x core slot : Nat} {cont : Word} (h : σ.Keeps s.storage) :
    σ.Keeps (s.serveClaim x core slot cont).storage := by
  unfold State.serveClaim
  split
  · exact h
  · split
    · exact h.grantSlot
    · exact h.lkAnswer

theorem Storage.Keeps.serveReleaseSlot {x core slot : Nat} {cont : Word} (h : σ.Keeps s.storage) :
    σ.Keeps (s.serveReleaseSlot x core slot cont).storage := by
  unfold State.serveReleaseSlot
  split
  · exact h
  · exact h.lkAnswer

theorem Storage.KeepsRes.execLkctx {pm : Pm} {sl : BitVec 2} {t0 t1 : Target} (h : σ.Keeps s.storage) :
    σ.KeepsRes (execLkctx pm sl t0 t1 s) := by
  unfold Machine.execLkctx
  refine .effectOp h fun _ _ _ _ _ h => ?_
  split
  · exact h.deliverNow
  · split
    · exact h.faultLane
    · split
      · exact h.faultLane
      · exact h.newAccess.updAccess

theorem Storage.Keeps.serveLk {core op : Nat} (h : σ.Keeps s.storage) : σ.Keeps (s.serveLk core op).storage := by
  unfold State.serveLk
  split
  · exact h
  · split
    · exact h
    · split
      · exact h.deliverAccess
      · split
        · exact h.deliverAccess.serveClaim
        · exact h.deliverAccess.serveReleaseSlot

theorem Storage.Keeps.reclaimSlot {x core slot : Nat} (h : σ.Keeps s.storage) : σ.Keeps (s.reclaimSlot x core slot).storage := by
  unfold State.reclaimSlot
  split
  · exact h
  · exact .updCtx h

theorem Storage.KeepsRes.execLkfSlotFree {core slot : Nat} (h : σ.Keeps s.storage) : σ.KeepsRes (execLkfSlotFree core slot s) := by
  unfold Machine.execLkfSlotFree
  dsimp only
  refine .next ?_
  split
  · split
    · exact h
    · split
      · exact .reclaimSlot h
      · exact .grantSlot h
  · split
    · split
      · exact .lkAnswer h
      · split
        · exact .reclaimSlot (.lkAnswer h)
        · exact .grantSlot (.lkAnswer h)
    · exact h

theorem Storage.KeepsRes.execClaimCycle (h : σ.Keeps s.storage) : σ.KeepsRes (execClaimCycle s) := by
  unfold Machine.execClaimCycle
  dsimp only
  refine .next ?_
  split
  · exact h
  · split
    · exact h
    · exact .lkAnswer h

theorem Storage.KeepsRes.execLkst {pm : Pm} {t0 t1 : Target} (h : σ.Keeps s.storage) : σ.KeepsRes (execLkst pm t0 t1 s) := by
  unfold Machine.execLkst
  dsimp only
  refine .effectOp h fun _ _ _ _ _ h => ?_
  split
  · exact h.deliverNow
  · split
    · exact h.faultLane
    · exact h.setRecord.deliverNow

theorem Storage.Keeps.runRecords (h : σ.Keeps r.s.storage) : σ.Keeps (r.records).1.s.storage := by
  unfold Run.records
  exact h.runGather fun _ _ h => h.runOnce fun _ h => h

theorem Storage.Keeps.runGroup {g : Nat} (h : σ.Keeps r.s.storage) :
    σ.Keeps (r.group g).s.storage := h.runReadSpan.runRecords.foldlRun fun _ _ h => h.runDoes fun _ h => h.wrN

theorem Storage.Keeps.lkrunRun {q : EngineCmd} (h : σ.Keeps s.storage) : σ.Keeps (lkrunRun s q).storage := by
  unfold Machine.lkrunRun
  dsimp only
  refine .ite h.runOf.runFail.runFinish ?_
  split
  · exact .runFinish (.iteRun h.runOf.runRecords.runFail h.runOf.runRecords)
  · exact .runFinish (h.runOf.runRecords.rowLoop fun _ _ h => h.runGroup)

/-! ### The troughs -/

theorem Storage.Keeps.setBuffer {b : TroughBuffer} (h : σ.Keeps s.storage) : σ.Keeps (s.setBuffer b).storage := h

theorem Storage.Keeps.setVector {k : EngineCmd} {b : BitVec 512} {v : Option (List Nat)} {t : Nat} (h : σ.Keeps s.storage) :
    σ.Keeps (s.setVector k b v t).storage := h.setBuffer

theorem Storage.Keeps.runSetVectors {b : BitVec 512} {v : List Nat} (h : σ.Keeps r.s.storage) :
    σ.Keeps (r.setVectors b v).s.storage := h.foldlRun fun _ _ h => h.runDoes fun _ h => h.setVector

theorem Storage.Keeps.runSpoil {b : BitVec 512} (h : σ.Keeps r.s.storage) : σ.Keeps (r.spoil b).s.storage := by
  unfold Run.spoil
  split
  · exact h.foldl fun _ _ h => h.setVector
  · exact h

theorem Storage.Keeps.runVector {b : BitVec 512} (h : σ.Keeps r.s.storage) : σ.Keeps (r.vector b).s.storage := by
  unfold Run.vector
  dsimp only
  split
  · exact h
  · split
    · exact (Storage.Keeps.ofFstRun ‹_› h.runPlace).runSpoil
    · split
      · exact ((Storage.Keeps.ofFstRun ‹_› h.runPlace).runFail).runSpoil
      · refine .runSpoil ?_
        refine .runSetVectors ?_
        refine (Storage.Keeps.ofFstRun ‹_› h.runPlace).runGather fun _ _ h => ?_
        split <;> exact Storage.Keeps.ofFstRun ‹_› h.runRead

theorem Storage.Keeps.tvecRun {k : EngineCmd} (h : σ.Keeps s.storage) : σ.Keeps (tvecRun s k).storage := h.runOf.runVector.runFinish

theorem Storage.Keeps.runVectors {l : List Nat} (h : σ.Keeps r.s.storage) : σ.Keeps (r.vectors l).1.s.storage := by
  unfold Run.vectors
  exact h.runGather fun _ _ h => h.runOnce fun _ h => h

theorem Storage.Keeps.runChecked {l : List Nat} (h : σ.Keeps r.s.storage) : σ.Keeps (r.checked l).1.s.storage := by
  unfold Run.checked
  dsimp only
  split
  · refine .iteRun (.runFail ?_) ?_ <;> split
    · exact h.runVectors.runVector.runVectors
    · exact h.runVectors
    · exact h.runVectors.runVector.runVectors
    · exact h.runVectors
  · dsimp only
    split
    · exact h.runVectors.runVector.runVectors
    · exact h.runVectors

theorem Storage.Keeps.pushObject {o : ObjRec} (h : σ.Keeps s.storage) : σ.Keeps (s.pushObject o).storage := h.drainBridge

theorem Storage.Keeps.runTroughRead {top : Nat} {o : ObjRec} {l : List Nat} {plane : Bool} (h : σ.Keeps r.s.storage) :
    σ.Keeps (r.troughRead top o l plane).s.storage := by
  unfold Run.troughRead
  split
  · exact h
  · split
    · exact h
    · exact h.chargeUnits.runMeet.runSense

theorem Storage.Keeps.runWeight {top : Nat} {o : ObjRec} {cur : Word} {i0 i1 : Nat} (h : σ.Keeps r.s.storage) :
    σ.Keeps (r.weight top o cur i0 i1).1.s.storage := by
  unfold Run.weight
  refine h.runOnce fun _ h => ?_
  split
  · exact Storage.Keeps.ofFstRun ‹_› h.runRecordNow
  · split
    · exact (Storage.Keeps.ofFstRun ‹_› h.runRecordNow).runOutside
    · split
      · exact ((Storage.Keeps.ofFstRun ‹_› h.runRecordNow).runResident).runTroughRead
      · exact (((Storage.Keeps.ofFstRun ‹_› h.runRecordNow).runResident).runTroughRead).runTroughRead

theorem Storage.Keeps.runIncoming {p : Place} {m : Nat} (h : σ.Keeps r.s.storage) : σ.Keeps (r.incoming p m).1.s.storage := by
  unfold Run.incoming
  refine h.runOnce fun _ h => ?_
  split
  · exact Storage.Keeps.ofFstRun ‹_› h.runTarget
  · exact (Storage.Keeps.ofFstRun ‹_› h.runTarget).runFetch
  · exact (Storage.Keeps.ofFstRun ‹_› h.runTarget).runReadBytes

theorem Storage.Keeps.runGemvRow {top : Nat} {o : ObjRec} {cur : Word} {d : Place} {vs : List (Nat × List Nat)} {m : Nat}
    (h : σ.Keeps r.s.storage) :
    σ.Keeps (r.gemvRow top o cur d vs m).1.s.storage := by
  unfold Run.gemvRow
  dsimp only
  refine .runWriteBy ?_
  split
  · exact .runIncoming (.runGather h fun _ _ h => .runWeight h)
  · exact .runGather h fun _ _ h => .runWeight h

theorem Storage.Keeps.gemvRun {scaled : Bool} {k : EngineCmd} (h : σ.Keeps s.storage) : σ.Keeps (gemvRun scaled s k).storage := by
  unfold Machine.gemvRun
  dsimp only
  split
  · exact (Storage.Keeps.ofFstRun ‹_› h.runOf.runRecord).runFinish
  · split
    · exact ((Storage.Keeps.ofFstRun ‹_› h.runOf.runRecord).runFail).runFinish
    · split
      · exact (Storage.Keeps.ofFstRun ‹_› ((Storage.Keeps.ofFstRun ‹_› h.runOf.runRecord).runPlace)).runFinish
      · refine .runFinish ?_
        refine .countLoop ?_ fun _ _ h => h.runGemvRow
        refine .runDoes ?_ fun _ h => h.pushObject
        refine .runChecked ?_
        split
        · exact (Storage.Keeps.ofFstRun ‹_› ((Storage.Keeps.ofFstRun ‹_› h.runOf.runRecord).runPlace)).runFail
        · exact Storage.Keeps.ofFstRun ‹_› ((Storage.Keeps.ofFstRun ‹_› h.runOf.runRecord).runPlace)

theorem Storage.Keeps.runReduceRow {sp d : Place} {m : Nat} (h : σ.Keeps r.s.storage) :
    σ.Keeps (r.reduceRow sp d m).1.s.storage := by
  unfold Run.reduceRow
  dsimp only
  refine .runWriteBy ?_
  split
  · exact (h.runGather fun _ _ h => h.runRead).runIncoming
  · exact h.runGather fun _ _ h => h.runRead

theorem Storage.Keeps.tredRun {k : EngineCmd} (h : σ.Keeps s.storage) : σ.Keeps (tredRun s k).storage := by
  unfold Machine.tredRun
  dsimp only
  have h1 := fun {e u l e' u' l'} => ((h.runOf (k := k)).runPlace (e := e) (u := u) (ranges := l)).runPlace (e := e') (u := u') (ranges := l')
  split
  · refine .runFinish (.countLoop ?_ fun _ _ h => h.runReduceRow)
    exact .iteRun h1 (.iteRun h1.runFail (.iteRun h1.runFail h1))
  · exact h1.runFinish

/-! ### Steps of engines -/

theorem Storage.Keeps.engineRun {k : EngineCmd} (h : σ.Keeps s.storage) : σ.Keeps (engineRun s k).storage := by
  unfold Machine.engineRun
  split
  · exact h.lkrunRun
  · exact h.tvecRun
  · exact h.gemvRun
  · exact h.gemvRun
  · exact h.tredRun
  · split
    · exact h.copyRun
    · exact h.mxuRun

theorem Storage.Keeps.engineStep {id n : Nat} (h : σ.Keeps s.storage) : σ.Keeps (s.engineStep id n).storage := by
  unfold State.engineStep
  split
  · exact h
  · split
    · exact h.engineRun
    · exact h

theorem Storage.KeepsRes.execMemAccessPerformed {k : Nat} (h : σ.Keeps s.storage) : σ.KeepsRes (execMemAccessPerformed k s) := by
  unfold Machine.execMemAccessPerformed
  refine .next ?_
  split
  · exact h
  · split
    · exact h
    · exact h.submit
    · exact h.submit
    · exact h.submit
    · exact h.submit
    · exact h.performIf

end Sys2Proof.Machine
end

section
/-! SUPPORT. Every step keeps the storage invariants: arrivals, the object table's master, words on lanes, pre-emption, power and
the device's registers. -/

namespace Sys2Proof.Machine

variable {σ : Storage} {s : State} {r : Run}

/-! ### Ordered arrivals and the object table -/

theorem Storage.Keeps.arrivalDone {a : RedArrival} {refused : Option Nat} (h : σ.Keeps s.storage) :
    σ.Keeps (s.arrivalDone a refused).storage := by
  unfold State.arrivalDone
  split
  · split
    · exact h
    · exact h.faultAccess
    · refine .deliverAccess ?_
      split
      · split
        · exact h.acquire
        · exact h
      · exact h
  · split
    · exact h.sendOut
    · exact h
    · exact h

theorem Storage.Keeps.setTarget {t : RedTarget} (h : σ.Keeps s.storage) : σ.Keeps (s.setTarget t).storage := h

theorem Storage.Keeps.freeTarget {t : RedTarget} (h : σ.Keeps s.storage) : σ.Keeps (s.freeTarget t).storage := .updCtx h

theorem Storage.Keeps.applyFrom {t : RedTarget} {last : Bool} {x : BitVec 32} {n : Nat} (h : σ.Keeps s.storage) :
    σ.Keeps (State.applyFrom t last x n s).storage := by
  induction n generalizing t last x s with
  | zero => exact h
  | succ n ih =>
    unfold State.applyFrom
    refine .ite h.wrN.freeTarget ?_
    split
    · exact h.wrN.setTarget
    · exact ih h.wrN

theorem Storage.Keeps.serveArrival {k : Nat} {a : RedArrival} (h : σ.Keeps s.storage) : σ.Keeps (s.serveArrival k a).storage := by
  unfold State.serveArrival
  dsimp only
  split
  · exact .arrivalDone (.moved h)
  · split
    · exact .homeView h
    · split
      · refine .arrivalDone ?_
        refine .moved ?_
        split <;> exact .homeView h
      · split
        · split
          · split <;> exact .homeView h
          · refine .arrivalDone ?_
            refine .setTarget ?_
            refine .moved ?_
            split <;> exact .homeView h
        · refine .arrivalDone ?_
          refine .applyFrom ?_
          refine .moved ?_
          split <;> exact .homeView h

theorem Storage.Keeps.tryArrival {k : Nat} {a : RedArrival} (h : σ.Keeps s.storage) : σ.Keeps (s.tryArrival k a).storage := by
  unfold State.tryArrival
  split
  · exact h
  · refine .serveArrival ?_
    split
    · exact h
    · exact h.chargeUnits

theorem Storage.KeepsRes.execOrderedArrival {k : Nat} (h : σ.Keeps s.storage) : σ.KeepsRes (execOrderedArrival k s) := by
  unfold Machine.execOrderedArrival
  refine .next ?_
  split
  · split
    · exact h
    · exact h.tryArrival
  · exact h

theorem Storage.KeepsRes.execOrderedArrivalUnstall {k : Nat} (h : σ.Keeps s.storage) :
    σ.KeepsRes (execOrderedArrivalUnstall k s) := by
  unfold Machine.execOrderedArrivalUnstall
  refine .next ?_
  split
  · split
    · exact h.tryArrival
    · exact h
  · exact h

theorem Storage.Keeps.writeOtpool {v : Word} (h : σ.Keeps s.storage) : σ.Keeps (s.writeOtpool v).storage := by
  unfold State.writeOtpool
  dsimp only
  split <;> exact h

theorem Storage.KeepsRes.execOtpoolWrite {v : Word} (h : σ.Keeps s.storage) :
    σ.KeepsRes (execOtpoolWrite v s) := .next h.writeOtpool

theorem Storage.Keeps.writeOtcmd {v : Word} (h : σ.Keeps s.storage) : σ.Keeps (s.writeOtcmd v).storage := by
  unfold State.writeOtcmd
  dsimp only
  split
  · exact h
  · split <;> exact h

theorem Storage.Keeps.otDone (h : σ.Keeps s.storage) : σ.Keeps (s.otDone).storage := h

theorem Storage.Keeps.startShoot {c : OtCmd} (h : σ.Keeps s.storage) : σ.Keeps (s.startShoot c).storage := h

theorem Storage.Keeps.startPublish {c : OtCmd} (h : σ.Keeps s.storage) : σ.Keeps (s.startPublish c).storage :=
  h.mapAccesses fun a => by split <;> rfl

theorem Storage.Keeps.broadcast {op : Nat} (h : σ.Keeps s.storage) : σ.Keeps (s.broadcast op).storage := by
  unfold State.broadcast
  split
  · exact h
  · split
    · exact h
    · split
      · split
        · exact h.startPublish
        · exact h.startShoot
      · split
        · exact h.otDone
        · exact h

theorem Storage.KeepsRes.execShoot (h : σ.Keeps s.storage) : σ.KeepsRes (execShoot s) := .next h.broadcast

theorem Storage.KeepsRes.execShootres (h : σ.Keeps s.storage) : σ.KeepsRes (execShootres s) := .next h.broadcast

theorem Storage.KeepsRes.execPublish (h : σ.Keeps s.storage) : σ.KeepsRes (execPublish s) := .next h.broadcast

theorem Storage.Keeps.ackOwn {core : Nat} (h : σ.Keeps s.storage) :
    σ.Keeps (s.ackOwn core).storage := .foldl h fun _ _ h => .faultAccess h

theorem Storage.KeepsRes.execShootAck {core : Nat} (h : σ.Keeps s.storage) : σ.KeepsRes (Machine.execShootAck core s) := by
  have ht := h.ackOwn (core := core)
  unfold Machine.execShootAck
  refine .next ?_
  generalize s.ackOwn core = t at ht ⊢
  split
  · exact ht
  · dsimp only
    exact .ite ht (.ite ht (.filterL1 (.drainBridge (.writeBack ht))))

theorem Storage.Keeps.writeResans {v : Word} (h : σ.Keeps s.storage) : σ.Keeps (s.writeResans v).storage := by
  unfold State.writeResans
  dsimp only
  split
  · exact h
  · split
    · exact h
    · exact .moved (.answerCont h)

theorem Storage.KeepsRes.execAnswer {v : Word} (h : σ.Keeps s.storage) : σ.KeepsRes (execAnswer v s) := .next h.writeResans

/-! ### Words on lanes -/

theorem Storage.KeepsRes.crossOp {pm : Pm} {t0 t1 : Target} {f : List (Nat × Cell) → Nat → Cell → Word × Word}
    (h : σ.Keeps s.storage) :
    σ.KeepsRes (crossOp pm t0 t1 f s) := .laneOp h

/-! ### Pre-emption -/

theorem Storage.KeepsRes.execPreemption {ctx core : Nat} (h : σ.Keeps s.storage) :
    σ.KeepsRes (Machine.execPreemption ctx core s) := by
  unfold Machine.execPreemption
  refine .next ?_
  split
  · exact h
  · exact .ite h (by exact h)

theorem Storage.Keeps.releaseCore {x core : Nat} (h : σ.Keeps s.storage) : σ.Keeps (s.releaseCore x core).storage := h

theorem Storage.Keeps.carve {n a : Nat} {t : State} (h : σ.Keeps s.storage) (e : s.carve n = some (t, a)) : σ.Keeps t.storage := by
  unfold State.carve at e
  dsimp only at e
  split at e
  · cases e
  · split at e
    · cases e
    · cases e
      exact h

theorem Storage.KeepsOpt.writeSection {c : Ctx} {z : Section} {w : SavedBytes} {spare : Nat} (h : σ.Keeps s.storage) :
    σ.KeepsOpt (s.writeSection c z w spare) := by
  intro t ht
  unfold State.writeSection at ht
  dsimp only at ht
  obtain ⟨⟨u, a, n⟩, hp, rfl⟩ := Option.map_eq_some_iff.mp ht
  have hu : σ.Keeps u.storage := by
    split at hp
    · cases hp
      exact h
    · obtain ⟨⟨v, b⟩, hc, hv⟩ := Option.map_eq_some_iff.mp hp
      cases hv
      exact .carve (.ite h h.uncarve) hc
  exact hu.wrN.updCtx

theorem Storage.Keeps.dumpBegin {c : Ctx} {core : Nat} {z : Section} (h : σ.Keeps s.storage) :
    σ.Keeps (s.dumpBegin c core z).storage := by
  -- unfolded before it is applied: applied, its size would be evaluated where the two sides are compared
  generalize hf : @State.dumpBegin = f
  delta State.dumpBegin at hf
  subst hf
  dsimp only
  split
  · exact h
  · next hc => exact (h.carve hc).updCtx

theorem Storage.Keeps.dump {c : Ctx} {core : Nat} {z : Section} (h : σ.Keeps s.storage) : σ.Keeps (s.dump c core z).storage := by
  unfold State.dump
  dsimp only
  split
  · exact h
  · next hw =>
    have hu := Storage.KeepsOpt.writeSection h _ hw
    exact .rebind (.promote (.updCtx (.repartition hu)))

theorem Storage.Keeps.dumpSlot {c : Ctx} {z : Section} {k : LkSlot} (h : σ.Keeps s.storage) :
    σ.Keeps (s.dumpSlot c z k).storage := by
  unfold State.dumpSlot
  dsimp only
  split
  · exact h
  · next hw =>
    have hu := Storage.KeepsOpt.writeSection h _ hw
    exact hu

theorem Storage.Keeps.dumpMore {c : Ctx} {z : Section} {more : Bool × Bool} (h : σ.Keeps s.storage) :
    σ.Keeps (s.dumpMore c z more).storage := by
  unfold State.dumpMore
  dsimp only
  split
  · exact h
  · next hw => exact (Storage.KeepsOpt.writeSection h _ hw).repartition.updCtx

theorem Storage.KeepsRes.execPreemptDump {ctx core : Nat} (h : σ.Keeps s.storage) :
    σ.KeepsRes (Machine.execPreemptDump ctx core s) := by
  unfold Machine.execPreemptDump
  refine .next ?_
  split
  · exact h
  · split
    · exact h
    · refine .ite (.ite h.updCtx h) (.ite (.ite h (.ite h.dumpBegin h.dump)) (.ite ?_ (.ite (Storage.KeepsOpt.getD (.writeSection h) h) ?_)))
      · split
        · exact h
        · exact h.dumpSlot
      · dsimp only
        split
        · exact .ite h.dumpMore h
        · exact h.dumpSlot

theorem Storage.KeepsOpt.recarve {c : Ctx} {z : Section} (h : σ.Keeps s.storage) : σ.KeepsOpt (s.recarve c z) := by
  unfold Machine.State.recarve
  dsimp only
  split
  · exact .none _
  · split
    · exact .none _
    · refine .some ?_
      split
      · split
        · exact h.updCtx.repartition
        · exact h.updCtx.repartition.clearMem.wrN
      · refine .wrN ?_
        refine .clearMem ?_
        split
        · exact h.updCtx.repartition
        · exact h.updCtx.repartition.clearMem.wrN

theorem Storage.Keeps.wantSlot {c : Ctx} {core slot : Nat} (h : σ.Keeps s.storage) : σ.Keeps (s.wantSlot c core slot).storage := by
  unfold State.wantSlot
  split
  · exact h
  · split
    · exact h.reclaimSlot
    · exact h

theorem Storage.Keeps.putEntry {e : FoldEntry} (h : σ.Keeps s.storage) : σ.Keeps (s.putEntry e).storage := by
  unfold State.putEntry
  split
  · exact (Storage.KeepsOpt.setRoom h _ ‹_›).foldAdd
  · exact h.pinOrHold

theorem Storage.Keeps.putFlock {f : Flock} (h : σ.Keeps s.storage) : σ.Keeps (s.putFlock f).storage := by
  unfold State.putFlock
  split <;> exact h

theorem Storage.Keeps.presentCaptured {e : FoldEntry} (h : σ.Keeps s.storage) : σ.Keeps (s.presentCaptured e).storage := by
  unfold State.presentCaptured
  split
  · exact h.updCtx
  · split
    · exact (((Storage.KeepsOpt.present h _ ‹_›).promote).rebind).moved
    · exact h.pinOrHold

theorem Storage.Keeps.representAll {x core : Nat} {tokens : List (Nat × Token)} (h : σ.Keeps s.storage) :
    σ.Keeps (s.representAll x core tokens).storage := by
  unfold State.representAll
  split
  · exact h
  · refine h.updCtx.foldl fun _ _ h => ?_
    split
    · exact h.presentCaptured
    · exact h.represent

theorem Storage.Keeps.reinstate {c : Ctx} {z : Section} (h : σ.Keeps s.storage) :
    σ.Keeps (s.reinstate c z).storage :=
  .moved (.rebind (.promote (.updCtx (.representAll (.foldl (.foldl (.countKilled (.foldl h fun _ _ h => .applyNotice h))
    fun _ _ h => .putEntry h) fun _ _ h => .putFlock h)))))

theorem Storage.Keeps.lift {c : Ctx} {z : Section} (h : σ.Keeps s.storage) : σ.Keeps (s.lift c z).storage := by
  unfold State.lift
  extract_lets s1 s2
  have h2 : σ.Keeps s2.storage := .foldl h fun _ _ h => h.applyNotice
  split
  extract_lets s3 s4 mine
  have h4 : σ.Keeps s4.storage := .rebind (.promote (.uncarve (.representAll (.countKilled h2))))
  exact .moved (.stir h4)

theorem Storage.KeepsRes.execRestore {ctx core : Nat} (h : σ.Keeps s.storage) : σ.KeepsRes (Machine.execRestore ctx core s) := by
  have hw {c : Ctx} {z : Section} {t : State} (h : σ.Keeps t.storage) :
      σ.Keeps (z.slots.foldl (fun s k => s.wantSlot c core k.1) t).storage := h.foldl fun _ _ h => h.wantSlot
  unfold Machine.execRestore
  refine .next ?_
  split
  · exact h
  · split
    · exact h
    · refine .ite (.ite (Storage.KeepsOpt.getD ?_ h) h) (.ite (.ite h.reinstate (hw h)) (.ite (.ite h.lift (hw h)) h))
      intro t ht
      obtain ⟨u, hu, rfl⟩ := Option.map_eq_some_iff.mp ht
      exact hw (Storage.KeepsOpt.recarve h u hu)

/-! ### Power -/

theorem Storage.KeepsRes.execClockGate {core : Nat} (h : σ.Keeps s.storage) : σ.KeepsRes (execClockGate core s) := by
  unfold Machine.execClockGate
  dsimp only
  refine .next ?_
  split
  · exact h.updCore
  · exact h

theorem Storage.KeepsRes.execPowerGate {core : Nat} (h : σ.Keeps s.storage) : σ.KeepsRes (Machine.execPowerGate core s) := by
  unfold Machine.execPowerGate
  refine .next (.ite ?_ h)
  exact .filterL1 h.writeBack.updCore

theorem Storage.KeepsRes.execPowerWake {core : Nat} (h : σ.Keeps s.storage) : σ.KeepsRes (execPowerWake core s) := by
  unfold Machine.execPowerWake
  dsimp only
  refine .next ?_
  split
  · exact h.stir
  · exact h

theorem Storage.KeepsRes.execWakeComplete {core : Nat} (h : σ.Keeps s.storage) : σ.KeepsRes (execWakeComplete core s) := by
  unfold Machine.execWakeComplete
  dsimp only
  refine .next ?_
  split
  · exact h.updCore.foldl fun _ _ h => h.enqueue
  · exact h

theorem Storage.Keeps.writeShedctl {core : Nat} {v : Word} (h : σ.Keeps s.storage) :
    σ.Keeps (s.writeShedctl core v).storage := h.updCore

theorem Storage.KeepsRes.execShedctlWrite {core : Nat} {v : Word} (h : σ.Keeps s.storage) :
    σ.KeepsRes (execShedctlWrite core v s) := .next h.writeShedctl

theorem Storage.KeepsRes.execShedReconfiguration {core : Nat} (h : σ.Keeps s.storage) :
    σ.KeepsRes (execShedReconfiguration core s) := by
  unfold Machine.execShedReconfiguration
  refine .next ?_
  split
  · exact h.updCore
  · exact h

theorem Storage.KeepsRes.execCurrentAlarm {die : Nat} (h : σ.Keeps s.storage) : σ.KeepsRes (execCurrentAlarm die s) := .next h

theorem Storage.KeepsRes.execRailAlarmClear {die : Nat} (h : σ.Keeps s.storage) : σ.KeepsRes (execRailAlarmClear die s) := .next h

theorem Storage.KeepsRes.execPowerArbiter {dieW stackW : Nat} {budgets : List Nat} (h : σ.Keeps s.storage) :
    σ.KeepsRes (execPowerArbiter dieW stackW budgets s) := by
  unfold Machine.execPowerArbiter
  refine .next ?_
  split <;> exact h

theorem Storage.KeepsRes.execBudgetWindow {stack : Nat} (h : σ.Keeps s.storage) : σ.KeepsRes (execBudgetWindow stack s) := .next h

theorem Storage.KeepsRes.execRefreshTemperature {stack layer temp : Nat} (h : σ.Keeps s.storage) :
    σ.KeepsRes (execRefreshTemperature stack layer temp s) := .next h

theorem Storage.KeepsRes.execLastingListClear {addr : Nat} (h : σ.Keeps s.storage) :
    σ.KeepsRes (execLastingListClear addr s) := .next h

/-! ### The device's registers -/

theorem Storage.Keeps.writeOtstat {v : Word} (h : σ.Keeps s.storage) : σ.Keeps (s.writeOtstat v).storage := h

theorem Storage.Keeps.writeSavepool {v : Word} (h : σ.Keeps s.storage) : σ.Keeps (s.writeSavepool v).storage := by
  unfold State.writeSavepool
  split <;> exact h

theorem Storage.Keeps.writeFwcmd {v : Word} (h : σ.Keeps s.storage) : σ.Keeps (s.writeFwcmd v).storage := by
  unfold State.writeFwcmd
  split
  · exact h
  · split <;> exact h

theorem Storage.Keeps.writeFw {k : Nat} {v : Word} (h : σ.Keeps s.storage) : σ.Keeps (s.writeFw k v).storage := by
  unfold State.writeFw
  split
  · exact h
  · split
    · exact h
    · split
      · exact h
      · split
        · exact h.writeFwcmd
        · exact h

theorem Storage.Keeps.writeLink {k : Nat} {v : Word} (h : σ.Keeps s.storage) : σ.Keeps (s.writeLink k v).storage := h

theorem Storage.Keeps.writePkg {k : Nat} {v : Word} (h : σ.Keeps s.storage) : σ.Keeps (s.writePkg k v).storage := by
  unfold State.writePkg
  split
  · exact h
  · split <;> exact h

theorem Storage.Keeps.writeOt {k : Nat} {v : Word} (h : σ.Keeps s.storage) : σ.Keeps (s.writeOt k v).storage := by
  unfold State.writeOt
  split
  · exact h.writeOtpool
  · split
    · exact h.writeOtcmd
    · split
      · exact h.writeOtstat
      · exact h.writeResans

theorem Storage.Keeps.writeReg {a : Nat} {v : Word} (h : σ.Keeps s.storage) : σ.Keeps (s.writeReg a v).storage := by
  unfold State.writeReg
  split
  · exact h.writeOt
  · exact h.writeShedctl
  · exact h.writeSavepool
  · exact h.writePinext
  · split
    · exact h.writeLink
    · exact h.writePkg
    · exact h.writeFw
    · exact h

theorem Storage.KeepsRes.execRegisterWrite {addr : Nat} {v : Word} (h : σ.Keeps s.storage) :
    σ.KeepsRes (execRegisterWrite addr v s) := .next h.writeReg

theorem Storage.KeepsRes.execTopo (h : σ.Keeps s.storage) : σ.KeepsRes (execTopo s) := by
  unfold Machine.execTopo
  dsimp only
  refine .next ?_
  split
  · exact h
  · split
    · exact h
    · split <;> exact h

theorem Storage.KeepsRes.execVerify (h : σ.Keeps s.storage) : σ.KeepsRes (execVerify s) := by
  unfold Machine.execVerify
  refine .next ?_
  split
  · exact h
  · split
    · exact h
    · split <;> exact h

theorem Storage.KeepsRes.execActivate (h : σ.Keeps s.storage) : σ.KeepsRes (execActivate s) := by
  unfold Machine.execActivate
  refine .next ?_
  split
  · exact h
  · split
    · exact h
    · split <;> exact h

theorem Storage.KeepsRes.execAttest (h : σ.Keeps s.storage) : σ.KeepsRes (execAttest s) := by
  unfold Machine.execAttest
  refine .next ?_
  split
  · exact h
  · exact .wrN h

theorem Storage.Keeps.bringUp (h : σ.Keeps s.storage) : σ.Keeps (s.bringUp).storage := by
  unfold State.bringUp
  dsimp only
  split
  · exact h
  · split <;> exact h

theorem Storage.KeepsRes.execReset (h : σ.Keeps s.storage) : σ.KeepsRes (execReset s) := by
  unfold Machine.execReset
  refine .next ?_
  split
  · exact h.bringUp
  · split <;> exact h

end Sys2Proof.Machine
end

section
/-! SUPPORT. Every step keeps the storage invariants: links between packages, the host's accesses, gangs and sends. -/

namespace Sys2Proof.Machine

variable {σ : Storage} {s : State}

/-! ### Links -/

theorem Storage.Keeps.updPort {k : Nat} {f : Port → Port} (h : σ.Keeps s.storage) : σ.Keeps (s.updPort k f).storage := h

theorem Storage.Keeps.ackFrames {port : Nat} {ack : BitVec 16} (h : σ.Keeps s.storage) :
    σ.Keeps (s.ackFrames port ack).storage := h.updPort

theorem Storage.Keeps.receive {port : Nat} {m : LinkMsg} (h : σ.Keeps s.storage) : σ.Keeps (s.receive port m).storage := by
  unfold State.receive
  split
  · split <;> exact h.updPort
  · exact h
  · split
    · split
      · exact h.updPort
      · exact h.sendOut
    · exact h.updPort

theorem Storage.KeepsRes.execLinkFrame {port : Nat} {f : LinkFrame} (h : σ.Keeps s.storage) :
    σ.KeepsRes (execLinkFrame port f s) := by
  unfold Machine.execLinkFrame
  dsimp only
  refine .next ?_
  split
  · exact h
  · split
    · exact h.updPort
    · split
      · exact h.ackFrames
      · exact h.ackFrames.updPort.foldl fun _ _ h => h.receive

theorem Storage.Keeps.frameUp {port n : Nat} {ms : List LinkMsg} (h : σ.Keeps s.storage) :
    σ.Keeps (s.frameUp port n ms).storage := h.updPort

theorem Storage.Keeps.transmit {port n : Nat} (h : σ.Keeps s.storage) : σ.Keeps (s.transmit port n).storage := by
  unfold State.transmit
  dsimp only
  split
  · split
    · split
      · exact h
      · exact .frameUp h
    · split
      · exact h
      · exact .frameUp h
  · split
    · split
      · exact h
      · exact .frameUp h
    · split
      · exact h
      · exact .frameUp h

theorem Storage.Keeps.resend {port : Nat} (h : σ.Keeps s.storage) : σ.Keeps (s.resend port).storage := by
  unfold State.resend
  split
  · exact h.updPort
  · exact h

theorem Storage.KeepsRes.execResendTimeout {port : Nat} (h : σ.Keeps s.storage) : σ.KeepsRes (execResendTimeout port s) := by
  unfold Machine.execResendTimeout
  refine .next ?_
  split
  · exact h.resend
  · exact h

theorem Storage.Keeps.loseRequest {id p : Nat} (h : σ.Keeps s.storage) : σ.Keeps (s.loseRequest id p).storage := by
  unfold State.loseRequest
  split
  · exact .faultAccess h
  · split
    · split
      · exact .faultStore h
      · exact h
    · split <;> exact h
  · exact h

theorem Storage.Keeps.gangLost {c : Ctx} {p code : Nat} (h : σ.Keeps s.storage) :
    σ.Keeps (s.gangLost c p code).storage := h.captureContext

theorem Storage.Keeps.hostAcked {k : Nat} (h : σ.Keeps s.storage) : σ.Keeps (s.hostAcked k).storage := by
  unfold State.hostAcked
  split
  · exact h
  · split
    · exact h
    · exact .wrAll h

theorem Storage.Keeps.loseWindow {port : Nat} (h : σ.Keeps s.storage) : σ.Keeps (s.loseWindow port).storage := h

theorem Storage.Keeps.loseToward {port : Nat} {lost : List LinkMsg} (h : σ.Keeps s.storage) :
    σ.Keeps (s.loseToward port lost).storage := by
  unfold State.loseToward
  refine .foldl (.foldl h fun _ _ h => .loseRequest h) fun _ _ h => ?_
  split
  · exact .gangLost h
  · exact h

theorem Storage.KeepsRes.execPortDown {port : Nat} (h : σ.Keeps s.storage) : σ.KeepsRes (Machine.execPortDown port s) := by
  unfold Machine.execPortDown
  refine .next ?_
  extract_lets p due lost s1 back
  have h1 : σ.Keeps s1.storage := h
  refine .ite h (.ite ?_ h1.loseToward)
  refine .foldl (.loseWindow ?_) fun _ _ h => h.toHost
  exact h1

theorem Storage.Keeps.discardDown (h : σ.Keeps s.storage) : σ.Keeps (s.discardDown).storage := by
  unfold State.discardDown
  split
  · exact h.loseToward
  · exact h

theorem Storage.KeepsRes.execPortRetrained {port : Nat} (h : σ.Keeps s.storage) :
    σ.KeepsRes (Machine.execPortRetrained port s) := by
  unfold Machine.execPortRetrained
  exact .next (.ite (by exact h) h)

theorem Storage.Keeps.gangReceived {x : Nat} (h : σ.Keeps s.storage) : σ.Keeps (s.gangReceived x).storage := h.updCtx

theorem Storage.Keeps.deliverToken {m : LinkMsg} (h : σ.Keeps s.storage) : σ.Keeps (s.deliverToken m).storage := by
  unfold State.deliverToken
  split
  · split <;> exact h
  · exact h

theorem Storage.Keeps.tellEntered {g : Nat} {r : UnitReq} (h : σ.Keeps s.storage) : σ.Keeps (s.tellEntered g r).storage := by
  unfold State.tellEntered
  split
  · exact h.sendOut
  · exact h

theorem Storage.Keeps.deliverRequest {m : LinkMsg} (h : σ.Keeps s.storage) : σ.Keeps (s.deliverRequest m).storage := by
  unfold State.deliverRequest
  dsimp only
  split
  · split
    · exact h.tellEntered
    · exact h.tellEntered.gangReceived.enterQueue
  · exact h

theorem Storage.Keeps.takeMsg {port : Nat} {p : LinkMsg → Bool} {m : LinkMsg} {t : State} (h : σ.Keeps s.storage)
    (e : s.takeMsg port p = some (m, t)) : σ.Keeps t.storage := by
  unfold State.takeMsg at e
  dsimp only at e
  split at e
  · cases e
  · obtain ⟨m', -, hm⟩ := Option.map_eq_some_iff.mp e
    cases hm
    exact h

theorem Storage.Keeps.deliver {port cls : Nat} (h : σ.Keeps s.storage) : σ.Keeps (s.deliver port cls).storage := by
  unfold State.deliver
  dsimp only
  split
  · exact h
  · next ht =>
    have h1 := h.takeMsg ht
    split
    · exact .ite h1.deliverRequest h
    · exact h1.deliverToken

theorem Storage.Keeps.serveReq {die : Nat} {q : MemReq} (h : σ.Keeps s.storage) : σ.Keeps (s.serveReq die q).1.storage := by
  unfold State.serveReq
  dsimp only
  refine .iteFst h (.iteFst h (.iteFst (.foldl h fun _ _ h => .ite h.listLasting h) ?_))
  split
  · exact .foldl h fun _ _ h => h.homeView
  · exact .foldl h fun _ _ h => .ite h.homeWrite h
  · exact .atomicHome h
  · exact h

theorem Storage.KeepsRes.execMemreq {port : Nat} (h : σ.Keeps s.storage) : σ.KeepsRes (Machine.execMemreq port s) := by
  unfold Machine.execMemreq
  refine .next ?_
  split
  · next q t ht =>
    have h1 := h.takeMsg ht
    extract_lets s1
    have h2 : σ.Keeps s1.storage := by
      unfold s1
      split
      · exact h1
      · exact h1.chargeUnits
    split
    next hr =>
    have h3 := Storage.Keeps.ofFst hr h2.serveReq
    split
    · exact h3
    · exact h3.sendOut
  · exact h

theorem Storage.Keeps.remoteLoaded {a : Access} {p : Nat} {bs : List Byte} (h : σ.Keeps s.storage) :
    σ.Keeps (s.remoteLoaded a p bs).storage := by
  unfold State.remoteLoaded
  dsimp only
  split
  · refine .updAccess ?_
    split
    · exact h
    · exact h.remoteGot
  · refine .deliverAccess ?_
    split
    · exact h
    · exact h.remoteGot
  · refine .sendRemote ?_
    refine .updAccess ?_
    split
    · exact h
    · exact h.remoteGot
  · refine .deliverAccess ?_
    split
    · exact h
    · exact h.remoteGot

theorem Storage.Keeps.accessAnswered {a : Access} {r : MemRsp} (h : σ.Keeps s.storage) :
    σ.Keeps (s.accessAnswered a r).storage := by
  unfold State.accessAnswered
  extract_lets p
  split
  · exact h.faultAccess
  · exact h.faultAccess
  · split
    · exact h.remoteLoaded
    · split
      next u bs hg =>
      have hu := Storage.Keeps.ofFst hg h.remoteGot
      extract_lets b
      exact (hu.updAccess fun _ _ => rfl).performStore
    · exact h.deliverAccess
    · split
      · exact .deliverAccess (.ite h.acquire h)
      · exact h.deliverAccess

theorem Storage.KeepsRes.execMemrsp {port : Nat} (h : σ.Keeps s.storage) : σ.KeepsRes (Machine.execMemrsp port s) := by
  unfold Machine.execMemrsp
  refine .next ?_
  split
  · next r t ht =>
    have h1 := h.takeMsg ht
    extract_lets post u
    have hu : σ.Keeps u.storage := h1
    split
    · exact hu.accessAnswered
    · exact hu.faultStore
    · exact hu
  · exact h

/-! ### The host's accesses and the time -/

theorem Storage.Keeps.stirIfGated {c : Nat} (h : σ.Keeps s.storage) : σ.Keeps (s.stirIfGated c).storage := by
  unfold State.stirIfGated
  split
  · exact h
  · exact h.stir

theorem Storage.Keeps.wakeFor {l : List Nat} (h : σ.Keeps s.storage) :
    σ.Keeps (s.wakeFor l).1.storage := h.foldl fun _ _ h => h.stirIfGated

theorem Storage.Keeps.hostRead {l : List Nat} (h : σ.Keeps s.storage) :
    σ.Keeps (s.hostRead l).1.storage := h.foldl fun _ _ h => h.drainBridge

theorem Storage.Keeps.hostWrite {l : List Nat} {bs : List Byte} (h : σ.Keeps s.storage) :
    σ.Keeps (s.hostWrite l bs).storage := h.foldl fun _ _ h => h.drainBridge.wr

theorem Storage.Keeps.hostMeets {p : HostPkt} {l : List Nat} (h : σ.Keeps s.storage) : σ.Keeps (s.hostMeets p l).1.storage := by
  unfold State.hostMeets
  dsimp only
  split
  · exact h
  · split
    · exact .updCtx h
    · exact h
    · split
      · exact .listLasting h
      · exact .retire h
    · exact .listLasting h

theorem Storage.KeepsRes.execWread {port : Nat} (h : σ.Keeps s.storage) : σ.KeepsRes (Machine.execWread port s) := by
  unfold Machine.execWread
  refine .next ?_
  split
  · exact h
  · extract_lets n answer
    have ha {t : State} {st : Nat} {body : List Byte} (h : σ.Keeps t.storage) : σ.Keeps (answer t st body).storage := h.popInbox.toHost
    clear_value answer
    split
    · exact h
    · exact ha h
    · exact ha h
    · refine .ite (ha h) (.ite h.wakeFor ?_)
      split
      · next hm => exact ha (.ofFst hm h.wakeFor.chargeUnits.hostMeets)
      · next hm => exact ha (Storage.Keeps.ofFst hm h.wakeFor.chargeUnits.hostMeets).hostRead

theorem Storage.KeepsRes.execWwrite {port : Nat} (h : σ.Keeps s.storage) : σ.KeepsRes (Machine.execWwrite port s) := by
  unfold Machine.execWwrite
  refine .next ?_
  split
  · exact h
  · extract_lets data answer
    have ha {t : State} {st : Nat} (h : σ.Keeps t.storage) : σ.Keeps (answer t st).storage := h.popInbox.toHost
    clear_value answer
    split
    · exact h
    · exact ha h
    · exact ha h
    · exact .ite (ha h.writeReg) (.ite h.wakeFor (ha h.wakeFor.chargeUnits.hostWrite))

theorem Storage.Keeps.timeSend {port : Nat} (h : σ.Keeps s.storage) : σ.Keeps (s.timeSend port).storage := by
  unfold State.timeSend
  dsimp only
  split
  · exact h
  · exact h.frameUp

theorem Storage.KeepsRes.execTimeExchange {port : Nat} (h : σ.Keeps s.storage) : σ.KeepsRes (Machine.execTimeExchange port s) := by
  unfold Machine.execTimeExchange
  refine .next ?_
  split
  · next ht =>
    have h1 := h.takeMsg ht
    exact .ite h1 (.ite h1 h1)
  · exact h

theorem Storage.KeepsRes.execSyncLoss (h : σ.Keeps s.storage) : σ.KeepsRes (execSyncLoss s) := by
  unfold Machine.execSyncLoss
  refine .next ?_
  split <;> exact h

/-! ### Gangs -/

theorem Storage.Keeps.updGang {x : Nat} {f : Gang → Gang} (h : σ.Keeps s.storage) : σ.Keeps (s.updGang x f).storage := h.updCtx

theorem Storage.Keeps.gangTick {c : Ctx} {p tick : Nat} (h : σ.Keeps s.storage) :
    σ.Keeps (s.gangTick c p tick).storage := h.captureContext

theorem Storage.Keeps.presentEarly {x : Nat} (h : σ.Keeps s.storage) : σ.Keeps (s.presentEarly x).storage := by
  unfold State.presentEarly
  split
  · exact h
  · refine h.updCtx.foldl fun _ _ h => ?_
    split
    · exact h
    · exact h.represent

theorem Storage.Keeps.missQueued {k : Nat} {q : Queued} (h : σ.Keeps s.storage) : σ.Keeps (s.missQueued k q).storage := by
  unfold State.missQueued
  extract_lets g tick others s1
  have h1 : σ.Keeps s1.storage := h.foldl fun _ _ h => h.sendOut
  clear_value s1
  exact .failLaunch h1

theorem Storage.Keeps.missRefused {k : Nat} (h : σ.Keeps s.storage) : σ.Keeps (s.missRefused k).storage := by
  unfold State.missRefused
  split
  · split
    · exact .foldl h fun _ _ h => .sendOut h
    · exact h
  · exact h

theorem Storage.KeepsRes.execGangStart {ctx : Nat} (h : σ.Keeps s.storage) : σ.KeepsRes (execGangStart ctx s) := by
  unfold Machine.execGangStart
  refine .next ?_
  split
  · exact h.missRefused
  · split
    · split
      · split
        · exact h.missQueued
        · exact h
      · exact h
    · split
      · exact h
      · split
        · exact h
        · split
          · exact h
          · split
            · exact h.tellOthers.gangTick
            · exact h.injectEntries.updGang.presentEarly

theorem Storage.Keeps.closeRound {x : Nat} (h : σ.Keeps s.storage) : σ.Keeps (s.closeRound x).storage := by
  unfold State.closeRound
  dsimp only
  split
  · exact h
  · split
    · exact h
    · split
      · exact h.tellOthers.updGang
      · exact h.updGang

theorem Storage.Keeps.leadGang {c : Ctx} {g : Gang} (h : σ.Keeps s.storage) : σ.Keeps (s.leadGang c g).storage := by
  unfold State.leadGang
  split
  · exact ((h.foldl fun _ _ h => h.tellOthers).foldl fun _ _ h => h.tellOthers).updGang
  · exact (((((h.foldl fun _ _ h => h.tellOthers).foldl fun _ _ h => h.tellOthers).updGang).tellOthers).updGang).closeRound

theorem Storage.Keeps.reportGang {c : Ctx} {g : Gang} (h : σ.Keeps s.storage) :
    σ.Keeps (s.reportGang c g).storage := ((h.foldl fun _ _ h => h.sendOut).foldl fun _ _ h => h.sendOut).updGang

theorem Storage.Keeps.gangReport {x : Nat} (h : σ.Keeps s.storage) : σ.Keeps (s.gangReport x).storage := by
  unfold State.gangReport
  split
  · exact h
  · split
    · exact h
    · split
      · exact h
      · split
        · exact h.leadGang
        · exact h.reportGang

theorem Storage.Keeps.noteCores {g p : Nat} {l : List Nat} (h : σ.Keeps s.storage) : σ.Keeps (s.noteCores g p l).storage := h

theorem Storage.Keeps.controlQueued {g : Nat} {m : GangMsg} (h : σ.Keeps s.storage) : σ.Keeps (s.controlQueued g m).storage := by
  unfold State.controlQueued
  split
  · exact .noteCores h
  · split
    · exact h
    · split
      · exact h
      · split
        · exact .failLaunch h
        · exact .failLaunch h
        · exact h

theorem Storage.Keeps.controlLive {c : Ctx} {g : Gang} {m : GangMsg} (h : σ.Keeps s.storage) :
    σ.Keeps (s.controlLive c g m).storage := by
  unfold State.controlLive
  split
  · split
    · exact h.updCtx
    · exact h.gangLost
  · split
    · exact h.updCtx
    · exact h.gangTick
  · exact h.updGang
  · exact h.updGang
  · exact h.updGang
  · exact h.updGang
  · split
    · exact h.updGang.closeRound
    · exact h.sendOut
  · exact h.updGang
  · exact h
  · exact h.takeAck
  · exact h.withdraw
  · exact h.updGang
  · exact h.sendOut
  · exact h
  · exact h.sendOut
  · exact h.updGang
  · exact h
  · exact h

theorem Storage.KeepsRes.execGangControl {port : Nat} (h : σ.Keeps s.storage) : σ.KeepsRes (Machine.execGangControl port s) := by
  unfold Machine.execGangControl
  refine .next ?_
  split
  · next ht =>
    have h1 := h.takeMsg ht
    split
    · exact h1.controlQueued
    · split
      · exact h1.controlLive
      · exact h1
  · exact h

/-! ### Sends -/

theorem Storage.KeepsRes.sendOp {i : Instr} {pm : Pm} (h : σ.Keeps s.storage) : σ.KeepsRes (sendOp i pm s) := by
  unfold Machine.sendOp
  refine .effectOp h fun _ _ _ _ _ h => ?_
  split
  · exact h
  · split
    · exact h.completeLane
    · exact h.faultLane

theorem Storage.KeepsRes.execSteer {tm : Tm} {slot : BitVec 3} {blk : BitVec 12} {rel : Option Scope} {void : Bool}
    (h : σ.Keeps s.storage) :
    σ.KeepsRes (execSteer tm slot blk rel void s) := .sendOp h

theorem Storage.KeepsRes.execCont {pm : Pm} {tm : Tm} {slot : BitVec 3} {blk : BitVec 12} {x : BitVec 4} (h : σ.Keeps s.storage) :
    σ.KeepsRes (execCont pm tm slot blk x s) := .laneOp h

theorem Storage.KeepsRes.execDkill {pm : Pm} {t0 t1 : Target} (h : σ.Keeps s.storage) :
    σ.KeepsRes (execDkill pm t0 t1 s) := .valueOp h

end Sys2Proof.Machine
end

section
/-! SUPPORT. Every step keeps the storage invariants: every instruction, every happening, and what follows at once from one. -/

namespace Sys2Proof.Machine

variable {σ : Storage} {s : State}

/-! ### What follows at once from a happening -/

theorem Storage.Keeps.endFirings (h : σ.Keeps s.storage) : σ.Keeps (s.endFirings).storage := h.foldl fun _ _ h => h.tryEnd

theorem Storage.Keeps.wakeWaiters {n : Nat} (h : σ.Keeps s.storage) : σ.Keeps (State.wakeWaiters n s).storage := by
  induction n generalizing s with
  | zero => exact h
  | succ n ih => exact ih h.waiterCheck

theorem Storage.Keeps.refill (h : σ.Keeps s.storage) : σ.Keeps (s.refill).storage := h.foldl fun _ _ h => h.promote.rebind

theorem Storage.Keeps.flowAll (h : σ.Keeps s.storage) : σ.Keeps (s.flowAll).storage := h.foldl fun _ _ h => h.flowHeld

theorem Storage.Keeps.settle (h : σ.Keeps s.storage) :
    σ.Keeps (s.settle).storage := h.discardDown.endFirings.wakeWaiters.flushOutbox.representFreed.flowAll.refill

/-! ### Words -/

theorem Storage.KeepsRes.execGetx {pm : Pm} {t0 : Target} {x : BitVec 6} (h : σ.Keeps s.storage) :
    σ.KeepsRes (Machine.execGetx pm t0 x s) := by
  unfold Machine.execGetx
  have hl {f} : σ.KeepsRes (Machine.laneOp pm t0 .none f s) := .laneOp h
  split
  · next t ht =>
    have h1 := hl t ht
    refine .next ?_
    split
    · exact h1.draw
    · exact h1
  · exact .fault _ _
  · exact .refused _ _

theorem Storage.KeepsRes.execFatom {pm : Pm} {op : FatomOp} {t0 : Target} {ord : Order} {sc : Scope} (h : σ.Keeps s.storage) :
    σ.KeepsRes (execFatom pm op t0 ord sc s) := by
  unfold Machine.execFatom
  refine .effectOp h fun _ _ _ _ _ h => ?_
  split
  · exact h.deliverNow
  · exact h.newAccess.seek

/-- A word of a lane class: one effect on each lane, a shared operation of its class, or an operation of its own. -/
theorem Storage.KeepsRes.exec {i : Instr} (h : σ.Keeps s.storage) : σ.KeepsRes (exec i s) := by
  cases i <;> unfold Machine.exec
  case ldf | ldfv | ldk | gets | cvtsr | bcast => exact .laneOp h
  case getx => exact .execGetx h
  case movi | movhi | nop | add | addSat | sub | subSat | addi | mul | mulh | madd | div | rem | min | max | abs | neg | and |
      or | xor | andn | not | shl | shr | sar | rotl | shli | shri | sari | rotli | clz | ctz | popc | brev | bswap | bfx | bfi |
      sext | zext | cmp | cmpi | sel | pand | por | pxor | pnot | pack2 | unpk | fadd | fsub | fmul | ffma | fmin | fmax | fabs |
      fneg | fcmp | fclass | fdiv | fsqrt | frcpe | frsqe | fexp2 | flog2 | fsin | fcos | ftanh | fround | cvt | hadd2 | hmul2 |
      hfma2 | hmax2 | dot4 => exact .valueOp h
  case send | sendx | sendv | enter | entermAnd | entermOr | next | leave => exact .sendOp h
  case spawn | curs | cursi | ld | st | atom | cas | hqry | arrive | waitb | hresFetch | hresRelease => exact .cursorOp h
  case shfl | shfx | shup | shdn | ballot | vany | vall | scan | redl => exact .crossOp h
  case ldsp | stsp | lda | sta => exact .regionOp h
  case fatom => exact .execFatom h
  case mma | mmas | wld | aclr | acvt | aadd | cpy | cpyg | cpys | cpyr | cpybsToplanes | cpybsFromplanes | cpyt | cpyhTohost |
      cpyhFromhost | cpyf | lkrun | tvec | tgemv | tgemvs | tred => exact .engineOp h
  case nextGrant | enterGrant | entermGrant | explicitGrant | contTokenGrant => exact .next h.serveGrant
  case leaveServe => exact .next (h.serveRelease fun _ _ _ h => .leaveReq h)
  case closeServe => exact .next (h.serveRelease fun _ _ _ h => .closeReq h)
  case dkillServe => exact .next (h.serveRelease fun _ _ _ h => .dkillReq h)
  case spillRepresent => exact .next h.representSpilled
  case wldExec => exact .headIf h fun _ => h.wldRun
  case mmaExec => exact .headIf h fun _ => h.mmaRun
  case mmasExec => exact .headIf h fun _ => h.mmaRun
  case aclrExec => exact .headIf h fun _ => h.aclrRun
  case acvtExec => exact .headIf h fun _ => h.acvtRun
  case aaddExec => exact .headIf h fun _ => h.aaddRun
  case lkrunExec => exact .headIf h fun _ => h.lkrunRun
  case tvecExec => exact .headIf h fun _ => h.tvecRun
  case tgemvExec => exact .headIf h fun _ => h.gemvRun
  case tgemvsExec => exact .headIf h fun _ => h.gemvRun
  case tredExec => exact .headIf h fun _ => h.tredRun
  case mxuCompletion | copyCompletion | lkrunCompletion | troughCompletion => exact .next h.complete
  case cpyExec | cpygExec | cpysExec | cpyrExec | cpybsExec | cpytExec | cpyhExec | cpyfExec => exact .copyStep h
  case lkfClaim | lkfRelease => exact .next h.serveLk
  case steer => exact .execSteer h
  case cont => exact .execCont h
  case dkill => exact .execDkill h
  case redo => exact .execRedo h
  case fence => exact .execFence h
  case pref => exact .execPref h
  case lkctx => exact .execLkctx h
  case lkst => exact .execLkst h
  case trap => exact .execTrap h
  case brk => exact .execBrk h
  case rdsr => exact .execRdsr h
  case wrsr => exact .execWrsr h
  case resume => exact .execResume h
  case retry => exact .execRetry h
  case abort => exact .execAbort h
  case emx => exact .execEmx h
  case launch => exact .execLaunch h
  case launchAdmission => exact .execLaunchAdmission h
  case tokenArrival => exact .execTokenArrival h
  case penTimerExpiry => exact .execPenTimerExpiry h
  case flockRelease => exact .execFlockRelease h
  case priorityAging => exact .execPriorityAging h
  case memAccessPerformed => exact .execMemAccessPerformed h
  case releaseTokenDelivery => exact .execReleaseTokenDelivery h
  case spawnSubmission => exact .execSpawnSubmission h
  case spawnAnswer => exact .execSpawnAnswer h
  case killNotice => exact .execKillNotice h
  case killNoticeAck => exact .execKillNoticeAck h
  case eldestQuery => exact .execEldestQuery h
  case eldestAnswer => exact .execEldestAnswer h
  case quiescenceDetect => exact .execQuiescenceDetect h
  case droverForward => exact .execDroverForward h
  case launchComplete => exact .execLaunchComplete h
  case orderedArrival => exact .execOrderedArrival h
  case orderedArrivalUnstall => exact .execOrderedArrivalUnstall h
  case barrierArrival => exact .execBarrierArrival h
  case barrierRegistration => exact .execBarrierRegistration h
  case otpoolWrite => exact .execOtpoolWrite h
  case shoot => exact .execShoot h
  case publish => exact .execPublish h
  case shootres => exact .execShootres h
  case shootAck => exact .execShootAck h
  case walk => exact .execWalk h
  case answer => exact .execAnswer h
  case lkfSlotFree => exact .execLkfSlotFree h
  case claimCycle => exact .execClaimCycle h
  case handlerDispatch => exact .execHandlerDispatch h
  case responseTakesEffect => exact .execResponseTakesEffect h
  case drainComplete => exact .execDrainComplete h
  case preemption => exact .execPreemption h
  case preemptDump => exact .execPreemptDump h
  case restore => exact .execRestore h
  case pinfoldSlotFree => exact .execPinfoldSlotFree h
  case pinextWrite => exact .execPinextWrite h
  case clockGate => exact .execClockGate h
  case powerGate => exact .execPowerGate h
  case powerWake => exact .execPowerWake h
  case wakeComplete => exact .execWakeComplete h
  case shedctlWrite => exact .execShedctlWrite h
  case shedReconfiguration => exact .execShedReconfiguration h
  case coreCool => exact .execCoreCool h
  case linkFrame => exact .execLinkFrame h
  case resendTimeout => exact .execResendTimeout h
  case portDown => exact .execPortDown h
  case wread => exact .execWread h
  case wwrite => exact .execWwrite h
  case memreq => exact .execMemreq h
  case memrsp => exact .execMemrsp h
  case topo => exact .execTopo h
  case verify => exact .execVerify h
  case activate => exact .execActivate h
  case attest => exact .execAttest h
  case registerWrite => exact .execRegisterWrite h
  case gangStart => exact .execGangStart h
  case gangControl => exact .execGangControl h
  case timeExchange => exact .execTimeExchange h
  case syncLoss => exact .execSyncLoss h
  case powerArbiter => exact .execPowerArbiter h
  case budgetWindow => exact .execBudgetWindow h
  case currentAlarm => exact .execCurrentAlarm h
  case refreshTemperature => exact .execRefreshTemperature h
  case reset => exact .execReset h
  case portRetrained => exact .execPortRetrained h
  case railAlarmClear => exact .execRailAlarmClear h
  case lastingListClear => exact .execLastingListClear h

theorem Storage.Keeps.afterIssue {fl : Flock} (h : σ.Keeps s.storage) : σ.Keeps (s.afterIssue fl).storage :=
  .moved (.updCore (.updFlock h))

theorem Storage.KeepsRes.issueWord {fl : Flock} {j : Nat} (h : σ.Keeps s.storage) : σ.KeepsRes (s.issueWord fl j) := by
  unfold State.issueWord
  split
  · exact .fault _ _
  · split
    · exact .refused _ _
    · next i _ =>
      have hx : σ.KeepsRes (Machine.exec i { s with focus := some { flock := fl.id, idx := j } }) := .exec h
      split
      · next ht => exact .next (Storage.Keeps.afterIssue (hx _ ht))
      · exact .fault _ _
      · exact .refused _ _

theorem Storage.KeepsRes.issue {core pipe : Nat} (h : σ.Keeps s.storage) : σ.KeepsRes (s.issue core pipe) := by
  unfold Machine.State.issue
  split
  · exact .next h
  · exact .issueWord h

/-! ### Happenings -/

theorem Storage.Keeps.elapse {n : Nat} (h : σ.Keeps s.storage) : σ.Keeps (s.elapse n).storage := h.stampLanded.resetAges

theorem Storage.Keeps.evict {core addr : Nat} (h : σ.Keeps s.storage) : σ.Keeps (s.evict core addr).storage :=
  .filterL1 h.writeBack

theorem Storage.Keeps.bridgeOne {src dst : Nat} (h : σ.Keeps s.storage) : σ.Keeps (s.bridgeOne src dst).storage := by
  unfold State.bridgeOne
  split
  · exact h
  · split
    · exact h
    · exact .wrAll h

theorem Storage.Keeps.unitError {x : Nat} (h : σ.Keeps s.storage) : σ.Keeps (s.unitError x).storage := h.captureContext

theorem Storage.Keeps.powerOn : σ.Keeps s.powerOn.storage :=
  ⟨fun _ => ⟨⟨by rintro _ ⟨⟩, .nil⟩, by rintro _ ⟨⟩, .nil⟩, fun _ => rfl⟩

theorem Storage.KeepsRes.happen {e : Happening} (h : σ.Keeps s.storage) : σ.KeepsRes (s.happen e) := by
  cases e with
  | issue core pipe => exact .issue h
  | event i =>
    unfold State.happen
    dsimp only
    split
    · exact .next h
    · exact .exec h
  | elapse n => exact .next h.elapse
  | engine id n => exact .next h.engineStep
  | engineDone id => exact .next h.completeAny
  | hop k => exact .next h.hop
  | evict core addr => exact .next h.evict
  | accessByte k i => exact .next h.performByte
  | bridge src dst => exact .next h.bridgeOne
  | memoryError addr lasting => exact .next h
  | l1Error core addr => exact .next h
  | unitError ctx => exact .next h.unitError
  | hostAck k => exact .next h.hostAcked
  | hostStore addr b => exact .next (.ite h.wr h)
  | portAck port ack => exact .next h.ackFrames
  | portNak port => exact .next h.resend
  | transmit port n => exact .next h.transmit
  | deliver port cls => exact .next h.deliver
  | timeSend port => exact .next h.timeSend
  | gangReport ctx => exact .next h.gangReport
  | powerOn => exact .next .powerOn

theorem Storage.KeepsRes.take {e : Happening} (h : σ.Keeps s.storage) : σ.KeepsRes (s.take e) := by
  have he : σ.KeepsRes (s.happen e) := .happen h
  unfold State.take
  split
  · next ht => exact .next (he _ ht).settle
  · exact .fault _ _
  · exact .refused _ _

end Sys2Proof.Machine
end

section
/-! CERTIFICATE. O9: every step keeps access numbers distinct and bounded, and one sector of an address in a core. -/

namespace Sys2Proof.Machine

/-- A step is one happening, of the agenda or chosen, on a state whose storage is the same. -/
theorem Storage.KeepsRes.step {σ : Storage} {s : State} (h : σ.Keeps s.storage) : σ.KeepsRes (step s) := by
  unfold Machine.step
  split <;> exact .take h

/-- Settles O9: `Storage.Keeps` holds along every operation that a step is made of. -/
theorem stepKeepsNumbers : Obligations.StepKeepsNumbers := by
  intro s t hs ht
  obtain ⟨hnumbers, -⟩ := Storage.KeepsRes.step (.refl s.storage) t ht
  exact t.numbered_iff.mpr (hnumbers (s.numbered_iff.mp hs))

end Sys2Proof.Machine
end

section
/-! SUPPORT. Deliveries (R26–R31): what a target takes, what `complete` leaves of a lane, and what a latch holds after some deliveries. -/

namespace Sys2Proof.Machine

/-! ### What a target takes -/

@[simp] theorem Lane.deliver_none (j : Nat) (v : Option Val) (ln : Lane) : ln.deliver j v .none = ln := rfl

@[simp] theorem Lane.deliver_latch (j : Nat) (v : Option Val) (y : Latch) (i : BitVec 6) (ln : Lane) :
    ln.deliver j v (.latch y i) = { ln with cells := ln.cells.modify i.toNat (Cell.deliver y j v) } := rfl

@[simp] theorem Lane.deliver_reg_value (j : Nat) (v : Val) (x : BitVec 6) (ln : Lane) :
    ln.deliver j (some v) (.reg x) = { ln with regs := ln.regs ++ [{ x := x.toNat, idx := j, val := v }] } := rfl

@[simp] theorem Lane.deliver_reg_noValue (j : Nat) (x : BitVec 6) (ln : Lane) : ln.deliver j none (.reg x) = ln := rfl

/-- The cell of an instruction that has executed. -/
def Cell.executed (perf : Bool) (r0 r1 : Val) (k : Cell) : Cell :=
  { k with issued := true, done := true, perf := perf, r0 := if perf then r0 else Val.zero, r1 := if perf then r1 else Val.zero }

theorem modify_eq_set_of_getElem? {α : Type} {l : List α} {i : Nat} {x : α} (h : l[i]? = some x) (f : α → α) :
    l.modify i f = l.set i (f x) := by
  refine List.ext_getElem? fun n => ?_
  rw [List.getElem?_modify, List.getElem?_set]
  by_cases hn : i = n
  · subst hn
    obtain ⟨hlt, rfl⟩ := List.getElem?_eq_some_iff.mp h
    simp [hlt]
  · simp [hn]

/-- An instruction executes and a later one is delivered to: its cell, then the other's. -/
theorem modify_modify_of_lt {l : List Cell} {j i : Nat} {k c : Cell} (hk : l[j]? = some k) (hc : l[i]? = some c) (h : j < i)
    (f g : Cell → Cell) : (l.modify j f).modify i g = (l.set j (f k)).set i (g c) := by
  have hi : (l.set j (f k))[i]? = some c := by rw [List.getElem?_set_ne h.ne, hc]
  rw [modify_eq_set_of_getElem? hk, modify_eq_set_of_getElem? hi]

/-! ### What a latch holds -/

/-- A latch as deliveries see it: how many it still awaits, the highest producer so far and its value. -/
structure LatchState (α : Type) where
  wait : Nat
  src  : Nat
  held : α

/-- One delivery from instruction `n` to a latch that keeps `f` of a value (R29). -/
def LatchState.receive {α : Type} (f : Val → α) (x : LatchState α) (d : Nat × Option Val) : LatchState α :=
  match d.2 with
  | none => { x with wait := x.wait - 1 }
  | some v => if x.src ≤ d.1 then { wait := x.wait - 1, src := d.1 + 1, held := f v } else { x with wait := x.wait - 1 }

def Cell.latchA (c : Cell) : LatchState Val := ⟨c.waitA, c.srcA, c.a⟩
def Cell.latchB (c : Cell) : LatchState Val := ⟨c.waitB, c.srcB, c.b⟩
def Cell.latchC (c : Cell) : LatchState Val := ⟨c.waitC, c.srcC, c.c⟩
def Cell.latchP (c : Cell) : LatchState Bool := ⟨c.waitP, c.srcP, c.p⟩

theorem Cell.latchA_deliver (c : Cell) (d : Nat × Option Val) : (c.deliver .a d.1 d.2).latchA = c.latchA.receive id d := by
  obtain ⟨n, _ | v⟩ := d
  · rfl
  · by_cases h : c.srcA ≤ n <;> simp [deliver, LatchState.receive, latchA, h]

theorem Cell.latchB_deliver (c : Cell) (d : Nat × Option Val) : (c.deliver .b d.1 d.2).latchB = c.latchB.receive id d := by
  obtain ⟨n, _ | v⟩ := d
  · rfl
  · by_cases h : c.srcB ≤ n <;> simp [deliver, LatchState.receive, latchB, h]

theorem Cell.latchC_deliver (c : Cell) (d : Nat × Option Val) : (c.deliver .c d.1 d.2).latchC = c.latchC.receive id d := by
  obtain ⟨n, _ | v⟩ := d
  · rfl
  · by_cases h : c.srcC ≤ n <;> simp [deliver, LatchState.receive, latchC, h]

theorem Cell.latchP_deliver (c : Cell) (d : Nat × Option Val) :
    (c.deliver .p d.1 d.2).latchP = c.latchP.receive (fun v => v.bits.getLsbD 0) d := by
  obtain ⟨n, _ | v⟩ := d
  · rfl
  · by_cases h : c.srcP ≤ n <;> simp [deliver, LatchState.receive, latchP, h]

section
variable {α : Type} {f : Val → α}

theorem LatchState.wait_foldl (l : List (Nat × Option Val)) (x : LatchState α) : (l.foldl (receive f) x).wait = x.wait - l.length := by
  induction l generalizing x with
  | nil => rfl
  | cons d r ih =>
    have hd : (x.receive f d).wait = x.wait - 1 := by
      unfold receive
      split
      · rfl
      · split <;> rfl
    rw [List.foldl_cons, ih, hd, List.length_cons]
    omega

/-- Without a value nothing is held anew. -/
theorem LatchState.held_foldl_of_none {l : List (Nat × Option Val)} (h : ∀ d ∈ l, d.2 = none) (x : LatchState α) :
    (l.foldl (receive f) x).held = x.held := by
  induction l generalizing x with
  | nil => rfl
  | cons d r ih =>
    rw [List.foldl_cons, ih fun e he => h e (List.mem_cons_of_mem d he)]
    simp [receive, h d]

/-- The latch keeps what it held, every producer being lower, or takes the value of a producer that none exceeds. -/
theorem LatchState.held_foldl (l : List (Nat × Option Val)) (x : LatchState α) :
    ((l.foldl (receive f) x).held = x.held ∧ ∀ n v, (n, some v) ∈ l → n < x.src) ∨
      ∃ n v, (n, some v) ∈ l ∧ (l.foldl (receive f) x).held = f v ∧ x.src ≤ n ∧ ∀ m w, (m, some w) ∈ l → m ≤ n := by
  induction l generalizing x with
  | nil => exact .inl ⟨rfl, by simp⟩
  | cons d r ih =>
    obtain ⟨n, _ | v⟩ := d
    · simpa [receive] using ih { x with wait := x.wait - 1 }
    · by_cases hn : x.src ≤ n
      · have hx : x.receive f (n, some v) = { wait := x.wait - 1, src := n + 1, held := f v } := by simp [receive, hn]
        rw [List.foldl_cons, hx]
        right
        rcases ih { wait := x.wait - 1, src := n + 1, held := f v } with ⟨hh, hlow⟩ | ⟨m, w, hm, hh, hge, hmax⟩
        · refine ⟨n, v, List.mem_cons_self, hh, hn, fun m w hm => ?_⟩
          rcases List.mem_cons.mp hm with h | h
          · cases h; exact le_rfl
          · exact Nat.le_of_lt_succ (hlow m w h)
        · dsimp only at hge
          refine ⟨m, w, List.mem_cons_of_mem _ hm, hh, by omega, fun p u hp => ?_⟩
          rcases List.mem_cons.mp hp with h | h
          · cases h; omega
          · exact hmax p u h
      · have hx : x.receive f (n, some v) = { x with wait := x.wait - 1 } := by simp [receive, hn]
        rw [List.foldl_cons, hx]
        rcases ih { x with wait := x.wait - 1 } with ⟨hh, hlow⟩ | ⟨m, w, hm, hh, hge, hmax⟩
        · refine .inl ⟨hh, fun m w hm => ?_⟩
          rcases List.mem_cons.mp hm with h | h
          · cases h; exact Nat.lt_of_not_le hn
          · exact hlow m w h
        · dsimp only at hge
          refine .inr ⟨m, w, List.mem_cons_of_mem _ hm, hh, hge, fun p u hp => ?_⟩
          rcases List.mem_cons.mp hp with h | h
          · cases h; omega
          · exact hmax p u h

/-- Of producers with numbers of their own the highest that delivers a value is held (R29). -/
theorem LatchState.held_foldl_highest {l : List (Nat × Option Val)} (hl : (l.map Prod.fst).Nodup) {n : Nat} {v : Val}
    (hv : (n, some v) ∈ l) (hmax : ∀ m w, (m, some w) ∈ l → m ≤ n) {x : LatchState α} (hx : x.src = 0) :
    (l.foldl (receive f) x).held = f v := by
  rcases LatchState.held_foldl (f := f) l x with ⟨-, hlow⟩ | ⟨m, w, hm, hh, -, hmax'⟩
  · have := hlow n v hv
    omega
  · obtain rfl : m = n := le_antisymm (hmax m w hm) (hmax' n v hv)
    have he := List.inj_on_of_nodup_map hl hv hm rfl
    cases he
    exact hh
end

/-- Deliveries to a cell as deliveries to its latch. -/
theorem Cell.latch_foldl {α : Type} {f : Val → α} {y : Latch} {view : Cell → LatchState α}
    (h : ∀ c d, view (Cell.deliver y d.1 d.2 c) = (view c).receive f d) (l : List (Nat × Option Val)) (c : Cell) :
    view (l.foldl (fun c d => Cell.deliver y d.1 d.2 c) c) = l.foldl (LatchState.receive f) (view c) := by
  induction l generalizing c with
  | nil => rfl
  | cons d r ih => rw [List.foldl_cons, List.foldl_cons, ih, h]

end Sys2Proof.Machine
end

section
/-! CERTIFICATE. O15: results reach their targets. -/

namespace Sys2Proof.Machine

/-- Settles O15: `complete` by the rule of each target, and a latch by its deliveries in any order. -/
theorem resultsReachTargets : Obligations.ResultsReachTargets := by
  unfold Obligations.ResultsReachTargets
  refine ⟨fun ln j k r0 r1 x i c y hk hc hj => ?_, fun l hl => ?_⟩
  · refine ⟨⟨rfl, ?_, rfl, ?_⟩, rfl, rfl, ?_⟩
    all_goals exact modify_modify_of_lt hk hc hj _ _
  · have ha := Cell.latch_foldl Cell.latchA_deliver l { waitA := l.length }
    have hb := Cell.latch_foldl Cell.latchB_deliver l { waitB := l.length }
    have hc := Cell.latch_foldl Cell.latchC_deliver l { waitC := l.length }
    have hp := Cell.latch_foldl Cell.latchP_deliver l { waitP := l.length }
    have wait {α : Type} {f : Val → α} {x y : LatchState α} (h : x = l.foldl (LatchState.receive f) y) (hy : y.wait = l.length) :
        x.wait = 0 := by rw [h, LatchState.wait_foldl, hy, Nat.sub_self]
    refine ⟨⟨wait ha rfl, wait hb rfl, wait hc rfl, wait hp rfl⟩, fun n v hv hmax => ?_, fun hnone => ?_⟩
    · have held {α : Type} {f : Val → α} {x y : LatchState α} (h : x = l.foldl (LatchState.receive f) y) (hy : y.src = 0) :
          x.held = f v := by rw [h, LatchState.held_foldl_highest hl hv hmax hy]
      exact ⟨held ha rfl, held hb rfl, held hc rfl, held hp rfl⟩
    · have held {α : Type} {f : Val → α} {x y : LatchState α} (h : x = l.foldl (LatchState.receive f) y) : x.held = y.held := by
        rw [h, LatchState.held_foldl_of_none hnone]
      exact ⟨held ha, held hb, held hc, held hp⟩

end Sys2Proof.Machine
end

section
/-! SUPPORT. What a read of a lane register finds (R30, R463), where a core stands in a pasture, and a flock after one of its words. -/

namespace Sys2Proof.Machine

/-! ### Lane registers -/

theorem regBelow_append (x j : Nat) (l : List RegWrite) (w : RegWrite) :
    regBelow x j (l ++ [w]) = if w.x = x && w.idx < j then
      (match regBelow x j l with
        | none => some w
        | some b => if b.idx ≤ w.idx then some w else some b) else regBelow x j l := by
  rw [regBelow, List.foldl_append]
  rfl

/-- No instruction below `j` wrote the register. -/
theorem regBelow_eq_none {x j : Nat} {l : List RegWrite} : regBelow x j l = none ↔ ∀ w ∈ l, w.x = x → j ≤ w.idx := by
  induction l using List.reverseRecOn with
  | nil => simp [regBelow]
  | append_singleton l w ih =>
    rw [regBelow_append]
    by_cases hw : w.x = x ∧ w.idx < j
    · have hne : ¬∀ v ∈ l ++ [w], v.x = x → j ≤ v.idx := fun h => absurd (h w (by simp) hw.1) (by omega)
      simp only [hw.1, hw.2, decide_true, Bool.and_true, if_true, hne, iff_false]
      split
      · simp
      · split <;> simp
    · rw [if_neg (by simpa using hw), ih]
      have hl : w.x = x → j ≤ w.idx := fun h => Nat.le_of_not_lt fun hlt => hw ⟨h, hlt⟩
      simp only [List.mem_append, List.mem_singleton]
      exact ⟨fun h v hv => hv.elim (h v) fun e => e ▸ hl, fun h v hv => h v (.inl hv)⟩

/-- The write that is found is one of the register below `j`, and none of those is of a higher instruction. -/
theorem regBelow_eq_some {x j : Nat} {l : List RegWrite} {b : RegWrite} (h : regBelow x j l = some b) :
    b ∈ l ∧ b.x = x ∧ b.idx < j ∧ ∀ w ∈ l, w.x = x → w.idx < j → w.idx ≤ b.idx := by
  induction l using List.reverseRecOn generalizing b with
  | nil => cases h
  | append_singleton l w ih =>
    rw [regBelow_append] at h
    simp only [List.mem_append, List.mem_singleton]
    by_cases hw : w.x = x ∧ w.idx < j
    · rw [if_pos (by simpa using hw)] at h
      cases hb : regBelow x j l with
      | none =>
        rw [hb] at h
        cases h
        refine ⟨.inr rfl, hw.1, hw.2, fun v hv hx hj => ?_⟩
        rcases hv with hv | rfl
        · have := regBelow_eq_none.mp hb v hv hx
          omega
        · exact le_rfl
      | some c =>
        obtain ⟨hc, hcx, hcj, hmax⟩ := ih hb
        rw [hb] at h
        dsimp only at h
        split at h
        · cases h
          refine ⟨.inr rfl, hw.1, hw.2, fun v hv hx hj => ?_⟩
          rcases hv with hv | rfl
          · exact (hmax v hv hx hj).trans ‹_›
          · exact le_rfl
        · cases h
          refine ⟨.inl hc, hcx, hcj, fun v hv hx hj => ?_⟩
          rcases hv with hv | rfl
          · exact hmax v hv hx hj
          · omega
    · rw [if_neg (by simpa using hw)] at h
      obtain ⟨hb, hbx, hbj, hmax⟩ := ih h
      refine ⟨.inl hb, hbx, hbj, fun v hv hx hj => ?_⟩
      rcases hv with hv | rfl
      · exact hmax v hv hx hj
      · exact absurd ⟨hx, hj⟩ hw

theorem regBelow_of_highest {x j : Nat} {l : List RegWrite} {w : RegWrite} (hw : w ∈ l) (hx : w.x = x) (hj : w.idx < j)
    (hmax : ∀ v : RegWrite, v ∈ l → v.x = x → v.idx < j → v = w ∨ v.idx < w.idx) : regBelow x j l = some w := by
  cases hb : regBelow x j l with
  | none => exact absurd (regBelow_eq_none.mp hb w hw hx) (by omega)
  | some b =>
    obtain ⟨hbl, hbx, hbj, hle⟩ := regBelow_eq_some hb
    rcases hmax b hbl hbx hbj with rfl | hlt
    · rfl
    · exact absurd (hle w hw hx hj) (by omega)

theorem Lane.readReg_ownWrite {ln : Lane} {x j : Nat} {free : Word} {w : RegWrite} (h : regBelow x j ln.regs = some w)
    (hi : ∀ i img, ln.image = some (i, img) → j < i ∨ i ≤ w.idx) : ln.readReg x j free = w.val := by
  unfold Lane.readReg
  split
  · simp [h]
  · next i img him =>
    rw [h]
    exact if_neg (by have := hi i img him; simp; omega)

theorem Lane.readReg_unwritten {ln : Lane} {x j : Nat} {free : Word} (h : regBelow x j ln.regs = none) (hi : ln.image = none) :
    ln.readReg x j free = { bits := free } := by
  simp [Lane.readReg, h, hi]

/-- The image of the record stands for every lower writer below the faulting index (R463). -/
theorem Lane.readReg_image {ln : Lane} {x j i : Nat} {free : Word} {img : List Val} {v : Val} (hi : ln.image = some (i, img))
    (hv : img[x]? = some v) (h : ∀ w : RegWrite, regBelow x j ln.regs = some w → i ≤ j ∧ w.idx < i) : ln.readReg x j free = v := by
  rw [Lane.readReg, hi]
  dsimp only
  rw [hv, Option.getD_some]
  split
  · exact if_pos (by simpa using h _ ‹_›)
  · rfl

/-! ### A list's first index -/

theorem indexOf?_of_exists {α : Type} {p : α → Bool} {l : List α} (h : ∃ a ∈ l, p a = true) (n : Nat) :
    ∃ k a, indexOf? p l n = some (n + k) ∧ l[k]? = some a ∧ p a = true := by
  induction l generalizing n with
  | nil => simp at h
  | cons a r ih =>
    rw [indexOf?]
    by_cases ha : p a = true
    · exact ⟨0, a, by simp [ha], rfl, ha⟩
    · obtain ⟨b, hb, hpb⟩ := h
      have hr : b ∈ r := (List.mem_cons.mp hb).resolve_left fun e => ha (e ▸ hpb)
      obtain ⟨k, c, hk, hc, hpc⟩ := ih ⟨b, hr, hpb⟩ (n + 1)
      exact ⟨k + 1, c, by rw [if_neg ha, hk]; congr 1; omega, hc, hpc⟩

/-! ### A flock after its word -/

theorem State.flock?_updFlock_same {s : State} {id : Nat} {f : Flock → Flock} (hf : ∀ fl, (f fl).id = fl.id) :
    (s.updFlock id f).flock? id = (s.flock? id).map f :=
  find?_replaceFirst_same (fun fl => by simp [hf]) _

theorem State.executed_issued {s : State} {fl : Flock} {j : Nat} (h : Issued s fl j) {pm : Pm} {t0 t1 : Target}
    {f : Lane → Cell → Val × Val} :
    (s.executed fl j pm t0 t1 f).focus = some { flock := fl.id, idx := j } ∧
      (s.executed fl j pm t0 t1 f).flock? fl.id = some (Flock.step j pm t0 t1 f fl) := by
  obtain ⟨hfocus, hfl⟩ := h
  refine ⟨hfocus, ?_⟩
  rw [State.executed, State.flock?_updFlock_same (f := Flock.step j pm t0 t1 f) fun _ => rfl, hfl]
  rfl

/-- A read of a lane register counts its draw (R30; log entry 8). -/
theorem execGetx_issued {s : State} {fl : Flock} {j : Nat} (h : Issued s fl j) (pm : Pm) (t0 : Target) (x : BitVec 6) :
    execGetx pm t0 x s = .next ((s.executed fl j pm t0 .none fun ln _ =>
      (ln.readReg x.toNat j (s.unwritten fl.ctx fl.core ln.lane), ln.readReg x.toNat j (s.unwritten fl.ctx fl.core ln.lane))).draw
        fl.ctx fl.core) := by
  obtain ⟨hfocus, hfl⟩ := State.executed_issued h (pm := pm) (t0 := t0) (t1 := .none) (f := fun ln _ =>
    (ln.readReg x.toNat j (s.unwritten fl.ctx fl.core ln.lane), ln.readReg x.toNat j (s.unwritten fl.ctx fl.core ln.lane)))
  rw [execGetx, laneOp_issued h]
  dsimp only
  rw [hfocus, Option.bind_some, hfl]
  rfl

end Sys2Proof.Machine
end

section
/-! CERTIFICATE. O14: the block inputs. -/

namespace Sys2Proof.Machine

/-- The value of `pasture`: the core's place in its context's pasture, and above it the number of its cores (R71). -/
theorem specialReg_pasture {s : State} {fl : Flock} {ln : Lane} {c : Ctx} (hc : s.ctx? fl.ctx = some c) (hg : c.gang = none)
    (hlen : c.pasture.length < 65536) (hmem : fl.core ∈ c.pasture) :
    (specialReg s fl ln .pasture).toNat / 65536 = c.pasture.length ∧
      c.pasture[(specialReg s fl ln .pasture).toNat % 65536]? = some fl.core := by
  have hl : s.logical c = c.pasture.map fun k => (s.pkgid, k) := by simp [State.logical, hg]
  obtain ⟨k, a, hk, ha, hp⟩ := indexOf?_of_exists (p := (· == (s.pkgid, fl.core))) (l := c.pasture.map fun k => (s.pkgid, k))
    ⟨_, List.mem_map_of_mem hmem, by simp⟩ 0
  obtain ⟨b, hb, rfl⟩ := Option.map_eq_some_iff.mp ((List.getElem?_map ..).symm.trans ha)
  obtain rfl : b = fl.core := by simpa using hp
  obtain ⟨hlt, -⟩ := List.getElem?_eq_some_iff.mp hb
  have hv : (specialReg s fl ln .pasture).toNat = k + 65536 * c.pasture.length := by
    simp only [specialReg, hc, Option.map_some, Option.getD_some, hl, hk, List.length_map, at_, BitVec.toNat_ofNat]
    omega
  rw [hv, show (k + 65536 * c.pasture.length) / 65536 = c.pasture.length by omega,
    show (k + 65536 * c.pasture.length) % 65536 = k by omega]
  exact ⟨rfl, hb⟩

theorem specialReg_liter (s : State) (fl : Flock) (ln : Lane) :
    (specialReg s fl ln .liter).toNat = if ln.tag.dom = 0 then ln.tag.idx.toNat else ln.epoch.toNat * 1024 + ln.tag.idx.toNat := by
  have hi := ln.tag.idx.isLt
  have he := ln.epoch.isLt
  simp only [specialReg, literOf, BitVec.toNat_ofNat]
  split <;> omega

/-- Settles O14: each word by its operation's rule, the register reads by `regBelow`, the special registers one by one. -/
theorem blockInputs : Obligations.BlockInputs := by
  unfold Obligations.BlockInputs
  refine ⟨fun s fl j pm n t0 t1 imm h => ⟨?_, ?_, fun b w hb hw => ?_, ?_, ?_, ?_⟩, fun s fl j pm t0 x h => ?_,
    fun s fl j pm sr t0 h => ?_⟩
  · change execLdf pm n t0 t1 s = _
    unfold execLdf
    rw [laneOp_issued h]
    congr 2
    funext ln k
    cases ln.frame[n.toNat]? <;> rfl
  · change execLdfv pm n t0 t1 s = _
    unfold execLdfv
    rw [laneOp_issued h]
    congr 2
    funext ln k
    rcases ln.frame[n.toNat]? with _ | ⟨w, _ | _⟩ <;> rfl
  · change execLdk pm n t0 t1 s = _
    unfold execLdk
    rw [laneOp_issued h]
    congr 2
    funext ln k
    simp [hb, hw, BitVec.ofNat_toNat]
  · change execMovi pm t0 imm s = _
    unfold execMovi
    rw [valueOp_issued h]
    rfl
  · change execMovhi pm t0 imm s = _
    unfold execMovhi
    rw [valueOp_issued h]
    have hv (a : Word) : movhiVal a imm = BitVec.ofNat 64 (a.toNat * 2 ^ 13 + imm.toNat) := by
      apply BitVec.eq_of_toNat_eq
      simp [movhiVal]
    simp only [hv]
  · change execNop pm t0 t1 s = _
    unfold execNop
    rw [valueOp_issued h]
  · refine ⟨fun ln => ln.readReg x.toNat j (s.unwritten fl.ctx fl.core ln.lane), ?_, fun ln => ⟨fun hi => ⟨?_, fun hn => ?_⟩,
      fun i img v hi hv => ⟨?_, fun hn => ?_⟩⟩⟩
    · exact execGetx_issued h pm t0 x
    · rintro w ⟨hw, hx, hj, hmax⟩
      exact Lane.readReg_ownWrite (regBelow_of_highest hw hx hj hmax) fun i img he => by rw [hi] at he; cases he
    · exact Lane.readReg_unwritten (regBelow_eq_none.mpr hn) hi
    · rintro w ⟨hw, hx, hj, hmax⟩ hij
      refine Lane.readReg_ownWrite (regBelow_of_highest hw hx hj hmax) fun i' img' he => ?_
      rw [hi] at he
      cases he
      exact hij
    · refine Lane.readReg_image hi hv fun w hb => ?_
      obtain ⟨hw, hx, hj, -⟩ := regBelow_eq_some hb
      exact hn w hw hx hj
  · refine ⟨fun ln => specialReg s fl ln sr, ?_, fun ln => ?_⟩
    · change execGets pm sr t0 s = _
      unfold execGets
      rw [laneOp_issued h]
    · cases sr
      case liter => exact specialReg_liter s fl ln
      case pasture => exact fun c hc hg hlen hmem => specialReg_pasture hc hg hlen hmem
      case seed | prio => exact fun c hc => by simp [specialReg, hc]
      case detmode => exact fun c hc => by simp [specialReg, hc, boolWord]
      case frec => exact ⟨fun hn => by simp [specialReg, hn], fun r hr => by simp [specialReg, hr, bits]⟩
      case eword | ea | eb | ec =>
        refine ⟨fun hn => by simp [specialReg, emulated, hn], fun r hr => ⟨fun ht => ?_, fun w i a b c p ht => ?_⟩⟩ <;>
          simp [specialReg, emulated, hr, ht]
      case ep =>
        refine ⟨fun hn => by simp [specialReg, emulated, hn], fun r hr => ⟨fun ht => ?_, fun w i a b c p ht => ?_⟩⟩
        · simp [specialReg, emulated, hr, ht]
        · simp only [specialReg, emulated, hr, ht, Option.bind_some, at_, b2n]
          congr 1
          have two (n : Nat) (v : Bool) : 2 ^ n * (if v = true then 1 else 0) = if v = true then 2 ^ n else 0 := by cases v <;> simp
          simp only [two]
          rfl
      all_goals rfl

end Sys2Proof.Machine
end

section
/-! SUPPORT. The shape of every word: a value of its lane and latches, or an effect beyond its lane. -/

namespace Sys2Proof.Machine

/-- How a word is executed: each lane by itself, each lane in turn with an effect, `getx`, whose draw is counted, or `cont`, whose lane register
is not a target of R25. -/
inductive WordShape : Instr → Prop where
  | lane {i : Instr} (f : State → Flock → Nat → Lane → Cell → Val × Val)
      (h : ∀ s, exec i s = laneOp (pmOf i) (t0Of i) (t1Of i) f s) : WordShape i
  | effect {i : Instr} (f : State → Flock → Nat → Lane → Cell → State)
      (h : ∀ s, exec i s = effectOp (pmOf i) (t0Of i) (t1Of i) f s) : WordShape i
  | getx (pm : Pm) (t0 : Target) (x : BitVec 6) : WordShape (.getx pm t0 x)
  | cont (pm : Pm) (tm : Tm) (slot : BitVec 3) (blk : BitVec 12) (x : BitVec 4) : WordShape (.cont pm tm slot blk x)

theorem WordShape.value {i : Instr} (r : Reads) (g : Word → Word → Word → Bool → Word × Word)
    (h : ∀ s, exec i s = valueOp (pmOf i) r (t0Of i) (t1Of i) g s) : WordShape i := .lane _ h

theorem WordShape.cross {i : Instr} (f : List (Nat × Cell) → Nat → Cell → Word × Word)
    (h : ∀ s, exec i s = crossOp (pmOf i) (t0Of i) (t1Of i) f s) : WordShape i := .lane _ h

theorem WordShape.send {i : Instr} (h0 : t0Of i = .none) (h1 : t1Of i = .none) (h : ∀ s, exec i s = sendOp i (pmOf i) s) : WordShape i :=
  .effect _ fun s => by rw [h, h0, h1]; rfl

theorem WordShape.cursor {i : Instr} (early : Cell → Option Val) (h : ∀ s, exec i s = cursorOp i (pmOf i) early s) : WordShape i := .effect _ h

theorem WordShape.region {i : Instr} (accum : Bool) (n : Nat) (early : Cell → Option Val)
    (h : ∀ s, exec i s = regionOp i (pmOf i) accum n early s) : WordShape i := .effect _ h

theorem WordShape.engine {i : Instr} (h : ∀ s, exec i s = engineOp i (pmOf i) s) : WordShape i := .effect _ h

theorem WordShape.reserve {i : Instr} {op : Nat} (h1 : t1Of i = .none) (h : ∀ s, exec i s = reserveOp op (pmOf i) (t0Of i) s) : WordShape i :=
  .effect _ fun s => by rw [h, h1]; rfl

/-- Every instruction that has a word has one of the shapes. -/
theorem wordShape {i : Instr} (hw : hasWord i = true) : WordShape i := by
  cases i
  case getx => exact .getx _ _ _
  case cont => exact .cont _ _ _ _ _
  case ldf | ldfv | ldk | gets | cvtsr | bcast | rdsr => exact .lane _ fun s => by unfold exec; exact rfl
  case movi | movhi | nop | dkill | add | addSat | sub | subSat | addi | mul | mulh | madd | div | rem | min | max | abs | neg |
      and | or | xor | andn | not | shl | shr | sar | rotl | shli | shri | sari | rotli | clz | ctz | popc | brev | bswap | bfx |
      bfi | sext | zext | cmp | cmpi | sel | pand | por | pxor | pnot | pack2 | unpk | fadd | fsub | fmul | ffma | fmin | fmax |
      fabs | fneg | fcmp | fclass | fdiv | fsqrt | frcpe | frsqe | fexp2 | flog2 | fsin | fcos | ftanh | fround | cvt | hadd2 |
      hmul2 | hfma2 | hmax2 | dot4 => exact .value _ _ fun s => by unfold exec; exact rfl
  case send | sendx | sendv | steer | enter | entermAnd | entermOr | next |
      leave => exact .send rfl rfl fun s => by unfold exec; exact rfl
  case spawn | curs | cursi | ld | st | atom | cas | redo | hqry | arrive | waitb | hresFetch |
      hresRelease => exact .cursor _ fun s => by unfold exec; exact rfl
  case shfl | shfx | shup | shdn | ballot | vany | vall | scan | redl => exact .cross _ fun s => by unfold exec; exact rfl
  case ldsp | stsp | lda | sta => exact .region _ _ _ fun s => by unfold exec; exact rfl
  case fatom | fence | pref | lkctx | lkst | trap | brk | wrsr | abort | emx => exact .effect _ fun s => by unfold exec; exact rfl
  case mma | mmas | wld | aclr | acvt | aadd | cpy | cpyg | cpys | cpyr | cpybsToplanes | cpybsFromplanes | cpyt | cpyhTohost |
      cpyhFromhost | cpyf | lkrun | tvec | tgemv | tgemvs | tred => exact .engine fun s => by unfold exec; exact rfl
  case resume | retry => exact .reserve rfl fun s => by unfold exec; exact rfl
  all_goals cases hw

end Sys2Proof.Machine
end

section
/-! SUPPORT. A word that one lane does not perform: what its flock and the state look like afterwards (R28). -/

namespace Sys2Proof.Machine

/-! ### A lane that does not perform -/

/-- Without its effect an instruction's results do not matter, nor whether a target is a lane register. -/
theorem Lane.complete_notPerformed (j : Nat) (t0 t1 : Target) (r0 r1 : Val) (ln : Lane) :
    ln.complete j false t0 t1 r0 r1 = ln.complete j false t0 t1 { bits := 0 } { bits := 0 } := rfl

theorem Lane.complete_notPerformed_regs (j : Nat) (t0 t1 : Target) (r0 r1 : Val) (ln : Lane) :
    (ln.complete j false t0 t1 r0 r1).regs = ln.regs := by
  cases t0 <;> cases t1 <;> rfl

theorem Lane.activeAt_of_filter {fl : Flock} {j : Nat} {ln : Lane} (h : fl.lanes.filter (Lane.activeAt j) = [ln]) :
    ln.activeAt j = true ∧ ∀ l ∈ fl.lanes, l.activeAt j = true → l = ln := by
  refine ⟨(List.mem_filter.mp (h ▸ List.mem_singleton_self ln)).2, fun l hl ha => ?_⟩
  exact List.mem_singleton.mp (h ▸ List.mem_filter.mpr ⟨hl, ha⟩)

@[simp] theorem Lane.step_fid (j : Nat) (pm : Pm) (t0 t1 : Target) (f : Lane → Cell → Val × Val) (ln : Lane) :
    (ln.step j pm t0 t1 f).fid = ln.fid := by
  unfold Lane.step
  split
  · split
    · rfl
    · exact Lane.complete_fid ..
  · rfl

theorem Lane.step_of_inactive {j : Nat} {ln : Lane} (h : ln.activeAt j = false) (pm : Pm) (t0 t1 : Target)
    (f : Lane → Cell → Val × Val) : ln.step j pm t0 t1 f = ln := by
  simp [Lane.step, h]

theorem Lane.step_notPerformed {j : Nat} {ln : Lane} {k : Cell} {pm : Pm} (ha : ln.activeAt j = true) (hk : ln.cells[j]? = some k)
    (hp : performs pm k.p = false) (t0 t1 : Target) (f : Lane → Cell → Val × Val) :
    ln.step j pm t0 t1 f = ln.complete j false t0 t1 { bits := 0 } { bits := 0 } := by
  rw [Lane.step, if_pos ha, hk]
  dsimp only
  rw [hp, Lane.complete_notPerformed]

/-! ### Its flock -/

theorem Flock.lane?_step (j : Nat) (pm : Pm) (t0 t1 : Target) (f : Lane → Cell → Val × Val) (fl : Flock) (g : Nat) :
    (fl.step j pm t0 t1 f).lane? g = (fl.lane? g).map (Lane.step j pm t0 t1 f) := by
  simp [Flock.lane?, Flock.step, List.find?_map]

theorem Flock.any_step (j : Nat) (pm : Pm) (t0 t1 : Target) (f : Lane → Cell → Val × Val) (fl : Flock) (g : Nat) :
    (fl.step j pm t0 t1 f).lanes.any (·.fid == g) = fl.lanes.any (·.fid == g) := by
  simp [Flock.step, Function.comp_def]

/-- A flock that is updated alone is found as before by its lanes' firings, and so is every other flock. -/
theorem find?_lanes_replaceFirst {l : List Flock} {fl : Flock} {f : Flock → Flock} (hl : l.find? (·.id == fl.id) = some fl) {g : Nat}
    (hany : (f fl).lanes.any (·.fid == g) = fl.lanes.any (·.fid == g)) (hlane : (f fl).lane? g = fl.lane? g) :
    ((replaceFirst (·.id == fl.id) f l).find? fun x => x.lanes.any (·.fid == g)).bind (·.lane? g) =
      (l.find? fun x => x.lanes.any (·.fid == g)).bind (·.lane? g) := by
  induction l with
  | nil => rfl
  | cons x r ih =>
    rw [List.find?_cons] at hl
    rw [replaceFirst]
    by_cases hx : (x.id == fl.id) = true
    · rw [hx] at hl
      cases hl
      rw [if_pos hx, List.find?_cons, List.find?_cons, hany]
      split
      · simp [hlane]
      · rfl
    · rw [if_neg hx, List.find?_cons, List.find?_cons]
      rw [Bool.not_eq_true] at hx
      rw [hx] at hl
      split
      · rfl
      · exact ih hl

theorem find?_lanes_replaceFirst_same {l : List Flock} {fl : Flock} {f : Flock → Flock} (hl : l.find? (·.id == fl.id) = some fl) {g : Nat}
    (hany : (f fl).lanes.any (·.fid == g) = fl.lanes.any (·.fid == g)) (hg : (l.find? fun x => x.lanes.any (·.fid == g)) = some fl) :
    ((replaceFirst (·.id == fl.id) f l).find? fun x => x.lanes.any (·.fid == g)) = some (f fl) := by
  have hfl : fl.lanes.any (·.fid == g) = true := by simpa using List.find?_some hg
  induction l with
  | nil => cases hl
  | cons x r ih =>
    rw [List.find?_cons] at hl hg
    rw [replaceFirst]
    by_cases hx : (x.id == fl.id) = true
    · rw [hx] at hl
      cases hl
      rw [if_pos hx, List.find?_cons, hany, hfl]
    · have hxg : x.lanes.any (·.fid == g) = false := by
        by_contra hne
        rw [Bool.not_eq_false] at hne
        rw [hne] at hg
        cases hg
        exact hx (beq_self_eq_true _)
      rw [if_neg hx, List.find?_cons, hxg]
      rw [hxg] at hg
      rw [Bool.not_eq_true] at hx
      rw [hx] at hl
      exact ih hl hg

/-! ### The state -/

/-- What R28 leaves of a state and lane where an instruction is only counted. -/
def OnlyCounted (s t : State) (ln : Lane) (j : Nat) (t0 t1 : Target) : Prop :=
  t = { s with flocks := t.flocks, ctxs := t.ctxs } ∧
    (t.ctxs.map fun c => { c with draws := [] }) = (s.ctxs.map fun c => { c with draws := [] }) ∧
    (t.flocks.map fun f => { f with lanes := [] }) = (s.flocks.map fun f => { f with lanes := [] }) ∧
    t.lane? ln.fid = some (ln.complete j false t0 t1 { bits := 0 } { bits := 0 }) ∧
    ∀ f, f ≠ ln.fid → t.lane? f = s.lane? f

theorem onlyCounted_executed {s : State} {fl : Flock} {j : Nat} {ln : Lane} {k : Cell} {pm : Pm} (hi : Issued s fl j)
    (hf : fl.lanes.filter (Lane.activeAt j) = [ln]) (hfl : s.flockOf? ln.fid = some fl) (hln : fl.lane? ln.fid = some ln)
    (hk : ln.cells[j]? = some k) (hp : performs pm k.p = false) (t0 t1 : Target) (f : Lane → Cell → Val × Val) :
    OnlyCounted s (s.executed fl j pm t0 t1 f) ln j t0 t1 := by
  obtain ⟨-, hflock⟩ := hi
  obtain ⟨ha, honly⟩ := Lane.activeAt_of_filter hf
  have hany (g : Nat) := Flock.any_step j pm t0 t1 f fl g
  refine ⟨rfl, rfl, ?_, ?_, fun g hg => ?_⟩
  · simp only [State.executed, State.updFlock]
    induction s.flocks with
    | nil => rfl
    | cons x r ih =>
      rw [replaceFirst]
      split
      · rfl
      · rw [List.map_cons, List.map_cons, ih]
  · have hfound := find?_lanes_replaceFirst_same (f := Flock.step j pm t0 t1 f) hflock (hany ln.fid) hfl
    have hstep : (fl.step j pm t0 t1 f).lane? ln.fid = some (ln.complete j false t0 t1 { bits := 0 } { bits := 0 }) := by
      rw [Flock.lane?_step, hln, Option.map_some, Lane.step_notPerformed ha hk hp]
    exact (congrArg (·.bind (·.lane? ln.fid)) hfound).trans hstep
  · refine find?_lanes_replaceFirst (f := Flock.step j pm t0 t1 f) hflock (hany g) ?_
    rw [Flock.lane?_step]
    cases hl : fl.lane? g with
    | none => rfl
    | some l =>
      have hmem : l ∈ fl.lanes := List.mem_of_find?_eq_some hl
      have hfid : l.fid = g := by simpa using List.find?_some hl
      have hna : l.activeAt j = false := by
        by_contra hne
        rw [honly l hmem (by simpa using hne)] at hfid
        exact hg hfid.symm
      rw [Option.map_some, Lane.step_of_inactive hna]

/-- A draw of a free value is all that a context shows of `getx`. -/
theorem OnlyCounted.draw {s t : State} {ln : Lane} {j : Nat} {t0 t1 : Target} (h : OnlyCounted s t ln j t0 t1) (x core : Nat) :
    OnlyCounted s (t.draw x core) ln j t0 t1 := by
  obtain ⟨hs, hctx, hfl, hsame, hother⟩ := h
  refine ⟨?_, ?_, hfl, hsame, hother⟩
  · exact congrArg (fun u : State => u.draw x core) hs
  · rw [← hctx]
    simp only [State.draw, State.updCtx]
    induction t.ctxs with
    | nil => rfl
    | cons c r ih =>
      rw [replaceFirst]
      split
      · rfl
      · rw [List.map_cons, List.map_cons, ih]

theorem onlyCounted_updLane {s : State} {j : Nat} {ln : Lane} (hln : s.lane? ln.fid = some ln)
    (hctx : ∀ c ∈ s.ctxs, ∀ g : Lane → Lane, c.updLane ln.fid g = c) (hres : ∀ r ∈ s.resumed, r.lane.fid ≠ ln.fid) (t0 t1 : Target) :
    OnlyCounted s (s.updLane ln.fid fun l => l.complete j false t0 t1 Val.zero Val.zero) ln j t0 t1 := by
  have hfid (l : Lane) : (l.complete j false t0 t1 Val.zero Val.zero).fid = l.fid := Lane.complete_fid ..
  have hr : (s.resumed.map fun r => { r with lane := r.lane.updIf ln.fid fun l => l.complete j false t0 t1 Val.zero Val.zero }) = s.resumed :=
    (List.map_congr_left (g := id) fun r hm => by simp [Lane.updIf, hres r hm]).trans (List.map_id _)
  refine ⟨?_, ?_, ?_, ?_, fun g hg => State.lane?_updLane_other hfid hg⟩
  · exact congrArg (fun r => ({ s with
      flocks := (s.updLane ln.fid fun l => l.complete j false t0 t1 Val.zero Val.zero).flocks, resumed := r
      ctxs := (s.updLane ln.fid fun l => l.complete j false t0 t1 Val.zero Val.zero).ctxs } : State)) hr
  · simp only [State.updLane, List.map_map]
    exact List.map_congr_left fun c hc => by simp [hctx c hc]
  · simp only [State.updLane, List.map_map]
    exact List.map_congr_left fun c hc => rfl
  · rw [State.lane?_updLane_same hfid, hln]
    rfl

end Sys2Proof.Machine
end

section
/-! CERTIFICATE. O6: a word that does not perform its effect is only counted. -/

namespace Sys2Proof.Machine

/-- Settles O6, by the shape of the word. -/
theorem notPerformedOnlyCounts : Obligations.NotPerformedOnlyCounts := by
  intro s fl j ln k i hi hf hfl hln hk hw hp hctx hres
  suffices h : ∃ t, exec i s = .next t ∧ OnlyCounted s t ln j (t0Of i) (t1Of i) by
    obtain ⟨t, he, ht, hc, hflocks, hsame, hother⟩ := h
    exact ⟨t, _, he, ht, hc, hflocks, hsame, rfl, Lane.complete_notPerformed_regs .., hother⟩
  have hl : s.lane? ln.fid = some ln := by rw [State.lane?, hfl]; exact hln
  cases wordShape hw with
  | lane f he => exact ⟨_, (he s).trans (laneOp_issued hi ..), onlyCounted_executed hi hf hfl hln hk hp ..⟩
  | effect f he =>
    exact ⟨_, (he s).trans (effectOp_notPerformed hi hf hl hk hp ..), onlyCounted_updLane hl hctx hres ..⟩
  | getx pm t0 x => exact ⟨_, execGetx_issued hi pm t0 x, (onlyCounted_executed hi hf hfl hln hk hp ..).draw ..⟩
  | cont pm tm slot blk x =>
    refine ⟨_, (show exec (.cont pm tm slot blk x) s = execCont pm tm slot blk x s from rfl).trans
      (laneOp_issued hi ..), ?_⟩
    exact onlyCounted_executed hi hf hfl hln hk hp ..

end Sys2Proof.Machine
end

section
/-! SUPPORT. A send over the lanes of its flock: what its checks read, and the lanes one after another (R130, R137). -/

namespace Sys2Proof.Machine

/-- What a word hands on does not depend on the lanes of the state or of its context. -/
theorem State.emits_updLane (s : State) (c : Ctx) (fid : Nat) (f : Lane → Lane) (sd : Sender) (i : Instr) (k : Cell) :
    (s.updLane fid f).emits (c.updLane fid f) sd i k = s.emits c sd i k := rfl

theorem State.ctx?_updLane {s : State} {fid x : Nat} {f : Lane → Lane} {c : Ctx} (h : s.ctx? x = some c) :
    (s.updLane fid f).ctx? x = some (c.updLane fid f) := by
  have hcomp : ((fun d : Ctx => d.id == x) ∘ fun d : Ctx => d.updLane fid f) = fun d : Ctx => d.id == x := rfl
  rw [State.ctx?, State.updLane, List.find?_map, hcomp]
  exact congrArg (Option.map _) h

/-- One lane of a send: the step that `effectOp` folds over the lanes. -/
def sendLane (i : Instr) (pm : Pm) (fl : Flock) (j : Nat) (s : State) (ln : Lane) : State :=
  match s.lane? ln.fid, ln.cells[j]? with
  | some ln, some k =>
    if performs pm k.p then
      match s.ctx? fl.ctx with
      | none => s
      | some c =>
        match s.emits c (senderOf fl ln) i k with
        | .ok _ => s.completeLane ln.fid j .none .none Val.zero Val.zero
        | .error (code, d) => s.faultLane ln.fid j code d
    else s.updLane ln.fid fun l => l.complete j false .none .none Val.zero Val.zero
  | _, _ => s

theorem sendOp_issued {s : State} {fl : Flock} {j : Nat} (h : Issued s fl j) (i : Instr) (pm : Pm) :
    sendOp i pm s = .next ((fl.lanes.filter (Lane.activeAt j)).foldl (sendLane i pm fl j) s) :=
  effectOp_issued h pm .none .none _

/-- The check of a send passes in a lane that performs it. -/
def State.Passes (s : State) (c : Ctx) (fl : Flock) (j : Nat) (i : Instr) (pm : Pm) (ln : Lane) : Prop :=
  ∃ k : Cell, ln.cells[j]? = some k ∧ performs pm k.p = true ∧ ∃ es, s.emits c (senderOf fl ln) i k = .ok es

theorem State.passes_updLane {s : State} {c : Ctx} {fl : Flock} {j : Nat} {i : Instr} {pm : Pm} {ln : Lane} (h : s.Passes c fl j i pm ln)
    (fid : Nat) (f : Lane → Lane) : (s.updLane fid f).Passes (c.updLane fid f) fl j i pm ln := by
  obtain ⟨k, hk, hp, es, he⟩ := h
  exact ⟨k, hk, hp, es, (s.emits_updLane c fid f ..).trans he⟩

theorem sendLane_of_passes {s : State} {c : Ctx} {fl : Flock} {j : Nat} {i : Instr} {pm : Pm} {ln : Lane}
    (hc : s.ctx? fl.ctx = some c) (hl : s.lane? ln.fid = some ln) (h : s.Passes c fl j i pm ln) :
    sendLane i pm fl j s ln = s.completeLane ln.fid j .none .none Val.zero Val.zero := by
  obtain ⟨k, hk, hp, es, he⟩ := h
  simp only [sendLane, hl, hk, hp, hc, he, if_true]

/-- A send whose check passes in every lane executes in each: a lane's completion changes neither the other lanes nor a check. -/
theorem foldl_sendLane_of_passes {fl : Flock} {j : Nat} {i : Instr} {pm : Pm} (l : List Lane) {s : State} {c : Ctx}
    (hc : s.ctx? fl.ctx = some c) (hnd : (l.map (·.fid)).Nodup) (hl : ∀ ln ∈ l, s.lane? ln.fid = some ln)
    (h : ∀ ln ∈ l, s.Passes c fl j i pm ln) :
    l.foldl (sendLane i pm fl j) s = l.foldl (fun s ln => s.completeLane ln.fid j .none .none Val.zero Val.zero) s := by
  induction l generalizing s c with
  | nil => rfl
  | cons ln r ih =>
    obtain ⟨hnew, hnd⟩ := List.nodup_cons.mp hnd
    rw [List.foldl_cons, List.foldl_cons,
      sendLane_of_passes hc (hl ln List.mem_cons_self) (h ln List.mem_cons_self)]
    refine ih (State.ctx?_updLane hc) hnd (fun x hx => ?_) fun x hx => State.passes_updLane (h x (List.mem_cons_of_mem _ hx)) ..
    have hne : x.fid ≠ ln.fid := fun e => hnew (List.mem_map.mpr ⟨x, hx, e⟩)
    exact (State.lane?_updLane_other (by simp) hne).trans (hl x (List.mem_cons_of_mem _ hx))

/-- What the completion of one instruction in some lanes leaves of a state. -/
theorem foldl_completeLane_frame (l : List Lane) (j : Nat) (s : State) :
    let t := l.foldl (fun s ln => s.completeLane ln.fid j .none .none Val.zero Val.zero) s
    t = { s with flocks := t.flocks, resumed := t.resumed, ctxs := t.ctxs } := by
  induction l generalizing s with
  | nil => rfl
  | cons ln r ih => exact ih _

theorem sendOp_of_passes {s : State} {fl : Flock} {j : Nat} {c : Ctx} (hi : Issued s fl j) (ha : Alone s fl)
    (hc : s.ctx? fl.ctx = some c) {i : Instr} {pm : Pm} (hperf : AllPerform fl j pm)
    (h : ∀ ln ∈ fl.lanes, ln.activeAt j = true → ∀ k : Cell, ln.cells[j]? = some k → ∃ es, s.emits c (senderOf fl ln) i k = .ok es) :
    sendOp i pm s = .next (s.doneIn fl j) := by
  obtain ⟨hnd, hl⟩ := ha
  rw [sendOp_issued hi, foldl_sendLane_of_passes _ hc (hnd.sublist (List.filter_sublist.map _))]
  · rfl
  · exact fun ln hln => hl ln (List.mem_filter.mp hln).1
  · intro ln hln
    obtain ⟨hmem, hact⟩ := List.mem_filter.mp hln
    obtain ⟨k, hk, hp⟩ := hperf ln hmem hact
    exact ⟨k, hk, hp, h ln hmem hact k hk⟩

/-- `steer` is performed whatever P is (R134). -/
theorem allPerform_always (fl : Flock) (j : Nat) : AllPerform fl j .always := by
  intro ln _ hact
  unfold Lane.activeAt at hact
  cases hk : ln.cells[j]? with
  | none => simp [hk] at hact
  | some k => exact ⟨k, rfl, rfl⟩

theorem State.contEmit_of_bad {s : State} {c : Ctx} {w : Word} (h0 : w ≠ 0) (h : c.contOk w = false) (sd : Sender) (p : Val)
    (void : Bool) (rel : Option Scope) : s.contEmit c sd w p void rel = .error (0x05, [w]) := by
  rw [State.contEmit, if_neg h0, if_pos (by rw [h]; rfl)]

theorem State.modeEmit_expl_of_bad {s : State} {c : Ctx} {blk : Nat} {w : Word}
    (h : (Tag.ofBits (w.setWidth 40)).dom.toNat ≠ c.domOf blk ∨ (s.core (Tag.ofBits (w.setWidth 40)).home.toNat).enabled = false)
    (sd : Sender) (slot : Nat) (p : Val) (void : Bool) (rel : Option Scope) (close : Bool) :
    s.modeEmit c sd .expl slot blk p void rel close w = .error (0x06, [w]) := by
  rw [State.modeEmit, BitVec.ofNat_toNat]
  exact if_pos (by simpa using h)

end Sys2Proof.Machine
end

section
/-! CERTIFICATE. O21: when a send executes and when it faults. -/

namespace Sys2Proof.Machine

/-- A send whose check fails in its one lane faults it there (R137, R154). -/
theorem sendOp_of_error {s : State} {fl : Flock} {j : Nat} {ln : Lane} {k : Cell} {pm : Pm} {c : Ctx}
    (h : OneLane s fl j ln k pm) (hc : s.ctx? fl.ctx = some c) {i : Instr} {code : Nat} {d : List Word}
    (he : s.emits c (senderOf fl ln) i k = .error (code, d)) : sendOp i pm s = .next (s.faultLane ln.fid j code d) := by
  rw [sendOp_oneLane h hc, he]

/-- Settles O21: a passing send completes lane by lane; a failing one faults its lane. -/
theorem sendsExecute : Obligations.SendsExecute := by
  refine ⟨?_, ?_⟩
  · intro s fl j c pm tm slot blk rel close void hi ha hc
    refine ⟨fun i hmem hperf hpass => ?_, fun hpass => ?_, foldl_completeLane_frame ..⟩
    · have hop := sendOp_of_passes hi ha hc hperf hpass
      simp only [List.mem_cons, List.not_mem_nil, or_false] at hmem
      rcases hmem with rfl | rfl | rfl | rfl | rfl | rfl | rfl | rfl <;> exact hop
    · exact sendOp_of_passes hi ha hc (allPerform_always fl j) hpass
  · intro s fl j c ln k pm slot blk rel close hi hc hl hf hk hp
    have hone : OneLane s fl j ln k pm := ⟨hi, hf, hl, hk, hp⟩
    refine ⟨fun h0 hbad => sendOp_of_error hone hc ?_, fun hbad => ⟨sendOp_of_error hone hc ?_, sendOp_of_error hone hc ?_⟩⟩
    · rw [State.emits, State.contEmit_of_bad h0 hbad]
      rfl
    · exact State.modeEmit_expl_of_bad hbad ..
    · exact State.modeEmit_expl_of_bad hbad ..

end Sys2Proof.Machine
end

section
/-! SUPPORT. What each tag mode of a send and a continuation hand on (R130–R137). -/

namespace Sys2Proof.Machine

theorem closeEmit_eq (c : Ctx) (sd : Sender) (close : Bool) :
    closeEmit c sd close = if close = true ∧ sd.tag.dom ≠ 0 then
      [.request sd.hpkg sd.tag.home.toNat (reqOf c sd (.inr .close) sd.tag sd.epoch none)] else [] := by
  simp only [closeEmit, Bool.and_eq_true, decide_eq_true_eq]

theorem emitBoth_nil (a : Except (Nat × List Word) (List Emit)) : emitBoth a (.ok []) = a := by
  cases a with
  | error e => rfl
  | ok l => exact congrArg _ (List.append_nil l)

/-- A void send is a send of a void-marked value (R19). -/
theorem State.modeEmit_void (s : State) (c : Ctx) (sd : Sender) (tm : Tm) (slot block : Nat) (p q : Val) (rel : Option Scope) (close : Bool)
    (w : Word) :
    s.modeEmit c sd tm slot block p true rel close w = s.modeEmit c sd tm slot block { q with void := true } false rel close w := by
  cases tm <;> rfl

theorem State.contEmit_void (s : State) (c : Ctx) (sd : Sender) (w : Word) (p q : Val) (rel : Option Scope) :
    s.contEmit c sd w p true rel = s.contEmit c sd w { q with void := true } false rel := rfl

/-- A send under EXPLICIT whose tag passes: its token in the root domain, else a request to the unit of the tag's HOME (R131). -/
theorem State.modeEmit_expl {s : State} {c : Ctx} {blk : Nat} {w : Word} {t : Tag}
    (ht : t = { Tag.ofBits (w.setWidth 40) with ctx := BitVec.ofNat 10 c.id }) (hdom : t.dom.toNat = c.domOf blk)
    (hon : (s.core t.home.toNat).enabled = true) (sd : Sender) (slot : Nat) (p : Val) (rel : Option Scope) (close : Bool) :
    s.modeEmit c sd .expl slot blk p false rel close w =
      if t.dom = 0 then .ok (.token (tokenOf blk slot t 0 s.pkgid p false rel)
        (s.placeOf c (tokenOf blk slot t 0 s.pkgid p false rel) sd.core).1
        (s.placeOf c (tokenOf blk slot t 0 s.pkgid p false rel) sd.core).2 :: closeEmit c sd close)
      else .ok (.request s.pkgid t.home.toNat (reqOf c sd (.inl .explicit) t 0 (some (tokenOf blk slot t 0 s.pkgid p false rel))) ::
        closeEmit c sd close) := by
  rw [State.modeEmit, BitVec.ofNat_toNat, ← ht]
  exact if_neg (by simp [hdom, hon])

theorem toNat_extractLsb'_eq_bits (w : Word) (p n : Nat) : (w.extractLsb' p n).toNat = bits w.toNat p n := by
  rw [BitVec.extractLsb'_toNat, Nat.shiftRight_eq_div_pow, bits]

/-- A continuation that passes: its token in the root domain, else a request to the unit of its tag's HOME (R137). -/
theorem State.contEmit_of_ok {s : State} {c : Ctx} {w : Word} {t : Tag} (hok : c.contOk w = true) (h0 : w ≠ 0)
    (ht : t = { Tag.ofBits (w.setWidth 40) with ctx := BitVec.ofNat 10 c.id }) (sd : Sender) (p : Val) (rel : Option Scope) :
    let x := tokenOf (w.extractLsb' 40 12).toNat (w.extractLsb' 54 3).toNat t 0 s.pkgid p false rel
    s.contEmit c sd w p false rel =
      if t.dom = 0 then .ok [.token x (s.placeOf c x sd.core).1 (s.placeOf c x sd.core).2]
      else .ok [.request s.pkgid t.home.toNat (reqOf c sd (.inl (.cont (w.extractLsb' 57 3).toNat)) t 0 (some x))] := by
  dsimp only
  rw [toNat_extractLsb'_eq_bits, toNat_extractLsb'_eq_bits, toNat_extractLsb'_eq_bits, State.contEmit, if_neg h0, hok, contTag,
    BitVec.ofNat_toNat, ← ht]
  rfl

end Sys2Proof.Machine
end

section
/-! CERTIFICATE. O22: what a send hands on when its firing ends. -/

namespace Sys2Proof.Machine

theorem State.emits_sendv (s : State) (c : Ctx) (sd : Sender) (k : Cell) (pm : Pm) (tm : Tm) (slot : BitVec 3) (blk : BitVec 12)
    (rel : Option Scope) (close : Bool) :
    s.emits c sd (.sendv pm tm slot blk rel close) k =
      s.emits c sd (.send pm tm slot blk rel close) { k with a := { k.a with void := true } } :=
  State.modeEmit_void ..

/-- `sendx` without CLOSE hands on what its continuation gives. -/
theorem State.emits_sendx (s : State) (c : Ctx) (sd : Sender) (k : Cell) (pm : Pm) (rel : Option Scope) :
    s.emits c sd (.sendx pm rel false) k = s.contEmit c sd k.b.bits k.a false rel := emitBoth_nil _

/-- Settles O22, one tag mode and one arm after another. -/
theorem sendEmissions : Obligations.SendEmissions := by
  intro s c sd k pm tm slot blk rel close tok sent closes t d unit
  have hcl : closeEmit c sd close = closes := closeEmit_eq c sd close
  refine ⟨?_, ?_, fun h0 hdom hon => ?_, fun h0 hdom hon => ?_, ?_, rfl, ?_, ?_, ?_, ⟨rfl, rfl, rfl, State.emits_sendv ..⟩, fun h0 => ?_,
    fun hok h0 => ?_, ?_⟩
  · rw [← hcl]; rfl
  · rw [← hcl]; rfl
  · rw [← hcl]; exact (State.modeEmit_expl rfl hdom hon ..).trans (if_pos h0)
  · rw [← hcl]; exact (State.modeEmit_expl rfl hdom hon ..).trans (if_neg h0)
  · rw [← hcl]; rfl
  · rw [← hcl]; rfl
  · rw [← hcl]; rfl
  · rw [← hcl]; rfl
  · rw [← hcl, State.emits, State.contEmit, if_pos h0]; rfl
  · rw [← hcl]
    have hcont := State.contEmit_of_ok (s := s) (c := c) hok h0 rfl sd k.a rel
    refine ⟨fun hd => ?_, fun hd => ?_⟩
    · rw [State.emits, hcont, if_pos hd]; rfl
    · rw [State.emits, hcont, if_neg hd]; rfl
  · intro one dry dryX named cont
    have hnamed : ∀ v, named v = s.modeEmit c sd tm slot.toNat blk.toNat k.a v rel false k.c.bits := by
      intro v; cases v with
      | false => rfl
      | true => exact (State.modeEmit_void ..).symm
    have hcont : ∀ v, cont v = s.contEmit c sd k.b.bits k.a v rel := by
      intro v; cases v with
      | false => exact State.emits_sendx ..
      | true => exact (State.emits_sendx ..).trans (State.contEmit_void ..).symm
    rw [hnamed, hnamed, hcont, hcont]
    refine ⟨fun hp => ?_, fun hp => ?_, fun x y hp hx hy => ?_, fun x y hp hx hy => ?_⟩
    · simp only [State.emits, State.steerEmit, hp, if_true, Bool.false_eq_true, if_false]
    · simp only [State.emits, State.steerEmit, hp, Bool.false_eq_true, if_false]
    · simp only [State.emits, State.steerEmit, hp, if_true, hx, hy, emitBoth]
    · simp only [State.emits, State.steerEmit, hp, if_true, Bool.false_eq_true, if_false, hx, hy, emitBoth]

end Sys2Proof.Machine
end

section
/-! CERTIFICATE. O23: the end of a firing that still awaits another package's unit. -/

namespace Sys2Proof.Machine

/-- The latches of an executed send. -/
def sentCell : Cell := { issued := true, done := true, perf := true }

def sentLane : Lane :=
  { fid := 2, lane := 0, fsize := 1, tag := Tag.ofBits 0, epoch := 0, hpkg := 0, frame := [(0, false)], place := none,
    cells := [sentCell] }

def sentFlock : Flock := { oneLaneFlock with lanes := [sentLane] }

/-- That firing with every instruction executed, while a request of its end has not entered the unit of another package
(`asking`, R152). -/
def State.awaiting : State :=
  { State.reset.placeWord (encode (.send .always .same 0 0 none false)) with
    agenda := [], flocks := [sentFlock], asking := [(3, 2)] }

/-- The token that it hands on. -/
def sentToken : Token :=
  { block := 0, slot := 0, tag := Tag.ofBits 0, epoch := 0, void := false, rel := none, hpkg := 0, payload := 0 }

theorem State.awaiting_outputs :
    State.awaiting.outputs (oneWordCtx (encode (.send .always .same 0 0 none false))) (senderOf sentFlock sentLane)
      [encode (.send .always .same 0 0 none false)] sentLane = .ok [.token sentToken 0 0] := rfl

/-- The firing waits at its end: its lane stays (R152). -/
theorem State.awaiting_lane_stays : ((State.awaiting.tryEnd 2).lane? 2).isSome = true := by decide

/-- Refutes O23: its second part has no premise on `asking`. A firing whose request to another package's unit has not been
taken there does not end, so its lane is not gone. -/
theorem not_continuationsAndFiringEnds : ¬ Obligations.ContinuationsAndFiringEnds := by
  intro h
  obtain ⟨-, hends⟩ := h
  have hgone := hends State.awaiting sentFlock sentLane (oneWordCtx (encode (.send .always .same 0 0 none false)))
    [.token sentToken 0 0] [(sentToken, 0)] rfl rfl rfl rfl (by decide) (by simp [State.awaiting, sentFlock]) rfl rfl
    State.awaiting_outputs rfl (by simp [sentToken]) (by simp [State.awaiting, State.placeWord, State.reset])
    (by simp [State.awaiting, State.placeWord, State.reset]) (by simp [State.awaiting, State.placeWord, State.reset]) rfl
    (by simp [State.awaiting, State.placeWord, State.reset]) (by decide)
  obtain ⟨-, hlane, -⟩ := hgone
  have hstays := State.awaiting_lane_stays
  rw [show (State.awaiting.tryEnd 2).lane? 2 = none from hlane] at hstays
  cases hstays

end Sys2Proof.Machine
end

section
/-! SUPPORT. A memory word that finds no cached record (R33, R241). -/

namespace Sys2Proof.Machine

/-- What the issue of a memory word leaves that walks: its access, and of the rest the lane's mark that it has been issued. -/
def IssuesWalk (s : State) (fl : Flock) (j : Nat) (ln : Lane) (k : Cell) (i : Instr) (t : State) (a : Access) : Prop :=
  t.accesses = s.accesses ++ [a] ∧ a.id = s.reqSeq + 1 ∧ a.instr = i ∧ a.fid = ln.fid ∧ a.idx = j ∧ a.core = fl.core ∧
    a.ctx = fl.ctx ∧ a.phase = .walking ∧ a.handle = (k.a.bits.extractLsb' 44 19).toNat ∧ a.a = k.a ∧ a.b = k.b ∧ a.c = k.c ∧
    a.before = (s.accesses.filter fun o => o.fid = ln.fid).map (·.id) ∧
    t = { s with accesses := t.accesses, reqSeq := s.reqSeq + 1, flocks := t.flocks, resumed := t.resumed, ctxs := t.ctxs } ∧
    t.lane? ln.fid = some (ln.issue j)

theorem curHandle_eq_extract (w : Word) : curHandle w = (w.extractLsb' 44 19).toNat := by
  rw [BitVec.extractLsb'_toNat, Nat.shiftRight_eq_div_pow, curHandle, bits]

theorem State.newAccess_issuesWalk {s : State} {fl : Flock} {ln : Lane} (hl : s.lane? ln.fid = some ln) (i : Instr) (j : Nat) (k : Cell) :
    IssuesWalk s fl j ln k i (s.newAccess i .hbm .walking fl j ln k).1 (s.newAccess i .hbm .walking fl j ln k).2 := by
  refine ⟨rfl, rfl, rfl, rfl, rfl, rfl, rfl, rfl, curHandle_eq_extract _, rfl, rfl, rfl, rfl, rfl, ?_⟩
  refine (State.lane?_updLane_same (f := Lane.issue j) fun _ => rfl).trans ?_
  exact congrArg (Option.map (Lane.issue j)) hl

/-- An access of a handle that the cache does not hold waits for its walk. -/
theorem State.seek_newAccess_of_miss {s : State} {fl : Flock} {k : Cell}
    (hmiss : s.orcHit fl.core fl.ctx (k.a.bits.extractLsb' 44 19).toNat = none) (i : Instr) (j : Nat) (ln : Lane) :
    (s.newAccess i .hbm .walking fl j ln k).1.seek (s.newAccess i .hbm .walking fl j ln k).2 =
      (s.newAccess i .hbm .walking fl j ln k).1 := by
  have hm : (s.newAccess i .hbm .walking fl j ln k).1.orcHit fl.core fl.ctx (curHandle k.a.bits) = none := by
    rw [curHandle_eq_extract]
    exact hmiss
  unfold State.seek
  rw [show (s.newAccess i .hbm .walking fl j ln k).1.orcHit (s.newAccess i .hbm .walking fl j ln k).2.core
    (s.newAccess i .hbm .walking fl j ln k).2.ctx (s.newAccess i .hbm .walking fl j ln k).2.handle = none from hm]

theorem cursorOp_walks {s : State} {fl : Flock} {j : Nat} {ln : Lane} {k : Cell} {pm : Pm} (h : OneLane s fl j ln k pm)
    (hmiss : s.orcHit fl.core fl.ctx (k.a.bits.extractLsb' 44 19).toNat = none) {early : Cell → Option Val} (he : early k = none)
    (i : Instr) : ∃ t a, cursorOp i pm early s = .next t ∧ IssuesWalk s fl j ln k i t a := by
  have ⟨_, _, hl, _⟩ := h
  refine ⟨_, _, ?_, State.newAccess_issuesWalk hl i j k⟩
  rw [cursorOp_oneLane h, he]
  exact congrArg _ (State.seek_newAccess_of_miss hmiss i j ln)

theorem cursEarly_of_clear {r : Reads} {k : Cell} (hv : r.void k = false) (hoos : k.a.bits.getLsbD 63 = false) : cursEarly r k = none := by
  rw [cursEarly, hv, if_neg Bool.false_ne_true, curOos, hoos, if_neg Bool.false_ne_true]

theorem execFatom_walks {s : State} {fl : Flock} {j : Nat} {ln : Lane} {k : Cell} {pm : Pm} (h : OneLane s fl j ln k pm)
    (hmiss : s.orcHit fl.core fl.ctx (k.a.bits.extractLsb' 44 19).toNat = none) (hv : k.a.void = false) (op : FatomOp) (t0 : Target)
    (ord : Order) (sc : Scope) :
    ∃ t a, execFatom pm op t0 ord sc s = .next t ∧ IssuesWalk s fl j ln k (.fatom pm op t0 ord sc) t a := by
  have ⟨_, _, hl, _⟩ := h
  refine ⟨_, _, ?_, State.newAccess_issuesWalk hl _ j k⟩
  rw [execFatom, effectOp_oneLane h]
  dsimp only
  rw [hv, Bool.false_and, if_neg Bool.false_ne_true]
  exact congrArg _ (State.seek_newAccess_of_miss hmiss _ j ln)

end Sys2Proof.Machine
end

section
/-! CERTIFICATE. O24: a memory word with no cached record makes one access that waits for a walk. -/

namespace Sys2Proof.Machine

/-- Settles O24: each of the words is a `cursorOp` whose latches give no early value, but for `fatom`. -/
theorem memoryWordsIssue : Obligations.MemoryWordsIssue := by
  intro s fl j ln k pm w d e imm op fop w64 ord sc relOrd q t0 t1 h hmiss issues
  have walks {early : Cell → Option Val} (he : early k = none) (i : Instr) := cursorOp_walks h hmiss he i
  refine ⟨fun hv i hi => ?_, fun hva hvb => ?_, fun hva hoos => ⟨?_, fun hvb hvc => ?_⟩, fun i hi => ?_⟩
  · have hz : voidZero k = none := by simp [voidZero, hv]
    simp only [List.mem_cons, List.not_mem_nil, or_false] at hi
    rcases hi with rfl | rfl | rfl | rfl | rfl
    · exact walks hz _
    · exact walks hz _
    · exact walks hz _
    · exact execFatom_walks h hmiss hv fop t0 ord sc
    · exact walks hz _
  · exact walks (early := voidStore) (by simp [voidStore, hva, hvb]) _
  · exact walks (early := cursEarly readsA) (cursEarly_of_clear (by simp [Reads.void, readsA, hva]) hoos) _
  · exact walks (early := cursEarly (if (cursDim d).2 then readsABC else readsAB))
      (cursEarly_of_clear (by split <;> simp [Reads.void, readsABC, readsAB, hva, hvb, hvc]) hoos) _
  · simp only [List.mem_cons, List.not_mem_nil, or_false] at hi
    rcases hi with rfl | rfl | rfl | rfl | rfl | rfl <;> exact walks (early := fun _ => none) rfl _

end Sys2Proof.Machine
end

section
/-! SUPPORT. Bytes little-endian, and writes of several bytes at addresses of their own. -/

namespace Sys2Proof.Machine

theorem length_bytesLE (n v : Nat) : (bytesLE n v).length = n := by
  induction n generalizing v with
  | zero => rfl
  | succ n ih => exact congrArg (· + 1) (ih _)

theorem getElem?_bytesLE {n i : Nat} (h : i < n) (v : Nat) : (bytesLE n v)[i]? = some (BitVec.ofNat 8 (v / 256 ^ i)) := by
  induction n generalizing i v with
  | zero => omega
  | succ n ih =>
    cases i with
    | zero => simp [bytesLE]
    | succ i => rw [bytesLE, List.getElem?_cons_succ, ih (by omega), Nat.div_div_eq_div_mul, Nat.pow_succ']

/-- Byte `i` of a word is bits 8i+7 : 8i (R3). -/
theorem ofNat_toNat_div_eq_extract (w : Word) (i : Nat) : BitVec.ofNat 8 (w.toNat / 256 ^ i) = w.extractLsb' (8 * i) 8 := by
  apply BitVec.eq_of_toNat_eq
  rw [BitVec.extractLsb'_toNat, BitVec.toNat_ofNat, Nat.shiftRight_eq_div_pow, Nat.pow_mul]

theorem State.wr_eq (s : State) (a : Nat) (b : Byte) : s.wr a b = { s with mem := (s.wr a b).mem } := by
  unfold State.wr
  split <;> rfl

theorem State.wrAll_eq (l : List (Nat × Byte)) (s : State) : s.wrAll l = { s with mem := (s.wrAll l).mem } := by
  induction l generalizing s with
  | nil => rfl
  | cons x r ih =>
    refine (ih (s.wr x.1 x.2)).trans ?_
    exact (congrArg (fun u : State => ({ u with mem := ((s.wr x.1 x.2).wrAll r).mem } : State)) (s.wr_eq x.1 x.2)).trans rfl

theorem State.wrAll_cons (s : State) (x : Nat × Byte) (r : List (Nat × Byte)) : s.wrAll (x :: r) = (s.wr x.1 x.2).wrAll r := rfl

theorem State.rd_wrAll_outside {l : List (Nat × Byte)} {s : State} (h : s.memOk) {x : Nat} (hx : x ∉ l.map (·.1)) :
    (s.wrAll l).rd x = s.rd x := by
  induction l generalizing s with
  | nil => rfl
  | cons y r ih =>
    obtain ⟨hne, hr⟩ := not_or.mp (List.mem_cons.not.mp hx)
    rw [State.wrAll_cons, ih (State.memOk_wr h _ _) hr, State.rd_wr_other h _ hne]

theorem State.rd_wrAll_of_mem {l : List (Nat × Byte)} {s : State} (h : s.memOk) (hnd : (l.map (·.1)).Nodup) {y : Nat × Byte} (hy : y ∈ l)
    (hm : isMemory y.1 = true) : (s.wrAll l).rd y.1 = y.2 := by
  induction l generalizing s with
  | nil => cases hy
  | cons z r ih =>
    obtain ⟨hnew, hnd⟩ := List.nodup_cons.mp hnd
    rw [State.wrAll_cons]
    rcases List.mem_cons.mp hy with rfl | hr
    · rw [State.rd_wrAll_outside (State.memOk_wr h _ _) hnew, State.rd_wr_same h _ hm]
    · exact ih (State.memOk_wr h _ _) hnd hr

/-- With no write queued, loads of an object that no cache holds read memory. -/
theorem State.loadBytes_home {s : State} (h : s.bridge = []) (core ctx : Nat) (l : List Nat) : s.loadBytes core ctx 3 l = (s, l.map s.rd) := by
  induction l with
  | nil => rfl
  | cons a r ih =>
    have hb : s.loadByte core ctx 3 a = (s, s.rd a) := by
      rw [State.loadByte, if_pos rfl, State.homeView, State.drainBridge_of_empty h]
    rw [State.loadBytes, hb]
    dsimp only
    rw [ih]
    rfl

/-- With no write queued, stores of an object that no cache holds write memory. -/
theorem State.storeBytes_home {s : State} (h : s.bridge = []) (core ctx : Nat) (l : List Nat) (bs : List Byte) :
    s.storeBytes core ctx 3 l bs = s.wrAll (l.zip bs) := by
  induction l generalizing s bs with
  | nil => rfl
  | cons a r ih =>
    cases bs with
    | nil => rfl
    | cons b bs =>
      have hb : s.storeByte core ctx 3 a b = s.wr a b := by
        rw [State.storeByte, if_pos rfl, State.homeWrite, State.drainBridge_of_empty h]
      rw [State.storeBytes, hb, ih (by rw [State.wr_eq]; exact h)]
      rfl

end Sys2Proof.Machine
end

section
/-! SUPPORT. An access that is due is performed: what its delivery and its charge leave (R33, R453). -/

namespace Sys2Proof.Machine

theorem Access.left_of_fresh {a : Access} (h : a.part = []) (bs : List Byte) : a.left bs = a.bytes.zip bs := by
  simp [Access.left, h]

theorem Access.withPart_of_fresh {a : Access} (h : a.part = []) (bs : List Byte) : a.withPart bs = bs := by
  simp [Access.withPart, h]

theorem Access.map_fst_zip_bytesLE (a : Access) (v : Nat) : (a.bytes.zip (bytesLE a.bytes.length v)).map (·.1) = a.bytes :=
  List.map_fst_zip (by rw [length_bytesLE])

/-- The loads and stores that are not atomic. -/
inductive PlainWord : Instr → Prop where
  | ld (pm : Pm) (w : MemTy) (t0 t1 : Target) : PlainWord (.ld pm w t0 t1)
  | ldsp (pm : Pm) (w : Width) (t0 t1 : Target) : PlainWord (.ldsp pm w t0 t1)
  | lda (pm : Pm) (w : Width) (t0 t1 : Target) : PlainWord (.lda pm w t0 t1)
  | st (pm : Pm) (w : MemTy) (t0 t1 : Target) : PlainWord (.st pm w t0 t1)
  | stsp (pm : Pm) (w : Width) (t0 t1 : Target) : PlainWord (.stsp pm w t0 t1)
  | sta (pm : Pm) (w : Width) (t0 t1 : Target) : PlainWord (.sta pm w t0 t1)

theorem State.lastingAt_of_none {s : State} (h : ∀ d ∈ s.dies, d.lasting = []) (x : Nat) : s.lastingAt x = false := by
  have hl : ((s.dies[homeDie x]?).map (·.lasting)).getD [] = [] := by
    cases hd : s.dies[homeDie x]? with
    | none => rfl
    | some d => exact h d (List.mem_of_getElem? hd)
  rw [State.lastingAt, hl, List.contains_nil, Bool.and_false]

theorem State.lastingFault_of_none {s : State} (h : ∀ d ∈ s.dies, d.lasting = []) (a : Access) : s.lastingFault a = none := by
  unfold State.lastingFault
  split
  · rfl
  · rw [List.find?_eq_none.mpr fun x _ => by rw [State.lastingAt_of_none h]; exact Bool.false_ne_true]
    rfl

/-- With no memory error planted and no block lost, a plain word's access meets none (R402). -/
theorem State.perform_plain {s : State} (he : s.errors = []) (hd : ∀ d ∈ s.dies, d.lasting = []) {a : Access} {i : Instr} (hi : a.instr = i)
    (h : PlainWord i) : s.perform a = if plainStore a.instr then s.performStore a else s.performLoad a := by
  have hm : State.meetErrors s.errors.length s a = (s, none) := by rw [he]; rfl
  unfold State.perform
  dsimp only
  rw [State.lastingFault_of_none hd, hm, ite_self]
  cases h <;> rw [hi] <;> rfl

/-- What remains to do once an access has its value: it leaves the list, its lane takes the value and its units are charged. -/
def State.conclude (s : State) (a : Access) (v : Val) : State := (s.deliverAccess a v).chargeUnits a.bytesAll

theorem State.conclude_frame {s u : State} {a : Access} (m : List Host.Cell) (l : List Sector) (hu : u = { s with mem := m, l1 := l })
    (ho : a.orphan = false) (v : Val) :
    OnlyMemory s (u.conclude a v) a ∧ (u.conclude a v).mem = u.mem ∧ (u.conclude a v).l1 = u.l1 ∧ (u.conclude a v).bridge = s.bridge := by
  subst hu
  unfold State.conclude State.deliverAccess
  rw [State.chargeUnits_eq, ho]
  exact ⟨⟨rfl, rfl, rfl, rfl, rfl, rfl, rfl, rfl, rfl⟩, rfl, rfl, rfl⟩

theorem State.conclude_lane {s u : State} {a : Access} {ln : Lane} (m : List Host.Cell) (l : List Sector)
    (hu : u = { s with mem := m, l1 := l }) (ho : a.orphan = false) (hl : s.lane? a.fid = some ln) (v : Val) :
    (u.conclude a v).lane? a.fid = some (ln.complete a.idx true (t0Of a.instr) (t1Of a.instr) v v) := by
  subst hu
  unfold State.conclude State.deliverAccess
  rw [State.chargeUnits_eq, ho]
  exact State.lane?_completeLane (s := (({ s with mem := m, l1 := l } : State).dropAccess a.id).moved a.ctx) hl ..

theorem State.performIf_of_conclude {s u : State} {a : Access} {m : List Host.Cell} {l : List Sector}
    (hmay : s.mayPerform a = true) (hpkg : a.pkg = none) (ho : a.orphan = false) (hu : u = { s with mem := m, l1 := l }) {v : Val}
    (hp : s.perform a = u.deliverAccess a v) : s.performIf a = u.conclude a v := by
  have hgone : (u.deliverAccess a v).accesses = s.accesses.filter (·.id ≠ a.id) := by
    subst hu
    unfold State.deliverAccess
    rw [ho]
    rfl
  have hcharged : s.performCharged a = u.conclude a v := by
    rw [State.performCharged, hp, if_neg, State.charge, hpkg]
    · rfl
    · rw [hgone]
      simp only [List.any_filter, List.any_eq_true]
      rintro ⟨o, -, h⟩
      obtain ⟨hne, ⟨heq, -⟩, -⟩ : ¬o.id = a.id ∧ (o.id = a.id ∧ o.phase = .ready) ∧ o.header = a.header := by simpa using h
      exact hne heq
  have hfind : (u.conclude a v).accesses.find? (·.id == a.id) = none := by
    obtain ⟨⟨hacc, -⟩, -⟩ := State.conclude_frame m l hu ho v
    rw [hacc]
    simp [List.find?_eq_none]
  rw [State.performIf, if_pos hmay, hcharged]
  dsimp only
  rw [hfind]

/-- MEM_ACCESS_PERFORMED of a plain word's access that is due, by what its load or store leaves of memory and of the caches. -/
theorem Due.exec_plain {s u : State} {n : Nat} {a : Access} {ln : Lane} {m : List Host.Cell} {l : List Sector} (h : Due s n a ln)
    {i : Instr} (hi : a.instr = i) (hw : PlainWord i) (hu : u = { s with mem := m, l1 := l }) {v : Val}
    (hp : (if plainStore a.instr then s.performStore a else s.performLoad a) = u.deliverAccess a v) :
    exec (.memAccessPerformed n) s = .next (u.conclude a v) := by
  obtain ⟨hat, -, hph, hpkg, ho, -, -, herr, -, -, hord, hbud, he, hd, -⟩ := h
  have hmay : s.mayPerform a = true := by
    unfold State.mayPerform
    rw [hph, herr, hord, hbud]
    cases hw <;> rw [hi] <;> rfl
  have hif := State.performIf_of_conclude hmay hpkg ho hu ((State.perform_plain he hd hi hw).trans hp)
  change execMemAccessPerformed n s = _
  unfold execMemAccessPerformed
  rw [hat]
  dsimp only
  rw [← hif]
  cases hw <;> rw [hi] <;> rfl

end Sys2Proof.Machine
end

section
/-! CERTIFICATE. O27: performed loads and stores. -/

namespace Sys2Proof.Machine

/-- The access reaches memory itself: a region, or an object that no cache holds with no write queued. -/
def Access.AtHome (s : State) (a : Access) : Prop := a.space ≠ .hbm ∨ a.coh = 3 ∧ s.bridge = []

theorem State.performLoad_atHome {s : State} {a : Access} (hpkg : a.pkg = none) (hn : a.nibble = none) (hsc : a.scaleAt = none)
    (hpart : a.part = []) (h : a.AtHome s) :
    s.performLoad a = s.deliverAccess a { bits := BitVec.ofNat 64 (natLE (a.bytes.map s.rd)) } := by
  have hv (sc : Nat) : loadValue a (a.withPart (a.bytes.map s.rd)) sc = BitVec.ofNat 64 (natLE (a.bytes.map s.rd)) := by
    simp [loadValue, hn, hsc, Access.withPart_of_fresh hpart]
  rw [State.performLoad, hpkg]
  dsimp only
  split
  case isTrue hs =>
    obtain hne | ⟨hcoh, hb⟩ := h
    · exact absurd hs hne
    · rw [hcoh, State.loadBytes_home hb, hsc]
      dsimp only
      rw [hv]
  case isFalse => rw [hv]

theorem State.performStore_atHome {s : State} {a : Access} (hpkg : a.pkg = none) (hn : a.nibble = none) (hpart : a.part = [])
    (h : a.AtHome s) :
    s.performStore a = (s.wrAll (a.bytes.zip (bytesLE a.bytes.length a.b.bits.toNat))).deliverAccess a { bits := 0 } := by
  have hbytes (old : List Byte) : a.left (storeBytesOf a old) = a.bytes.zip (bytesLE a.bytes.length a.b.bits.toNat) := by
    rw [Access.left_of_fresh hpart, storeBytesOf, hn]
  rw [State.performStore, hpkg]
  dsimp only
  split
  case isTrue hs =>
    obtain hne | ⟨hcoh, hb⟩ := h
    · exact absurd hs hne
    · rw [hn]
      dsimp only [Option.isSome_none]
      rw [if_neg Bool.false_ne_true]
      dsimp only
      rw [hbytes, hcoh, State.storeBytes_home hb, ← List.unzip_fst, ← List.unzip_snd, List.zip_unzip]
  case isFalse => rw [hbytes]

/-- Settles O27: a plain word's access reads or writes memory itself, then delivers. -/
theorem plainAccessesPerformed : Obligations.PlainAccessesPerformed := by
  intro s n a ln hdue hhome hmem hnd _
  obtain ⟨-, -, -, hpkg, ho, hn, hsc, -, hpart, hl, -, -, -, -, hok⟩ := id hdue
  refine ⟨fun pm w wd t0 t1 hi => ?_, fun pm w wd t0 t1 hi => ?_⟩
  · have ht : PlainWord a.instr ∧ plainStore a.instr = false ∧ t0Of a.instr = t0 ∧ t1Of a.instr = t1 := by
      simp only [List.mem_cons, List.not_mem_nil, or_false] at hi
      rcases hi with hi | hi | hi <;> rw [hi] <;> exact ⟨by constructor, rfl, rfl, rfl⟩
    obtain ⟨hw, hstore, rfl, rfl⟩ := ht
    have hu : s = { s with mem := s.mem, l1 := s.l1 } := rfl
    have hp := State.performLoad_atHome hpkg hn hsc hpart hhome
    obtain ⟨honly, hm, -⟩ := State.conclude_frame s.mem s.l1 hu ho { bits := BitVec.ofNat 64 (natLE (a.bytes.map s.rd)) }
    exact ⟨_, hdue.exec_plain rfl hw hu (by rw [hstore]; exact hp), hm, honly, State.conclude_lane _ _ hu ho hl _⟩
  · have ht : PlainWord a.instr ∧ plainStore a.instr = true ∧ t0Of a.instr = t0 ∧ t1Of a.instr = t1 := by
      simp only [List.mem_cons, List.not_mem_nil, or_false] at hi
      rcases hi with hi | hi | hi <;> rw [hi] <;> exact ⟨by constructor, rfl, rfl, rfl⟩
    obtain ⟨hw, hstore, rfl, rfl⟩ := ht
    generalize hz : a.bytes.zip (bytesLE a.bytes.length a.b.bits.toNat) = z
    have hfst : z.map (·.1) = a.bytes := hz ▸ a.map_fst_zip_bytesLE _
    have hu : s.wrAll z = { s with mem := (s.wrAll z).mem, l1 := s.l1 } := s.wrAll_eq z
    have hp := hz ▸ State.performStore_atHome hpkg hn hpart hhome
    obtain ⟨honly, hm, -⟩ := State.conclude_frame _ s.l1 hu ho { bits := 0 }
    have hrd := State.rd_of_mem hm
    refine ⟨_, hdue.exec_plain rfl hw hu (by rw [hstore]; exact hp), honly, fun i x hx => ?_, fun x hx => ?_,
      State.conclude_lane _ s.l1 hu ho hl _⟩
    · obtain ⟨hlt, -⟩ := List.getElem?_eq_some_iff.mp hx
      have hy : (x, a.b.bits.extractLsb' (8 * i) 8) ∈ z := by
        refine List.mem_of_getElem? (i := i) ?_
        rw [← hz, List.getElem?_zip_eq_some]
        exact ⟨hx, (getElem?_bytesLE hlt _).trans (congrArg some (ofNat_toNat_div_eq_extract _ _))⟩
      rw [hrd]
      exact State.rd_wrAll_of_mem hok (hfst ▸ hnd) hy (hmem x (List.mem_of_getElem? hx))
    · rw [hrd]
      exact State.rd_wrAll_outside hok (hfst ▸ hx)

end Sys2Proof.Machine
end

section
/-! SUPPORT. Stores into an L1 that has place for their lines: the sectors and the dirty bytes they leave (R255). -/

namespace Sys2Proof.Machine

/-! ### One sector -/

theorem sectorIs_iff {core addr : Nat} {pkg : Option Nat} {k : Sector} :
    sectorIs core addr pkg k = true ↔ k.core = core ∧ k.addr = addr ∧ k.pkg = pkg := by
  simp [sectorIs, and_assoc]

theorem Sector.byte_store_same {k : Sector} {i : Nat} (h : i < k.bytes.length) (c : Nat) (shrd : Bool) (b : Byte) :
    (k.store c shrd i b).byte i = b := by
  simp [Sector.byte, Sector.store, h]

theorem Sector.byte_store_other {i j : Nat} (h : i ≠ j) (c : Nat) (shrd : Bool) (b : Byte) (k : Sector) :
    (k.store c shrd i b).byte j = k.byte j := by
  simp [Sector.byte, Sector.store, h]

theorem Sector.length_bytes_store (c : Nat) (shrd : Bool) (i : Nat) (b : Byte) (k : Sector) :
    (k.store c shrd i b).bytes.length = k.bytes.length := by
  simp [Sector.store]

theorem Sector.dirty_store (c : Nat) (shrd : Bool) (i : Nat) (b : Byte) (k : Sector) (j : Nat) :
    (k.store c shrd i b).dirty.getLsbD j = (k.dirty.getLsbD j || (decide (j < 32) && decide (i = j))) := by
  rw [Sector.store, BitVec.getLsbD_or, BitVec.getLsbD_ofNat, Nat.testBit_two_pow]

theorem Sector.dirty_store_same (c : Nat) (shrd : Bool) {i : Nat} (h : i < 32) (b : Byte) (k : Sector) :
    (k.store c shrd i b).dirty.getLsbD i = true := by
  simp [Sector.dirty_store, h]

theorem Sector.dirty_store_of_dirty {k : Sector} {j : Nat} (h : k.dirty.getLsbD j = true) (c : Nat) (shrd : Bool) (i : Nat) (b : Byte) :
    (k.store c shrd i b).dirty.getLsbD j = true := by
  rw [Sector.dirty_store, h, Bool.true_or]

/-! ### The sectors of an L1 -/

/-- Sectors are told apart by core, address and package, and hold 32 bytes. -/
def SectorsOk (l : List Sector) : Prop :=
  (∀ x y, x ∈ l → y ∈ l → x.core = y.core → x.addr = y.addr → x.pkg = y.pkg → x = y) ∧ ∀ x ∈ l, x.bytes.length = 32

/-- A core holds a byte of this package's memory dirty, with a value. -/
def HeldDirty (l : List Sector) (core x : Nat) (b : Byte) : Prop :=
  ∃ k ∈ l, k.core = core ∧ k.addr = x / 32 * 32 ∧ k.pkg = none ∧ k.dirty.getLsbD (x % 32) = true ∧ k.byte (x % 32) = b

/-- The 64-byte lines of a core among some sectors. -/
def linesIn (core : Nat) (l : List Sector) : List (Nat × Option Nat) :=
  ((l.filter (·.core = core)).map fun x => (x.addr / 64, x.pkg)).eraseDups

theorem State.linesOf_eq_linesIn (s : State) (core : Nat) : s.linesOf core = linesIn core s.l1 := rfl

/-- What a store of one byte leaves of the sectors. -/
def StoresByte (core a : Nat) (b : Byte) (l m : List Sector) : Prop :=
  SectorsOk m ∧ HeldDirty m core a b ∧ (∀ c x v, ¬(c = core ∧ x = a) → HeldDirty l c x v → HeldDirty m c x v) ∧
    (linesIn core m).length ≤ (linesIn core l).length + 1

theorem find?_sector {l : List Sector} (h : SectorsOk l) {k : Sector} (hk : k ∈ l) :
    l.find? (sectorIs k.core k.addr k.pkg) = some k := by
  obtain ⟨hone, -⟩ := h
  cases hf : l.find? (sectorIs k.core k.addr k.pkg) with
  | none => exact absurd (sectorIs_iff.mpr ⟨rfl, rfl, rfl⟩) (List.find?_eq_none.mp hf k hk)
  | some x =>
    obtain ⟨hc, ha, hp⟩ := sectorIs_iff.mp (List.find?_some hf)
    rw [hone x k (List.mem_of_find?_eq_some hf) hk hc ha hp]

/-- A store changes the sectors of one place alone. -/
def storeIn (core ctx : Nat) (shrd : Bool) (a : Nat) (b : Byte) (k : Sector) : Sector :=
  if sectorIs core (a / 32 * 32) none k then k.store ctx shrd (a % 32) b else k

theorem storeIn_key (core ctx : Nat) (shrd : Bool) (a : Nat) (b : Byte) (k : Sector) :
    (storeIn core ctx shrd a b k).core = k.core ∧ (storeIn core ctx shrd a b k).addr = k.addr ∧
      (storeIn core ctx shrd a b k).pkg = k.pkg ∧ (storeIn core ctx shrd a b k).bytes.length = k.bytes.length := by
  unfold storeIn
  split
  · exact ⟨rfl, rfl, rfl, Sector.length_bytes_store ..⟩
  · exact ⟨rfl, rfl, rfl, rfl⟩

theorem storeIn_keeps_dirty {core c x a : Nat} {k : Sector} (hc : k.core = c) (ha : k.addr = x / 32 * 32)
    (hd : k.dirty.getLsbD (x % 32) = true) (hne : ¬(c = core ∧ x = a)) (ctx : Nat) (shrd : Bool) (b : Byte) :
    (storeIn core ctx shrd a b k).dirty.getLsbD (x % 32) = true ∧ (storeIn core ctx shrd a b k).byte (x % 32) = k.byte (x % 32) := by
  unfold storeIn
  split
  case isTrue h =>
    obtain ⟨hcore, haddr, -⟩ := sectorIs_iff.mp h
    have hoff : a % 32 ≠ x % 32 := fun e => hne ⟨hc.symm.trans hcore, by omega⟩
    exact ⟨Sector.dirty_store_of_dirty hd .., Sector.byte_store_other hoff ..⟩
  case isFalse => exact ⟨hd, rfl⟩

/-- A store into a sector that the core holds. -/
theorem storesByte_map {l : List Sector} (h : SectorsOk l) {core a : Nat} {k : Sector}
    (hf : l.find? (sectorIs core (a / 32 * 32) none) = some k) (ctx : Nat) (shrd : Bool) (b : Byte) :
    StoresByte core a b l (l.map (storeIn core ctx shrd a b)) := by
  obtain ⟨hone, h32⟩ := h
  have hkey := storeIn_key core ctx shrd a b
  have hk : k ∈ l := List.mem_of_find?_eq_some hf
  have his := List.find?_some hf
  obtain ⟨hcore, haddr, hpkg⟩ := sectorIs_iff.mp his
  refine ⟨⟨?_, ?_⟩, ⟨_, List.mem_map_of_mem hk, ?_⟩, ?_, ?_⟩
  · intro x y hx hy hc ha hp
    obtain ⟨x, hxl, rfl⟩ := List.mem_map.mp hx
    obtain ⟨y, hyl, rfl⟩ := List.mem_map.mp hy
    obtain ⟨hxc, hxa, hxp, -⟩ := hkey x
    obtain ⟨hyc, hya, hyp, -⟩ := hkey y
    rw [hone x y hxl hyl (hxc ▸ hyc ▸ hc) (hxa ▸ hya ▸ ha) (hxp ▸ hyp ▸ hp)]
  · intro x hx
    obtain ⟨x, hxl, rfl⟩ := List.mem_map.mp hx
    obtain ⟨-, -, -, hlen⟩ := hkey x
    exact hlen.trans (h32 x hxl)
  · rw [storeIn, if_pos his]
    exact ⟨hcore, haddr, hpkg, Sector.dirty_store_same _ _ (Nat.mod_lt _ (by omega)) ..,
      Sector.byte_store_same (by rw [h32 k hk]; exact Nat.mod_lt _ (by omega)) ..⟩
  · rintro c x v hne ⟨j, hj, hjc, hja, hjp, hjd, rfl⟩
    obtain ⟨hc, ha, hp, -⟩ := hkey j
    exact ⟨_, List.mem_map_of_mem hj, hc.trans hjc, ha.trans hja, hp.trans hjp, storeIn_keeps_dirty hjc hja hjd hne ..⟩
  · have hlines : linesIn core (l.map (storeIn core ctx shrd a b)) = linesIn core l := by
      unfold linesIn
      rw [List.filter_map, List.map_map]
      congr 1
      have hp : ((fun x : Sector => decide (x.core = core)) ∘ storeIn core ctx shrd a b) = fun x : Sector => decide (x.core = core) :=
        funext fun x => by
          obtain ⟨hc, -⟩ := hkey x
          rw [Function.comp_apply, hc]
      rw [hp]
      exact List.map_congr_left fun x _ => by
        obtain ⟨-, ha, hp, -⟩ := hkey x
        rw [Function.comp_apply, ha, hp]
    rw [hlines]
    exact Nat.le_succ _

theorem length_linesIn_append (core : Nat) (l : List Sector) (k : Sector) :
    (linesIn core (l ++ [k])).length ≤ (linesIn core l).length + 1 := by
  unfold linesIn
  rw [List.filter_append, List.map_append, List.eraseDups_append, List.length_append]
  refine Nat.add_le_add_left ?_ _
  by_cases hk : k.core = core
  · simp only [List.filter_cons, hk, decide_true, if_true, List.filter_nil, List.map_cons, List.map_nil, List.removeAll]
    split <;> simp [List.eraseDups_cons]
  · simp [hk, List.removeAll]

/-- A store into a sector that the core does not hold: a new one with the one valid byte. -/
theorem storesByte_append {l : List Sector} (h : SectorsOk l) {core a : Nat} (hf : l.find? (sectorIs core (a / 32 * 32) none) = none)
    {k : Sector} (hk : sectorIs core (a / 32 * 32) none k = true) (h32 : k.bytes.length = 32) (ctx : Nat) (shrd : Bool) (b : Byte) :
    StoresByte core a b l (l ++ [k.store ctx shrd (a % 32) b]) := by
  obtain ⟨hone, hlen⟩ := h
  obtain ⟨hcore, haddr, hpkg⟩ := sectorIs_iff.mp hk
  have hnew {x : Sector} (hx : x ∈ l) (hc : x.core = k.core) (ha : x.addr = k.addr) (hp : x.pkg = k.pkg) : False :=
    List.find?_eq_none.mp hf x hx (sectorIs_iff.mpr ⟨hc.trans hcore, ha.trans haddr, hp.trans hpkg⟩)
  refine ⟨⟨?_, ?_⟩, ⟨_, List.mem_append_right _ (List.mem_singleton_self _), hcore, haddr, hpkg, ?_, ?_⟩, ?_, length_linesIn_append ..⟩
  · intro x y hx hy hc ha hp
    rcases List.mem_append.mp hx with hx | hx <;> rcases List.mem_append.mp hy with hy | hy
    · exact hone x y hx hy hc ha hp
    · cases List.mem_singleton.mp hy
      exact (hnew hx hc ha hp).elim
    · cases List.mem_singleton.mp hx
      exact (hnew hy hc.symm ha.symm hp.symm).elim
    · rw [List.mem_singleton.mp hx, List.mem_singleton.mp hy]
  · intro x hx
    rcases List.mem_append.mp hx with hx | hx
    · exact hlen x hx
    · rw [List.mem_singleton.mp hx, Sector.length_bytes_store, h32]
  · exact Sector.dirty_store_same _ _ (Nat.mod_lt _ (by omega)) ..
  · exact Sector.byte_store_same (by rw [h32]; exact Nat.mod_lt _ (by omega)) ..
  · rintro c x v - ⟨j, hj, hheld⟩
    exact ⟨j, List.mem_append_left _ hj, hheld⟩

/-! ### Stores -/

/-- A store into an L1 with place for one more line. -/
theorem State.storeL1_stores {s : State} (h : SectorsOk s.l1) {core : Nat} (hroom : (s.linesOf core).length < Config.l1Lines)
    (ctx coh a : Nat) (b : Byte) :
    ∃ m, s.storeL1 core ctx coh none a b = { s with l1 := m } ∧ StoresByte core a b s.l1 m := by
  unfold State.storeL1
  dsimp only
  cases hf : s.l1.find? (sectorIs core (a / 32 * 32) none) with
  | some k => exact ⟨_, rfl, storesByte_map h hf ctx _ b⟩
  | none =>
    have hsame : s.l1Room core (a / 32 * 32) none = s := by
      rw [State.l1Room, if_pos]
      simp [hroom]
    dsimp only
    rw [hsame]
    exact ⟨_, rfl, storesByte_append h hf (sectorIs_iff.mpr ⟨rfl, rfl, rfl⟩) (List.length_replicate ..) ctx _ b⟩

/-- Stores of several bytes into an L1 with place for a line each. -/
theorem State.storeBytes_cached {coh : Nat} (hcoh : coh ≠ 3) (core ctx : Nat) (l : List Nat) (bs : List Byte) {s : State} (h : SectorsOk s.l1)
    (hnd : l.Nodup) (hroom : (s.linesOf core).length + l.length ≤ Config.l1Lines) :
    ∃ m, s.storeBytes core ctx coh l bs = { s with l1 := m } ∧ SectorsOk m ∧
      (∀ (i x : Nat) (b : Byte), l[i]? = some x → bs[i]? = some b → HeldDirty m core x b) ∧
      ∀ c x v, ¬(c = core ∧ x ∈ l) → HeldDirty s.l1 c x v → HeldDirty m c x v := by
  induction l generalizing s bs with
  | nil => exact ⟨s.l1, by cases bs <;> rfl, h, fun i x b hx => (by cases hx), fun _ _ _ _ hd => hd⟩
  | cons a r ih =>
    cases bs with
    | nil => exact ⟨s.l1, rfl, h, fun i x b _ hb => (by cases hb), fun _ _ _ _ hd => hd⟩
    | cons b bs =>
      obtain ⟨hnew, hnd⟩ := List.nodup_cons.mp hnd
      rw [List.length_cons] at hroom
      obtain ⟨m, hm, hok, hheld, hkeep, hlen⟩ := State.storeL1_stores h (by omega : (s.linesOf core).length < Config.l1Lines) ctx coh a b
      obtain ⟨n, hn, hnok, hnheld, hnkeep⟩ := ih bs (s := { s with l1 := m }) hok hnd (by
        rw [State.linesOf_eq_linesIn] at hroom ⊢
        dsimp only at hlen ⊢
        omega)
      refine ⟨n, ?_, hnok, fun i x v hx hv => ?_, fun c x v hne hd => ?_⟩
      · rw [State.storeBytes, State.storeByte, if_neg hcoh, hm, hn]
      · cases i with
        | zero =>
          cases hx
          cases hv
          exact hnkeep _ _ _ (fun e => hnew e.2) hheld
        | succ i => exact hnheld i x v hx hv
      · exact hnkeep c x v (fun e => hne ⟨e.1, List.mem_cons_of_mem _ e.2⟩)
          (hkeep c x v (fun e => hne ⟨e.1, e.2 ▸ List.mem_cons_self⟩) hd)

/-! ### A load of what is held dirty -/

theorem find?_map_sector {core addr : Nat} {pkg : Option Nat} {g : Sector → Sector}
    (hg : ∀ y, sectorIs core addr pkg (g y) = sectorIs core addr pkg y) {l : List Sector} {k : Sector}
    (hf : l.find? (sectorIs core addr pkg) = some k) : (l.map g).find? (sectorIs core addr pkg) = some (g k) := by
  rw [List.find?_map, show sectorIs core addr pkg ∘ g = sectorIs core addr pkg from funext hg, hf]
  rfl

/-- A core that holds a byte dirty loads its value (R255). -/
theorem State.loadByte_of_held {s : State} (h : SectorsOk s.l1) {core x : Nat} {b : Byte} (hheld : HeldDirty s.l1 core x b) {coh : Nat}
    (hcoh : coh ≠ 3) (ctx : Nat) : (s.loadByte core ctx coh x).2 = b := by
  obtain ⟨k, hk, rfl, haddr, hpkg, hd, rfl⟩ := hheld
  have hf : s.l1.find? (sectorIs k.core (x / 32 * 32) none) = some k := haddr ▸ hpkg ▸ find?_sector h hk
  rw [State.loadByte, if_neg hcoh]
  unfold State.fill
  simp only [State.l1_homeView, hf]
  rw [find?_map_sector _ hf]
  · dsimp only
    rw [if_pos (List.find?_some hf)]
    split
    · rfl
    · simp [Sector.byte, hd, Nat.mod_lt x (show 0 < 32 by omega)]
  · intro y
    split
    · split <;> rfl
    · rfl

end Sys2Proof.Machine
end

section
/-! CERTIFICATE. O28: a store of a cached object stays in its core. -/

namespace Sys2Proof.Machine

theorem State.performStore_cached {s : State} {a : Access} (hpkg : a.pkg = none) (hn : a.nibble = none) (hpart : a.part = [])
    (hs : a.space = .hbm) :
    s.performStore a = (s.storeBytes a.core a.ctx a.coh a.bytes (bytesLE a.bytes.length a.b.bits.toNat)).deliverAccess a { bits := 0 } := by
  rw [State.performStore, hpkg]
  dsimp only
  rw [if_pos hs, hn]
  dsimp only [Option.isSome_none]
  rw [if_neg Bool.false_ne_true]
  dsimp only
  have hlen : a.bytes.length = (bytesLE a.bytes.length a.b.bits.toNat).length := (length_bytesLE ..).symm
  rw [Access.left_of_fresh hpart, storeBytesOf, hn, List.map_fst_zip hlen.le, List.map_snd_zip hlen.ge]

/-- Settles O28: the store's bytes go into sectors of its core's L1 one after another, each of which keeps what is held dirty. -/
theorem cachedStores : Obligations.CachedStores := by
  intro s n a ln pm w t0 t1 hdue hi hs hcoh hnd _ hone h32 hroom
  obtain ⟨-, -, -, hpkg, ho, hn, -, -, hpart, hl, -⟩ := id hdue
  have hc3 : a.coh ≠ 3 := by omega
  have hp := State.performStore_cached (s := s) hpkg hn hpart hs
  obtain ⟨m, hm, hok, hheld, hkeep⟩ := State.storeBytes_cached hc3 a.core a.ctx a.bytes (bytesLE a.bytes.length a.b.bits.toNat)
    ⟨hone, h32⟩ hnd hroom
  rw [hm] at hp
  obtain ⟨honly, hmem, hl1, hbridge⟩ := State.conclude_frame (s := s) s.mem m rfl ho { bits := 0 }
  replace hl1 : _ = m := hl1
  have hlane := State.conclude_lane s.mem m rfl ho hl { bits := 0 }
  rw [hi] at hlane
  refine ⟨_, hdue.exec_plain hi (.st pm w t0 t1) rfl (by rw [hi]; exact hp), hmem, hbridge, honly, hlane, fun i x hx => ?_, ?_⟩
  · obtain ⟨hlt, -⟩ := List.getElem?_eq_some_iff.mp hx
    have hb := hheld i x _ hx ((getElem?_bytesLE hlt _).trans (congrArg some (ofNat_toNat_div_eq_extract _ _)))
    rw [← hl1] at hok hb
    refine ⟨?_, State.loadByte_of_held hok hb hc3 _⟩
    obtain ⟨k, hk, hkc, hka, hkp, hkd, -⟩ := hb
    exact ⟨k, hk, hkc, hka, hkp, hkd⟩
  · intro x hx k hk hkp hka hkd
    rw [hl1, hka]
    exact hkeep k.core x (k.byte (x % 32)) (fun e => hx e.2) ⟨k, hk, rfl, hka, hkp, hkd, rfl⟩

end Sys2Proof.Machine
end

section
/-! SUPPORT. The fold of a core where no token of the context is spilled: what a token that meets it leaves (R164, R188). -/

namespace Sys2Proof.Machine

/-! ### Frames -/

theorem State.wrN_eq (l : List Byte) (s : State) (a : Nat) : s.wrN a l = { s with mem := (s.wrN a l).mem } := by
  induction l generalizing s a with
  | nil => rfl
  | cons b r ih =>
    refine (ih (s.wr a b) (a + 1)).trans ?_
    exact (congrArg (fun u : State => ({ u with mem := ((s.wr a b).wrN (a + 1) r).mem } : State)) (s.wr_eq a b)).trans rfl

theorem State.writeFrame_eq (s : State) (e : FoldEntry) : s.writeFrame e = { s with mem := (s.writeFrame e).mem } := by
  unfold State.writeFrame
  cases s.frameAddr e with
  | none => rfl
  | some a => exact s.wrN_eq _ a

/-! ### Completed entries -/

/-- The `Ready` that a completed entry becomes. -/
def FoldEntry.Readies (e : FoldEntry) (r : Ready) : Prop :=
  r.core = e.core ∧ r.ctx = e.ctx ∧ r.block = e.block ∧ r.tag = e.tag ∧ r.frame = e.slots.map fun x => x.getD (0, false)

theorem State.inq_stir (s : State) (core d : Nat) : ((s.stir core).core d).inq = (s.core d).inq := by
  by_cases hd : d = core
  · subst hd
    by_cases hlt : d < s.cores.length
    · rw [State.stir, State.core_updCore_same hlt]
      split <;> rfl
    · simp [State.stir, State.core, State.updCore, hlt]
  · rw [State.stir, State.core_updCore_other hd]

theorem State.makeReady_spec (s : State) (e : FoldEntry) :
    (s.makeReady e).fold = s.fold ∧ (∃ r, (s.makeReady e).ready = s.ready ++ [r] ∧ e.Readies r) ∧
      ∀ d, ((s.makeReady e).core d).inq = (s.core d).inq :=
  ⟨rfl, ⟨_, rfl, rfl, rfl, rfl, rfl, rfl⟩, fun d => State.inq_stir _ _ d⟩

theorem State.promote_of_complete {s : State} {e : FoldEntry} {core : Nat} (hf : s.fold = [e]) (hc : e.core = core) (hs : e.state = 0)
    (hcomp : e.complete = true) (hroom : (s.ready.filter (·.core = core)).length < 1024) :
    s.promote core = { s.makeReady e with fold := [] } := by
  obtain ⟨n, hn⟩ : ∃ n, 1024 - (s.ready.filter (·.core = core)).length = n + 1 := ⟨_, (Nat.succ_pred_eq_of_pos (by omega)).symm⟩
  have hmk : (s.makeReady e).fold = [e] := hf
  unfold State.promote
  dsimp only
  rw [hn, hf, List.filter_cons_of_pos (by simp [hc, hs, hcomp])]
  simp only [List.filter_nil, sortBy, List.foldl_cons, List.foldl_nil, insertBy, List.take_succ_cons, List.take_nil, hmk]
  rw [show ([e].filter fun g => !List.contains [e] g) = [] by simp]

theorem State.promote_of_waiting {s : State} {e : FoldEntry} {core : Nat} (hf : s.fold = [e]) (hcomp : e.complete = false) :
    s.promote core = s := by
  unfold State.promote
  dsimp only
  rw [hf, List.filter_cons_of_neg (by simp [hcomp])]
  simp only [List.filter_nil, sortBy, List.foldl_nil, List.take_nil, List.contains_nil, Bool.not_false, List.filter_true]

/-- The last steps of a token that has met the fold: completed entries become ready and pens bind. -/
def State.settleFold (s : State) (core x : Nat) : State := ((s.promote core).rebind core).moved x

/-- The one entry of the fold, complete, becomes one new `Ready`. -/
theorem State.settleFold_of_complete {s : State} {e : FoldEntry} {core : Nat} (hf : s.fold = [e]) (hc : e.core = core) (hs : e.state = 0)
    (hcomp : e.complete = true) (hroom : (s.ready.filter (·.core = core)).length < 1024) (x : Nat) :
    (s.settleFold core x).fold = [] ∧ (∃ r ∈ (s.settleFold core x).ready, e.Readies r) ∧
      ((s.settleFold core x).core core).inq = (s.core core).inq := by
  obtain ⟨-, ⟨r, hr, hreadies⟩, hinq⟩ := s.makeReady_spec e
  unfold State.settleFold
  rw [State.promote_of_complete hf hc hs hcomp hroom]
  refine ⟨rfl, ⟨r, ?_, hreadies⟩, hinq core⟩
  exact hr ▸ List.mem_append_right _ (List.mem_singleton_self r)

/-- An entry that still waits stays. -/
theorem State.settleFold_of_waiting {s : State} {e : FoldEntry} {core : Nat} (hf : s.fold = [e]) (hcomp : e.complete = false) (x : Nat) :
    (s.settleFold core x).fold = [e] ∧ (s.settleFold core x).ready = s.ready ∧ ((s.settleFold core x).core core).inq = (s.core core).inq := by
  unfold State.settleFold
  rw [State.promote_of_waiting hf hcomp]
  exact ⟨hf, rfl, rfl⟩

/-! ### A token that meets the fold -/

theorem State.meetFold_of_present {s t : State} {e : FoldEntry} {c : Ctx} (hc : s.ctx? e.ctx = some c) (hpin : c.pin = [])
    (ht : s.present e = some t) (tr : Transit) (held : Bool) : s.meetFold e tr held = t.settleFold e.core e.ctx := by
  have hrep : s.representSpilled e.core e.ctx = s := by
    unfold State.representSpilled
    rw [hc]
    dsimp only
    rw [hpin]
    split <;> rfl
  have hahead : c.pinnedAhead e = false := by rw [Ctx.pinnedAhead, hpin]; rfl
  unfold State.meetFold
  dsimp only
  rw [hrep, hc, Option.map_some, hahead, Option.getD_some, if_neg Bool.false_ne_true, ht]
  rfl

/-- The first token of its name, with a frame free, starts an entry. -/
theorem State.present_of_empty {s : State} {e : FoldEntry} {f : FrameRef} (hf : s.fold = []) (he : s.eldest = [])
    (hframe : s.frame1 e.core e.ctx e.units = some f) :
    ∃ t, s.present e = some t ∧ t.fold = [{ e with place := some f, state := 0, dup := none, way := 0 }] ∧ t.ready = s.ready ∧
      t.cores = s.cores := by
  refine ⟨s.foldAdd { e with place := some f }, ?_, ?_⟩
  · have hroom : s.setRoom e = some s := by
      rw [State.setRoom, if_pos]
      simp [State.setOf, hf]
    unfold State.present
    dsimp only
    rw [hf, he]
    simp only [List.filter_nil, List.map_nil, List.append_nil, minBy, hroom, State.placeEntry, hframe]
  · unfold State.foldAdd
    dsimp only
    rw [State.writeFrame_eq]
    refine ⟨?_, rfl, rfl⟩
    have hset : s.setOf { e with place := some f } = [] := by rw [State.setOf, hf]; rfl
    dsimp only
    rw [hf, hset]
    rfl

/-- A token that the one entry of its name takes joins it. -/
theorem State.present_of_accepts {s : State} {e g : FoldEntry} (hf : s.fold = [g]) (he : s.eldest = [])
    (hnamed : g.named e.core e.ctx e.block e.tag = true) (hacc : g.accepts e = true) :
    ∃ t, s.present e = some t ∧ t.fold = [g.absorb e] ∧ t.ready = s.ready ∧ t.cores = s.cores := by
  refine ⟨({ s with fold := [g.absorb e], eldest := [] } : State).writeFrame (g.absorb e), ?_, ?_⟩
  · unfold State.present
    dsimp only
    rw [hf, he, List.filter_cons_of_pos (by simp [hnamed, hacc])]
    simp only [List.filter_nil, List.map_nil, List.append_nil, minBy, List.map_cons, if_true]
  · rw [State.writeFrame_eq]
    exact ⟨rfl, rfl, rfl⟩

/-! ### Its arrival -/

theorem State.execTokenArrival_of_arrives {s : State} {core : Nat} {tr : Transit} {rest : List Transit} {c : Ctx}
    (h : Arrives s core tr rest c) :
    exec (.tokenArrival core) s = .next ((s.updCore core fun k => { k with inq := rest }).arriveAt tr false) := by
  obtain ⟨hinq, hcame, hpow, -, -, -, -, -, -, -, hheld, -⟩ := h
  have hempty : (s.updCore core fun k => { k with inq := rest }).pinHeld = [] := hheld
  change execTokenArrival core s = _
  unfold execTokenArrival
  rw [hinq]
  dsimp only
  rw [if_neg (by simp [hpow, hcame]), State.offer, State.heldAhead, hempty, List.any_nil, if_neg Bool.false_ne_true, State.arrive, hempty]
  rfl

/-- The state in which an arriving token has left the inbound queue. -/
def State.taken (s : State) (core : Nat) (rest : List Transit) : State := s.updCore core fun k => { k with inq := rest }

theorem State.arriveAt_of_arrives {s : State} {core : Nat} {tr : Transit} {rest : List Transit} {c : Ctx} (h : Arrives s core tr rest c) :
    (s.taken core rest).arriveAt tr false =
      if s.filtered core tr.ctx tr.tok.hpkg tr.tok.tag tr.tok.epoch then
        (s.taken core rest).updCtx tr.ctx fun c => { c with killed := satInc c.killed }
      else (s.taken core rest).meetFold (tr.entry (c.inputsOf tr.tok.block)) tr false := by
  obtain ⟨-, -, -, -, hdst, hc, hdrain, hgang, hsaved, -⟩ := h
  have hc' : (s.taken core rest).ctx? tr.ctx = some c := hc
  have hsec (k : Nat) : (c.section? k).isSome = false := by rw [Ctx.section?, hsaved]; rfl
  have hearly : c.waitsForTick = false := by rw [Ctx.waitsForTick, hgang]
  unfold State.arriveAt
  rw [hc']
  dsimp only
  rw [hdrain, hsec, hearly, hdst, Bool.and_false]
  rfl

end Sys2Proof.Machine
end

section
/-! SUPPORT. The slots of an entry as its tokens come (R20, R163), and a held token whose release is performed (R132). -/

namespace Sys2Proof.Machine

/-! ### Slots -/

/-- The slots of an entry that one token has started. -/
def firstSlots (n k : Nat) (v : Word × Bool) : List (Option (Word × Bool)) := (List.replicate n none).set k (some v)

theorem getElem?_firstSlots {n k i : Nat} (hi : i < n) (v : Word × Bool) :
    (firstSlots n k v)[i]? = some (if k = i then some v else none) := by
  unfold firstSlots
  by_cases hk : k = i
  · subst hk
    simp [hi]
  · simp [hk, hi]

theorem FoldEntry.complete_of_one {e : FoldEntry} {k : Nat} {v : Word × Bool} (h : e.slots = firstSlots 1 k v) (hk : k < 1) :
    e.complete = true := by
  obtain rfl : k = 0 := by omega
  rw [FoldEntry.complete, h]
  rfl

theorem FoldEntry.waits_of_more {e : FoldEntry} {n k : Nat} {v : Word × Bool} (h : e.slots = firstSlots n k v) (hn : 1 < n) :
    e.complete = false := by
  have hempty : none ∈ e.slots := by
    refine List.mem_of_getElem? (i := if k = 0 then 1 else 0) ?_
    rw [h, getElem?_firstSlots (by split <;> omega)]
    split <;> simp_all
  rw [FoldEntry.complete, List.all_eq_false]
  exact ⟨none, hempty, by simp⟩

/-- The slots of an entry whose every slot but `k` is filled. -/
def LacksOnly (l : List (Option (Word × Bool))) (n k : Nat) : Prop :=
  l.length = n ∧ l[k]? = some none ∧ ∀ i, i < n → i ≠ k → ∃ v, l[i]? = some (some v)

theorem FoldEntry.accepts_first {e f : FoldEntry} {n k : Nat} {v : Word × Bool} (h : LacksOnly e.slots n k) (hf : f.slots = firstSlots n k v) :
    e.accepts f = true := by
  obtain ⟨hlen, hk, -⟩ := h
  rw [FoldEntry.accepts, List.all_eq_true]
  rintro ⟨a, b⟩ hab
  obtain ⟨i, hi⟩ := List.mem_iff_getElem?.mp hab
  obtain ⟨ha, hb⟩ := List.getElem?_zip_eq_some.mp hi
  obtain ⟨hlt, -⟩ := List.getElem?_eq_some_iff.mp ha
  rw [hf, getElem?_firstSlots (hlen ▸ hlt)] at hb
  by_cases hki : k = i
  · obtain rfl : a = none := Option.some.inj (ha.symm.trans (hki ▸ hk))
    rfl
  · obtain rfl : b = none := Option.some.inj (hb.symm.trans (by rw [if_neg hki]))
    simp

theorem FoldEntry.absorb_first {e f : FoldEntry} {n k : Nat} {v : Word × Bool} (h : LacksOnly e.slots n k) (hf : f.slots = firstSlots n k v) :
    (e.absorb f).slots = e.slots.set k (some v) := by
  obtain ⟨hlen, hk, hrest⟩ := h
  have hkn : k < e.slots.length := (List.getElem?_eq_some_iff.mp hk).1
  refine List.ext_getElem? fun i => ?_
  rw [show (e.absorb f).slots = List.zipWith (fun a b => match a with | some _ => a | none => b) e.slots f.slots from rfl,
    List.getElem?_zipWith, hf]
  by_cases hi : i < n
  · rw [getElem?_firstSlots hi]
    by_cases hki : k = i
    · subst hki
      rw [hk, List.getElem?_set_self hkn, if_pos rfl]
    · obtain ⟨w, hw⟩ := hrest i hi (Ne.symm hki)
      rw [hw, List.getElem?_set_ne hki, hw]
  · have hnone : e.slots[i]? = none := List.getElem?_eq_none (by omega)
    rw [hnone, List.getElem?_set_ne (by omega), hnone]

theorem FoldEntry.complete_of_last {e : FoldEntry} {l : List (Option (Word × Bool))} {n k : Nat} {v : Word × Bool} (h : LacksOnly l n k)
    (he : e.slots = l.set k (some v)) : e.complete = true := by
  obtain ⟨hlen, hk, hrest⟩ := h
  have hkn : k < l.length := (List.getElem?_eq_some_iff.mp hk).1
  rw [FoldEntry.complete, he, List.all_eq_true]
  intro x hx
  obtain ⟨i, hi⟩ := List.mem_iff_getElem?.mp hx
  by_cases hki : k = i
  · subst hki
    rw [List.getElem?_set_self hkn] at hi
    rw [← Option.some.inj hi]
    rfl
  · rw [List.getElem?_set_ne hki] at hi
    obtain ⟨w, hw⟩ := hrest i (hlen ▸ (List.getElem?_eq_some_iff.mp hi).1) (Ne.symm hki)
    rw [← Option.some.inj (hw.symm.trans hi)]
    rfl

/-! ### Releases -/

theorem removeAt_eq_eraseIdx {α : Type} (n : Nat) (l : List α) : removeAt n l = l.eraseIdx n := by
  induction l generalizing n with
  | nil => cases n <;> rfl
  | cons a r ih =>
    cases n with
    | zero => rfl
    | succ n => exact congrArg (a :: ·) (ih n)

/-- What a release leaves of the rest of a state: its memory, its L1s and its queued writes change. -/
theorem State.drainBridge_eq (s : State) (p : BridgeWrite → Bool) :
    s.drainBridge p = { s with mem := (s.drainBridge p).mem, bridge := s.bridge.filter fun w => !p w } := by
  have hfold : ∀ (l : List BridgeWrite) (s : State),
      l.foldl (fun s w => s.wrAll w.data) s = { s with mem := (l.foldl (fun s w => s.wrAll w.data) s).mem } := by
    intro l
    induction l with
    | nil => exact fun _ => rfl
    | cons w r ih =>
      intro s
      refine (ih (s.wrAll w.data)).trans ?_
      exact (congrArg (fun u : State => ({ u with mem := (r.foldl (fun s w => s.wrAll w.data) (s.wrAll w.data)).mem } : State))
        (s.wrAll_eq w.data)).trans rfl
  unfold State.drainBridge
  dsimp only
  rw [hfold]

/-- With nothing in the L1s a release drains its die's queue at package scope and wider, and else changes nothing. -/
theorem State.release_of_empty {s : State} (h : s.l1 = []) (core : Nat) (sc : Scope) :
    ∃ m b, s.release core sc = { s with mem := m, bridge := b } ∧ (sc = .pkg ∨ sc = .gang → ∀ w ∈ b, w.src ≠ dieOf core) := by
  have hwb (sc : Scope) (m : Sector → BitVec 32) : s.writeBackOf sc m = s := by
    unfold State.writeBackOf
    dsimp only
    rw [h, List.foldl_nil, h]
    exact (congrArg (fun l => ({ s with l1 := l } : State)) h.symm).trans rfl
  have hdrain : ∃ m b, (s.drainBridge fun w => w.src = dieOf core) = { s with mem := m, bridge := b } ∧ ∀ w ∈ b, w.src ≠ dieOf core :=
    ⟨_, _, s.drainBridge_eq _, fun w hw => by simpa using (List.mem_filter.mp hw).2⟩
  cases sc with
  | core => exact ⟨_, _, rfl, by simp⟩
  | die => exact ⟨_, _, hwb .die _, by simp⟩
  | pkg | gang =>
    obtain ⟨m, b, hs, hb⟩ := hdrain
    exact ⟨m, b, by rw [State.release, hwb, hs], fun _ => hb⟩

/-- A held token's release, its firing's accesses being done. -/
theorem State.heldRelease_of_done {s : State} {h : Held} (howes : h.owes = none) (hacc : ∀ a ∈ s.accesses, a.fid ≠ h.fid) (hl : s.l1 = [])
    (hr : s.remoteOut = []) :
    ∃ m b, s.heldRelease h = ({ s with mem := m, bridge := b }, true) ∧
      (h.rel = some .pkg ∨ h.rel = some .gang → ∀ w ∈ b, w.src ≠ dieOf h.src) := by
  rw [State.heldRelease, howes]
  cases hrel : h.rel with
  | none => exact ⟨_, _, rfl, by simp⟩
  | some sc =>
    obtain ⟨m, b, hs, hb⟩ := s.release_of_empty hl h.src sc
    have hnone : s.accesses.filter (·.fid = h.fid) = [] := by simpa using hacc
    have hdone : ({ s with mem := m, bridge := b } : State).releaseDone sc h.ctx = true := by
      rw [State.releaseDone, show ({ s with mem := m, bridge := b } : State).remoteOut = [] from hr]
      simp
    refine ⟨m, b, ?_, fun hsc => hb (by simpa using hsc)⟩
    dsimp only
    rw [State.releaseFiring, hnone, if_pos (show s.beforeDone (([] : List Access).map (·.id)) = true from rfl), hs]
    dsimp only
    rw [hdone]

end Sys2Proof.Machine
end

section
/-! CERTIFICATE. O46: tokens are held for their release, arrive and match. -/

namespace Sys2Proof.Machine

theorem State.inq_of_cores {s t : State} {core : Nat} {rest : List Transit} (h : t.cores = (s.taken core rest).cores)
    (hlt : core < s.cores.length) : (t.core core).inq = rest := by
  have hcore : t.core core = (s.taken core rest).core core := by rw [State.core, h]; rfl
  rw [hcore, State.taken, State.core_updCore_same hlt]

/-- An arriving token that no filter meets ends at what the fold makes of it. -/
theorem Arrives.exec_of_present {s t : State} {core : Nat} {tr : Transit} {rest : List Transit} {c : Ctx} (h : Arrives s core tr rest c)
    (hfilt : s.filters = []) (ht : (s.taken core rest).present (tr.entry (c.inputsOf tr.tok.block)) = some t) :
    exec (.tokenArrival core) s = .next (t.settleFold core tr.ctx) := by
  have hnot : s.filtered core tr.ctx tr.tok.hpkg tr.tok.tag tr.tok.epoch = false := by
    rw [State.filtered, hfilt]
    exact Bool.and_false _
  rw [State.execTokenArrival_of_arrives h]
  have hmeet := State.arriveAt_of_arrives h
  rw [hnot, if_neg Bool.false_ne_true] at hmeet
  obtain ⟨-, -, -, -, hdst, hc, -, -, -, hpin, -⟩ := h
  refine congrArg _ (hmeet.trans ((State.meetFold_of_present hc hpin ht tr false).trans ?_))
  rw [show (tr.entry (c.inputsOf tr.tok.block)).core = core from hdst]
  rfl

/-- A completed entry's payloads stand in slot order. -/
theorem FoldEntry.Readies.of_slots {e : FoldEntry} {r : Ready} (h : e.Readies r) {l : List (Option (Word × Bool))} {k : Nat} {v : Word × Bool}
    (he : e.slots = l.set k (some v)) : r.frame = (l.map fun x => x.getD (0, false)).set k v := by
  obtain ⟨-, -, -, -, hframe⟩ := h
  rw [hframe, he, List.map_set]
  rfl

/-- The arrival of the first token of its name. -/
theorem Arrives.starts {s : State} {core : Nat} {tr : Transit} {rest : List Transit} {c : Ctx} (h : Arrives s core tr rest c)
    (hslot : tr.tok.slot < c.inputsOf tr.tok.block) (hfilt : s.filters = []) (hfold : s.fold = []) {f : FrameRef}
    (hframe : s.frame1 core tr.ctx (frameUnits (c.inputsOf tr.tok.block)) = some f) :
    ∃ t, exec (.tokenArrival core) s = .next t ∧ (t.core core).inq = rest ∧
      (c.inputsOf tr.tok.block = 1 → t.fold = [] ∧ ∃ r ∈ t.ready, r.core = core ∧ r.ctx = tr.ctx ∧ r.block = tr.tok.block ∧
        r.tag = tr.tok.tag ∧ r.frame = [(tr.tok.payload, tr.tok.void)]) ∧
      (1 < c.inputsOf tr.tok.block →
        t.fold = [{ entryOf core tr.ctx tr.tok (c.inputsOf tr.tok.block) tr.stamp with
          senders := [(tr.tok.slot, tr.src)], place := some f }] ∧ t.ready = s.ready) := by
  have ⟨_, _, _, hlt, hdst, _, _, _, _, _, _, heldest, hroom⟩ := h
  subst hdst
  obtain ⟨t, ht, hone, hready, hcores⟩ := State.present_of_empty (s := s.taken tr.dst rest) (e := tr.entry (c.inputsOf tr.tok.block))
    hfold heldest hframe
  have hinq := State.inq_of_cores hcores hlt
  generalize hn : c.inputsOf tr.tok.block = n at *
  refine ⟨_, h.exec_of_present hfilt (hn ▸ ht), ?_⟩
  by_cases hn1 : n = 1
  · subst hn1
    obtain ⟨hgone, ⟨r, hr, hreadies⟩, hq⟩ := State.settleFold_of_complete hone rfl rfl
      (FoldEntry.complete_of_one (k := tr.tok.slot) (v := (tr.tok.payload, tr.tok.void)) rfl hslot) (hready ▸ hroom) tr.ctx
    refine ⟨hq.trans hinq, fun _ => ⟨hgone, r, hr, ?_⟩, fun hlt => absurd hlt (by omega)⟩
    obtain ⟨hrc, hrx, hrb, hrt, hrf⟩ := hreadies
    refine ⟨hrc, hrx, hrb, hrt, hrf.trans ?_⟩
    obtain hzero : tr.tok.slot = 0 := by omega
    simp [Transit.entry, entryOf, hzero]
  · have hmore : 1 < n := by omega
    obtain ⟨hstays, hsame, hq⟩ := State.settleFold_of_waiting hone
      (FoldEntry.waits_of_more (k := tr.tok.slot) (v := (tr.tok.payload, tr.tok.void)) rfl hmore) tr.ctx
    exact ⟨hq.trans hinq, fun e => absurd e hn1, fun _ => ⟨hstays, hsame.trans hready⟩⟩

/-- The arrival of the token that fills the last slot. -/
theorem Arrives.completes {s : State} {core : Nat} {tr : Transit} {rest : List Transit} {c : Ctx} (h : Arrives s core tr rest c)
    (hfilt : s.filters = []) {e : FoldEntry} (hfold : s.fold = [e]) (hcore : e.core = core) (hctx : e.ctx = tr.ctx)
    (hblk : e.block = tr.tok.block) (htag : e.tag = tr.tok.tag) (hstate : e.state = 0)
    (hlacks : LacksOnly e.slots (c.inputsOf tr.tok.block) tr.tok.slot) :
    ∃ t, exec (.tokenArrival core) s = .next t ∧ t.fold = [] ∧ ∃ r ∈ t.ready, r.core = core ∧ r.ctx = tr.ctx ∧ r.block = tr.tok.block ∧
      r.tag = tr.tok.tag ∧ r.frame = (e.slots.map fun x => x.getD (0, false)).set tr.tok.slot (tr.tok.payload, tr.tok.void) := by
  have ⟨_, _, _, _, hdst, _, _, _, _, _, _, heldest, hroom⟩ := h
  have hnamed : e.named (tr.entry (c.inputsOf tr.tok.block)).core (tr.entry (c.inputsOf tr.tok.block)).ctx
      (tr.entry (c.inputsOf tr.tok.block)).block (tr.entry (c.inputsOf tr.tok.block)).tag = true := by
    simp [FoldEntry.named, sameName, Transit.entry, entryOf, hcore, hdst, hctx, hblk, htag]
  have hslots : (tr.entry (c.inputsOf tr.tok.block)).slots =
    firstSlots (c.inputsOf tr.tok.block) tr.tok.slot (tr.tok.payload, tr.tok.void) := rfl
  have habsorb := FoldEntry.absorb_first hlacks hslots
  obtain ⟨t, ht, hjoined, hready, -⟩ := State.present_of_accepts (s := s.taken core rest) hfold heldest hnamed
    (FoldEntry.accepts_first hlacks hslots)
  obtain ⟨hgone, ⟨r, hr, hreadies⟩, -⟩ := State.settleFold_of_complete hjoined hcore hstate (FoldEntry.complete_of_last hlacks habsorb)
    (hready ▸ hroom) tr.ctx
  have ⟨hrc, hrx, hrb, hrt, _⟩ := hreadies
  exact ⟨_, h.exec_of_present hfilt ht, hgone, r, hr, hrc.trans hcore, hrx.trans hctx, hrb.trans hblk, hrt.trans htag,
    hreadies.of_slots habsorb⟩

/-- Settles O46: an arriving token by what the fold holds of its name; a held one by the release that it waits for. -/
theorem tokensMatch : Obligations.TokensMatch := by
  refine ⟨fun s core tr rest c h => ?_, fun s n h hat hpkg howes hfirst hacc hl hr => ?_⟩
  · intro m one ready_ hslot
    refine ⟨fun f hfilt hfold hframe => h.starts hslot hfilt hfold hframe, ?_, fun hfilt => ?_⟩
    · intro e hfilt hfold hcore hctx hblk htag hstate hlen hempty hrest
      exact h.completes hfilt hfold hcore hctx hblk htag hstate ⟨hlen, hempty, hrest⟩
    · have hdrop := State.arriveAt_of_arrives h
      rw [hfilt, if_pos rfl] at hdrop
      have ⟨_, _, _, _, _, hc, _⟩ := h
      refine ⟨_, { c with killed := satInc c.killed }, (State.execTokenArrival_of_arrives h).trans (congrArg _ hdrop), rfl, rfl, ?_, rfl⟩
      refine (State.ctx?_updCtx_same (f := fun c => { c with killed := satInc c.killed }) fun _ => rfl).trans ?_
      exact congrArg (Option.map fun c : Ctx => { c with killed := satInc c.killed }) hc
  · obtain ⟨m, b, hrel, hb⟩ := State.heldRelease_of_done howes hacc hl hr
    have hfree : (!h.unit && (s.held.take n).any fun o => o.fid = h.fid && o.dst = h.dst && o.dpkg = h.dpkg && !o.unit) = false := by
      rcases hfirst with hu | hu
      · rw [hu]; rfl
      · rw [Bool.and_eq_false_iff, List.any_eq_false]
        refine .inr fun o ho => ?_
        simp only [Bool.and_eq_true, decide_eq_true_eq, Bool.not_eq_true']
        rintro ⟨⟨⟨hf, hd⟩, hp⟩, hunit⟩
        rcases hu o ho with h1 | h1
        · exact absurd (h1.symm.trans hunit) (by decide)
        · exact h1 ⟨hf, hd, hp⟩
    have hexec : exec (.releaseTokenDelivery n) s = .next { s with
        mem := m, bridge := b, held := removeAt n s.held
        transit := s.transit ++ [{ src := h.src, dst := h.dst, ctx := h.ctx, tok := h.tok }] } := by
      change execReleaseTokenDelivery n s = _
      unfold execReleaseTokenDelivery
      rw [hat]
      dsimp only
      rw [hfree, if_neg Bool.false_ne_true, hrel]
      dsimp only
      rw [State.inject, if_pos hpkg]
    exact ⟨_, hexec, removeAt_eq_eraseIdx n _, rfl, hb⟩

end Sys2Proof.Machine
end

section
/-! SUPPORT. Sorted lists, the ready list of a pair, and what releases leave of flocks and of the ready list (R189–R193). -/

namespace Sys2Proof.Machine

/-! ### Sorted lists -/

theorem insertBy_perm {α : Type} (key : α → Nat) (x : α) (l : List α) : (insertBy key x l).Perm (x :: l) := by
  induction l with
  | nil => exact List.Perm.refl _
  | cons a r ih =>
    rw [insertBy]
    split
    · exact (ih.cons a).trans (List.Perm.swap x a r)
    · exact List.Perm.refl _

theorem sortBy_perm {α : Type} (key : α → Nat) (l : List α) : (sortBy key l).Perm l := by
  have hfold : ∀ (l acc : List α), (l.foldl (fun acc x => insertBy key x acc) acc).Perm (l ++ acc) := by
    intro l
    induction l with
    | nil => exact fun acc => List.Perm.refl acc
    | cons x r ih => exact fun acc => (ih _).trans (((insertBy_perm key x acc).append_left r).trans List.perm_middle)
  exact (hfold l []).trans (List.Perm.of_eq (List.append_nil l))

theorem State.mem_readyOf {s : State} {core x b : Nat} {r : Ready} :
    r ∈ s.readyOf core x b ↔ r ∈ s.ready ∧ r.core = core ∧ r.ctx = x ∧ r.block = b := by
  rw [State.readyOf, (sortBy_perm _ _).mem_iff, (sortBy_perm _ _).mem_iff, (sortBy_perm _ _).mem_iff]
  simp [and_assoc]

/-! ### What leaves flocks, the ready list and pens as they were -/

theorem State.foldl_field {α β : Type} (g : State → β) {f : State → α → State} (hf : ∀ s a, g (f s a) = g s) (l : List α) (s : State) :
    g (l.foldl f s) = g s := by
  induction l generalizing s with
  | nil => rfl
  | cons a r ih => exact (ih (f s a)).trans (hf s a)

/-- The resident flocks, the ready list and the pens of a state. -/
def State.resident (s : State) : List Flock × List Ready × List Pen := (s.flocks, s.ready, s.pens)

theorem State.resident_sendOut (s : State) (p : Nat) (m : LinkMsg) : (s.sendOut p m).resident = s.resident := by
  unfold State.sendOut
  split <;> rfl

theorem State.resident_askGroups (s : State) (x : Nat) (l : List Ready) : (s.askGroups x l).resident = s.resident := by
  unfold State.askGroups
  split
  · rfl
  · exact State.foldl_field State.resident (fun s q => s.resident_sendOut _ _) _ s

theorem State.resident_wrAll (s : State) (l : List (Nat × Byte)) : (s.wrAll l).resident = s.resident := by rw [State.wrAll_eq]; rfl

theorem State.resident_chargeUnits (s : State) (l : List Nat) : (s.chargeUnits l).resident = s.resident := by
  rw [State.chargeUnits_eq]; rfl

theorem State.resident_pushBytes (s : State) (sc : Scope) (core ctx : Nat) (pkg : Option Nat) (l : List (Nat × Byte)) :
    (s.pushBytes sc core ctx pkg l).resident = s.resident := by
  unfold State.pushBytes
  split
  · rfl
  · split
    · split
      · rfl
      · rw [State.resident_chargeUnits, State.resident_wrAll, State.homeView, State.drainBridge_eq]
        rfl
    · unfold State.postWrite
      exact State.resident_sendOut _ _ _

theorem State.resident_writeBack (s : State) (sc : Scope) (p : Sector → Bool) : (s.writeBack sc p).resident = s.resident :=
  State.foldl_field State.resident (fun _ _ => State.resident_pushBytes ..) s.l1 s

theorem State.resident_acquire (s : State) (core : Nat) (sc : Option Scope) : (s.acquire core sc).resident = s.resident := by
  unfold State.acquire
  split
  · rfl
  · rfl
  · dsimp only
    split
    · exact State.resident_writeBack (s.updCore core fun c => { c with agen := (s.core core).agen + 1 }) ..
    · rfl

theorem State.flocks_promote (s : State) (core : Nat) : (s.promote core).flocks = s.flocks :=
  State.foldl_field (f := State.makeReady) State.flocks (fun _ _ => rfl) _ s

theorem State.promote_of_empty {s : State} (h : s.fold = []) (core : Nat) : s.promote core = s := by
  unfold State.promote
  dsimp only
  rw [h]
  simp only [List.filter_nil, sortBy, List.foldl_nil, List.take_nil]
  rw [h]
  exact (congrArg (fun l => ({ s with fold := l } : State)) h.symm).trans rfl

/-! ### A release -/

/-- The flock that a release from the ready list makes resident. -/
def State.flockFor (s : State) (core pipe slot : Nat) (k : Cand) (b : LBlock) : Flock :=
  { id := s.reqSeq + 1, core := core, pipe := pipe, slot := slot, ctx := k.ctx, block := k.block, aligned := k.aligned,
    lanes := lanesFor b (s.reqSeq + 2) k.aligned k.members, released := s.cycle, level := k.rank.level, served := s.cycle }

theorem State.releaseFlock_spec {s : State} {k : Cand} {b : LBlock} (hb : s.block? k.ctx k.block = some b) (hr : k.resumed = none)
    (core pipe slot : Nat) :
    (s.releaseFlock core pipe slot k).flocks = s.flocks ++ [s.flockFor core pipe slot k b] ∧
      (s.fold = [] → (s.releaseFlock core pipe slot k).ready = s.ready.filter fun r => !k.members.contains r) := by
  have hb' : (s.ctx? k.ctx).bind (·.blocks[k.block]?) = some b := hb
  unfold State.releaseFlock
  rw [hb']
  dsimp only
  rw [hr]
  dsimp only
  generalize hu : State.updCtx _ _ _ = u
  have hflocks : u.flocks = s.flocks ++ [s.flockFor core pipe slot k b] := by rw [← hu]; rfl
  have hready : u.ready = s.ready.filter fun r => !k.members.contains r := by rw [← hu]; rfl
  have hfold : u.fold = s.fold := by rw [← hu]; rfl
  generalize k.members.foldl (fun m r => scopeMax m r.rel) none = sc
  have hres := State.resident_acquire ((u.promote core).rebind core) core sc
  refine ⟨?_, fun h0 => ?_⟩
  · exact (congrArg Prod.fst hres).trans ((u.flocks_promote core).trans hflocks)
  · refine (congrArg (fun x => x.2.1) hres).trans ?_
    rw [State.promote_of_empty (hfold.trans h0)]
    exact hready

theorem mem_lanesFor {b : LBlock} {fid0 : Nat} {aligned : Bool} {m : List Ready} {l : Lane} (h : l ∈ lanesFor b fid0 aligned m) :
    l.cells = b.cells ∧ l.status = .running ∧ l.fsize = m.length := by
  obtain ⟨x, -, rfl⟩ := List.mem_map.mp h
  exact ⟨rfl, rfl, rfl⟩

theorem lanesFor_unaligned (b : LBlock) (fid0 : Nat) (m : List Ready) :
    (lanesFor b fid0 false m).map (fun l => (l.lane, l.tag, l.epoch, l.frame)) = m.mapIdx fun i r => (i, r.tag, r.epoch, r.frame) := by
  rw [List.mapIdx_eq_zipIdx_map, lanesFor, List.map_map]
  rfl

theorem length_lanesFor_aligned (b : LBlock) (fid0 : Nat) (m : List Ready) : (lanesFor b fid0 true m).length = m.length := by
  rw [lanesFor, List.length_map, List.length_zipIdx]
  exact (sortBy_perm _ _).length_eq

theorem exists_lanesFor_aligned (b : LBlock) (fid0 : Nat) {m : List Ready} {r : Ready} (hr : r ∈ m) :
    ∃ l ∈ lanesFor b fid0 true m, l.lane = literOf r.tag r.epoch % 32 ∧ l.tag = r.tag ∧ l.epoch = r.epoch ∧ l.frame = r.frame := by
  have hs : r ∈ sortBy (fun r => groupLane r.tag r.epoch) m := (sortBy_perm _ _).mem_iff.mpr hr
  obtain ⟨i, hi⟩ := List.mem_iff_getElem?.mp hs
  exact ⟨_, List.mem_map_of_mem (a := (r, i)) (List.mem_zipIdx_iff_getElem?.mpr hi), rfl, rfl, rfl, rfl⟩

end Sys2Proof.Machine
end

section
/-! CERTIFICATE. O47: pens come due and flocks are formed. -/

namespace Sys2Proof.Machine

/-- What of a pair has waited for its block's timer. -/
def Waited (s : State) (core : Nat) (p : Pen) (b : LBlock) (r : Ready) : Prop :=
  r.core = core ∧ r.ctx = p.ctx ∧ r.block = p.block ∧ r.since + timerOf b.tclass ≤ s.cycle

/-- What a pen's timer marks. -/
def State.timedOut (s : State) (core : Nat) (p : Pen) (b : LBlock) : List Ready :=
  (s.readyOf core p.ctx p.block).filter fun r => r.since + timerOf b.tclass ≤ s.cycle

theorem State.mem_timedOut {s : State} {core : Nat} {p : Pen} {b : LBlock} {r : Ready} :
    r ∈ s.timedOut core p b ↔ r ∈ s.ready ∧ Waited s core p b r := by
  rw [State.timedOut, List.mem_filter, State.mem_readyOf]
  simp [Waited, and_assoc]

/-- The ready list and the pens after a pen's timer has run out. -/
def State.timed (s : State) (core pen : Nat) (p : Pen) (b : LBlock) : State :=
  { s with
    ready := s.ready.map fun r => if (s.timedOut core p b).contains r then { r with expired := true } else r
    pens := s.pens.map fun q =>
      if q.core = core && q.index = pen && !b.aligned && !(s.timedOut core p b).isEmpty then
        { q with
          due := true, dueAt := if q.due then q.dueAt else s.cycle
          keep := if 32 < (s.readyOf core p.ctx p.block).length then some s.cycle else q.keep }
      else q }

theorem State.execPenTimerExpiry_eq {s : State} {core pen : Nat} {p : Pen} {b : LBlock}
    (hp : s.pens.find? (fun p => p.core = core && p.index = pen) = some p) (hb : s.block? p.ctx p.block = some b) :
    exec (.penTimerExpiry core pen) s = .next (if b.aligned then (s.timed core pen p b).askGroups p.ctx (s.timedOut core p b)
      else s.timed core pen p b) := by
  change execPenTimerExpiry core pen s = _
  unfold execPenTimerExpiry
  rw [hp]
  dsimp only
  rw [hb]
  rfl

theorem State.timed_ready_waited {s : State} {core : Nat} {p : Pen} {b : LBlock} {i : Nat} {r : Ready} (hi : s.ready[i]? = some r)
    (hw : Waited s core p b r) (pen : Nat) : (s.timed core pen p b).ready[i]? = some { r with expired := true } := by
  have hmem : (s.timedOut core p b).contains r = true :=
    List.contains_iff_mem.mpr (State.mem_timedOut.mpr ⟨List.mem_of_getElem? hi, hw⟩)
  rw [State.timed, List.getElem?_map, hi, Option.map_some, if_pos hmem]

theorem State.timed_ready_other {s : State} {core : Nat} {p : Pen} {b : LBlock} {i : Nat} {r : Ready} (hi : s.ready[i]? = some r)
    (hw : ¬Waited s core p b r) (pen : Nat) : (s.timed core pen p b).ready[i]? = some r := by
  have hmem : ¬(s.timedOut core p b).contains r = true := fun h => hw (State.mem_timedOut.mp (List.contains_iff_mem.mp h)).2
  rw [State.timed, List.getElem?_map, hi, Option.map_some, if_neg hmem]

/-- A pen of an unaligned block comes due. -/
theorem State.timed_pens_due {s : State} {core pen : Nat} {p : Pen} {b : LBlock} (ha : b.aligned = false)
    (hw : ∃ r ∈ s.ready, Waited s core p b r) {q : Pen} (hq : q ∈ (s.timed core pen p b).pens) (hc : q.core = core) (hi : q.index = pen) :
    q.due = true := by
  obtain ⟨r, hr, hrw⟩ := hw
  have hne : (s.timedOut core p b).isEmpty = false :=
    List.isEmpty_eq_false_iff_exists_mem.mpr ⟨r, State.mem_timedOut.mpr ⟨hr, hrw⟩⟩
  obtain ⟨o, -, rfl⟩ := List.mem_map.mp hq
  rw [ha, hne] at hc hi ⊢
  split at hc
  case isTrue h => rw [if_pos h]
  case isFalse h => rw [if_neg h] at hi; exact absurd (by simp [hc, hi]) h

theorem State.timed_pens_aligned {b : LBlock} (ha : b.aligned = true) (s : State) (core pen : Nat) (p : Pen) :
    (s.timed core pen p b).pens = s.pens := by
  refine (List.map_congr_left (g := id) fun q _ => ?_).trans (List.map_id _)
  exact if_neg (by simp [ha])

theorem State.timed_ready_length (s : State) (core pen : Nat) (p : Pen) (b : LBlock) :
    (s.timed core pen p b).ready.length = s.ready.length := List.length_map _

/-- What a pen may release: the first 32 of its pair, once due or 32 of them. -/
theorem State.penCands_unaligned {s : State} {p : Pen} {k : Cand} {b : LBlock} (hk : k ∈ s.penCands p) (hb : s.block? p.ctx p.block = some b)
    (ha : b.aligned = false) :
    k.members = (s.readyOf p.core p.ctx p.block).take 32 ∧ (p.due = true ∨ 32 ≤ (s.readyOf p.core p.ctx p.block).length) := by
  obtain ⟨c, hc, hblk⟩ := Option.bind_eq_some_iff.mp hb
  unfold State.penCands at hk
  rw [hc] at hk
  dsimp only at hk
  rw [hblk] at hk
  dsimp only at hk
  rw [ha, if_neg Bool.false_ne_true] at hk
  split at hk
  · cases hk
  · split at hk
    case isTrue hdue =>
      cases List.mem_singleton.mp hk
      refine ⟨rfl, ?_⟩
      simp only [Bool.or_eq_true, Bool.and_eq_true, decide_eq_true_eq] at hdue
      exact hdue.imp_left And.left
    case isFalse => cases hk

/-- Settles O47: the timer and the aging of a pen, a release, and what a pen may release. -/
theorem flocksFormed : Obligations.FlocksFormed := by
  refine ⟨⟨fun s core pen p b hp hb => ?_, fun s core => ?_⟩, fun s core pipe slot k b hfree hk hres hb => ?_, fun s p k b hk hb ha => ?_⟩
  · intro limit waited
    have hexec := State.execPenTimerExpiry_eq hp hb
    refine ⟨fun ha hw => ⟨s.timed core pen p b, ?_, fun q hq hc hi => State.timed_pens_due ha hw hq hc hi,
      s.timed_ready_length core pen p b, fun i r hi => ⟨fun hr => State.timed_ready_waited hi hr pen,
      fun hr => State.timed_ready_other hi hr pen⟩⟩, fun ha => ?_⟩
    · rw [hexec, ha, if_neg Bool.false_ne_true]
    · have hsame := (s.timed core pen p b).resident_askGroups p.ctx (s.timedOut core p b)
      have hready : ((s.timed core pen p b).askGroups p.ctx (s.timedOut core p b)).ready = (s.timed core pen p b).ready :=
        congrArg (fun x => x.2.1) hsame
      have hpens : ((s.timed core pen p b).askGroups p.ctx (s.timedOut core p b)).pens = (s.timed core pen p b).pens :=
        congrArg (fun x => x.2.2) hsame
      refine ⟨(s.timed core pen p b).askGroups p.ctx (s.timedOut core p b), ?_, hpens.trans (State.timed_pens_aligned ha ..), ?_,
        fun i r hi hr _ => ⟨{ r with expired := true }, ?_, rfl⟩⟩
      · rw [hexec, if_pos ha]
      · rw [hready, State.timed_ready_length]
      · rw [hready]
        exact State.timed_ready_waited hi hr pen
  · refine ⟨_, rfl, rfl, rfl, fun i p hi => ⟨if p.core = core then s.agedPen p else p, ?_, ?_⟩⟩
    · exact (List.getElem?_map ..).trans (congrArg (Option.map _) hi)
    · unfold State.agedPen
      by_cases hc : p.core = core
      · rw [if_pos hc]
        cases hdue : s.penDue p with
        | true => exact ⟨rfl, rfl, fun _ _ => ⟨rfl, rfl⟩, fun h => by simp [hc] at h⟩
        | false => exact ⟨rfl, rfl, fun _ h => absurd h Bool.false_ne_true, fun _ => rfl⟩
      · rw [if_neg hc]
        exact ⟨rfl, rfl, fun h => absurd h hc, fun _ => rfl⟩
  · obtain ⟨hflocks, hready⟩ := State.releaseFlock_spec hb hres core pipe slot
    refine ⟨s.releaseFlock core pipe slot k, s.flockFor core pipe slot k b, ?_, ?_, fun f hf => ?_, rfl, rfl, rfl, rfl, rfl, rfl,
      fun ha => ?_, fun ha => ?_, fun l hl => mem_lanesFor hl, fun h0 r hr => ?_⟩
    · change execFlockRelease core s = _
      unfold execFlockRelease
      rw [hfree, hk]
    · exact hflocks ▸ List.mem_append_right _ (List.mem_singleton_self _)
    · exact hflocks ▸ List.mem_append_left _ hf
    · rw [State.flockFor, ha]
      exact lanesFor_unaligned ..
    · rw [State.flockFor, ha]
      exact ⟨length_lanesFor_aligned .., fun r hr => exists_lanesFor_aligned _ _ hr⟩
    · rw [hready h0] at hr
      simpa using (List.mem_filter.mp hr).2
  · obtain ⟨hm, hdue⟩ := State.penCands_unaligned hk hb ha
    rw [hm]
    refine ⟨List.length_take_le .., fun r hr => State.mem_readyOf.mp (List.mem_of_mem_take hr), hdue.imp_right fun h => ?_⟩
    rw [List.length_take]
    omega

end Sys2Proof.Machine
end

section
/-! SUPPORT. Every legal instruction is what its word decodes to: the round trips of the instructions, put together. -/

namespace Sys2Proof.Laws.RoundTrip

/-- Settles O1, constructor by constructor: each word's own round trip; a step of another agent is not legal as a word. -/
theorem decodeEncode : Obligations.DecodeEncode := fun i =>
  match i with
  | .ldf .. => ldf _ _ _ _ | .ldfv .. => ldfv _ _ _ _ | .ldk .. => ldk _ _ _ _ | .getx .. => getx _ _ _ | .gets .. => gets _ _ _
  | .movi .. => movi _ _ _ | .movhi .. => movhi _ _ _ | .nop .. => nop _ _ _
  | .send .. => send _ _ _ _ _ _ | .sendx .. => sendx _ _ _ | .sendv .. => sendv _ _ _ _ _ _ | .steer .. => steer _ _ _ _ _
  | .cont .. => cont _ _ _ _ _ | .enter .. => enter _ _ _ _ _ | .entermAnd .. => entermAnd _ _ _ _ _ | .entermOr .. => entermOr _ _ _ _ _
  | .next .. => next _ _ _ _ _ | .leave .. => leave _ _ _ _ _ | .dkill .. => dkill _ _ _ | .spawn .. => spawn _ _ _
  | .add .. => add _ _ _ _ | .addSat .. => addSat _ _ _ _ | .sub .. => sub _ _ _ _ | .subSat .. => subSat _ _ _ _ | .addi .. => addi _ _ _
  | .mul .. => mul _ _ _ _ | .mulh .. => mulh _ _ _ _ | .madd .. => madd _ _ _ _ | .div .. => div _ _ _ _ | .rem .. => rem _ _ _ _
  | .min .. => min _ _ _ _ | .max .. => max _ _ _ _ | .abs .. => abs _ _ _ _ | .neg .. => neg _ _ _ _
  | .and .. => and _ _ _ | .or .. => or _ _ _ | .xor .. => xor _ _ _ | .andn .. => andn _ _ _ | .not .. => not _ _ _
  | .shl .. => shl _ _ _ _ | .shr .. => shr _ _ _ _ | .sar .. => sar _ _ _ _ | .rotl .. => rotl _ _ _ _ | .shli .. => shli _ _ _ _
  | .shri .. => shri _ _ _ _ | .sari .. => sari _ _ _ _ | .rotli .. => rotli _ _ _ _ | .clz .. => clz _ _ _ _ | .ctz .. => ctz _ _ _ _
  | .popc .. => popc _ _ _ _
  | .brev .. => brev _ _ _ _ | .bswap .. => bswap _ _ _ _ | .bfx .. => bfx _ _ _ _ | .bfi .. => bfi _ _ _ | .sext .. => sext _ _ _ _
  | .zext .. => zext _ _ _ _ | .cmp .. => cmp _ _ _ _ | .cmpi .. => cmpi _ _ _ _ | .sel .. => sel _ _ _ | .pand .. => pand _ _ _
  | .por .. => por _ _ _ | .pxor .. => pxor _ _ _ | .pnot .. => pnot _ _ _ | .pack2 .. => pack2 _ _ _ _ | .unpk .. => unpk _ _ _ _
  | .fadd .. => fadd _ _ _ _ _ | .fsub .. => fsub _ _ _ _ _ | .fmul .. => fmul _ _ _ _ _ | .ffma .. => ffma _ _ _ _ _
  | .fmin .. => fmin _ _ _ _ | .fmax .. => fmax _ _ _ _ | .fabs .. => fabs _ _ _ _ | .fneg .. => fneg _ _ _ _ | .fcmp .. => fcmp _ _ _ _ _
  | .fclass .. => fclass _ _ _ _ | .fdiv .. => fdiv _ _ _ _ _ | .fsqrt .. => fsqrt _ _ _ _ _ | .frcpe .. => frcpe _ _ _
  | .frsqe .. => frsqe _ _ _ | .fexp2 .. => fexp2 _ _ _ | .flog2 .. => flog2 _ _ _
  | .fsin .. => fsin _ _ _ | .fcos .. => fcos _ _ _ | .ftanh .. => ftanh _ _ _ | .fround .. => fround _ _ _ _ _
  | .cvt .. => cvt _ _ _ _ _ _
  | .cvtsr .. => cvtsr _ _ _ _ _ | .hadd2 .. => hadd2 _ _ _ _ _ | .hmul2 .. => hmul2 _ _ _ _ _ | .hfma2 .. => hfma2 _ _ _ _ _
  | .hmax2 .. => hmax2 _ _ _ _ | .dot4 .. => dot4 _ _ _ _
  | .shfl .. => shfl _ _ _ | .shfx .. => shfx _ _ _ | .shup .. => shup _ _ _ | .shdn .. => shdn _ _ _ | .ballot .. => ballot _ _ _
  | .vany .. => vany _ _ _ | .vall .. => vall _ _ _ | .scan .. => scan _ _ _ _ | .redl .. => redl _ _ _ _ | .bcast .. => bcast _ _ _
  | .curs .. => curs _ _ _ _ | .cursi .. => cursi _ _ _ _ | .ld .. => ld _ _ _ _ | .st .. => st _ _ _ _ | .ldsp .. => ldsp _ _ _ _
  | .stsp .. => stsp _ _ _ _ | .lda .. => lda _ _ _ _ | .sta .. => sta _ _ _ _ | .atom .. => atom _ _ _ _ _ _ | .cas .. => cas _ _ _ _ _
  | .fatom .. => fatom _ _ _ _ _ | .redo .. => redo _ _ _ _ | .fence .. => fence _ _ _ _ | .pref .. => pref _ _ _ _
  | .hqry .. => hqry _ _ _ _ | .arrive .. => arrive _ _ _
  | .waitb .. => waitb _ _ _ | .hresFetch .. => hresFetch _ _ _ | .hresRelease .. => hresRelease _ _ _
  | .mma .. => mma _ _ _ _ | .mmas .. => mmas _ _ _ _ | .wld .. => wld _ _ _ _ | .aclr .. => aclr _ _ _ | .acvt .. => acvt _ _ _ _
  | .aadd .. => aadd _ _ _
  | .cpy .. => cpy _ _ _ | .cpyg .. => cpyg _ _ _ | .cpys .. => cpys _ _ _ | .cpyr .. => cpyr _ _ _ _
  | .cpybsToplanes .. => cpybsToplanes _ _ _ | .cpybsFromplanes .. => cpybsFromplanes _ _ _ | .cpyt .. => cpyt _ _ _
  | .cpyhTohost .. => cpyhTohost _ _ _ | .cpyhFromhost .. => cpyhFromhost _ _ _ | .cpyf .. => cpyf _ _ _
  | .lkctx .. => lkctx _ _ _ _ | .lkrun .. => lkrun _ _ _ _ | .lkst .. => lkst _ _ _ | .tvec .. => tvec _ _ _ | .tgemv .. => tgemv _ _ _ _
  | .tgemvs .. => tgemvs _ _ _ _ | .tred .. => tred _ _ _
  | .trap .. => trap _ _ _ | .brk .. => brk _ _ _ | .rdsr .. => rdsr _ _ _ | .wrsr .. => wrsr _ _ _ | .resume .. => resume _ _
  | .retry .. => retry _ _ | .abort .. => abort _ _
  | .emx .. => emx _ _ _ _ _
  | .launch .. | .launchAdmission | .tokenArrival .. | .penTimerExpiry .. | .flockRelease .. | .priorityAging .. | .memAccessPerformed ..
  | .releaseTokenDelivery .. | .spawnSubmission .. | .spawnAnswer .. | .nextGrant .. | .enterGrant .. | .entermGrant .. | .explicitGrant ..
  | .contTokenGrant .. | .leaveServe .. | .closeServe .. | .dkillServe .. | .killNotice .. | .killNoticeAck .. | .eldestQuery ..
  | .eldestAnswer .. | .spillRepresent .. | .quiescenceDetect .. | .droverForward .. | .launchComplete .. | .orderedArrival ..
  | .orderedArrivalUnstall .. | .barrierArrival .. | .barrierRegistration .. | .otpoolWrite .. | .shoot | .publish | .shootres
  | .shootAck .. | .walk .. | .answer .. | .wldExec .. | .mmaExec .. | .mmasExec .. | .aclrExec .. | .acvtExec .. | .aaddExec ..
  | .mxuCompletion .. | .cpyExec .. | .cpygExec .. | .cpysExec .. | .cpyrExec .. | .cpybsExec .. | .cpytExec .. | .cpyhExec ..
  | .cpyfExec .. | .copyCompletion .. | .lkfClaim .. | .lkfRelease .. | .lkfSlotFree .. | .claimCycle | .lkrunExec .. | .lkrunCompletion ..
  | .tvecExec .. | .tgemvExec .. | .tgemvsExec .. | .tredExec .. | .troughCompletion .. | .handlerDispatch .. | .responseTakesEffect ..
  | .drainComplete .. | .preemption .. | .preemptDump .. | .restore .. | .pinfoldSlotFree .. | .pinextWrite .. | .clockGate ..
  | .powerGate .. | .powerWake .. | .wakeComplete .. | .shedctlWrite .. | .shedReconfiguration .. | .coreCool .. | .linkFrame ..
  | .resendTimeout .. | .portDown .. | .wread .. | .wwrite .. | .memreq .. | .memrsp .. | .topo | .verify | .activate | .attest
  | .registerWrite .. | .gangStart .. | .gangControl .. | .timeExchange .. | .syncLoss | .powerArbiter .. | .budgetWindow ..
  | .currentAlarm .. | .refreshTemperature .. | .reset | .portRetrained .. | .railAlarmClear .. | .lastingListClear .. => nofun
end Sys2Proof.Laws.RoundTrip
end

section
/-! SUPPORT. A code that reads as a value is that value's code: the other direction of the `ofBits_toBits` lemmas. -/

namespace Sys2Proof

theorem Pm.toBits_of_ofBits : ∀ b, ∀ t ∈ Pm.ofBits b, t.toBits = b := by decide
theorem Ity.toBits_of_ofBits : ∀ b, ∀ t ∈ Ity.ofBits b, t.toBits = b := by decide
theorem Width.toBits_of_ofBits : ∀ b, ∀ t ∈ Width.ofBits b, t.toBits = b := by decide
theorem FTy.toBits_of_ofBits : ∀ b, ∀ t ∈ FTy.ofBits b, t.toBits = b := by decide
theorem Rnd.toBits_of_ofBits : ∀ b, ∀ t ∈ Rnd.ofBits b, t.toBits = b := by decide
theorem Cond.toBits_of_ofBits : ∀ b, ∀ t ∈ Cond.ofBits b, t.toBits = b := by decide
theorem Cond.toBits3_of_ofBits3 : ∀ b, ∀ t ∈ Cond.ofBits3 b, t.toBits3 = b := by decide
theorem FCond.toBits_of_ofBits : ∀ b, ∀ t ∈ FCond.ofBits b, t.toBits = b := by decide
theorem Half.toBits_of_ofBits : ∀ b, ∀ t ∈ Half.ofBits b, t.toBits = b := by decide
theorem RedOp.toBits_of_ofBits : ∀ b, ∀ t ∈ RedOp.ofBits b, t.toBits = b := by decide
theorem MemTy.toBits_of_ofBits : ∀ b, ∀ t ∈ MemTy.ofBits b, t.toBits = b := by decide
theorem AtomOp.toBits_of_ofBits : ∀ b, ∀ t ∈ AtomOp.ofBits b, t.toBits = b := by decide
theorem FatomOp.toBits_of_ofBits : ∀ b, ∀ t ∈ FatomOp.ofBits b, t.toBits = b := by decide
theorem Order.toBits_of_ofBits : ∀ b, ∀ t ∈ Order.ofBits b, t.toBits = b := by decide
theorem Scope.toBits_of_ofBits : ∀ b, ∀ t ∈ Scope.ofBits b, t.toBits = b := by decide
theorem PrefLevel.toBits_of_ofBits : ∀ b, ∀ t ∈ PrefLevel.ofBits b, t.toBits = b := by decide
theorem Dim.toBits_of_ofBits : ∀ b, ∀ t ∈ Dim.ofBits b, t.toBits = b := by decide
theorem CursDim.toBits_of_ofBits : ∀ b, ∀ t ∈ CursDim.ofBits b, t.toBits = b := by decide
theorem HqryItem.toBits_of_ofBits : ∀ b, ∀ t ∈ HqryItem.ofBits b, t.toBits = b := by decide
theorem MxTy.toBits_of_ofBits : ∀ b, ∀ t ∈ MxTy.ofBits b, t.toBits = b := by decide
theorem AcvtTy.toBits_of_ofBits : ∀ b, ∀ t ∈ AcvtTy.ofBits b, t.toBits = b := by decide
theorem CpyrOp.toBits_of_ofBits : ∀ b, ∀ t ∈ CpyrOp.ofBits b, t.toBits = b := by decide
theorem Dot4Ty.toBits_of_ofBits : ∀ b, ∀ t ∈ Dot4Ty.ofBits b, t.toBits = b := by decide
theorem Tm.toBits_of_ofBits : ∀ b, ∀ t ∈ Tm.ofBits b, t.toBits = b := by decide
theorem Fmt.toBits_of_ofBits : ∀ b, ∀ f ∈ Fmt.ofBits b, f.toBits = b := by decide
theorem relBits_of_relOf : ∀ b, ∀ r ∈ relOf b, relBits r = b := by decide
theorem boolBits_boolOf : ∀ b, boolBits (boolOf b) = b := by decide

/-- The element types of an unscaled engine word are coded in three bits (R55). -/
theorem MxTy.setWidth_toBits_of_ofBits : ∀ b : BitVec 3, ∀ t ∈ MxTy.ofBits (b.setWidth 4), t.toBits.setWidth 3 = b := by decide

theorem SpecialReg.toBits_of_ofBits (b : BitVec 13) (t : SpecialReg) (h : t ∈ SpecialReg.ofBits b) : t.toBits = b := by
  unfold SpecialReg.ofBits at h
  split at h <;> cases h <;> exact BitVec.eq_of_toNat_eq (Eq.symm ‹b.toNat = _›)

theorem SysReg.toBits_of_ofBits (b : BitVec 13) (t : SysReg) (h : t ∈ SysReg.ofBits b) : t.toBits = b := by
  unfold SysReg.ofBits at h
  split at h <;> cases h <;> exact BitVec.eq_of_toNat_eq (Eq.symm ‹b.toNat = _›)

theorem Target.toBits_of_ofKind : ∀ k : BitVec 3, ∀ i : BitVec 6, ∀ t ∈ Target.ofKind k.toNat i, t.toBits = k ++ i := by decide

theorem Target.toBits_of_ofBits (b : BitVec 9) (t : Target) (h : t ∈ Target.ofBits b) : t.toBits = b :=
  (Target.toBits_of_ofKind _ _ t h).trans <|
    (BitVec.extractLsb'_append_extractLsb'_eq_extractLsb' (x := b) (start₁ := 0) rfl).trans BitVec.extractLsb'_eq_self

end Sys2Proof
end

section
/-! SUPPORT. A word is put together again from the fields that its layout cuts it into (R41). -/

namespace Sys2Proof

/-- Two fields side by side are one. -/
theorem extract_append {n : Nat} (w : BitVec n) (lo len hi : Nat) :
    w.extractLsb' (lo + len) hi ++ w.extractLsb' lo len = w.extractLsb' lo (hi + len) :=
  BitVec.extractLsb'_append_extractLsb'_eq_extractLsb' rfl

/-- Under a field of zeros the rest is the whole. -/
theorem zero_append_extract {n : Nat} {w : BitVec n} {lo len hi : Nat} (h : w.extractLsb' (lo + len) hi = 0#hi) :
    0#hi ++ w.extractLsb' lo len = w.extractLsb' lo (hi + len) :=
  h ▸ extract_append w lo len hi

/-- A part of a field. -/
theorem extract_extract {n : Nat} (w : BitVec n) {lo len i k : Nat} (h : i + k ≤ len := by decide) :
    (w.extractLsb' lo len).extractLsb' i k = w.extractLsb' (lo + i) k := by
  ext j hj
  simp [show i + j < len by omega, Nat.add_assoc]

/-- A part of a field of zeros is zero. -/
theorem extract_zero {n : Nat} {w : BitVec n} {lo len : Nat} (h : w.extractLsb' lo len = 0#len) (i k : Nat)
    (hle : i + k ≤ len := by decide) : w.extractLsb' (lo + i) k = 0#k := by
  rw [← extract_extract w hle, h]
  simp

theorem mkF2_of_fields {w : IWord} {op : BitVec 8} {pm : BitVec 2} {sub : BitVec 4} {t0 t1 : BitVec 9} (hop : w.extractLsb' 24 8 = op)
    (hpm : pm = w.extractLsb' 22 2) (hsub : sub = w.extractLsb' 18 4) (ht0 : t0 = w.extractLsb' 9 9) (ht1 : t1 = w.extractLsb' 0 9) :
    mkF2 op pm sub t0 t1 = w := by
  rw [mkF2, ← hop, hpm, hsub, ht0, ht1, extract_append w 22 2, extract_append w 18 4, extract_append w 9 9, extract_append w 0 9]
  exact BitVec.extractLsb'_eq_self

theorem mkFI_of_fields {w : IWord} {op : BitVec 8} {pm : BitVec 2} {t0 : BitVec 9} {imm : BitVec 13} (hop : w.extractLsb' 24 8 = op)
    (hpm : pm = w.extractLsb' 22 2) (ht0 : t0 = w.extractLsb' 13 9) (himm : imm = w.extractLsb' 0 13) : mkFI op pm t0 imm = w := by
  rw [mkFI, ← hop, hpm, ht0, himm, extract_append w 22 2, extract_append w 13 9, extract_append w 0 13]
  exact BitVec.extractLsb'_eq_self

theorem mkFS_of_fields {w : IWord} {op : BitVec 8} {pm : BitVec 2} {tm slot : BitVec 3} {blk : BitVec 12} {flags : BitVec 4}
    (hop : w.extractLsb' 24 8 = op) (hpm : pm = w.extractLsb' 22 2) (htm : tm = w.extractLsb' 19 3) (hslot : slot = w.extractLsb' 16 3)
    (hblk : blk = w.extractLsb' 4 12) (hflags : flags = w.extractLsb' 0 4) : mkFS op pm tm slot blk flags = w := by
  rw [mkFS, ← hop, hpm, htm, hslot, hblk, hflags, extract_append w 22 2, extract_append w 19 3, extract_append w 16 3,
    extract_append w 4 12, extract_append w 0 4]
  exact BitVec.extractLsb'_eq_self

theorem mkFX_of_fields {w : IWord} {op : BitVec 8} {pm : BitVec 2} {code : BitVec 13} {t0 : BitVec 9} (hop : w.extractLsb' 24 8 = op)
    (hpm : pm = w.extractLsb' 22 2) (hcode : code = w.extractLsb' 9 13) (ht0 : t0 = w.extractLsb' 0 9) : mkFX op pm code t0 = w := by
  rw [mkFX, ← hop, hpm, hcode, ht0, extract_append w 22 2, extract_append w 9 13, extract_append w 0 9]
  exact BitVec.extractLsb'_eq_self

/-- ORD (R42): four zeros, W64, the order and the scope. -/
theorem mkOrd_of_fields {w : IWord} {w64 : BitVec 1} {ord sc : BitVec 2} (hz : w.extractLsb' 5 4 = 0#4) (hw : w64 = w.extractLsb' 4 1)
    (hord : ord = w.extractLsb' 2 2) (hsc : sc = w.extractLsb' 0 2) : mkOrd w64 ord sc = w.extractLsb' 0 9 := by
  rw [mkOrd, ← hz, hw, hord, hsc, extract_append w 4 1, extract_append w 2 2, extract_append w 0 2]

/-- OP is its two digits (R56). -/
theorem opcode_eq {w : IWord} {hi : Nat} (h : (w.extractLsb' 28 4).toNat = hi) :
    w.extractLsb' 24 8 = BitVec.ofNat 8 (16 * hi + (w.extractLsb' 24 4).toNat) := by
  rw [← extract_append w 24 4 4]
  apply BitVec.eq_of_toNat_eq
  rw [toNat_join, h, BitVec.toNat_ofNat]
  have := (w.extractLsb' 28 4).isLt
  have := (w.extractLsb' 24 4).isLt
  omega

end Sys2Proof
end

section
/-! SUPPORT. A word that decodes is the word of its instruction: each shape of the decoder's rows once, then the rows. -/

namespace Sys2Proof

/-- Whatever instruction is read has `w` for its word. -/
def ReadsBack (w : IWord) (r : Except DecodeError Instr) : Prop := ∀ i, r = .ok i → encode i = w

namespace ReadsBack

variable {w : IWord} {op : BitVec 8}

/-! ### The steps of a row -/

theorem ok {i : Instr} (h : encode i = w) : ReadsBack w (.ok i) := fun _ hi => Except.ok.inj hi ▸ h

theorem error {e : DecodeError} : ReadsBack w (.error e) := fun _ hi => by cases hi

theorem ofField {α : Type} {f : Option α} {k : α → Except DecodeError Instr} (h : ∀ a ∈ f, ReadsBack w (k a)) :
    ReadsBack w (withField f k) := by
  cases f with
  | none => exact error
  | some a => exact h a rfl

theorem ofPm {k : Pm → Except DecodeError Instr} (h : ∀ pm : Pm, pm.toBits = w.extractLsb' 22 2 → ReadsBack w (k pm)) :
    ReadsBack w (withPm w k) := by
  unfold withPm
  split
  case h_1 p hp => exact h p (Pm.toBits_of_ofBits _ _ hp)
  case h_2 => exact error

theorem ofTarget {b : BitVec 9} {k : Target → Except DecodeError Instr} (h : ∀ t : Target, t.toBits = b → ReadsBack w (k t)) :
    ReadsBack w (withTarget b k) := by
  unfold withTarget
  split
  case h_1 t ht => exact h t (Target.toBits_of_ofBits _ _ ht)
  case h_2 => exact error

theorem ofMustBe {n : Nat} {c b : BitVec n} {k : Except DecodeError Instr} (h : b = c → ReadsBack w k) : ReadsBack w (mustBe c b k) := by
  unfold mustBe
  split
  case isTrue hb => exact h hb
  case isFalse => exact error

theorem ofZero {n : Nat} {b : BitVec n} {k : Except DecodeError Instr} (h : b = 0#n → ReadsBack w k) : ReadsBack w (mustBeZero b k) :=
  ofMustBe h

/-! ### Layouts F2 and FM: PM, SUB and two targets -/

/-- The two targets that end a word of layout F2. -/
theorem twoTargets {pm : BitVec 2} {sub : BitVec 4} (hop : w.extractLsb' 24 8 = op) (hpm : pm = w.extractLsb' 22 2)
    (hsub : sub = w.extractLsb' 18 4) {con : Target → Target → Instr}
    (hcon : ∀ t0 t1, encode (con t0 t1) = mkF2 op pm sub t0.toBits t1.toBits) :
    ReadsBack w (withTarget (w.extractLsb' 9 9) fun t0 => withTarget (w.extractLsb' 0 9) fun t1 => .ok (con t0 t1)) :=
  ofTarget fun t0 h0 => ofTarget fun t1 h1 => ok ((hcon t0 t1).trans (mkF2_of_fields hop hpm hsub h0 h1))

/-- SUB as it stands, or one whose value the decoder has read. -/
theorem subGiven {sub : BitVec 4} (hop : w.extractLsb' 24 8 = op) (hsub : sub = w.extractLsb' 18 4) {con : Pm → Target → Target → Instr}
    (hcon : ∀ pm t0 t1, encode (con pm t0 t1) = mkF2 op pm.toBits sub t0.toBits t1.toBits) :
    ReadsBack w (withPm w fun pm =>
      withTarget (w.extractLsb' 9 9) fun t0 => withTarget (w.extractLsb' 0 9) fun t1 => .ok (con pm t0 t1)) :=
  ofPm fun pm hpm => twoTargets hop hpm hsub (hcon pm)

theorem subZero (hop : w.extractLsb' 24 8 = op) {con : Pm → Target → Target → Instr}
    (hcon : ∀ pm t0 t1, encode (con pm t0 t1) = mkF2 op pm.toBits 0#4 t0.toBits t1.toBits) :
    ReadsBack w (withPm w fun pm => mustBeZero (w.extractLsb' 18 4) <|
      withTarget (w.extractLsb' 9 9) fun t0 => withTarget (w.extractLsb' 0 9) fun t1 => .ok (con pm t0 t1)) :=
  ofPm fun pm hpm => ofZero fun hz => twoTargets hop hpm hz.symm (hcon pm)

/-- SUB is one coded field. -/
theorem subField {α : Type} {f : BitVec 4 → Option α} {g : α → BitVec 4} (hfg : ∀ b, ∀ a ∈ f b, g a = b)
    (hop : w.extractLsb' 24 8 = op) {con : Pm → α → Target → Target → Instr}
    (hcon : ∀ pm a t0 t1, encode (con pm a t0 t1) = mkF2 op pm.toBits (g a) t0.toBits t1.toBits) :
    ReadsBack w (withPm w fun pm => withField (f (w.extractLsb' 18 4)) fun a =>
      withTarget (w.extractLsb' 9 9) fun t0 => withTarget (w.extractLsb' 0 9) fun t1 => .ok (con pm a t0 t1)) :=
  ofPm fun pm hpm => ofField fun a ha => twoTargets hop hpm (hfg _ a ha) (hcon pm a)

/-- SUB is two zeros and a coded field. -/
theorem subField2 {α : Type} {f : BitVec 2 → Option α} {g : α → BitVec 2} (hfg : ∀ b, ∀ a ∈ f b, g a = b)
    (hop : w.extractLsb' 24 8 = op) {con : Pm → α → Target → Target → Instr}
    (hcon : ∀ pm a t0 t1, encode (con pm a t0 t1) = mkF2 op pm.toBits (0#2 ++ g a) t0.toBits t1.toBits) :
    ReadsBack w (withPm w fun pm => mustBeZero (w.extractLsb' 20 2) <|
      withField (f (w.extractLsb' 18 2)) fun a =>
      withTarget (w.extractLsb' 9 9) fun t0 => withTarget (w.extractLsb' 0 9) fun t1 => .ok (con pm a t0 t1)) :=
  ofPm fun pm hpm => ofZero fun hz => ofField fun a ha =>
    twoTargets hop hpm (hfg _ a ha ▸ zero_append_extract hz) (hcon pm a)

/-- SUB is two zeros and a slot number. -/
theorem subSlot (hop : w.extractLsb' 24 8 = op) {con : Pm → Target → Target → Instr}
    (hcon : ∀ pm t0 t1, encode (con pm t0 t1) = mkF2 op pm.toBits (0#2 ++ w.extractLsb' 18 2) t0.toBits t1.toBits) :
    ReadsBack w (withPm w fun pm => mustBeZero (w.extractLsb' 20 2) <|
      withTarget (w.extractLsb' 9 9) fun t0 => withTarget (w.extractLsb' 0 9) fun t1 => .ok (con pm t0 t1)) :=
  ofPm fun pm hpm => ofZero fun hz => twoTargets hop hpm (zero_append_extract hz) (hcon pm)

/-- SUB is two coded fields. -/
theorem subFields {α β : Type} {f : BitVec 2 → Option α} {g : α → BitVec 2} (hfg : ∀ b, ∀ a ∈ f b, g a = b) {f' : BitVec 2 → Option β}
    {g' : β → BitVec 2} (hfg' : ∀ b, ∀ a ∈ f' b, g' a = b) (hop : w.extractLsb' 24 8 = op)
    {con : Pm → α → β → Target → Target → Instr}
    (hcon : ∀ pm a b t0 t1, encode (con pm a b t0 t1) = mkF2 op pm.toBits (g a ++ g' b) t0.toBits t1.toBits) :
    ReadsBack w (withPm w fun pm => withField (f (w.extractLsb' 20 2)) fun a =>
      withField (f' (w.extractLsb' 18 2)) fun b =>
      withTarget (w.extractLsb' 9 9) fun t0 => withTarget (w.extractLsb' 0 9) fun t1 => .ok (con pm a b t0 t1)) :=
  ofPm fun pm hpm => ofField fun a ha => ofField fun b hb =>
    twoTargets hop hpm (by rw [hfg _ a ha, hfg' _ b hb, extract_append w 18 2]) (hcon pm a b)

/-- SUB is three zeros and a coded bit. -/
theorem subField1 {α : Type} {f : BitVec 1 → Option α} {g : α → BitVec 1} (hfg : ∀ b, ∀ a ∈ f b, g a = b)
    (hop : w.extractLsb' 24 8 = op) {con : Pm → α → Target → Target → Instr}
    (hcon : ∀ pm a t0 t1, encode (con pm a t0 t1) = mkF2 op pm.toBits (0#3 ++ g a) t0.toBits t1.toBits) :
    ReadsBack w (withPm w fun pm => mustBeZero (w.extractLsb' 19 3) <|
      withField (f (w.extractLsb' 18 1)) fun a =>
      withTarget (w.extractLsb' 9 9) fun t0 => withTarget (w.extractLsb' 0 9) fun t1 => .ok (con pm a t0 t1)) :=
  ofPm fun pm hpm => ofZero fun hz => ofField fun a ha =>
    twoTargets hop hpm (hfg _ a ha ▸ zero_append_extract hz) (hcon pm a)

/-- SUB is three zeros and a flag (`bfx`). -/
theorem subFlag (hop : w.extractLsb' 24 8 = op) {con : Pm → Bool → Target → Target → Instr}
    (hcon : ∀ pm b t0 t1, encode (con pm b t0 t1) = mkF2 op pm.toBits (0#3 ++ boolBits b) t0.toBits t1.toBits) :
    ReadsBack w (withPm w fun pm => mustBeZero (w.extractLsb' 19 3) <|
      withTarget (w.extractLsb' 9 9) fun t0 => withTarget (w.extractLsb' 0 9) fun t1 =>
        .ok (con pm (boolOf (w.extractLsb' 18 1)) t0 t1)) :=
  ofPm fun pm hpm => ofZero fun hz =>
    twoTargets hop hpm ((boolBits_boolOf _).symm ▸ zero_append_extract hz) (hcon pm _)

/-- SUB is a zero and an element type of three bits (`mma`, `wld`). -/
theorem subElem (hop : w.extractLsb' 24 8 = op) {con : Pm → MxTy → Target → Target → Instr}
    (hcon : ∀ pm ty t0 t1, encode (con pm ty t0 t1) = mkF2 op pm.toBits (0#1 ++ ty.toBits.setWidth 3) t0.toBits t1.toBits) :
    ReadsBack w (withPm w fun pm => mustBeZero (w.extractLsb' 21 1) <|
      withField (MxTy.ofBits ((w.extractLsb' 18 3).setWidth 4)) fun ty =>
      withTarget (w.extractLsb' 9 9) fun t0 => withTarget (w.extractLsb' 0 9) fun t1 => .ok (con pm ty t0 t1)) :=
  ofPm fun pm hpm => ofZero fun hz => ofField fun ty hty =>
    twoTargets hop hpm (MxTy.setWidth_toBits_of_ofBits _ ty hty ▸ zero_append_extract hz) (hcon pm ty)

/-- SUB picks between two instructions. -/
theorem subPick (hop : w.extractLsb' 24 8 = op) {con con' : Pm → Target → Target → Instr}
    (hcon : ∀ pm t0 t1, encode (con pm t0 t1) = mkF2 op pm.toBits 0#4 t0.toBits t1.toBits)
    (hcon' : ∀ pm t0 t1, encode (con' pm t0 t1) = mkF2 op pm.toBits 1#4 t0.toBits t1.toBits) :
    ReadsBack w (match (w.extractLsb' 18 4).toNat with
      | 0 => withPm w fun pm =>
        withTarget (w.extractLsb' 9 9) fun t0 => withTarget (w.extractLsb' 0 9) fun t1 => .ok (con pm t0 t1)
      | 1 => withPm w fun pm =>
        withTarget (w.extractLsb' 9 9) fun t0 => withTarget (w.extractLsb' 0 9) fun t1 => .ok (con' pm t0 t1)
      | _ => .error .field) := by
  split
  next h => exact subGiven hop (BitVec.eq_of_toNat_eq (x := 0#4) h.symm) hcon
  next h => exact subGiven hop (BitVec.eq_of_toNat_eq (x := 1#4) h.symm) hcon'
  next => exact error

/-! ### Layout FI: PM, a target and an immediate -/

/-- The target before an immediate. -/
theorem targetImm {pm : BitVec 2} {imm : BitVec 13} (hop : w.extractLsb' 24 8 = op) (hpm : pm = w.extractLsb' 22 2)
    (himm : imm = w.extractLsb' 0 13) {con : Target → Instr} (hcon : ∀ t0, encode (con t0) = mkFI op pm t0.toBits imm) :
    ReadsBack w (withTarget (w.extractLsb' 13 9) fun t0 => .ok (con t0)) :=
  ofTarget fun t0 h0 => ok ((hcon t0).trans (mkFI_of_fields hop hpm h0 himm))

theorem imm (hop : w.extractLsb' 24 8 = op) {con : Pm → Target → BitVec 13 → Instr}
    (hcon : ∀ pm t0 n, encode (con pm t0 n) = mkFI op pm.toBits t0.toBits n) :
    ReadsBack w (withPm w fun pm => withTarget (w.extractLsb' 13 9) fun t0 => .ok (con pm t0 (w.extractLsb' 0 13))) :=
  ofPm fun pm hpm => targetImm hop hpm rfl fun t0 => hcon pm t0 _

/-- The immediate is a register number under seven zeros (`getx`). -/
theorem immReg (hop : w.extractLsb' 24 8 = op) {con : Pm → Target → BitVec 6 → Instr}
    (hcon : ∀ pm t0 x, encode (con pm t0 x) = mkFI op pm.toBits t0.toBits (0#7 ++ x)) :
    ReadsBack w (withPm w fun pm => mustBeZero (w.extractLsb' 6 7) <|
      withTarget (w.extractLsb' 13 9) fun t0 => .ok (con pm t0 (w.extractLsb' 0 6))) :=
  ofPm fun pm hpm => ofZero fun hz => targetImm hop hpm (zero_append_extract hz) fun t0 => hcon pm t0 _

/-- The immediate is five zeros, a width and an amount. -/
theorem immShift (hop : w.extractLsb' 24 8 = op) {con : Pm → Target → Width → BitVec 6 → Instr}
    (hcon : ∀ pm t0 wd n, encode (con pm t0 wd n) = mkFI op pm.toBits t0.toBits (0#5 ++ (wd.toBits ++ n))) :
    ReadsBack w (withPm w fun pm => mustBeZero (w.extractLsb' 8 5) <|
      withField (Width.ofBits (w.extractLsb' 6 2)) fun wd =>
      withTarget (w.extractLsb' 13 9) fun t0 => .ok (con pm t0 wd (w.extractLsb' 0 6))) :=
  ofPm fun pm hpm => ofZero fun hz => ofField fun wd hw => targetImm hop hpm
    (by rw [Width.toBits_of_ofBits _ wd hw, extract_append w 0 6 2, zero_append_extract hz]) fun t0 => hcon pm t0 wd _

/-- The immediate is a coded field and ten bits. -/
theorem immField {α : Type} {f : BitVec 3 → Option α} {g : α → BitVec 3} (hfg : ∀ b, ∀ a ∈ f b, g a = b)
    (hop : w.extractLsb' 24 8 = op) {con : Pm → Target → α → BitVec 10 → Instr}
    (hcon : ∀ pm t0 a n, encode (con pm t0 a n) = mkFI op pm.toBits t0.toBits (g a ++ n)) :
    ReadsBack w (withPm w fun pm => withField (f (w.extractLsb' 10 3)) fun a =>
      withTarget (w.extractLsb' 13 9) fun t0 => .ok (con pm t0 a (w.extractLsb' 0 10))) :=
  ofPm fun pm hpm => ofField fun a ha => targetImm hop hpm
    (by rw [hfg _ a ha, extract_append w 0 10 3]) fun t0 => hcon pm t0 a _

/-! ### Layout FX: PM, a code and a target -/

/-- The target after a code. -/
theorem codeTarget {pm : BitVec 2} {code : BitVec 13} (hop : w.extractLsb' 24 8 = op) (hpm : pm = w.extractLsb' 22 2)
    (hcode : code = w.extractLsb' 9 13) {con : Target → Instr} (hcon : ∀ t0, encode (con t0) = mkFX op pm code t0.toBits) :
    ReadsBack w (withTarget (w.extractLsb' 0 9) fun t0 => .ok (con t0)) :=
  ofTarget fun t0 h0 => ok ((hcon t0).trans (mkFX_of_fields hop hpm hcode h0))

theorem code (hop : w.extractLsb' 24 8 = op) {con : Pm → BitVec 13 → Target → Instr}
    (hcon : ∀ pm n t0, encode (con pm n t0) = mkFX op pm.toBits n t0.toBits) :
    ReadsBack w (withPm w fun pm => withTarget (w.extractLsb' 0 9) fun t0 => .ok (con pm (w.extractLsb' 9 13) t0)) :=
  ofPm fun pm hpm => codeTarget hop hpm rfl (hcon pm _)

theorem codeZero (hop : w.extractLsb' 24 8 = op) {con : Pm → Target → Instr}
    (hcon : ∀ pm t0, encode (con pm t0) = mkFX op pm.toBits 0#13 t0.toBits) :
    ReadsBack w (withPm w fun pm => mustBeZero (w.extractLsb' 9 13) <|
      withTarget (w.extractLsb' 0 9) fun t0 => .ok (con pm t0)) :=
  ofPm fun pm hpm => ofZero fun hz => codeTarget hop hpm hz.symm (hcon pm)

theorem codeField {α : Type} {f : BitVec 13 → Option α} {g : α → BitVec 13} (hfg : ∀ b, ∀ a ∈ f b, g a = b)
    (hop : w.extractLsb' 24 8 = op) {con : Pm → α → Target → Instr}
    (hcon : ∀ pm a t0, encode (con pm a t0) = mkFX op pm.toBits (g a) t0.toBits) :
    ReadsBack w (withPm w fun pm => withField (f (w.extractLsb' 9 13)) fun a =>
      withTarget (w.extractLsb' 0 9) fun t0 => .ok (con pm a t0)) :=
  ofPm fun pm hpm => ofField fun a ha => codeTarget hop hpm (hfg _ a ha) (hcon pm a)

/-- The code is SAT and the two formats of a conversion. -/
theorem codeFormats {pm : BitVec 2} (hop : w.extractLsb' 24 8 = op) (hpm : pm = w.extractLsb' 22 2)
    {con : Bool → Fmt → Fmt → Target → Instr}
    (hcon : ∀ sat dst src t0, encode (con sat dst src t0) = mkFX op pm (boolBits sat ++ (dst.toBits ++ src.toBits)) t0.toBits) :
    ReadsBack w (withField (Fmt.ofBits (w.extractLsb' 15 6)) fun dst => withField (Fmt.ofBits (w.extractLsb' 9 6)) fun src =>
      withTarget (w.extractLsb' 0 9) fun t0 => .ok (con (boolOf (w.extractLsb' 21 1)) dst src t0)) :=
  ofField fun dst hd => ofField fun src hs => codeTarget hop hpm
    (by rw [boolBits_boolOf, Fmt.toBits_of_ofBits _ dst hd, Fmt.toBits_of_ofBits _ src hs, extract_append w 9 6, extract_append w 9 12])
    (hcon _ dst src)

/-- `cvt`, whose rounding mode is the two low bits of OP (R54). -/
theorem convert (hop : w.extractLsb' 24 8 = op) (hcvt : op.extractLsb' 2 6 = 25#6) :
    ReadsBack w (withPm w fun pm => withField (Rnd.ofBits (w.extractLsb' 24 2)) fun rm =>
      withField (Fmt.ofBits (w.extractLsb' 15 6)) fun dst => withField (Fmt.ofBits (w.extractLsb' 9 6)) fun src =>
      withTarget (w.extractLsb' 0 9) fun t0 => .ok (.cvt rm pm (boolOf (w.extractLsb' 21 1)) dst src t0)) := by
  have hhigh : w.extractLsb' (24 + 2) 6 = 25#6 := by rw [← extract_extract (len := 8), hop, hcvt]
  refine ofPm fun pm hpm => ofField fun rm hrm => codeFormats (op := 25#6 ++ rm.toBits) ?_ hpm fun _ _ _ _ => rfl
  rw [Rnd.toBits_of_ofBits _ rm hrm, ← hhigh, extract_append w 24 2]

/-! ### Layout FS: PM, TM, a destination and the flags -/

/-- The release and the last flag, which end a word of layout FS. -/
theorem flags {pm : BitVec 2} {tm : BitVec 3} (hop : w.extractLsb' 24 8 = op) (hpm : pm = w.extractLsb' 22 2)
    (htm : tm = w.extractLsb' 19 3) {con : Option Scope → Bool → Instr}
    (hcon : ∀ rel b, encode (con rel b) = mkFS op pm tm (w.extractLsb' 16 3) (w.extractLsb' 4 12) (relBits rel ++ boolBits b)) :
    ReadsBack w (withField (relOf (w.extractLsb' 1 3)) fun rel => .ok (con rel (boolOf (w.extractLsb' 0 1)))) :=
  ofField fun rel hrel => ok <| (hcon rel _).trans <| mkFS_of_fields hop hpm htm rfl rfl
    (by rw [relBits_of_relOf _ rel hrel, boolBits_boolOf, extract_append w 0 1 3])

/-- TM is a coded field (`send`, `sendv`). -/
theorem modeFlags (hop : w.extractLsb' 24 8 = op) {con : Pm → Tm → BitVec 3 → BitVec 12 → Option Scope → Bool → Instr}
    (hcon : ∀ pm tm slot blk rel b, encode (con pm tm slot blk rel b) = mkFS op pm.toBits tm.toBits slot blk (relBits rel ++ boolBits b)) :
    ReadsBack w (withPm w fun pm => withField (Tm.ofBits (w.extractLsb' 19 3)) fun tm =>
      withField (relOf (w.extractLsb' 1 3)) fun rel =>
        .ok (con pm tm (w.extractLsb' 16 3) (w.extractLsb' 4 12) rel (boolOf (w.extractLsb' 0 1)))) :=
  ofPm fun pm hpm => ofField fun tm htm => flags hop hpm (Tm.toBits_of_ofBits _ tm htm) (hcon pm tm _ _)

/-- TM is fixed by the opcode (`enter`, `next`, `leave` and the forms of `enterm`). -/
theorem fixedFlags {tm : BitVec 3} (hop : w.extractLsb' 24 8 = op) {con : Pm → BitVec 3 → BitVec 12 → Option Scope → Bool → Instr}
    (hcon : ∀ pm slot blk rel b, encode (con pm slot blk rel b) = mkFS op pm.toBits tm slot blk (relBits rel ++ boolBits b)) :
    ReadsBack w (withPm w fun pm => mustBe tm (w.extractLsb' 19 3) <|
      withField (relOf (w.extractLsb' 1 3)) fun rel =>
        .ok (con pm (w.extractLsb' 16 3) (w.extractLsb' 4 12) rel (boolOf (w.extractLsb' 0 1)))) :=
  ofPm fun pm hpm => ofMustBe fun htm => flags hop hpm htm.symm (hcon pm _ _)

/-- `sendx`: TM, SLOT and BLOCK are zero. -/
theorem zeroFlags (hop : w.extractLsb' 24 8 = op) {con : Pm → Option Scope → Bool → Instr}
    (hcon : ∀ pm rel b, encode (con pm rel b) = mkFS op pm.toBits 0#3 0#3 0#12 (relBits rel ++ boolBits b)) :
    ReadsBack w (withPm w fun pm => mustBeZero (w.extractLsb' 4 18) <|
      withField (relOf (w.extractLsb' 1 3)) fun rel => .ok (con pm rel (boolOf (w.extractLsb' 0 1)))) := by
  refine ofPm fun pm hpm => ofZero fun hz => ?_
  refine flags hop hpm (extract_zero hz 15 3).symm fun rel b => ?_
  rw [extract_zero hz 12 3, extract_zero hz 0 12]
  exact hcon pm rel b

/-- `steer`: PM is zero. -/
theorem steer (hop : w.extractLsb' 24 8 = 0x13#8) :
    ReadsBack w (mustBeZero (w.extractLsb' 22 2) <| withField (Tm.ofBits (w.extractLsb' 19 3)) fun tm =>
      withField (relOf (w.extractLsb' 1 3)) fun rel =>
        .ok (.steer tm (w.extractLsb' 16 3) (w.extractLsb' 4 12) rel (boolOf (w.extractLsb' 0 1)))) :=
  ofZero fun hz => ofField fun tm htm => flags hop hz.symm (Tm.toBits_of_ofBits _ tm htm) fun _ _ => rfl

/-- `cont`: the flags are a latch number. -/
theorem cont (hop : w.extractLsb' 24 8 = 0x14#8) :
    ReadsBack w (withPm w fun pm => withField (Tm.ofBits (w.extractLsb' 19 3)) fun tm =>
      .ok (.cont pm tm (w.extractLsb' 16 3) (w.extractLsb' 4 12) (w.extractLsb' 0 4))) :=
  ofPm fun _ hpm => ofField fun tm htm => ok (mkFS_of_fields hop hpm (Tm.toBits_of_ofBits _ tm htm) rfl rfl rfl)

/-! ### ORD in the place of T1 (R42) -/

/-- An order and a scope under W64, before the target. -/
theorem ordTarget {pm : BitVec 2} {sub : BitVec 4} {w64 : BitVec 1} (hop : w.extractLsb' 24 8 = op) (hpm : pm = w.extractLsb' 22 2)
    (hsub : sub = w.extractLsb' 18 4) (hz : w.extractLsb' 5 4 = 0#4) (hw : w64 = w.extractLsb' 4 1) {con : Order → Scope → Target → Instr}
    (hcon : ∀ ord sc t0, encode (con ord sc t0) = mkF2 op pm sub t0.toBits (mkOrd w64 ord.toBits sc.toBits)) :
    ReadsBack w (withField (Order.ofBits (w.extractLsb' 2 2)) fun ord => withField (Scope.ofBits (w.extractLsb' 0 2)) fun sc =>
      withTarget (w.extractLsb' 9 9) fun t0 => .ok (con ord sc t0)) :=
  ofField fun ord hord => ofField fun sc hsc => ofTarget fun t0 h0 => ok <| (hcon ord sc t0).trans <|
    mkF2_of_fields hop hpm hsub h0 (mkOrd_of_fields hz hw (Order.toBits_of_ofBits _ ord hord) (Scope.toBits_of_ofBits _ sc hsc))

/-- `redo`: the order is one bit, release or not, over a zero (R42). -/
theorem redo (hop : w.extractLsb' 24 8 = 0x9B#8) :
    ReadsBack w (withPm w fun pm => mustBeZero (w.extractLsb' 2 1) <| mustBeZero (w.extractLsb' 4 5) <|
      mustBeZero (w.extractLsb' 18 4) <| withField (Scope.ofBits (w.extractLsb' 0 2)) fun sc =>
      withTarget (w.extractLsb' 9 9) fun t0 => .ok (.redo pm t0 (boolOf (w.extractLsb' 3 1)) sc)) :=
  ofPm fun _ hpm => ofZero fun hacq => ofZero fun hz => ofZero fun hsub => ofField fun sc hsc => ofTarget fun _ h0 =>
    ok <| mkF2_of_fields hop hpm hsub.symm h0 <| mkOrd_of_fields (extract_zero hz 1 4) (extract_zero hz 0 1).symm
      (by rw [boolBits_boolOf, ← hacq, extract_append w 2 1 1]) (Scope.toBits_of_ofBits _ sc hsc)

/-! ### The rows, by the low digit of OP -/

theorem row0 : ∀ {lo : Nat}, w.extractLsb' 24 8 = BitVec.ofNat 8 (16 * 0 + lo) → lo < 16 → ReadsBack w (decode0 lo w)
  | 1, hop, _ | 2, hop, _ | 3, hop, _ => subGiven hop rfl fun _ _ _ => rfl
  | 4, hop, _ => immReg hop fun _ _ _ => rfl
  | 5, hop, _ => codeField SpecialReg.toBits_of_ofBits hop fun _ _ _ => rfl
  | 6, hop, _ | 7, hop, _ => imm hop fun _ _ _ => rfl
  | 8, hop, _ => subZero hop fun _ _ _ => rfl
  | 0, _, _ | 9, _, _ | 10, _, _ | 11, _, _ | 12, _, _ | 13, _, _ | 14, _, _ | 15, _, _ => error
  | _ + 16, _, h => absurd h (by omega)

theorem row1 : ∀ {lo : Nat}, w.extractLsb' 24 8 = BitVec.ofNat 8 (16 * 1 + lo) → lo < 16 → ReadsBack w (decode1 lo w)
  | 0, hop, _ | 2, hop, _ => modeFlags hop fun _ _ _ _ _ _ => rfl
  | 1, hop, _ => zeroFlags hop fun _ _ _ => rfl
  | 3, hop, _ => steer hop
  | 4, hop, _ => cont hop
  | 5, hop, _ | 6, hop, _ | 7, hop, _ | 8, hop, _ | 9, hop, _ => fixedFlags hop fun _ _ _ _ _ => rfl
  | 10, hop, _ | 11, hop, _ => subZero hop fun _ _ _ => rfl
  | 12, _, _ | 13, _, _ | 14, _, _ | 15, _, _ => error
  | _ + 16, _, h => absurd h (by omega)

theorem row2 : ∀ {lo : Nat}, w.extractLsb' 24 8 = BitVec.ofNat 8 (16 * 2 + lo) → lo < 16 → ReadsBack w (decode2 lo w)
  | 0, hop, _ | 1, hop, _ | 2, hop, _ | 3, hop, _ | 5, hop, _ | 6, hop, _ | 7, hop, _ | 8, hop, _ | 9, hop, _ | 10, hop, _ | 11, hop, _
  | 12, hop, _ | 13, hop, _ => subField Ity.toBits_of_ofBits hop fun _ _ _ _ => rfl
  | 4, hop, _ => imm hop fun _ _ _ => rfl
  | 14, _, _ | 15, _, _ => error
  | _ + 16, _, h => absurd h (by omega)

theorem row3 : ∀ {lo : Nat}, w.extractLsb' 24 8 = BitVec.ofNat 8 (16 * 3 + lo) → lo < 16 → ReadsBack w (decode3 lo w)
  | 0, hop, _ | 1, hop, _ | 2, hop, _ | 3, hop, _ | 4, hop, _ => subZero hop fun _ _ _ => rfl
  | 5, hop, _ | 6, hop, _ | 7, hop, _ | 8, hop, _ | 13, hop, _ | 14, hop, _ | 15, hop, _ =>
    subField2 Width.toBits_of_ofBits hop fun _ _ _ _ => rfl
  | 9, hop, _ | 10, hop, _ | 11, hop, _ | 12, hop, _ => immShift hop fun _ _ _ _ => rfl
  | _ + 16, _, h => absurd h (by omega)

theorem row4 : ∀ {lo : Nat}, w.extractLsb' 24 8 = BitVec.ofNat 8 (16 * 4 + lo) → lo < 16 → ReadsBack w (decode4 lo w)
  | 0, hop, _ | 1, hop, _ | 4, hop, _ | 5, hop, _ => subField2 Width.toBits_of_ofBits hop fun _ _ _ _ => rfl
  | 2, hop, _ => subFlag hop fun _ _ _ _ => rfl
  | 3, hop, _ | 8, hop, _ | 9, hop, _ | 10, hop, _ | 11, hop, _ | 12, hop, _ => subZero hop fun _ _ _ => rfl
  | 6, hop, _ => subField Cond.toBits_of_ofBits hop fun _ _ _ _ => rfl
  | 7, hop, _ => immField Cond.toBits3_of_ofBits3 hop fun _ _ _ _ => rfl
  | 13, hop, _ | 14, hop, _ => subField1 Half.toBits_of_ofBits hop fun _ _ _ _ => rfl
  | 15, _, _ => error
  | _ + 16, _, h => absurd h (by omega)

theorem row5 : ∀ {lo : Nat}, w.extractLsb' 24 8 = BitVec.ofNat 8 (16 * 5 + lo) → lo < 16 → ReadsBack w (decode5 lo w)
  | 0, hop, _ | 1, hop, _ | 2, hop, _ | 3, hop, _ | 10, hop, _ | 11, hop, _ =>
    subFields Rnd.toBits_of_ofBits FTy.toBits_of_ofBits hop fun _ _ _ _ _ => rfl
  | 4, hop, _ | 5, hop, _ | 6, hop, _ | 7, hop, _ | 9, hop, _ => subField2 FTy.toBits_of_ofBits hop fun _ _ _ _ => rfl
  | 8, hop, _ => subFields FCond.toBits_of_ofBits FTy.toBits_of_ofBits hop fun _ _ _ _ _ => rfl
  | 12, hop, _ | 13, hop, _ | 14, hop, _ | 15, hop, _ => subZero hop fun _ _ _ => rfl
  | _ + 16, _, h => absurd h (by omega)

theorem row6 : ∀ {lo : Nat}, w.extractLsb' 24 8 = BitVec.ofNat 8 (16 * 6 + lo) → lo < 16 → ReadsBack w (decode6 lo w)
  | 0, hop, _ | 1, hop, _ | 2, hop, _ => subZero hop fun _ _ _ => rfl
  | 3, hop, _ | 9, hop, _ | 10, hop, _ | 11, hop, _ => subFields Rnd.toBits_of_ofBits FTy.toBits_of_ofBits hop fun _ _ _ _ _ => rfl
  | 4, hop, _ | 5, hop, _ | 6, hop, _ | 7, hop, _ => convert hop rfl
  | 8, hop, _ => ofPm fun _ hpm => codeFormats hop hpm fun _ _ _ _ => rfl
  | 12, hop, _ => subField2 FTy.toBits_of_ofBits hop fun _ _ _ _ => rfl
  | 13, hop, _ => subField Dot4Ty.toBits_of_ofBits hop fun _ _ _ _ => rfl
  | 14, _, _ | 15, _, _ => error
  | _ + 16, _, h => absurd h (by omega)

theorem row8 : ∀ {lo : Nat}, w.extractLsb' 24 8 = BitVec.ofNat 8 (16 * 8 + lo) → lo < 16 → ReadsBack w (decode8 lo w)
  | 0, hop, _ | 1, hop, _ | 2, hop, _ | 3, hop, _ | 4, hop, _ | 5, hop, _ | 6, hop, _ | 9, hop, _ => subZero hop fun _ _ _ => rfl
  | 7, hop, _ | 8, hop, _ => subField RedOp.toBits_of_ofBits hop fun _ _ _ _ => rfl
  | 10, _, _ | 11, _, _ | 12, _, _ | 13, _, _ | 14, _, _ | 15, _, _ => error
  | _ + 16, _, h => absurd h (by omega)

theorem row9 : ∀ {lo : Nat}, w.extractLsb' 24 8 = BitVec.ofNat 8 (16 * 9 + lo) → lo < 16 → ReadsBack w (decode9 lo w)
  | 0, hop, _ => subField CursDim.toBits_of_ofBits hop fun _ _ _ _ => rfl
  | 1, hop, _ => immField Dim.toBits_of_ofBits hop fun _ _ _ _ => rfl
  | 2, hop, _ | 3, hop, _ => subField MemTy.toBits_of_ofBits hop fun _ _ _ _ => rfl
  | 4, hop, _ | 5, hop, _ | 6, hop, _ | 7, hop, _ => subField2 Width.toBits_of_ofBits hop fun _ _ _ _ => rfl
  | 8, hop, _ => ofPm fun _ hpm => ofZero fun hz => ofField fun op hsub =>
    ordTarget hop hpm (AtomOp.toBits_of_ofBits _ op hsub) hz (boolBits_boolOf _) fun _ _ _ => rfl
  | 9, hop, _ => ofPm fun _ hpm => ofZero fun hz => ofZero fun hsub =>
    ordTarget hop hpm hsub.symm hz (boolBits_boolOf _) fun _ _ _ => rfl
  | 10, hop, _ => ofPm fun _ hpm => ofZero fun hz => ofField fun op hsub =>
    ordTarget hop hpm (FatomOp.toBits_of_ofBits _ op hsub) (extract_zero hz 1 4) (extract_zero hz 0 1).symm fun _ _ _ => rfl
  | 11, hop, _ => redo hop
  | 12, hop, _ => subField2 Scope.toBits_of_ofBits hop fun _ _ _ _ => rfl
  | 13, hop, _ => subField1 PrefLevel.toBits_of_ofBits hop fun _ _ _ _ => rfl
  | 14, hop, _ => subField HqryItem.toBits_of_ofBits hop fun _ _ _ _ => rfl
  | 15, hop, _ => subZero hop fun _ _ _ => rfl
  | _ + 16, _, h => absurd h (by omega)

theorem rowA : ∀ {lo : Nat}, w.extractLsb' 24 8 = BitVec.ofNat 8 (16 * 10 + lo) → lo < 16 → ReadsBack w (decodeA lo w)
  | 0, hop, _ => subZero hop fun _ _ _ => rfl
  | 1, hop, _ => subPick hop (fun _ _ _ => rfl) fun _ _ _ => rfl
  | 2, _, _ | 3, _, _ | 4, _, _ | 5, _, _ | 6, _, _ | 7, _, _ | 8, _, _ | 9, _, _ | 10, _, _ | 11, _, _ | 12, _, _ | 13, _, _ | 14, _, _
  | 15, _, _ => error
  | _ + 16, _, h => absurd h (by omega)

theorem rowB : ∀ {lo : Nat}, w.extractLsb' 24 8 = BitVec.ofNat 8 (16 * 11 + lo) → lo < 16 → ReadsBack w (decodeB lo w)
  | 0, hop, _ | 2, hop, _ => subElem hop fun _ _ _ _ => rfl
  | 1, hop, _ => subField MxTy.toBits_of_ofBits hop fun _ _ _ _ => rfl
  | 3, hop, _ | 5, hop, _ => subZero hop fun _ _ _ => rfl
  | 4, hop, _ => subField AcvtTy.toBits_of_ofBits hop fun _ _ _ _ => rfl
  | 6, _, _ | 7, _, _ | 8, _, _ | 9, _, _ | 10, _, _ | 11, _, _ | 12, _, _ | 13, _, _ | 14, _, _ | 15, _, _ => error
  | _ + 16, _, h => absurd h (by omega)

theorem rowC : ∀ {lo : Nat}, w.extractLsb' 24 8 = BitVec.ofNat 8 (16 * 12 + lo) → lo < 16 → ReadsBack w (decodeC lo w)
  | 0, hop, _ | 1, hop, _ | 2, hop, _ | 5, hop, _ | 7, hop, _ => subZero hop fun _ _ _ => rfl
  | 3, hop, _ => subField2 CpyrOp.toBits_of_ofBits hop fun _ _ _ _ => rfl
  | 4, hop, _ | 6, hop, _ => subPick hop (fun _ _ _ => rfl) fun _ _ _ => rfl
  | 8, _, _ | 9, _, _ | 10, _, _ | 11, _, _ | 12, _, _ | 13, _, _ | 14, _, _ | 15, _, _ => error
  | _ + 16, _, h => absurd h (by omega)

theorem rowD : ∀ {lo : Nat}, w.extractLsb' 24 8 = BitVec.ofNat 8 (16 * 13 + lo) → lo < 16 → ReadsBack w (decodeD lo w)
  | 0, hop, _ | 1, hop, _ => subSlot hop fun _ _ _ => rfl
  | 2, hop, _ | 8, hop, _ | 11, hop, _ => subZero hop fun _ _ _ => rfl
  | 9, hop, _ | 10, hop, _ => subField MxTy.toBits_of_ofBits hop fun _ _ _ _ => rfl
  | 3, _, _ | 4, _, _ | 5, _, _ | 6, _, _ | 7, _, _ | 12, _, _ | 13, _, _ | 14, _, _ | 15, _, _ => error
  | _ + 16, _, h => absurd h (by omega)

theorem rowE : ∀ {lo : Nat}, w.extractLsb' 24 8 = BitVec.ofNat 8 (16 * 14 + lo) → lo < 16 → ReadsBack w (decodeE lo w)
  | 0, hop, _ | 1, hop, _ => code hop fun _ _ _ => rfl
  | 2, hop, _ | 3, hop, _ => codeField SysReg.toBits_of_ofBits hop fun _ _ _ => rfl
  | 4, hop, _ | 5, hop, _ | 6, hop, _ => codeZero hop fun _ _ => rfl
  | 7, _, _ | 8, _, _ | 9, _, _ | 10, _, _ | 11, _, _ | 12, _, _ | 13, _, _ | 14, _, _ | 15, _, _ => error
  | _ + 16, _, h => absurd h (by omega)

/-- OP's high digit picks the row; every low digit of 0xF is an emulation-class word (R57). -/
theorem fields (w : IWord) : ReadsBack w (decodeFields w) := by
  have hlo := (w.extractLsb' 24 4).isLt
  unfold decodeFields
  dsimp only
  split
  next h => exact row0 (opcode_eq h) hlo
  next h => exact row1 (opcode_eq h) hlo
  next h => exact row2 (opcode_eq h) hlo
  next h => exact row3 (opcode_eq h) hlo
  next h => exact row4 (opcode_eq h) hlo
  next h => exact row5 (opcode_eq h) hlo
  next h => exact row6 (opcode_eq h) hlo
  next h => exact row8 (opcode_eq h) hlo
  next h => exact row9 (opcode_eq h) hlo
  next h => exact rowA (opcode_eq h) hlo
  next h => exact rowB (opcode_eq h) hlo
  next h => exact rowC (opcode_eq h) hlo
  next h => exact rowD (opcode_eq h) hlo
  next h => exact rowE (opcode_eq h) hlo
  next h =>
    have hop : w.extractLsb' 24 8 = 15#4 ++ w.extractLsb' 24 4 := by rw [← extract_append w 24 4 4, BitVec.eq_of_toNat_eq (y := 15#4) h]
    exact subGiven hop rfl fun _ _ _ => rfl
  next => exact error

end ReadsBack

theorem decode_eq_ok {w : IWord} {i : Instr} : decode w = .ok i ↔ decodeFields w = .ok i ∧ i.wf = true := by
  unfold decode
  cases decodeFields w with
  | error e => simp
  | ok j => grind

/-- Settles O2: a word that decodes passes the checks over its fields, and each row of the decoder reads every bit of it. -/
theorem encodeDecode : Obligations.EncodeDecode := fun w i h => by
  obtain ⟨hfields, hwf⟩ := decode_eq_ok.mp h
  exact ⟨hwf, ReadsBack.fields w i hfields⟩

end Sys2Proof
end

section
/-! SUPPORT. The unassigned opcodes (R56), row by row of the decoder. -/

namespace Sys2Proof

variable {w : IWord} {lo : Nat}

theorem decode0_unassigned (h : lo = 0 ∨ 9 ≤ lo) : decode0 lo w = .error .opcode := by
  unfold decode0
  split
  case h_9 => rfl
  all_goals omega

theorem decode1_unassigned (h : 12 ≤ lo) : decode1 lo w = .error .opcode := by
  unfold decode1
  split
  case h_13 => rfl
  all_goals omega

theorem decode2_unassigned (h : 14 ≤ lo) : decode2 lo w = .error .opcode := by
  unfold decode2
  split
  case h_15 => rfl
  all_goals omega

theorem decode4_unassigned (h : 15 ≤ lo) : decode4 lo w = .error .opcode := by
  unfold decode4
  split
  case h_16 => rfl
  all_goals omega

theorem decode6_unassigned (h : 14 ≤ lo) : decode6 lo w = .error .opcode := by
  unfold decode6
  split
  case h_15 => rfl
  all_goals omega

theorem decode8_unassigned (h : 10 ≤ lo) : decode8 lo w = .error .opcode := by
  unfold decode8
  split
  case h_11 => rfl
  all_goals omega

theorem decodeA_unassigned (h : 2 ≤ lo) : decodeA lo w = .error .opcode := by
  unfold decodeA
  split
  case h_3 => rfl
  all_goals omega

theorem decodeB_unassigned (h : 6 ≤ lo) : decodeB lo w = .error .opcode := by
  unfold decodeB
  split
  case h_7 => rfl
  all_goals omega

theorem decodeC_unassigned (h : 8 ≤ lo) : decodeC lo w = .error .opcode := by
  unfold decodeC
  split
  case h_9 => rfl
  all_goals omega

theorem decodeD_unassigned (h : 3 ≤ lo ∧ lo ≤ 7 ∨ 12 ≤ lo) : decodeD lo w = .error .opcode := by
  unfold decodeD
  split
  case h_8 => rfl
  all_goals omega

theorem decodeE_unassigned (h : 7 ≤ lo) : decodeE lo w = .error .opcode := by
  unfold decodeE
  split
  case h_8 => rfl
  all_goals omega

/-- The digits of OP, bits 31:28 and 27:24 of a word. -/
theorem extract_toNat_eq_digit (w : IWord) :
    (w.extractLsb' 28 4).toNat = w.toNat / 2 ^ 24 / 16 ∧ (w.extractLsb' 24 4).toNat = w.toNat / 2 ^ 24 % 16 := by
  have := w.isLt
  rw [BitVec.extractLsb'_toNat, BitVec.extractLsb'_toNat, Nat.shiftRight_eq_div_pow, Nat.shiftRight_eq_div_pow]
  constructor <;> omega

/-- Settles O3: the high digit of such an opcode picks a row that has no word for the low one, or no row. -/
theorem unassignedOpcodesRefused : Obligations.UnassignedOpcodesRefused := by
  intro w op hop i hi
  have herr : decodeFields w = .error .opcode := by
    obtain ⟨hhigh, hlow⟩ := extract_toNat_eq_digit w
    change _ = op / 16 at hhigh
    change _ = op % 16 at hlow
    unfold decodeFields
    dsimp only
    split
    · exact decode0_unassigned (by omega)
    · exact decode1_unassigned (by omega)
    · exact decode2_unassigned (by omega)
    · omega
    · exact decode4_unassigned (by omega)
    · omega
    · exact decode6_unassigned (by omega)
    · exact decode8_unassigned (by omega)
    · omega
    · exact decodeA_unassigned (by omega)
    · exact decodeB_unassigned (by omega)
    · exact decodeC_unassigned (by omega)
    · exact decodeD_unassigned (by omega)
    · exact decodeE_unassigned (by omega)
    · omega
    · rfl
  obtain ⟨hfields, -⟩ := decode_eq_ok.mp hi
  cases herr.symm.trans hfields

end Sys2Proof
end

section
/-! SUPPORT. The words that the spec works out. -/

namespace Sys2Proof

/-- Settles O4: the decoder evaluated on each word. -/
theorem workedWordsDecode : Obligations.WorkedWordsDecode := by
  unfold Obligations.WorkedWordsDecode
  refine ⟨rfl, rfl, rfl, rfl, rfl, rfl, rfl, rfl, rfl, rfl, rfl, rfl, rfl, rfl, rfl, rfl, rfl, rfl, rfl, rfl, rfl, rfl, rfl, rfl, rfl, rfl,
    rfl⟩

end Sys2Proof
end

section
/-! SUPPORT. What a fault leaves of the cycle and of the contexts' priorities, and what a drain makes of its context. -/

namespace Sys2Proof.Machine

/-- What a fall-back to PRIO reads of a state: the cycle, and every context's number and PRIO (R405). -/
def State.prios (s : State) : Nat × List (Nat × Nat) := (s.cycle, s.ctxs.map fun c => (c.id, c.prio))

theorem State.cycle_of_prios {s t : State} (h : t.prios = s.prios) : t.cycle = s.cycle := congrArg Prod.fst h

theorem State.prioOf_of_prios {s t : State} (h : t.prios = s.prios) (x : Nat) : t.prioOf x = s.prioOf x := by
  have hread : ∀ s : State, s.prioOf x = ((s.prios.2.find? (·.1 == x)).map (·.2)).getD 0 := fun s => by
    simp only [prioOf, ctx?, prios, List.find?_map, Option.map_map]
    rfl
  rw [hread, hread, h]

@[simp] theorem State.prios_updCtx (s : State) (x : Nat) (f : Ctx → Ctx) (hf : ∀ c, ((f c).id, (f c).prio) = (c.id, c.prio) := by intro; rfl) :
    (s.updCtx x f).prios = s.prios := by
  have hmap : ∀ l : List Ctx, (replaceFirst (·.id == x) f l).map (fun c => (c.id, c.prio)) = l.map fun c => (c.id, c.prio) := fun l => by
    induction l with
    | nil => rfl
    | cons c r ih =>
      unfold replaceFirst
      split
      · exact congrArg (· :: _) (hf c)
      · exact congrArg (_ :: ·) ih
  exact congrArg (Prod.mk s.cycle) (hmap s.ctxs)

@[simp] theorem State.prios_updCtx_lapse (s : State) (x fid : Nat) : (s.updCtx x (Ctx.lapse fid)).prios = s.prios := prios_updCtx ..

@[simp] theorem State.prios_updLane (s : State) (fid : Nat) (f : Lane → Lane) : (s.updLane fid f).prios = s.prios := by
  simp only [prios, updLane_cycle, updLane_ctxs, List.map_map]
  rfl

@[simp] theorem State.prios_wrN (s : State) (a : Nat) (l : List Byte) : (s.wrN a l).prios = s.prios := by
  rw [wrN_eq]
  rfl

@[simp] theorem State.prios_draw (s : State) (x core : Nat) : (s.draw x core).prios = s.prios := prios_updCtx ..

@[simp] theorem State.prios_maskAccesses (s : State) (code : List IWord) (ln : Lane) : (s.maskAccesses code ln).prios = s.prios := rfl

@[simp] theorem State.prios_discardLane (s : State) (flock fid : Nat) : (s.discardLane flock fid).prios = s.prios := by
  change (s.cycle, (s.ctxs.map (Ctx.lapse fid)).map fun c => (c.id, c.prio)) = _
  rw [List.map_map]
  rfl

@[simp] theorem State.prios_writeFatal (s : State) (x : Nat) (l : List Byte) : (s.writeFatal x l).prios = s.prios := by
  unfold writeFatal
  split
  · exact prios_wrN ..
  · rfl

/-- A message to another member of a gang leaves the contexts and the cycle. -/
theorem State.ctxs_sendOut (s : State) (p : Nat) (m : LinkMsg) : ((s.sendOut p m).cycle, (s.sendOut p m).ctxs) = (s.cycle, s.ctxs) := by
  unfold sendOut
  split <;> rfl

/-- What a drain makes of its context (R401). -/
def Ctx.drained (report : List Byte) (c : Ctx) : Ctx :=
  { c with draining := some report, pin := [], saved := [], faultq := [], brk := [], paused := false,
           sick := c.sick.map fun k => { k with status := .free, lane := none } }

/-- A drain changes of the contexts only its own, and that once (R401). -/
theorem State.ctxs_drain (s : State) (x : Nat) (report : List Byte) (code : Nat) :
    ((s.drain x report code).cycle, (s.drain x report code).ctxs) =
      if (s.ctx? x).any (·.draining.isNone) then (s.cycle, (s.updCtx x (Ctx.drained report)).ctxs) else (s.cycle, s.ctxs) := by
  unfold drain
  cases hc : s.ctx? x with
  | none => rfl
  | some c =>
    cases hd : c.draining with
    | some b => simp [hd]
    | none =>
      simp only [hd, Option.isSome_none, Bool.false_eq_true, if_false, Option.any_some, Option.isNone_none, if_true]
      cases c.gang with
      | none => rfl
      | some g =>
        dsimp only
        split
        · rfl
        · exact State.foldl_field (fun s => (s.cycle, s.ctxs)) (fun s p => s.ctxs_sendOut ..) _ _

@[simp] theorem State.prios_drain (s : State) (x : Nat) (report : List Byte) (code : Nat) : (s.drain x report code).prios = s.prios := by
  have h := s.ctxs_drain x report code
  have hview : ∀ t : State, t.prios = (fun v : Nat × List Ctx => (v.1, v.2.map fun c => (c.id, c.prio))) (t.cycle, t.ctxs) := fun _ => rfl
  rw [hview, h]
  split
  · exact s.prios_updCtx x (Ctx.drained report)
  · rfl

@[simp] theorem State.prios_swapRecords (s : State) (x i j : Nat) : (s.swapRecords x i j).prios = s.prios := by
  unfold swapRecords
  split
  · rfl
  · split
    · dsimp only
      split <;> split <;> simp
    · rfl

@[simp] theorem State.prios_orderRecords (s : State) (x r : Nat) : (s.orderRecords x r).prios = s.prios := by
  have hfold : ∀ (l : List Nat) (acc : State × Nat), (l.foldl (fun acc i => (acc.1.swapRecords x i acc.2, i)) acc).1.prios = acc.1.prios := by
    intro l
    induction l with
    | nil => exact fun _ => rfl
    | cons i l ih => exact fun acc => (ih _).trans (prios_swapRecords ..)
  unfold orderRecords
  split
  · exact hfold _ (s, r)
  · rfl

@[simp] theorem State.prios_fillRecord (s : State) (x : Nat) (f : PendingFault) : (s.fillRecord x f).prios = s.prios := by
  unfold fillRecord
  split
  · split <;> simp
  · rfl

@[simp] theorem State.prios_capture (s : State) (fid idx code : Nat) (detail : List Word) :
    (s.capture fid idx code detail).prios = s.prios := by
  unfold capture
  split
  · rfl
  · split
    case h_1 =>
      split
      · rfl
      · dsimp only
        split
        · simp
        · split
          · simp
          · split <;> simp
    case h_2 => rfl

theorem State.prios_faultLane (s : State) (fid j code : Nat) (detail : List Word) : (s.faultLane fid j code detail).prios = s.prios :=
  s.prios_capture ..

/-! ### The record a handle names (R385) -/

theorem State.recordOf_of_toNat_eq {s : State} {h : Word} {r : Nat} (hn : 64 ≤ 2 ^ s.otrecs) (hh : h.toNat = 2 ^ s.otrecs - 64 + r)
    (hr : r < 64) : s.recordOf h = some r := by
  unfold recordOf
  dsimp only
  rw [if_pos (by simp only [Bool.and_eq_true, decide_eq_true_eq]; omega)]
  congr 1
  omega

theorem State.recordOf_eq_none {s : State} {h : Word} (hh : h.toNat < 2 ^ s.otrecs - 64 ∨ 2 ^ s.otrecs ≤ h.toNat) : s.recordOf h = none := by
  unfold recordOf
  dsimp only
  rw [if_neg (by simp only [Bool.and_eq_true, decide_eq_true_eq]; omega)]

end Sys2Proof.Machine
end

section
/-! SUPPORT. The system words in the one lane that issues them (R57, R390–R398). -/

namespace Sys2Proof.Machine

/-- A breakpoint stops its context's pens, unless the context drains (R395). -/
def Ctx.broken (fid : Nat) (c : Ctx) : Ctx := if c.draining.isSome then c else { c with brk := c.brk ++ [fid] }

theorem Ctx.broken_eq (fid : Nat) (c : Ctx) : c.broken fid = if c.draining = none then { c with brk := c.brk ++ [fid] } else c := by
  unfold broken
  cases c.draining <;> rfl

@[simp] theorem State.prios_updCtx_broken (s : State) (x fid : Nat) : (s.updCtx x (Ctx.broken fid)).prios = s.prios :=
  s.prios_updCtx x _ fun c => by rw [Ctx.broken_eq]; split <;> rfl

/-- A fall-back reads PRIO and the cycle of any earlier state that has them (R405). -/
theorem State.fallBack_eq {s t : State} {x : Nat} {c : Ctx} (hprios : t.prios = s.prios) (hc : s.ctx? x = some c) :
    t.fallBack x (fun _ => true) = { t with
      pens := t.pens.map fun p => if p.ctx = x then { p with level := c.prio, served := s.cycle } else p
      resumed := t.resumed.map fun r => if r.ctx = x then { r with level := c.prio, served := s.cycle } else r } := by
  have hprio : t.prioOf x = c.prio := (prioOf_of_prios hprios x).trans (by rw [prioOf, hc]; rfl)
  simp only [fallBack, hprio, cycle_of_prios hprios, Bool.and_true, decide_eq_true_eq]

section
variable {s : State} {fl : Flock} {j : Nat} {ln : Lane} {k : Cell} {pm : Pm} (h : OneLane s fl j ln k pm)
include h

theorem execTrap_oneLane (code : BitVec 13) (t0 : Target) :
    execTrap pm code t0 s = .next (s.faultLane ln.fid j 0x15 [BitVec.ofNat 64 code.toNat, k.a.bits]) := by
  rw [BitVec.ofNat_toNat]
  exact effectOp_oneLane h ..

theorem execEmx_oneLane (n sub : BitVec 4) (t0 t1 : Target) : execEmx n pm sub t0 t1 s = .next (s.faultLane ln.fid j 0x14 []) :=
  effectOp_oneLane h ..

theorem execBrk_oneLane (code : BitVec 13) (t0 : Target) :
    execBrk pm code t0 s = .next (((s.faultLane ln.fid j 0x16 [BitVec.ofNat 64 code.toNat, k.a.bits]).updCtx fl.ctx
      (Ctx.broken ln.fid)).fallBack fl.ctx fun _ => true) := by
  rw [BitVec.ofNat_toNat]
  exact effectOp_oneLane h ..

theorem execWrsr_oneLane (r : SysReg) (t0 : Target) :
    execWrsr pm r t0 s = .next ((if r = .fctl then s.updCtx fl.ctx fun c => { c with fatal := k.a.bits.getLsbD 0 } else s).completeLane
      ln.fid j t0 .none Val.zero Val.zero) :=
  effectOp_oneLane h ..

/-! A response under a void A, of a handle that names no record, and of a record (R390). -/

theorem reserveOp_of_void (hv : k.a.void = true) (op : Nat) (t0 : Target) :
    reserveOp op pm t0 s =
      .next (s.completeLane ln.fid j t0 .none { bits := BitVec.ofNat 64 1, void := true } { bits := BitVec.ofNat 64 1, void := true }) := by
  rw [reserveOp, effectOp_oneLane h, if_pos hv]
  rfl

theorem reserveOp_of_noRecord (hv : k.a.void = false) (hr : s.recordOf k.a.bits = none) (op : Nat) (t0 : Target) :
    reserveOp op pm t0 s = .next (s.completeLane ln.fid j t0 .none { bits := BitVec.ofNat 64 1 } { bits := BitVec.ofNat 64 1 }) := by
  rw [reserveOp, effectOp_oneLane h]
  simp only [hv, hr]
  cases s.ctx? fl.ctx <;> rfl

theorem reserveOp_of_record {c : Ctx} {r : Nat} {q : Sick} (hc : s.ctx? fl.ctx = some c) (hv : k.a.void = false)
    (hr : s.recordOf k.a.bits = some r) (hq : c.sick[r]? = some q) (op : Nat) (t0 : Target) :
    reserveOp op pm t0 s = .next (match q.status with
      | .pending _ =>
        if bits (c.permitFor q) op 1 = 0 then s.completeLane ln.fid j t0 .none { bits := 2 } { bits := 2 }
        else (s.updCtx fl.ctx fun d => { d with sick := d.sick.set r { q with status := .reserved op ln.fid, b := k.b, c := k.c } }).completeLane
          ln.fid j t0 .none { bits := 0 } { bits := 0 }
      | _ => s.completeLane ln.fid j t0 .none { bits := 1 } { bits := 1 }) := by
  rw [reserveOp, effectOp_oneLane h]
  simp only [hv, hc, hr, hq]
  rfl

theorem execAbort_oneLane {c : Ctx} (hc : s.ctx? fl.ctx = some c) (t0 : Target) :
    execAbort pm t0 s = .next ((s.completeLane ln.fid j t0 .none Val.zero Val.zero).drain fl.ctx
      (reportBytes (recHeader 0 s.tick c.seq ln.tag fl.block ln.fsize ln.lane ln.epoch fl.core false 0 2 j 0) []) 0) := by
  rw [execAbort, effectOp_oneLane h]
  simp only [hc]

end

theorem execRdsr_issued {s : State} {fl : Flock} {j : Nat} {c : Ctx} (hi : Issued s fl j) (hc : s.ctx? fl.ctx = some c) (pm : Pm)
    (r : SysReg) (t0 : Target) :
    execRdsr pm r t0 s = .next (s.executed fl j pm t0 .none fun _ _ => ({ bits := sysRegVal c r }, { bits := sysRegVal c r })) := by
  rw [execRdsr, laneOp_issued hi]
  simp [hc]

theorem sysRegVal_eq (c : Ctx) (r : SysReg) :
    sysRegVal c r = match r with
      | .fcount => BitVec.ofNat 64 c.fcount.toNat
      | .sickfree => BitVec.ofNat 64 (c.sick.countP (·.status = .free))
      | .killed => BitVec.ofNat 64 c.killed.toNat
      | .stray => BitVec.ofNat 64 c.stray.toNat
      | .fctl => if c.fatal then 1 else 0
      | .ecclog => BitVec.ofNat 64 c.ecclog.toNat := by
  cases r <;> simp [sysRegVal, boolWord, List.countP_eq_length_filter]

/-- A drain's context, found after it (R401). -/
theorem State.ctx?_drain {s : State} {x : Nat} {c : Ctx} (hc : s.ctx? x = some c) (hd : c.draining = none) (report : List Byte) (code : Nat) :
    (s.drain x report code).ctx? x = some (c.drained report) := by
  have hctxs := congrArg Prod.snd (s.ctxs_drain x report code)
  simp only [hc, Option.any_some, hd, Option.isNone_none, if_true] at hctxs
  calc (s.drain x report code).ctx? x = (s.updCtx x (Ctx.drained report)).ctx? x := congrArg (List.find? _) hctxs
    _ = some (c.drained report) := by rw [State.ctx?_updCtx_same (f := Ctx.drained report) fun _ => rfl, hc]; rfl

theorem reportBytes_nil (hdr : Nat) : (reportBytes hdr []).length = 128 ∧ (reportBytes hdr []).take 64 = bytesLE 64 hdr := by
  have hlen : (bytesLE 64 hdr).length = 64 := length_bytesLE ..
  constructor
  · rw [reportBytes, List.length_append, hlen]
    rfl
  · rw [reportBytes, List.take_append_of_le_length hlen.ge, List.take_of_length_le hlen.le]

/-- Settles O43, word by word. -/
theorem systemWords : Obligations.SystemWords := by
  refine ⟨fun s fl j ln k pm code n sub t0 t1 c h hc => ⟨execTrap_oneLane h code t0, execEmx_oneLane h n sub t0 t1, _,
      execBrk_oneLane h code t0, ?_⟩,
    fun s fl j pm t0 c hi hc => ⟨fun r => ?_, fun ln k h => ⟨execWrsr_oneLane h .fctl t0, fun r hr => ?_⟩⟩,
    fun s fl j ln k pm t0 c h hc hn => ⟨?_, _, execAbort_oneLane h hc t0, fun hd => ?_⟩⟩
  · rw [State.fallBack_eq ((State.prios_updCtx_broken ..).trans (s.prios_faultLane ..)) hc]
    refine ⟨rfl, rfl, rfl, fun d hd => ?_⟩
    rw [← Ctx.broken_eq]
    refine (State.ctx?_updCtx_same fun d => ?_).trans (congrArg _ hd)
    rw [Ctx.broken_eq]
    split <;> rfl
  · change execRdsr pm r t0 s = _
    rw [execRdsr_issued hi hc, sysRegVal_eq] <;> rfl
  · refine (execWrsr_oneLane h r t0).trans ?_
    rw [if_neg hr]
    rfl
  · intro gives word op hop
    have hword : exec (word op) s = reserveOp op pm t0 s := by
      obtain rfl | rfl : op = 0 ∨ op = 1 := by omega
      · rfl
      · rfl
    rw [hword]
    refine ⟨fun hv => reserveOp_of_void h hv op t0, fun r q hv ha hr hq => ?_,
      fun hv ha => reserveOp_of_noRecord h hv (State.recordOf_eq_none ha) op t0⟩
    have hrec := reserveOp_of_record h hc hv (State.recordOf_of_toNat_eq hn ha hr) hq op t0
    refine ⟨fun hb => ?_, fun b hb => ?_⟩
    · rw [hrec]
      split
      next b hp => exact absurd hp (hb b)
      next => rfl
    · rw [hb] at hrec
      refine ⟨fun hp => ?_, fun hp => ?_⟩
      · exact hrec.trans (congrArg _ (if_pos hp))
      · exact hrec.trans (congrArg _ (if_neg (by rw [bits]; omega)))
  · obtain ⟨hlen, htake⟩ := reportBytes_nil (recHeader 0 s.tick c.seq ln.tag fl.block ln.fsize ln.lane ln.epoch fl.core false 0 2 j 0)
    exact ⟨_, _, State.ctx?_drain (State.ctx?_updLane hc) hd .., rfl, hlen, htake⟩

end Sys2Proof.Machine
end

section
/-! SUPPORT. A word that is a value of its latches, under any name of the value, and the fields OP and SUB of a word (R41). -/

namespace Sys2Proof.Machine

/-- A value word whose two results are one, under another name of that one. -/
theorem valueOp_both {s : State} {fl : Flock} {j : Nat} {pm : Pm} {r : Reads} {t0 t1 : Target} (h : Issued s fl j)
    {g g' : Word → Word → Word → Bool → Word} (hg : ∀ a b c p, g a b c p = g' a b c p) :
    valueOp pm r t0 t1 (fun a b c p => both (g a b c p)) s = .next (s.valued fl j pm r t0 t1 fun a b c p => both (g' a b c p)) := by
  simp only [valueOp_issued h, hg]

/-- The same of two results. -/
theorem valueOp_pair {s : State} {fl : Flock} {j : Nat} {pm : Pm} {r : Reads} {t0 t1 : Target} (h : Issued s fl j)
    {g g' : Word → Word → Word → Bool → Word × Word} (hg : ∀ a b c p, g a b c p = g' a b c p) :
    valueOp pm r t0 t1 g s = .next (s.valued fl j pm r t0 t1 g') := by
  obtain rfl : g = g' := funext fun a => funext fun b => funext fun c => funext (hg a b c)
  exact valueOp_issued h ..

theorem opField_mkF2 (op : BitVec 8) (pm : BitVec 2) (sub : BitVec 4) (t0 t1 : BitVec 9) :
    (mkF2 op pm sub t0 t1).toNat / 2 ^ 24 = op.toNat := by
  rw [mkF2_toNat]
  omega

theorem subField_mkF2 (op : BitVec 8) (pm : BitVec 2) (sub : BitVec 4) (t0 t1 : BitVec 9) :
    (mkF2 op pm sub t0 t1).toNat / 2 ^ 18 % 16 = sub.toNat := by
  rw [mkF2_toNat]
  omega

theorem opField_mkFI (op : BitVec 8) (pm : BitVec 2) (t0 : BitVec 9) (imm : BitVec 13) :
    (mkFI op pm t0 imm).toNat / 2 ^ 24 = op.toNat := by
  rw [mkFI_toNat]
  omega

end Sys2Proof.Machine
end

section
/-! SUPPORT. The arithmetic of the model on exact integers, and quotient and remainder toward zero (R74–R76). -/

namespace Sys2Proof.Machine

theorem clampTo_eq (t : Ity) (x : Int) : clampTo t x = max (least t) (min (greatest t) x) := by
  rw [clampTo, minOf_eq, maxOf_eq]

theorem addVal_eq (t : Ity) (a b : Word) : addVal t a b = ext t (val t a + val t b) := by
  rw [addVal, extWrap_eq, intVal_eq, intVal_eq]

theorem addSatVal_eq (t : Ity) (a b : Word) :
    addSatVal t a b = ext t (max (least t) (min (greatest t) (val t a + val t b))) := by
  rw [addSatVal, extWrap_eq, clampTo_eq, intVal_eq, intVal_eq]

theorem subVal_eq (t : Ity) (a b : Word) : subVal t a b = ext t (val t a - val t b) := by
  rw [subVal, extWrap_eq, intVal_eq, intVal_eq]

theorem subSatVal_eq (t : Ity) (a b : Word) :
    subSatVal t a b = ext t (max (least t) (min (greatest t) (val t a - val t b))) := by
  rw [subSatVal, extWrap_eq, clampTo_eq, intVal_eq, intVal_eq]

theorem mulVal_eq (t : Ity) (a b : Word) : mulVal t a b = ext t (val t a * val t b) := by
  rw [mulVal, extWrap_eq, intVal_eq, intVal_eq]

/-- The divisor is positive, so that the floor is the Euclidean quotient. -/
theorem mulhVal_eq (t : Ity) (a b : Word) : mulhVal t a b = ext t (val t a * val t b / 2 ^ t.bits) := by
  rw [mulhVal, extWrap_eq, intVal_eq, intVal_eq, Int.fdiv_eq_ediv_of_nonneg _ (by positivity)]

theorem maddVal_eq (t : Ity) (a b c : Word) : maddVal t a b c = ext t (val t a * val t b + val t c) := by
  rw [maddVal, extWrap_eq, intVal_eq, intVal_eq, intVal_eq]

theorem minVal_eq (t : Ity) (a b : Word) : minVal t a b = ext t (min (val t a) (val t b)) := by
  rw [minVal, extWrap_eq, intVal_eq, intVal_eq, min_def]

theorem maxVal_eq (t : Ity) (a b : Word) : maxVal t a b = ext t (max (val t a) (val t b)) := by
  rw [maxVal, extWrap_eq, intVal_eq, intVal_eq, max_comm, max_def]

theorem absVal_eq (t : Ity) (a : Word) : absVal t a = ext t (val t a).natAbs := by
  rw [absVal, extWrap_eq, intVal_eq]
  congr 1
  split <;> omega

theorem negVal_eq (t : Ity) (a : Word) : negVal t a = ext t (-val t a) := by
  rw [negVal, extWrap_eq, intVal_eq]

/-! ### Quotient and remainder -/

theorem divVal_eq (t : Ity) (a b : Word) : divVal t a b = (ext t (divRem t a b).1, ext t (divRem t a b).2) := by
  rw [divVal, extWrap_eq, extWrap_eq]

theorem remVal_eq (t : Ity) (a b : Word) : remVal t a b = ext t (divRem t a b).2 := by
  rw [remVal, extWrap_eq]

theorem divRem_by_zero {t : Ity} {b : Word} (hb : val t b = 0) (a : Word) :
    divRem t a b = (if t.signed then -1 else 2 ^ t.bits - 1, val t a) := by
  simp only [divRem, intVal_eq, hb, if_true]

theorem divRem_overflow {t : Ity} {a b : Word} (ht : t.signed = true) (ha : val t a = least t) (hb : val t b = -1) :
    divRem t a b = (least t, 0) := by
  simp [divRem, intVal_eq, minOf_eq, ht, ha, hb]

theorem divRem_toward_zero {t : Ity} {a b : Word} (hb : val t b ≠ 0) (h : ¬(t.signed = true ∧ val t a = least t ∧ val t b = -1)) :
    divRem t a b = ((val t a).tdiv (val t b), (val t a).tmod (val t b)) := by
  simp only [divRem, intVal_eq, minOf_eq, if_neg hb, Bool.and_eq_true, decide_eq_true_eq, and_assoc, if_neg h, Int.tmod_def, mul_comm]

/-- A quotient toward zero has the sign of the product. -/
theorem tdiv_mul_nonneg (x y : Int) : 0 ≤ x.tdiv y * (x * y) := by
  have pos (n m : Nat) : 0 ≤ (n : Int).tdiv m * (n * m) :=
    mul_nonneg (Int.tdiv_nonneg n.cast_nonneg m.cast_nonneg) (by positivity)
  obtain ⟨n, rfl | rfl⟩ := x.eq_nat_or_neg <;> obtain ⟨m, rfl | rfl⟩ := y.eq_nat_or_neg
  all_goals simpa [Int.neg_tdiv, Int.tdiv_neg] using pos n m

/-- A remainder has the sign of the dividend. -/
theorem tmod_mul_self_nonneg (x y : Int) : 0 ≤ x.tmod y * x := by
  obtain ⟨n, rfl | rfl⟩ := x.eq_nat_or_neg
  · exact mul_nonneg (Int.tmod_nonneg _ (Int.natCast_nonneg n)) (Int.natCast_nonneg n)
  · rw [Int.neg_tmod, neg_mul_neg]
    exact mul_nonneg (Int.tmod_nonneg _ (Int.natCast_nonneg n)) (Int.natCast_nonneg n)

theorem natAbs_tmod_lt (x : Int) {y : Int} (hy : y ≠ 0) : (x.tmod y).natAbs < y.natAbs := by
  rw [Int.natAbs_tmod]
  exact Nat.mod_lt _ (Int.natAbs_pos.mpr hy)

end Sys2Proof.Machine
end

section
/-! CERTIFICATE. O10: integer arithmetic on exact values. -/

namespace Sys2Proof.Machine

/-- Settles O10, form by form; `divRem` is the quotient and remainder that the statement asks for. -/
theorem integerArithmetic : Obligations.IntegerArithmetic := by
  refine ⟨fun s fl j pm ty t0 t1 h => ⟨?_, ?_, ?_, ?_, ?_, ?_, ?_, ?_, ?_, ?_, ?_, ?_, fun hty => ?_⟩,
    fun s fl j pm ty t0 t1 imm h => ⟨?_, ?_, ?_, ?_, fun a b => (divRem ty a b).1, fun a b => (divRem ty a b).2, ?_, ?_,
      fun a b => ⟨fun hb => ?_, fun _ ht ha hb => ?_, fun hb hov => ?_⟩⟩⟩
  · exact valueOp_both h fun a b _ _ => addVal_eq ty a b
  · exact valueOp_both h fun a b _ _ => addSatVal_eq ty a b
  · exact valueOp_both h fun a b _ _ => subVal_eq ty a b
  · exact valueOp_both h fun a b _ _ => subSatVal_eq ty a b
  · exact valueOp_both h fun a b _ _ => mulVal_eq ty a b
  · exact valueOp_both h fun a b _ _ => mulhVal_eq ty a b
  · exact valueOp_both h fun a b c _ => maddVal_eq ty a b c
  · exact valueOp_both h fun a b _ _ => minVal_eq ty a b
  · exact valueOp_both h fun a b _ _ => maxVal_eq ty a b
  · exact valueOp_both h fun a _ _ _ => absVal_eq ty a
  · exact valueOp_both h fun a _ _ _ => negVal_eq ty a
  · simp only [opOf, encode, opField_mkF2]
    rfl
  · simp [Instr.wf, hty]
  · exact valueOp_both h fun _ _ _ _ => rfl
  · exact opField_mkFI 0x24#8 _ _ _
  · exact opField_mkF2 0x28#8 _ _ _ _
  · exact opField_mkF2 0x29#8 _ _ _ _
  · exact valueOp_pair h fun a b _ _ => divVal_eq ty a b
  · exact valueOp_both h fun a b _ _ => remVal_eq ty a b
  · simp [divRem_by_zero hb]
  · simp [divRem_overflow ht ha hb]
  · simp only [divRem_toward_zero hb hov]
    exact ⟨(Int.tdiv_mul_add_tmod ..).symm, natAbs_tmod_lt _ hb, tmod_mul_self_nonneg .., tdiv_mul_nonneg ..⟩

end Sys2Proof.Machine
end

section
/-! SUPPORT. The bitwise and predicate forms on natural numbers (R77, R85). -/

namespace Sys2Proof.Machine

theorem eq_ofNat_of_toNat {a : Word} {n : Nat} (h : a.toNat = n) : a = BitVec.ofNat 64 n := by
  rw [← h, BitVec.ofNat_toNat, BitVec.setWidth_eq]

theorem bit0_eq (a : Word) : bit0 a = decide (a.toNat % 2 = 1) := Nat.testBit_zero _

theorem bit0_and_eq (a b : Word) : (bit0 a && bit0 b) = decide (a.toNat % 2 = 1 ∧ b.toNat % 2 = 1) := by
  simp [bit0_eq]

theorem bit0_or_eq (a b : Word) : (bit0 a || bit0 b) = decide (a.toNat % 2 = 1 ∨ b.toNat % 2 = 1) := by
  simp [bit0_eq]

theorem bit0_bne_eq (a b : Word) : (bit0 a != bit0 b) = decide (a.toNat % 2 ≠ b.toNat % 2) := by
  rw [Bool.eq_iff_iff, bit0_eq, bit0_eq, bne_iff_ne, ne_eq, decide_eq_decide, decide_eq_true_eq]
  omega

theorem not_bit0_eq (a : Word) : (!bit0 a) = decide (a.toNat % 2 = 0) := by
  rw [bit0_eq, ← decide_not, decide_eq_decide]
  omega

end Sys2Proof.Machine
end

section
/-! CERTIFICATE. O11: the bitwise and predicate forms, and the choice by P. -/

namespace Sys2Proof.Machine

/-- Settles O11, form by form. -/
theorem bitwiseAndPredicates : Obligations.BitwiseAndPredicates := by
  refine fun s fl j pm t0 t1 h => ⟨?_, ?_, ?_, ?_, ?_, ?_, ?_, ?_, ?_, ?_, ?_, ?_⟩
  · exact valueOp_both h fun a b _ _ => eq_ofNat_of_toNat (BitVec.toNat_and ..)
  · exact valueOp_both h fun a b _ _ => eq_ofNat_of_toNat (BitVec.toNat_or ..)
  · exact valueOp_both h fun a b _ _ => eq_ofNat_of_toNat (BitVec.toNat_xor ..)
  · exact valueOp_both h fun a b _ _ => eq_ofNat_of_toNat ((BitVec.toNat_and ..).trans (congrArg _ BitVec.toNat_not))
  · exact valueOp_both h fun a _ _ _ => eq_ofNat_of_toNat BitVec.toNat_not
  · exact valueOp_both h fun a b _ p => by cases p <;> rfl
  · exact valueOp_both h fun a b _ _ => congrArg boolWord (bit0_and_eq a b)
  · exact valueOp_both h fun a b _ _ => congrArg boolWord (bit0_or_eq a b)
  · exact valueOp_both h fun a b _ _ => congrArg boolWord (bit0_bne_eq a b)
  · exact valueOp_both h fun a _ _ _ => congrArg boolWord (not_bit0_eq a)
  · simp only [List.map_cons, List.map_nil, opOf, encode, opField_mkF2]
    rfl
  · intro i hi
    fin_cases hi
    all_goals exact subField_mkF2 _ _ 0#4 _ _

end Sys2Proof.Machine
end

section
/-! SUPPORT. Shifts and rotations of the low bits of a latch (R78, R79). -/

namespace Sys2Proof.Machine

theorem width_pos (w : Width) : 0 < w.bits := by
  cases w <;> decide

theorem width_le (w : Width) : w.bits ≤ 64 := by
  cases w <;> decide

theorem toNat_low (w : Width) (a : Word) : (low w a).toNat = lowBits w a := BitVec.toNat_setWidth ..

theorem lowBits_lt (w : Width) (a : Word) : lowBits w a < 2 ^ w.bits := Nat.mod_lt _ (Nat.two_pow_pos _)

/-- The signed type of a width reads its low bits as a two's-complement number. -/
theorem intVal_sityOf (w : Width) (a : Word) : intVal (sityOf w) a = (low w a).toInt := by
  rw [intVal_eq]
  cases w <;> rfl

theorem shlVal_eq (w : Width) (a : Word) (n : Nat) : shlVal w a n = (low w a <<< n).setWidth 64 := by
  unfold shlVal
  split
  next h => rw [← BitVec.ofNat_toNat, BitVec.toNat_shiftLeft, toNat_low, Nat.shiftLeft_eq]
  next h => rw [BitVec.shiftLeft_eq_zero (Nat.not_lt.mp h), BitVec.setWidth_zero]; rfl

theorem shrVal_eq (w : Width) (a : Word) (n : Nat) : shrVal w a n = (low w a >>> n).setWidth 64 := by
  rw [shrVal, ← BitVec.ofNat_toNat, BitVec.toNat_ushiftRight, toNat_low, Nat.shiftRight_eq_div_pow]
  split
  next => rfl
  next h =>
    rw [Nat.div_eq_of_lt ((lowBits_lt w a).trans_le (Nat.pow_le_pow_right Nat.two_pos (Nat.not_lt.mp h)))]
    rfl

/-- Shifted by its width or more, a number leaves only its sign. -/
theorem toInt_shiftRight_of_le {m n : Nat} (x : BitVec m) (h : m ≤ n) : x.toInt >>> n = if x.toInt < 0 then -1 else 0 := by
  have hlo := x.le_toInt
  have hhi := x.toInt_lt
  have hpow : (2 : Int) ^ (m - 1) ≤ 2 ^ n := pow_le_pow_right₀ (by decide) (by omega)
  rw [Int.shiftRight_eq_div_pow, Nat.cast_pow]
  split
  next hneg => exact Int.ediv_eq_neg_one_of_neg_of_le hneg (by push_cast; omega)
  next hpos => exact Int.ediv_eq_zero_of_lt (Int.not_lt.mp hpos) (by push_cast; omega)

theorem sarVal_eq (w : Width) (a : Word) (n : Nat) : sarVal w a n = ((low w a).sshiftRight n).signExtend 64 := by
  rw [sarVal, intVal_sityOf, BitVec.signExtend, BitVec.toInt_sshiftRight]
  split
  next =>
    rw [Int.fdiv_eq_ediv_of_nonneg _ (by positivity), Int.shiftRight_eq_div_pow, Nat.cast_pow]
    rfl
  next h =>
    rw [toInt_shiftRight_of_le _ (Nat.not_lt.mp h)]
    split <;> rfl

/-- The two parts of a rotation do not meet. -/
theorem rotlVal_eq (w : Width) (a : Word) (n : Nat) : rotlVal w a n = ((low w a).rotateLeft n).setWidth 64 := by
  have hk : n % w.bits < w.bits := Nat.mod_lt _ (width_pos w)
  have hpow : 2 ^ w.bits = 2 ^ (w.bits - n % w.bits) * 2 ^ (n % w.bits) := by
    rw [← pow_add, Nat.sub_add_cancel hk.le]
  have hlow : lowBits w a / 2 ^ (w.bits - n % w.bits) < 2 ^ (n % w.bits) :=
    Nat.div_lt_of_lt_mul (hpow ▸ lowBits_lt w a)
  have hhigh : lowBits w a * 2 ^ (n % w.bits) % 2 ^ w.bits = (lowBits w a % 2 ^ (w.bits - n % w.bits)) <<< (n % w.bits) := by
    rw [hpow, Nat.mul_mod_mul_right, Nat.shiftLeft_eq]
  rw [← BitVec.ofNat_toNat, BitVec.toNat_rotateLeft, toNat_low, Nat.shiftLeft_eq, Nat.shiftRight_eq_div_pow, hhigh,
    ← Nat.shiftLeft_add_eq_or_of_lt hlow, ← hhigh]
  rfl

end Sys2Proof.Machine
end

section
/-! SUPPORT. Counts and reversals of the low bits of a latch, bit by bit (R80). -/

namespace Sys2Proof.Machine

theorem testBit_lowBits (w : Width) (a : Word) (i : Nat) : (lowBits w a).testBit i = (decide (i < w.bits) && a.getLsbD i) :=
  Nat.testBit_mod_two_pow ..

theorem bitList_lowBits (w : Width) (a : Word) : bitList (lowBits w a) w.bits = (List.range w.bits).map a.getLsbD := by
  refine List.map_congr_left fun i hi => ?_
  rw [bits, pow_one, ← Nat.testBit_eq_decide_div_mod_eq, testBit_lowBits]
  simp [List.mem_range.mp hi]

theorem reverse_map_range {α : Type} (f : Nat → α) (n : Nat) :
    ((List.range n).map f).reverse = (List.range n).map fun i => f (n - 1 - i) := by
  rw [← List.map_reverse, List.range_eq_range', List.reverse_range', List.map_map, List.range_eq_range']
  simp [Function.comp_def]

theorem toNat_ofNat_of_le_bits {w : Width} {n : Nat} (h : n ≤ w.bits) : (BitVec.ofNat 64 n).toNat = n :=
  BitVec.toNat_ofNat .. |>.trans (Nat.mod_eq_of_lt (by have := width_le w; omega))

/-! ### Counts -/

/-- The zeros that a run of bits begins with. -/
theorem leadingZeros_map_range (n : Nat) (f : Nat → Bool) :
    leadingZeros ((List.range n).map f) ≤ n ∧ (∀ i < leadingZeros ((List.range n).map f), f i = false) ∧
      (leadingZeros ((List.range n).map f) < n → f (leadingZeros ((List.range n).map f)) = true) := by
  induction n generalizing f with
  | zero => simp [leadingZeros]
  | succ n ih =>
    obtain ⟨hle, hzero, hone⟩ := ih (f ∘ Nat.succ)
    rw [List.range_succ_eq_map, List.map_cons, List.map_map, leadingZeros]
    cases h0 : f 0
    · refine ⟨Nat.succ_le_succ hle, fun i hi => ?_, fun hlt => hone (Nat.lt_of_succ_lt_succ hlt)⟩
      cases i with
      | zero => exact h0
      | succ i => exact hzero i (Nat.lt_of_succ_lt_succ hi)
    · exact ⟨Nat.zero_le _, fun i hi => absurd hi (Nat.not_lt_zero i), fun _ => h0⟩

theorem clzVal_spec (w : Width) (a : Word) :
    (clzVal w a).toNat ≤ w.bits ∧ (∀ i, i < (clzVal w a).toNat → a.getLsbD (w.bits - 1 - i) = false) ∧
      ((clzVal w a).toNat < w.bits → a.getLsbD (w.bits - 1 - (clzVal w a).toNat) = true) := by
  have h := leadingZeros_map_range w.bits fun i => a.getLsbD (w.bits - 1 - i)
  rw [clzVal, bitList_lowBits, reverse_map_range, toNat_ofNat_of_le_bits h.1]
  exact h

theorem ctzVal_spec (w : Width) (a : Word) :
    (ctzVal w a).toNat ≤ w.bits ∧ (∀ i, i < (ctzVal w a).toNat → a.getLsbD i = false) ∧
      ((ctzVal w a).toNat < w.bits → a.getLsbD (ctzVal w a).toNat = true) := by
  have h := leadingZeros_map_range w.bits a.getLsbD
  rw [ctzVal, bitList_lowBits, toNat_ofNat_of_le_bits h.1]
  exact h

theorem toNat_popcVal (w : Width) (a : Word) :
    (popcVal w a).toNat = ((List.range w.bits).filter fun i => a.getLsbD i).length := by
  have hle : ((List.range w.bits).filter fun i => a.getLsbD i).length ≤ w.bits :=
    (List.length_filter_le ..).trans List.length_range.le
  rw [popcVal, bitList_lowBits, List.filter_map, List.length_map]
  exact toNat_ofNat_of_le_bits hle

/-! ### Reversals -/

theorem testBit_ofBitList (l : List Bool) (i : Nat) : (ofBitList l).testBit i = l[i]?.getD false := by
  induction l generalizing i with
  | nil => simp [ofBitList]
  | cons b r ih =>
    cases i with
    | zero => cases b <;> simp [ofBitList, b2n, Nat.add_mod]
    | succ i =>
      have hhalf : (b2n b + 2 * ofBitList r) / 2 = ofBitList r := by unfold b2n; split <;> omega
      rw [ofBitList, Nat.testBit_succ, hhalf, ih, List.getElem?_cons_succ]

theorem getLsbD_brevVal (w : Width) (a : Word) (i : Nat) :
    (brevVal w a).getLsbD i = (decide (i < w.bits) && a.getLsbD (w.bits - 1 - i)) := by
  have hw := width_le w
  rw [brevVal, bitList_lowBits, reverse_map_range, BitVec.getLsbD_ofNat, testBit_ofBitList]
  by_cases h : i < w.bits
  · simp [h, h.trans_le hw]
  · simp [h]

/-- Bit `i` of a number stands in its byte `i / 8`. -/
theorem testBit_natLE (l : List Byte) (i : Nat) : (natLE l).testBit i = (l[i / 8]?.getD 0).getLsbD (i % 8) := by
  induction l generalizing i with
  | nil => simp [natLE]
  | cons b r ih =>
    rw [natLE, Nat.add_comm, Nat.testBit_two_pow_mul_add (i := 8) _ b.isLt]
    split
    next h => rw [Nat.div_eq_of_lt h, Nat.mod_eq_of_lt h]; rfl
    next h =>
      rw [ih, Nat.div_eq_sub_div (by decide) (Nat.not_lt.mp h), Nat.mod_eq_sub_mod (Nat.not_lt.mp h)]
      rfl

theorem getLsbD_bswapVal (w : Width) (a : Word) (i : Nat) :
    (bswapVal w a).getLsbD i = (decide (i < w.bits) && a.getLsbD (8 * (w.bits / 8 - 1 - i / 8) + i % 8)) := by
  have hw := width_le w
  have hbytes : 8 * (w.bits / 8) = w.bits := by cases w <;> rfl
  rw [bswapVal, BitVec.getLsbD_ofNat, testBit_natLE]
  by_cases h : i < w.bits
  · have hin : 8 * (w.bits / 8 - 1 - i / 8) + i % 8 < w.bits := by omega
    rw [List.getElem?_reverse (by rw [length_bytesLE]; omega), length_bytesLE, getElem?_bytesLE (by omega), Option.getD_some,
      BitVec.getLsbD_ofNat, show 256 = 2 ^ 8 from rfl, ← pow_mul, Nat.testBit_div_two_pow, Nat.add_comm, testBit_lowBits]
    simp [h, h.trans_le hw, hin, Nat.mod_lt]
  · rw [List.getElem?_eq_none (by rw [List.length_reverse, length_bytesLE]; omega)]
    simp [h]

end Sys2Proof.Machine
end

section
/-! CERTIFICATE. O12: shifts, counts of bits, bit and byte reversal. -/

namespace Sys2Proof.Machine

/-- Settles O12: the shifts as whole values, the counts and reversals by the bits of their results. -/
theorem shiftsAndCounts : Obligations.ShiftsAndCounts := by
  refine ⟨fun s fl j pm w t0 t1 amt h => ⟨?_, ?_, ?_, ?_, ?_, ?_, ?_, ?_, fun hamt => ?_⟩,
    fun s fl j pm w t0 t1 h => ⟨clzVal w, ctzVal w, popcVal w, brevVal w, bswapVal w, ?_, ?_, ?_, ?_, ?_, fun a =>
      ⟨clzVal_spec w a, ctzVal_spec w a, toNat_popcVal w a, getLsbD_brevVal w a, getLsbD_bswapVal w a⟩⟩⟩
  · exact valueOp_both h fun a b _ _ => shlVal_eq w a b.toNat
  · exact valueOp_both h fun a b _ _ => shrVal_eq w a b.toNat
  · exact valueOp_both h fun a b _ _ => sarVal_eq w a b.toNat
  · exact valueOp_both h fun a b _ _ => rotlVal_eq w a b.toNat
  · exact valueOp_both h fun a _ _ _ => shlVal_eq w a amt.toNat
  · exact valueOp_both h fun a _ _ _ => shrVal_eq w a amt.toNat
  · exact valueOp_both h fun a _ _ _ => sarVal_eq w a amt.toNat
  · exact valueOp_both h fun a _ _ _ => rotlVal_eq w a amt.toNat
  · have hwf : decide (amt.toNat < w.bits) = false := decide_eq_false (Nat.not_lt.mpr hamt)
    exact ⟨hwf, hwf, hwf, hwf⟩
  all_goals exact valueOp_issued h ..

end Sys2Proof.Machine
end

section
/-! SUPPORT. Bit fields, extension, halves and conditions (R81–R83, R86). -/

namespace Sys2Proof.Machine

theorem bits_lt (v lo len : Nat) : bits v lo len < 2 ^ len := Nat.mod_lt _ (Nat.two_pow_pos _)

theorem testBit_bits (v lo len i : Nat) : (bits v lo len).testBit i = (decide (i < len) && v.testBit (lo + i)) := by
  rw [bits, Nat.testBit_mod_two_pow, Nat.testBit_div_two_pow, Nat.add_comm]

theorem toNat_extract (a : Word) (lo len : Nat) : (a.extractLsb' lo len).toNat = bits a.toNat lo len := by
  rw [BitVec.extractLsb'_toNat, Nat.shiftRight_eq_div_pow, bits]

theorem setWidth_extract (a : Word) (lo len : Nat) : (a.extractLsb' lo len).setWidth 64 = BitVec.ofNat 64 (bits a.toNat lo len) := by
  rw [← BitVec.ofNat_toNat, toNat_extract]

theorem fieldPos_eq (ctl : Word) : fieldPos ctl = ctl.toNat % 64 := by
  rw [fieldPos, bits, pow_zero, Nat.div_one]
  rfl

theorem fieldLen_eq (ctl : Word) : fieldLen ctl = min (ctl.toNat / 256 % 128) (64 - fieldPos ctl) := rfl

/-! ### A field out -/

/-- A field of some length reads as a negative number from its highest bit. -/
theorem toInt_extract (a : Word) (lo : Nat) {len : Nat} (h : 0 < len) :
    (a.extractLsb' lo len).toInt =
      if 2 ^ (len - 1) ≤ bits a.toNat lo len then (bits a.toNat lo len : Int) - 2 ^ len else bits a.toNat lo len := by
  have hpow : 2 ^ len = 2 * 2 ^ (len - 1) := by rw [← pow_succ', Nat.sub_add_cancel h]
  rw [BitVec.toInt_eq_toNat_cond, toNat_extract, Nat.cast_pow]
  by_cases hneg : 2 ^ (len - 1) ≤ bits a.toNat lo len
  · rw [if_neg (by omega), if_pos hneg]
    rfl
  · rw [if_pos (by omega), if_neg hneg]

theorem bfxVal_eq (sg : Bool) (a ctl : Word) :
    bfxVal sg a ctl = if sg then (a.extractLsb' (fieldPos ctl) (fieldLen ctl)).signExtend 64
      else (a.extractLsb' (fieldPos ctl) (fieldLen ctl)).setWidth 64 := by
  unfold bfxVal
  generalize fieldPos ctl = p
  generalize fieldLen ctl = l
  obtain rfl | hl := Nat.eq_zero_or_pos l
  · simp
  · rw [setWidth_extract, BitVec.signExtend, toInt_extract a p hl, if_neg hl.ne']
    cases sg with
    | false => rfl
    | true =>
      simp only [Bool.true_and, decide_eq_true_eq, if_true]
      split
      · rfl
      · exact (BitVec.ofInt_natCast ..).symm

theorem getLsbD_bfxVal (sg : Bool) (a ctl : Word) {i : Nat} (hi : i < 64) :
    (bfxVal sg a ctl).getLsbD i =
      if i < fieldLen ctl then a.getLsbD (fieldPos ctl + i)
      else sg && decide (0 < fieldLen ctl) && a.getLsbD (fieldPos ctl + fieldLen ctl - 1) := by
  rw [bfxVal_eq]
  cases sg with
  | false => simp [hi]
  | true =>
    rw [if_pos rfl, BitVec.getLsbD_signExtend, BitVec.msb_eq_getLsbD_last, BitVec.getLsbD_extractLsb', BitVec.getLsbD_extractLsb']
    split
    next h => simp [hi, h]
    next h =>
      obtain h0 | h0 := Nat.eq_zero_or_pos (fieldLen ctl)
      · simp [h0]
      · simp [hi, h0, Nat.add_sub_assoc h0]

/-! ### A field in -/

/-- A number with `len` bits at `lo` replaced is what stands above them, what replaces them, and what stands below. -/
theorem replace_bits (v c lo len : Nat) :
    v - bits v lo len * 2 ^ lo + c * 2 ^ lo = 2 ^ lo * (2 ^ len * (v / 2 ^ lo / 2 ^ len) + c) + v % 2 ^ lo := by
  have hv : v = 2 ^ lo * (2 ^ len * (v / 2 ^ lo / 2 ^ len)) + v % 2 ^ lo + bits v lo len * 2 ^ lo :=
    calc v = 2 ^ lo * (v / 2 ^ lo) + v % 2 ^ lo := (Nat.div_add_mod ..).symm
      _ = 2 ^ lo * (2 ^ len * (v / 2 ^ lo / 2 ^ len) + bits v lo len) + v % 2 ^ lo := by rw [bits, Nat.div_add_mod (v / 2 ^ lo)]
      _ = _ := by ring
  calc v - bits v lo len * 2 ^ lo + c * 2 ^ lo
      = 2 ^ lo * (2 ^ len * (v / 2 ^ lo / 2 ^ len)) + v % 2 ^ lo + c * 2 ^ lo := by
        rw [congrArg (· - bits v lo len * 2 ^ lo) hv, Nat.add_sub_cancel]
    _ = _ := by ring

theorem testBit_replace_bits (v lo len i : Nat) {c : Nat} (hc : c < 2 ^ len) :
    (v - bits v lo len * 2 ^ lo + c * 2 ^ lo).testBit i = if lo ≤ i ∧ i < lo + len then c.testBit (i - lo) else v.testBit i := by
  rw [replace_bits, Nat.testBit_two_pow_mul_add _ (Nat.mod_lt _ (Nat.two_pow_pos lo)), Nat.testBit_two_pow_mul_add _ hc]
  obtain hlt | hge := Nat.lt_or_ge i lo
  · rw [if_pos hlt, if_neg (by omega), Nat.testBit_mod_two_pow, decide_eq_true hlt, Bool.true_and]
  · rw [if_neg (by omega)]
    obtain hin | hout := Nat.lt_or_ge (i - lo) len
    · rw [if_pos hin, if_pos (by omega)]
    · rw [if_neg (by omega), if_neg (by omega), Nat.testBit_div_two_pow, Nat.testBit_div_two_pow]
      congr 1
      omega

theorem getLsbD_bfiVal (a b ctl : Word) {i : Nat} (hi : i < 64) :
    (bfiVal a b ctl).getLsbD i =
      if fieldPos ctl ≤ i ∧ i < fieldPos ctl + fieldLen ctl then b.getLsbD (i - fieldPos ctl) else a.getLsbD i := by
  simp only [bfiVal]
  by_cases h : fieldLen ctl = 0
  · rw [if_pos h, h, if_neg (by omega)]
  · rw [if_neg h, BitVec.getLsbD_ofNat, testBit_replace_bits _ _ _ _ (bits_lt ..), testBit_bits, decide_eq_true hi, Bool.true_and]
    split
    next hin =>
      rw [decide_eq_true (by omega), Bool.true_and, Nat.zero_add]
      rfl
    next => rfl

/-! ### Extension, halves and conditions -/

theorem sextVal_eq (w : Width) (a : Word) : sextVal w a = (low w a).signExtend 64 := by
  rw [sextVal, intVal_sityOf, BitVec.signExtend]

theorem zextVal_eq (w : Width) (a : Word) : zextVal w a = (low w a).setWidth 64 := by
  rw [zextVal, ← toNat_low, BitVec.ofNat_toNat]

theorem toNat_setWidth_eq_bits (a : Word) (len : Nat) : (a.setWidth len).toNat = bits a.toNat 0 len := by
  rw [BitVec.toNat_setWidth, bits, pow_zero, Nat.div_one]

theorem pack2Val_h16 (a b : Word) : pack2Val .h16 a b = (b.setWidth 16 ++ a.setWidth 16).setWidth 64 := by
  rw [← BitVec.ofNat_toNat, toNat_join, toNat_setWidth_eq_bits, toNat_setWidth_eq_bits, mul_comm, add_comm]
  rfl

theorem pack2Val_h32 (a b : Word) : pack2Val .h32 a b = b.setWidth 32 ++ a.setWidth 32 := by
  refine (eq_ofNat_of_toNat ?_).symm
  rw [toNat_join, toNat_setWidth_eq_bits, toNat_setWidth_eq_bits, mul_comm, add_comm]

theorem unpkVal_h16 (a : Word) : unpkVal .h16 a = ((a.extractLsb' 0 16).setWidth 64, (a.extractLsb' 16 16).setWidth 64) := by
  rw [setWidth_extract, setWidth_extract]
  rfl

theorem unpkVal_h32 (a : Word) : unpkVal .h32 a = ((a.extractLsb' 0 32).setWidth 64, (a.extractLsb' 32 32).setWidth 64) := by
  rw [setWidth_extract, setWidth_extract]
  rfl

theorem condHolds_eq_toNat (a b : Word) : condHolds .eq a b = decide (a.toNat = b.toNat) :=
  decide_eq_decide.mpr BitVec.toNat_inj.symm

end Sys2Proof.Machine
end

section
/-! CERTIFICATE. O13: bit fields, extension, halves and comparisons. -/

namespace Sys2Proof.Machine

/-- Settles O13: a field taken out or put in is compared bit by bit, the other words as whole values. -/
theorem fieldsAndCompares : Obligations.FieldsAndCompares := by
  refine ⟨fun s fl j pm sg w t0 t1 h => ⟨bfxVal sg, bfiVal, ?_, ?_, fun a b ctl i hi => ?_, ?_, ?_, ?_, ?_, ?_, ?_⟩,
    fun s fl j pm c t0 t1 imm h => ?_⟩
  · exact valueOp_issued h ..
  · exact valueOp_issued h ..
  · rw [← fieldPos_eq]
    dsimp only
    rw [← fieldLen_eq]
    exact ⟨getLsbD_bfxVal sg a ctl hi, getLsbD_bfiVal a b ctl hi⟩
  · exact valueOp_both h fun a _ _ _ => sextVal_eq w a
  · exact valueOp_both h fun a _ _ _ => zextVal_eq w a
  · exact valueOp_both h fun a b _ _ => pack2Val_h16 a b
  · exact valueOp_both h fun a b _ _ => pack2Val_h32 a b
  · exact valueOp_pair h fun a _ _ _ => unpkVal_h16 a
  · exact valueOp_pair h fun a _ _ _ => unpkVal_h32 a
  · intro holds bit
    have hc (a b : Word) : condHolds c a b = holds a b := by
      cases c
      case eq => exact condHolds_eq_toNat a b
      all_goals rfl
    exact ⟨valueOp_pair h fun a b _ _ => congrArg withComplement (hc a b),
      valueOp_both h fun a _ _ _ => congrArg boolWord (hc a _)⟩

end Sys2Proof.Machine
end

section
/-! SUPPORT. Exact numbers as rationals (R102): a finite exact number is the ratio it shows, and comparison, sum and product are
those of rationals. -/

namespace Sys2Proof.Machine

/-- A finite exact number over a denominator that is not 0. -/
def XNum.IsRatio (x : XNum) : Prop := ∃ g n d, 0 < d ∧ x = .fin g n d

theorem value_fin (g : Bool) (n d : Nat) : (XNum.fin g n d).value = (sgn g n : Rat) / d := by
  cases g <;> simp [XNum.value, sgn]

theorem value_fin_false (n d : Nat) : (XNum.fin false n d).value = (n : Rat) / d := rfl

theorem XNum.lt_iff_value {x y : XNum} (hx : x.IsRatio) (hy : y.IsRatio) : x.lt y = true ↔ x.value < y.value := by
  obtain ⟨g, n, d, hd, rfl⟩ := hx
  obtain ⟨h, m, e, he, rfl⟩ := hy
  have hd' : (0 : Rat) < d := by exact_mod_cast hd
  have he' : (0 : Rat) < e := by exact_mod_cast he
  rw [value_fin, value_fin, div_lt_div_iff₀ hd' he', XNum.lt, decide_eq_true_eq]
  exact_mod_cast Iff.rfl

theorem XNum.lt_eq_false_iff {x y : XNum} (hx : x.IsRatio) (hy : y.IsRatio) : x.lt y = false ↔ y.value ≤ x.value := by
  rw [Bool.eq_false_iff, ne_eq, lt_iff_value hx hy, not_lt]

theorem fin_natAbs_value (z : Int) (d : Nat) : (XNum.fin (z < 0) z.natAbs d).value = (z : Rat) / d := by
  rw [value_fin, sgn]
  congr 2
  rcases lt_or_ge z 0 with h | h
  · simp [h, abs_of_neg]
  · simp [h.not_gt, abs_of_nonneg h]

theorem XNum.add_isRatio {x y : XNum} (r : Bool) (hx : x.IsRatio) (hy : y.IsRatio) : (x.add r y).IsRatio := by
  obtain ⟨g, n, d, hd, rfl⟩ := hx
  obtain ⟨h, m, e, he, rfl⟩ := hy
  unfold XNum.add
  dsimp only
  split
  · exact ⟨_, _, _, one_pos, rfl⟩
  · exact ⟨_, _, _, Nat.mul_pos hd he, rfl⟩

theorem XNum.add_value {x y : XNum} (r : Bool) (hx : x.IsRatio) (hy : y.IsRatio) : (x.add r y).value = x.value + y.value := by
  obtain ⟨g, n, d, hd, rfl⟩ := hx
  obtain ⟨h, m, e, he, rfl⟩ := hy
  have hd' : (d : Rat) ≠ 0 := by exact_mod_cast hd.ne'
  have he' : (e : Rat) ≠ 0 := by exact_mod_cast he.ne'
  have hsum : ((sgn g n * e + sgn h m * d : Int) : Rat) / (d * e : Nat) = sgn g n / d + sgn h m / e := by
    push_cast
    field_simp
  rw [value_fin, value_fin, ← hsum]
  unfold XNum.add
  dsimp only
  split
  next h0 => rw [h0, value_fin]; simp [sgn]
  next => exact fin_natAbs_value _ _

theorem sgn_bne_mul (g h : Bool) (n m : Nat) : sgn (g != h) (n * m) = sgn g n * sgn h m := by
  cases g <;> cases h <;> simp [sgn]

theorem XNum.mul_isRatio {x y : XNum} (hx : x.IsRatio) (hy : y.IsRatio) : (x.mul y).IsRatio := by
  obtain ⟨g, n, d, hd, rfl⟩ := hx
  obtain ⟨h, m, e, he, rfl⟩ := hy
  exact ⟨_, _, _, Nat.mul_pos hd he, rfl⟩

theorem XNum.mul_value {x y : XNum} (hx : x.IsRatio) (hy : y.IsRatio) : (x.mul y).value = x.value * y.value := by
  obtain ⟨g, n, d, hd, rfl⟩ := hx
  obtain ⟨h, m, e, he, rfl⟩ := hy
  rw [XNum.mul, value_fin, value_fin, value_fin, sgn_bne_mul]
  push_cast
  exact (div_mul_div_comm ..).symm

/-- m × 2^e is one ratio under either sign. -/
theorem dyadic_eq_fin (m : Nat) (e : Int) :
    ∃ n d : Nat, 0 < d ∧ (∀ g, XNum.dyadic g m e = .fin g n d) ∧ (n : Rat) / d = m * 2 ^ e := by
  by_cases he : 0 ≤ e
  · refine ⟨m * 2 ^ e.toNat, 1, one_pos, fun g => if_pos he, ?_⟩
    conv_rhs => rw [← Int.toNat_of_nonneg he, zpow_natCast]
    simp
  · refine ⟨m, 2 ^ (-e).toNat, by positivity, fun g => if_neg he, ?_⟩
    conv_rhs => rw [← neg_neg e, ← Int.toNat_of_nonneg (show 0 ≤ -e by omega), zpow_neg, zpow_natCast]
    simp [div_eq_mul_inv]

/-- The magnitude with an ordinal, as a rational. -/
def FloatFmt.magnitude (f : FloatFmt) (m : Nat) : Rat := (f.ordVal false m).value

theorem ordVal_eq_fin (f : FloatFmt) (m : Nat) :
    ∃ n d : Nat, 0 < d ∧ (∀ g, f.ordVal g m = .fin g n d) ∧ (n : Rat) / d = f.magnitude m := by
  unfold FloatFmt.magnitude FloatFmt.ordVal
  dsimp only
  split
  all_goals
    obtain ⟨n, d, hd, hg, -⟩ := dyadic_eq_fin _ _
    refine ⟨n, d, hd, hg, ?_⟩
    rw [hg]
    rfl

theorem ordVal_isRatio (f : FloatFmt) (g : Bool) (m : Nat) : (f.ordVal g m).IsRatio :=
  let ⟨n, d, hd, hg, _⟩ := ordVal_eq_fin f m
  ⟨g, n, d, hd, hg g⟩

/-- Ordinal i × 2^(p−1) + c, where c steps reach up to the next power of two, has the magnitude of c steps of size
2^(emin + i − (p − 1)) (R92). -/
theorem magnitude_steps (f : FloatFmt) {i c : Nat} (hc : c ≤ 2 * 2 ^ (f.p - 1)) (hi : i = 0 ∨ 2 ^ (f.p - 1) ≤ c) :
    f.magnitude (i * 2 ^ (f.p - 1) + c) = c * 2 ^ (f.emin + i - (f.p - 1 : Nat)) := by
  have hB : 0 < 2 ^ (f.p - 1) := by positivity
  have hdy (m : Nat) (e : Int) : (XNum.dyadic false m e).value = m * 2 ^ e := by
    obtain ⟨n, d, -, hg, hv⟩ := dyadic_eq_fin m e
    rw [hg, value_fin_false, hv]
  unfold FloatFmt.magnitude FloatFmt.ordVal
  generalize 2 ^ (f.p - 1) = B at *
  dsimp only
  rcases lt_or_ge c B with hlt | hge
  · obtain rfl : i = 0 := by omega
    rw [zero_mul, zero_add, if_pos (Nat.div_eq_of_lt hlt), hdy, Nat.mod_eq_of_lt hlt, Nat.cast_zero, add_zero]
  obtain ⟨r, rfl⟩ := Nat.exists_eq_add_of_le hge
  rw [show i * B + (B + r) = r + (i + 1) * B by ring, Nat.add_mul_div_right _ _ hB, Nat.add_mul_mod_self_right, ← add_assoc,
    if_neg (Nat.succ_ne_zero _), hdy]
  rcases (show r ≤ B by omega).lt_or_eq with hr | rfl
  · rw [Nat.div_eq_of_lt hr, Nat.mod_eq_of_lt hr]
    congr 2
    push_cast
    ring
  · rw [Nat.div_self hB, Nat.mod_self, add_zero, ← mul_two, Nat.cast_mul, Nat.cast_two, mul_assoc,
      ← zpow_one_add₀ two_ne_zero]
    congr 2
    push_cast
    ring

end Sys2Proof.Machine
end

section
/-! SUPPORT. Rounding to a format's unbounded grid as a function of the rational that is rounded (R101, R102, R106): its steps,
the ordinal of the neighbour below it, and the mode's choice between that neighbour and the next. -/

namespace Sys2Proof.Machine

theorem two_zpow_le_iff {x : Rat} (hx : 0 < x) {z : Int} : (2 : Rat) ^ z ≤ x ↔ z ≤ Int.log 2 x := by
  rw [← Int.zpow_le_iff_le_log one_lt_two hx, Nat.cast_two]

theorem lt_two_zpow_iff {x : Rat} (hx : 0 < x) {z : Int} : x < (2 : Rat) ^ z ↔ Int.log 2 x < z := by
  rw [← Int.lt_zpow_iff_log_lt one_lt_two hx, Nat.cast_two]

theorem log_eq_of_bounds {x : Rat} {e : Int} (hx : 0 < x) (h1 : (2 : Rat) ^ e ≤ x) (h2 : x < (2 : Rat) ^ (e + 1)) : Int.log 2 x = e :=
  le_antisymm (Int.lt_add_one_iff.mp ((lt_two_zpow_iff hx).mp h2)) ((two_zpow_le_iff hx).mp h1)

theorem two_zpow_log_le {x : Rat} (hx : 0 < x) : (2 : Rat) ^ Int.log 2 x ≤ x := (two_zpow_le_iff hx).mpr le_rfl

theorem lt_two_zpow_log {x : Rat} (hx : 0 < x) : x < (2 : Rat) ^ (Int.log 2 x + 1) := (lt_two_zpow_iff hx).mpr (Int.lt_succ _)

theorem ratio_pos {n d : Nat} (hn : 0 < n) (hd : 0 < d) : (0 : Rat) < n / d := by positivity

/-- The comparison that `floorLog2` makes, in rationals. -/
theorem two_zpow_le_ratio_iff {n d : Nat} (hd : 0 < d) (e : Int) :
    (if 0 ≤ e then d * 2 ^ e.toNat ≤ n else d ≤ n * 2 ^ (-e).toNat) ↔ (2 : Rat) ^ e ≤ n / d := by
  have hd' : (0 : Rat) < d := by exact_mod_cast hd
  rw [le_div_iff₀ hd']
  obtain ⟨k, rfl | rfl⟩ := Int.eq_nat_or_neg e
  · rw [if_pos (Int.natCast_nonneg k), Int.toNat_natCast, zpow_natCast, mul_comm d]
    exact_mod_cast Iff.rfl
  · rw [neg_neg, Int.toNat_natCast, zpow_neg, zpow_natCast, inv_mul_le_iff₀ (by positivity), mul_comm n]
    rcases k.eq_zero_or_pos with rfl | hk
    · simp
    · rw [if_neg (by omega)]
      exact_mod_cast Iff.rfl

theorem floorLog2_eq {n d : Nat} (hn : 0 < n) (hd : 0 < d) : floorLog2 n d = Int.log 2 ((n : Rat) / d) := by
  have hx := ratio_pos hn hd
  have hd' : (0 : Rat) < d := by exact_mod_cast hd
  have n1 : (2 : Rat) ^ (Nat.log2 n : Int) ≤ n := by exact_mod_cast Nat.log2_self_le hn.ne'
  have n2 : (n : Rat) < 2 ^ ((Nat.log2 n : Int) + 1) := by exact_mod_cast Nat.lt_log2_self
  have d1 : (2 : Rat) ^ (Nat.log2 d : Int) ≤ d := by exact_mod_cast Nat.log2_self_le hd.ne'
  have d2 : (d : Rat) < 2 ^ ((Nat.log2 d : Int) + 1) := by exact_mod_cast Nat.lt_log2_self
  have upper : (n : Rat) / d < 2 ^ ((Nat.log2 n : Int) - Nat.log2 d + 1) := by
    rw [div_lt_iff₀ hd']
    calc (n : Rat) < 2 ^ ((Nat.log2 n : Int) - Nat.log2 d + 1) * 2 ^ (Nat.log2 d : Int) := by
          rwa [← zpow_add₀ two_ne_zero, show (Nat.log2 n : Int) - Nat.log2 d + 1 + Nat.log2 d = Nat.log2 n + 1 by ring]
      _ ≤ _ := by gcongr
  have lower : (2 : Rat) ^ ((Nat.log2 n : Int) - Nat.log2 d - 1) ≤ n / d := by
    rw [le_div_iff₀ hd']
    calc (2 : Rat) ^ ((Nat.log2 n : Int) - Nat.log2 d - 1) * d
        ≤ 2 ^ ((Nat.log2 n : Int) - Nat.log2 d - 1) * 2 ^ ((Nat.log2 d : Int) + 1) := by gcongr
      _ ≤ n := by
          rwa [← zpow_add₀ two_ne_zero, show (Nat.log2 n : Int) - Nat.log2 d - 1 + (Nat.log2 d + 1) = Nat.log2 n by ring]
  unfold floorLog2
  dsimp only
  simp only [two_zpow_le_ratio_iff hd]
  split
  next h => exact (log_eq_of_bounds hx h upper).symm
  next h => exact (log_eq_of_bounds hx lower (by simpa using h)).symm

/-- The mode's choice at a fraction of the way to the next neighbour (R101, R106). -/
def goesUpAt (m : Mode) (neg even : Bool) (t : Rat) : Bool :=
  decide (0 < t) && match m with
    | .rne => decide (1 / 2 < t ∨ t = 1 / 2 ∧ even = false)
    | .rz => false
    | .rdn => neg
    | .rup => !neg
    | .rsr u => decide (u < ⌊t * 2 ^ 32⌋₊)

theorem goesUp_eq (m : Mode) (neg even : Bool) (n : Nat) {d : Nat} (hd : 0 < d) :
    goesUp m neg even n d = goesUpAt m neg even (n / d) := by
  have hd' : (0 : Rat) < d := by exact_mod_cast hd
  rcases n.eq_zero_or_pos with rfl | hn
  · simp [goesUp, goesUpAt]
  have h1 : (1 / 2 : Rat) < n / d ↔ d < 2 * n := by
    rw [div_lt_div_iff₀ two_pos hd', one_mul, mul_comm]
    exact_mod_cast Iff.rfl
  have h2 : (n : Rat) / d = 1 / 2 ↔ 2 * n = d := by
    rw [div_eq_div_iff hd'.ne' two_ne_zero, one_mul, mul_comm]
    exact_mod_cast Iff.rfl
  have h3 : ⌊(n : Rat) / d * 2 ^ 32⌋₊ = n * 2 ^ 32 / d := by
    rw [← Nat.floor_div_eq_div (K := Rat), Nat.cast_mul, div_mul_eq_mul_div]
    norm_cast
  unfold goesUp goesUpAt
  rw [if_neg hn.ne', decide_eq_true (ratio_pos hn hd), Bool.true_and]
  cases m
  case rne =>
    simp only [h1, h2]
    cases even <;> simp
  case rsr u => rw [h3]
  all_goals rfl

/-- The nearer to the next neighbour, the sooner a mode takes it. -/
theorem goesUpAt_mono (m : Mode) (neg even : Bool) {t t' : Rat} (h : t ≤ t') (hu : goesUpAt m neg even t = true) :
    goesUpAt m neg even t' = true := by
  simp only [goesUpAt, Bool.and_eq_true, decide_eq_true_eq] at hu ⊢
  refine ⟨hu.1.trans_le h, ?_⟩
  cases m
  case rne =>
    have hu2 := hu.2
    simp only [decide_eq_true_eq] at hu2 ⊢
    rcases hu2 with h1 | ⟨h1, he⟩
    · exact .inl (h1.trans_le h)
    · rcases h.lt_or_eq with hlt | rfl
      · exact .inl (h1 ▸ hlt)
      · exact .inr ⟨h1, he⟩
  case rsr u =>
    have hu2 := hu.2
    simp only [decide_eq_true_eq] at hu2 ⊢
    exact hu2.trans_le (Nat.floor_le_floor (by gcongr))
  all_goals exact hu.2

/-- The exponent whose step size holds at x: that of x, or the least of a normal value. -/
def FloatFmt.expAt (f : FloatFmt) (x : Rat) : Int := max (Int.log 2 x) f.emin

/-- x in steps of the grid around it. -/
def FloatFmt.steps (f : FloatFmt) (x : Rat) : Rat := x / 2 ^ (f.expAt x - (f.p - 1 : Nat))

/-- The ordinal of the neighbour at or below x. -/
def FloatFmt.floorOrd (f : FloatFmt) (x : Rat) : Nat := (f.expAt x - f.emin).toNat * 2 ^ (f.p - 1) + ⌊f.steps x⌋₊

/-- The ordinal that x rounds to. -/
def FloatFmt.roundOrd (f : FloatFmt) (m : Mode) (neg : Bool) (x : Rat) : Nat :=
  if goesUpAt m neg (f.floorOrd x % 2 = 0) (Int.fract (f.steps x)) then f.floorOrd x + 1 else f.floorOrd x

theorem gridOrd_eq (f : FloatFmt) (m : Mode) (neg : Bool) {n d : Nat} (hn : 0 < n) (hd : 0 < d) :
    f.gridOrd m neg n d = f.roundOrd m neg ((n : Rat) / d) := by
  have key : ∃ N D : Nat, 0 < D ∧ (N : Rat) / D = f.steps ((n : Rat) / d) ∧
      (if f.expAt ((n : Rat) / d) - (f.p - 1 : Nat) < 0 then n * 2 ^ (-(f.expAt ((n : Rat) / d) - (f.p - 1 : Nat))).toNat else n) = N ∧
      (if f.expAt ((n : Rat) / d) - (f.p - 1 : Nat) < 0 then d else d * 2 ^ (f.expAt ((n : Rat) / d) - (f.p - 1 : Nat)).toNat) = D := by
    unfold FloatFmt.steps
    generalize f.expAt ((n : Rat) / d) - (f.p - 1 : Nat) = q
    refine ⟨_, _, ?_, ?_, rfl, rfl⟩
    · split <;> positivity
    · split
      next hq =>
        conv_rhs => rw [← neg_neg q, ← Int.toNat_of_nonneg (show 0 ≤ -q by omega), zpow_neg, zpow_natCast]
        push_cast
        field_simp
      next hq =>
        conv_rhs => rw [← Int.toNat_of_nonneg (show 0 ≤ q by omega), zpow_natCast]
        push_cast
        field_simp
  obtain ⟨N, D, hD, hs, hN, hD'⟩ := key
  have hfl : N / D = ⌊f.steps ((n : Rat) / d)⌋₊ := by rw [← hs, Nat.floor_div_eq_div]
  have hfr : ((N % D : Nat) : Rat) / D = Int.fract (f.steps ((n : Rat) / d)) := by
    rw [← hs, Int.fract_div_natCast_eq_div_natCast_mod]
  have hexp : max (floorLog2 n d) f.emin = f.expAt ((n : Rat) / d) := by rw [floorLog2_eq hn hd]; rfl
  have hord (k : Nat) : (if floorLog2 n d < f.emin then k else (floorLog2 n d - f.emin).toNat * 2 ^ (f.p - 1) + k) =
      (f.expAt ((n : Rat) / d) - f.emin).toNat * 2 ^ (f.p - 1) + k := by
    rw [← hexp]
    split
    next h => rw [max_eq_right h.le, sub_self, Int.toNat_zero, zero_mul, zero_add]
    next h => rw [max_eq_left (not_lt.mp h)]
  unfold FloatFmt.gridOrd
  simp only [hexp, hN, hD', hfl, hord, goesUp_eq _ _ _ _ hD, hfr]
  rfl

/-! ### The neighbours -/

theorem FloatFmt.steps_mul (f : FloatFmt) (x : Rat) : f.steps x * 2 ^ (f.expAt x - (f.p - 1 : Nat)) = x :=
  div_mul_cancel₀ x (by positivity)

theorem FloatFmt.steps_nonneg (f : FloatFmt) {x : Rat} (hx : 0 < x) : 0 ≤ f.steps x := by unfold steps; positivity

/-- A power of two, in steps. -/
theorem FloatFmt.le_steps_iff (f : FloatFmt) (x : Rat) (k : Nat) :
    (2 ^ (f.p - 1 + k) : Rat) ≤ f.steps x ↔ (2 : Rat) ^ (f.expAt x + k) ≤ x := by
  rw [steps, le_div_iff₀ (by positivity), ← zpow_natCast, ← zpow_add₀ two_ne_zero]
  congr! 2
  push_cast
  ring

theorem FloatFmt.steps_lt (f : FloatFmt) {x : Rat} (hx : 0 < x) : f.steps x < 2 * 2 ^ (f.p - 1) := by
  have h : ¬(2 ^ (f.p - 1 + 1) : Rat) ≤ f.steps x := by
    rw [f.le_steps_iff, not_le, Nat.cast_one]
    exact (lt_two_zpow_log hx).trans_le (zpow_le_zpow_right₀ one_le_two (Int.add_le_add_right (le_max_left ..) 1))
  rw [← pow_succ']
  exact not_le.mp h

theorem FloatFmt.floor_steps_lt (f : FloatFmt) {x : Rat} (hx : 0 < x) : ⌊f.steps x⌋₊ < 2 * 2 ^ (f.p - 1) :=
  (Nat.floor_lt (f.steps_nonneg hx)).mpr (by exact_mod_cast f.steps_lt hx)

theorem FloatFmt.le_floor_steps (f : FloatFmt) {x : Rat} (hx : 0 < x) (h : f.emin < f.expAt x) : 2 ^ (f.p - 1) ≤ ⌊f.steps x⌋₊ := by
  have hlog : f.expAt x = Int.log 2 x := by unfold expAt at *; omega
  have := (f.le_steps_iff x 0).mpr (by rw [hlog]; simpa using two_zpow_log_le hx)
  exact Nat.le_floor (by exact_mod_cast this)

theorem FloatFmt.emin_le_expAt (f : FloatFmt) (x : Rat) : f.emin ≤ f.expAt x := le_max_right ..

/-- The ordinals from that of the neighbour below x to that of the next power of two are whole numbers of steps. -/
theorem FloatFmt.magnitude_of_steps (f : FloatFmt) {x : Rat} (hx : 0 < x) {c : Nat} (h1 : ⌊f.steps x⌋₊ ≤ c) (h2 : c ≤ ⌊f.steps x⌋₊ + 1) :
    f.magnitude ((f.expAt x - f.emin).toNat * 2 ^ (f.p - 1) + c) = c * 2 ^ (f.expAt x - (f.p - 1 : Nat)) := by
  have hlt := f.floor_steps_lt hx
  have hle := f.emin_le_expAt x
  rw [magnitude_steps f (by omega), Int.toNat_of_nonneg (by omega), add_sub_cancel]
  rcases hle.lt_or_eq with h | h
  · exact .inr ((f.le_floor_steps hx h).trans h1)
  · exact .inl (by omega)

theorem FloatFmt.magnitude_floorOrd (f : FloatFmt) {x : Rat} (hx : 0 < x) :
    f.magnitude (f.floorOrd x) = ⌊f.steps x⌋₊ * 2 ^ (f.expAt x - (f.p - 1 : Nat)) :=
  f.magnitude_of_steps hx le_rfl (Nat.le_succ _)

theorem FloatFmt.magnitude_floorOrd_succ (f : FloatFmt) {x : Rat} (hx : 0 < x) :
    f.magnitude (f.floorOrd x + 1) = (⌊f.steps x⌋₊ + 1) * 2 ^ (f.expAt x - (f.p - 1 : Nat)) := by
  rw [floorOrd, add_assoc, f.magnitude_of_steps hx (Nat.le_succ _) le_rfl]
  push_cast
  rfl

theorem FloatFmt.fract_steps (f : FloatFmt) {x : Rat} (hx : 0 < x) : Int.fract (f.steps x) = f.steps x - ⌊f.steps x⌋₊ := by
  rw [Int.fract, natCast_floor_eq_intCast_floor (f.steps_nonneg hx)]

/-- How far x lies above its lower neighbour, in steps. -/
theorem FloatFmt.sub_magnitude (f : FloatFmt) {x : Rat} (hx : 0 < x) :
    x - f.magnitude (f.floorOrd x) = Int.fract (f.steps x) * 2 ^ (f.expAt x - (f.p - 1 : Nat)) := by
  rw [f.magnitude_floorOrd hx, f.fract_steps hx, sub_mul, f.steps_mul]

theorem FloatFmt.magnitude_succ_sub (f : FloatFmt) {x : Rat} (hx : 0 < x) :
    f.magnitude (f.floorOrd x + 1) - f.magnitude (f.floorOrd x) = 2 ^ (f.expAt x - (f.p - 1 : Nat)) := by
  rw [f.magnitude_floorOrd_succ hx, f.magnitude_floorOrd hx]
  ring

theorem FloatFmt.roundOrd_eq_or (f : FloatFmt) (m : Mode) (neg : Bool) (x : Rat) :
    f.roundOrd m neg x = f.floorOrd x ∨ f.roundOrd m neg x = f.floorOrd x + 1 := by
  unfold roundOrd
  split
  · exact .inr rfl
  · exact .inl rfl

/-! ### Rounding is monotone -/

theorem FloatFmt.expAt_mono (f : FloatFmt) {x y : Rat} (hx : 0 < x) (h : x ≤ y) : f.expAt x ≤ f.expAt y :=
  max_le_max_right _ (Int.log_mono_right hx h)

/-- Across a power of two. -/
theorem FloatFmt.floorOrd_lt_of_expAt_lt (f : FloatFmt) {x y : Rat} (hx : 0 < x) (hy : 0 < y) (h : f.expAt x < f.expAt y) :
    f.floorOrd x < f.floorOrd y := by
  have hxs := f.floor_steps_lt hx
  have hys := f.le_floor_steps hy ((f.emin_le_expAt x).trans_lt h)
  have hxe := f.emin_le_expAt x
  obtain ⟨i, hi⟩ := Nat.exists_eq_add_of_lt (show (f.expAt x - f.emin).toNat < (f.expAt y - f.emin).toNat by omega)
  rw [floorOrd, floorOrd, hi, add_mul, add_mul, one_mul]
  omega

theorem FloatFmt.roundOrd_mono (f : FloatFmt) (m : Mode) (neg : Bool) {x y : Rat} (hx : 0 < x) (h : x ≤ y) :
    f.roundOrd m neg x ≤ f.roundOrd m neg y := by
  have upto (hlt : f.floorOrd x < f.floorOrd y) : f.roundOrd m neg x ≤ f.roundOrd m neg y := by
    have := f.roundOrd_eq_or m neg x
    have := f.roundOrd_eq_or m neg y
    omega
  have hy := hx.trans_le h
  rcases (f.expAt_mono hx h).lt_or_eq with hlt | he
  · exact upto (f.floorOrd_lt_of_expAt_lt hx hy hlt)
  have hs : f.steps x ≤ f.steps y := by unfold steps; rw [he]; gcongr
  rcases (Nat.floor_le_floor hs).lt_or_eq with hlt | hk
  · exact upto (by unfold floorOrd; rw [he]; omega)
  have hord : f.floorOrd x = f.floorOrd y := by rw [floorOrd, floorOrd, he, hk]
  have hfr : Int.fract (f.steps x) ≤ Int.fract (f.steps y) := by
    rw [f.fract_steps hx, f.fract_steps hy, hk]
    linarith
  unfold roundOrd
  rw [hord]
  split
  next hu => rw [if_pos (goesUpAt_mono m neg _ hfr hu)]
  next => split <;> omega

/-! ### What lies on the grid is kept -/

/-- A whole number of the steps that hold there is its own lower neighbour. -/
theorem FloatFmt.expAt_of_steps (f : FloatFmt) {i c : Nat} (h0 : 0 < c) (hc : c < 2 * 2 ^ (f.p - 1)) (hi : i = 0 ∨ 2 ^ (f.p - 1) ≤ c) :
    f.expAt (c * 2 ^ (f.emin + i - (f.p - 1 : Nat))) = f.emin + i := by
  have hx : (0 : Rat) < c * 2 ^ (f.emin + i - (f.p - 1 : Nat)) := by positivity
  have shift (e : Int) : (2 : Rat) ^ e = 2 ^ (f.p - 1) * 2 ^ (e - (f.p - 1 : Nat)) := by
    rw [← zpow_natCast, ← zpow_add₀ two_ne_zero, add_sub_cancel]
  have hlt : (c : Rat) * 2 ^ (f.emin + i - (f.p - 1 : Nat)) < 2 ^ (f.emin + i + 1) := by
    rw [zpow_add_one₀ two_ne_zero, shift (f.emin + i), mul_right_comm]
    gcongr
    rw [mul_comm]
    exact_mod_cast hc
  have hlog := (lt_two_zpow_iff hx).mp hlt
  unfold expAt
  rcases hi with rfl | hB
  · omega
  · have hle : (2 : Rat) ^ (f.emin + i) ≤ c * 2 ^ (f.emin + i - (f.p - 1 : Nat)) := by
      rw [shift]
      gcongr
      exact_mod_cast hB
    have := (two_zpow_le_iff hx).mp hle
    omega

theorem FloatFmt.roundOrd_of_steps (f : FloatFmt) (m : Mode) (neg : Bool) {i c : Nat} (h0 : 0 < c) (hc : c < 2 * 2 ^ (f.p - 1))
    (hi : i = 0 ∨ 2 ^ (f.p - 1) ≤ c) :
    f.roundOrd m neg (c * 2 ^ (f.emin + i - (f.p - 1 : Nat))) = i * 2 ^ (f.p - 1) + c := by
  have he := f.expAt_of_steps h0 hc hi
  have hs : f.steps (c * 2 ^ (f.emin + i - (f.p - 1 : Nat))) = c := by
    rw [steps, he, mul_div_cancel_right₀ _ (by positivity)]
  simp [roundOrd, floorOrd, hs, he, goesUpAt]

/-- Every ordinal is a number of steps within its power of two. -/
theorem FloatFmt.exists_steps (f : FloatFmt) {k : Nat} (hk : 0 < k) :
    ∃ i c, 0 < c ∧ c < 2 * 2 ^ (f.p - 1) ∧ (i = 0 ∨ 2 ^ (f.p - 1) ≤ c) ∧ k = i * 2 ^ (f.p - 1) + c := by
  rcases lt_or_ge k (2 ^ (f.p - 1)) with h | h
  · exact ⟨0, k, hk, by omega, .inl rfl, by omega⟩
  · obtain ⟨l, rfl⟩ := Nat.exists_eq_add_of_le h
    have hr := Nat.mod_lt l (show 0 < 2 ^ (f.p - 1) by positivity)
    have hl := Nat.div_add_mod' l (2 ^ (f.p - 1))
    exact ⟨l / 2 ^ (f.p - 1), 2 ^ (f.p - 1) + l % 2 ^ (f.p - 1), by omega, by omega, .inr (by omega), by omega⟩

theorem FloatFmt.magnitude_zero (f : FloatFmt) : f.magnitude 0 = 0 := by
  simpa using magnitude_steps f (i := 0) (Nat.zero_le _) (.inl rfl)

theorem FloatFmt.magnitude_pos (f : FloatFmt) {k : Nat} (hk : 0 < k) : 0 < f.magnitude k := by
  obtain ⟨i, c, h0, hc, hi, rfl⟩ := f.exists_steps hk
  rw [magnitude_steps f hc.le hi]
  positivity

/-- The value of an ordinal rounds to that ordinal under every mode (R101). -/
theorem FloatFmt.roundOrd_magnitude (f : FloatFmt) (m : Mode) (neg : Bool) {k : Nat} (hk : 0 < k) :
    f.roundOrd m neg (f.magnitude k) = k := by
  obtain ⟨i, c, h0, hc, hi, rfl⟩ := f.exists_steps hk
  rw [magnitude_steps f hc.le hi, f.roundOrd_of_steps m neg h0 hc hi]

end Sys2Proof.Machine
end

section
/-! SUPPORT. The model's root with a sticky half (R111) rounds as the root itself: between two values that no step and no half of
a step separates, every mode but the stochastic one rounds alike. -/

namespace Sys2Proof.Machine

/-- Two rationals that no multiple of a power of two down to 2^−s separates or meets. -/
structure SameCell (s : Nat) (x y : Rat) : Prop where
  pos : 0 < x ∧ 0 < y
  le_iff (j : Nat) {z : Int} (hz : -(s : Int) ≤ z) : (j : Rat) * 2 ^ z ≤ x ↔ (j : Rat) * 2 ^ z ≤ y
  ne (j : Nat) {z : Int} (hz : -(s : Int) ≤ z) : (j : Rat) * 2 ^ z ≠ x ∧ (j : Rat) * 2 ^ z ≠ y

/-- Between two successive multiples of 2^−s / N. -/
theorem SameCell.of_bounds {N s c : Nat} (hN : 0 < N) {x y : Rat} (hx : (c : Rat) < x * (N * 2 ^ s)) (hx' : x * (N * 2 ^ s) < c + 1)
    (hy : (c : Rat) < y * (N * 2 ^ s)) (hy' : y * (N * 2 ^ s) < c + 1) : SameCell s x y := by
  have hM : (0 : Rat) < N * 2 ^ s := by positivity
  have whole (j : Nat) {z : Int} (hz : -(s : Int) ≤ z) : (j : Rat) * 2 ^ z * (N * 2 ^ s) = (j * N * 2 ^ (z + s).toNat : Nat) := by
    push_cast
    rw [← zpow_natCast _ (z + s).toNat, Int.toNat_of_nonneg (by omega), zpow_add₀ two_ne_zero, zpow_natCast]
    ring
  have le_iff (u : Rat) (hu : (c : Rat) < u * (N * 2 ^ s)) (hu' : u * (N * 2 ^ s) < c + 1) (j : Nat) {z : Int} (hz : -(s : Int) ≤ z) :
      (j : Rat) * 2 ^ z ≤ u ↔ j * N * 2 ^ (z + s).toNat ≤ c := by
    rw [← mul_le_mul_iff_of_pos_right hM, whole j hz]
    refine ⟨fun h => Nat.lt_succ_iff.mp (by exact_mod_cast h.trans_lt hu'), fun h => le_trans (by exact_mod_cast h) hu.le⟩
  have ne (u : Rat) (hu : (c : Rat) < u * (N * 2 ^ s)) (hu' : u * (N * 2 ^ s) < c + 1) (j : Nat) {z : Int} (hz : -(s : Int) ≤ z) :
      (j : Rat) * 2 ^ z ≠ u := by
    rintro rfl
    rw [whole j hz] at hu hu'
    have h1 : c < j * N * 2 ^ (z + s).toNat := by exact_mod_cast hu
    have h2 : j * N * 2 ^ (z + s).toNat < c + 1 := by exact_mod_cast hu'
    omega
  have pos (u : Rat) (hu : (c : Rat) < u * (N * 2 ^ s)) : 0 < u := pos_of_mul_pos_left (c.cast_nonneg.trans_lt hu) hM.le
  exact ⟨⟨pos x hx, pos y hy⟩, fun j z hz => (le_iff x hx hx' j hz).trans (le_iff y hy hy' j hz).symm,
    fun j z hz => ⟨ne x hx hx' j hz, ne y hy hy' j hz⟩⟩

theorem SameCell.symm {s : Nat} {x y : Rat} (h : SameCell s x y) : SameCell s y x :=
  ⟨h.pos.symm, fun j _ hz => (h.le_iff j hz).symm, fun j _ hz => (h.ne j hz).symm⟩

theorem SameCell.log_le {s : Nat} {x y : Rat} (h : SameCell s x y) (hx : -(s : Int) ≤ Int.log 2 x) : Int.log 2 x ≤ Int.log 2 y := by
  have := (h.le_iff 1 hx).mp (by simpa using two_zpow_log_le h.pos.1)
  rw [Nat.cast_one, one_mul] at this
  exact (two_zpow_le_iff h.pos.2).mp this

/-- Only where a fraction lies of 0 and of one half matters to the modes that are not stochastic. -/
theorem goesUpAt_congr {m : Mode} (hm : ∀ u, m ≠ .rsr u) (neg even : Bool) {t t' : Rat} (h0 : 0 < t) (h0' : 0 < t')
    (hlt : 1 / 2 < t ↔ 1 / 2 < t') (hne : t ≠ 1 / 2) (hne' : t' ≠ 1 / 2) : goesUpAt m neg even t = goesUpAt m neg even t' := by
  unfold goesUpAt
  rw [decide_eq_true h0, decide_eq_true h0']
  cases m
  case rne => simp only [hlt, hne, hne']
  case rsr u => exact absurd rfl (hm u)
  all_goals rfl

section
variable (f : FloatFmt) (x : Rat) (j : Nat)

/-- Half steps, as multiples of a power of two. -/
theorem FloatFmt.half_le_steps_iff : (j : Rat) / 2 ≤ f.steps x ↔ j * 2 ^ (f.expAt x - (f.p - 1 : Nat) - 1) ≤ x := by
  rw [steps, le_div_iff₀ (by positivity), zpow_sub_one₀ two_ne_zero, div_mul_eq_mul_div, mul_div_assoc, div_eq_mul_inv]

theorem FloatFmt.steps_eq_half_iff : f.steps x = j / 2 ↔ j * 2 ^ (f.expAt x - (f.p - 1 : Nat) - 1) = x := by
  rw [steps, div_eq_iff (by positivity), zpow_sub_one₀ two_ne_zero, div_mul_eq_mul_div, mul_div_assoc, div_eq_mul_inv, eq_comm]

end

/-- Off the half steps, the side of one half that the fraction lies on is the side of a half step. -/
theorem FloatFmt.fract_of_ne_half (f : FloatFmt) {x : Rat} (hx : 0 < x) (hne : ∀ j : Nat, f.steps x ≠ j / 2) :
    0 < Int.fract (f.steps x) ∧ Int.fract (f.steps x) ≠ 1 / 2 ∧
      (1 / 2 < Int.fract (f.steps x) ↔ ((2 * ⌊f.steps x⌋₊ + 1 : Nat) : Rat) / 2 ≤ f.steps x) := by
  have h0 := hne (2 * ⌊f.steps x⌋₊)
  have h1 := hne (2 * ⌊f.steps x⌋₊ + 1)
  have hle := Nat.floor_le (f.steps_nonneg hx)
  push_cast at h0 h1 ⊢
  rw [f.fract_steps hx]
  exact ⟨sub_pos.mpr (lt_of_le_of_ne hle fun he => h0 (by linarith)), fun he => h1 (by linarith), fun hlt => by linarith,
    fun hle => lt_of_le_of_ne (by linarith) fun he => h1 (by linarith)⟩

theorem SameCell.roundOrd_eq {s : Nat} {x y : Rat} (h : SameCell s x y) (f : FloatFmt) {m : Mode} (hm : ∀ u, m ≠ .rsr u) (neg : Bool)
    (hx : (f.p : Int) < Int.log 2 x + s) (hy : (f.p : Int) < Int.log 2 y + s) : f.roundOrd m neg x = f.roundOrd m neg y := by
  have hlog : Int.log 2 x = Int.log 2 y := le_antisymm (h.log_le (by omega)) (h.symm.log_le (by omega))
  have he : f.expAt x = f.expAt y := by rw [FloatFmt.expAt, FloatFmt.expAt, hlog]
  have hq : -(s : Int) ≤ f.expAt x - (f.p - 1 : Nat) - 1 := by unfold FloatFmt.expAt; omega
  have le_iff (j : Nat) : (j : Rat) / 2 ≤ f.steps x ↔ (j : Rat) / 2 ≤ f.steps y := by
    rw [f.half_le_steps_iff, f.half_le_steps_iff, ← he, h.le_iff j hq]
  have hfl : ⌊f.steps x⌋₊ = ⌊f.steps y⌋₊ := by
    refine eq_of_forall_le_iff fun k => ?_
    have := le_iff (2 * k)
    rw [Nat.cast_mul, Nat.cast_two, mul_div_cancel_left₀ _ two_ne_zero] at this
    rw [Nat.le_floor_iff (f.steps_nonneg h.pos.1), Nat.le_floor_iff (f.steps_nonneg h.pos.2), this]
  obtain ⟨x0, xne, xlt⟩ := f.fract_of_ne_half h.pos.1 fun j hj => (h.ne j hq).1 ((f.steps_eq_half_iff x j).mp hj)
  obtain ⟨y0, yne, ylt⟩ := f.fract_of_ne_half h.pos.2 fun j hj => (h.ne j (he ▸ hq)).2 ((f.steps_eq_half_iff y j).mp hj)
  have hord : f.floorOrd x = f.floorOrd y := by rw [FloatFmt.floorOrd, FloatFmt.floorOrd, he, hfl]
  rw [hfl] at xlt
  unfold FloatFmt.roundOrd
  rw [hord, goesUpAt_congr hm neg _ x0 y0 (xlt.trans ((le_iff _).trans ylt.symm)) xne yne]

/-! ### The root -/

theorem isqrtAux_bounds (k n r : Nat) (hlo : r * r ≤ n) (hhi : n < (r + 2 ^ k) * (r + 2 ^ k)) :
    isqrtAux k n r * isqrtAux k n r ≤ n ∧ n < (isqrtAux k n r + 1) * (isqrtAux k n r + 1) := by
  induction k generalizing r with
  | zero => exact ⟨hlo, hhi⟩
  | succ k ih =>
    rw [isqrtAux]
    split
    next h => exact ih _ h (by rwa [add_assoc, ← two_mul, ← pow_succ'])
    next h => exact ih _ hlo (not_le.mp h)

theorem isqrt_bounds (n : Nat) : isqrt n * isqrt n ≤ n ∧ n < (isqrt n + 1) * (isqrt n + 1) := by
  refine isqrtAux_bounds _ n 0 n.zero_le ?_
  rw [zero_add, ← pow_add]
  exact Nat.lt_log2_self.trans_le (Nat.pow_le_pow_right two_pos (by omega))

theorem two_pow_le_isqrt {n s : Nat} (h : 2 ^ (2 * s) ≤ n) : 2 ^ s ≤ isqrt n := by
  by_contra hlt
  have h1 : n < 2 ^ s * 2 ^ s := (isqrt_bounds n).2.trans_le (Nat.mul_le_mul (not_le.mp hlt) (not_le.mp hlt))
  rw [← pow_add, ← two_mul] at h1
  exact h1.not_ge h

/-- The integer r below the root in units of 1 / (d × 2^s), and the exact root or the middle of the unit that it lies in. -/
theorem rootOf_eq {n d : Nat} (hn : 0 < n) (hd : 0 < d) : ∃ s r N D : Nat, rootOf n d = .fin false N D ∧ 0 < N ∧ 0 < D ∧
    d * 2 ^ 79 ≤ 2 ^ s ∧ 2 ^ s ≤ r ∧
    (r * r = n * d * 2 ^ (2 * s) ∧ (N : Rat) / D * (d * 2 ^ s) = r ∨
      r * r < n * d * 2 ^ (2 * s) ∧ n * d * 2 ^ (2 * s) < (r + 1) * (r + 1) ∧ (N : Rat) / D * (d * 2 ^ s) = r + 1 / 2) := by
  have hs : d * 2 ^ 79 ≤ 2 ^ (80 + Nat.log2 d) := by
    have hd2 : d ≤ 2 ^ (Nat.log2 d + 1) := Nat.lt_log2_self.le
    calc d * 2 ^ 79 ≤ 2 ^ (Nat.log2 d + 1) * 2 ^ 79 := by gcongr
      _ = 2 ^ (80 + Nat.log2 d) := by ring
  unfold rootOf
  dsimp only
  generalize 80 + Nat.log2 d = s at *
  have hr : 2 ^ s ≤ isqrt (n * d * 2 ^ (2 * s)) := two_pow_le_isqrt (Nat.le_mul_of_pos_left _ (Nat.mul_pos hn hd))
  obtain ⟨hlo, hhi⟩ := isqrt_bounds (n * d * 2 ^ (2 * s))
  generalize isqrt (n * d * 2 ^ (2 * s)) = r at *
  have hr0 : 0 < r := hr.trans_lt' (by positivity)
  have hd' : (d : Rat) ≠ 0 := by exact_mod_cast hd.ne'
  split
  next heq =>
    refine ⟨s, r, _, _, rfl, hr0, by positivity, hs, hr, .inl ⟨heq, ?_⟩⟩
    push_cast
    field_simp
  next hne =>
    refine ⟨s, r, _, _, rfl, by positivity, by positivity, hs, hr, .inr ⟨lt_of_le_of_ne hlo hne, hhi, ?_⟩⟩
    push_cast
    field_simp
    ring

/-- The square of a ratio against n / d, in units of 1 / (d × 2^s). -/
theorem ratio_sq_units (n d s p : Nat) {q : Nat} (hq : 0 < q) (hd : 0 < d) :
    (p * p * d ≤ n * (q * q) → (p : Rat) / q * (d * 2 ^ s) * ((p : Rat) / q * (d * 2 ^ s)) ≤ (n * d * 2 ^ (2 * s) : Nat)) ∧
    (n * (q * q) ≤ p * p * d → ((n * d * 2 ^ (2 * s) : Nat) : Rat) ≤ (p : Rat) / q * (d * 2 ^ s) * ((p : Rat) / q * (d * 2 ^ s))) := by
  have hqq : (0 : Rat) < q * q := by positivity
  have hsq : (p : Rat) / q * (d * 2 ^ s) * ((p : Rat) / q * (d * 2 ^ s)) * (q * q) = (p * p * d : Nat) * (d * 2 ^ (2 * s)) := by
    push_cast
    field_simp
    ring
  have hv : ((n * d * 2 ^ (2 * s) : Nat) : Rat) * (q * q) = (n * (q * q) : Nat) * (d * 2 ^ (2 * s)) := by
    push_cast
    ring
  constructor
  all_goals
    intro h
    rw [← mul_le_mul_iff_of_pos_right hqq, hsq, hv]
    gcongr

/-- The root's unit lies far below the step size at any value above the root's lower bound. -/
theorem le_log_add {d s r : Nat} (hs : d * 2 ^ 79 ≤ 2 ^ s) (hr : 2 ^ s ≤ r) {u : Rat} (h0 : 0 < u) (hu : (r : Rat) < u * (d * 2 ^ s)) :
    79 ≤ Int.log 2 u + s := by
  have h1 : (2 : Rat) ^ s < u * d * 2 ^ s := by
    rw [mul_assoc]
    exact lt_of_le_of_lt (by exact_mod_cast hr) hu
  have h2 : (d : Rat) * 2 ^ (79 - s : Int) ≤ 1 := by
    rw [zpow_sub₀ two_ne_zero, ← mul_div_assoc, div_le_one (by positivity)]
    exact_mod_cast hs
  have h3 : 2 ^ (79 - s : Int) * (d : Rat) < u * d := by
    rw [mul_comm]
    exact h2.trans_lt (lt_of_mul_lt_mul_right (by rwa [one_mul]) (by positivity : (0 : Rat) ≤ 2 ^ s))
  have := (two_zpow_le_iff h0).mp (lt_of_mul_lt_mul_right h3 d.cast_nonneg).le
  omega

/-- A ratio is rounded on the side of a root that it lies on. -/
theorem gridOrd_rootOf (f : FloatFmt) (hp : f.p < 79) {m : Mode} (hm : ∀ u, m ≠ .rsr u) (neg : Bool) {n d : Nat} (hn : 0 < n) (hd : 0 < d) :
    ∃ N D : Nat, rootOf n d = .fin false N D ∧ 0 < N ∧ 0 < D ∧ ∀ p q : Nat, 0 < p → 0 < q →
      (p * p * d ≤ n * (q * q) → f.gridOrd m neg p q ≤ f.gridOrd m neg N D) ∧
      (n * (q * q) ≤ p * p * d → f.gridOrd m neg N D ≤ f.gridOrd m neg p q) := by
  obtain ⟨s, r, N, D, hroot, hN, hD, hs, hr, hval⟩ := rootOf_eq hn hd
  refine ⟨N, D, hroot, hN, hD, fun p q hp0 hq0 => ?_⟩
  rw [gridOrd_eq f m neg hN hD, gridOrd_eq f m neg hp0 hq0]
  have hx := ratio_pos hp0 hq0
  have hy := ratio_pos hN hD
  have hM : (0 : Rat) < d * 2 ^ s := by positivity
  obtain ⟨hle, hge⟩ := ratio_sq_units n d s p hq0 hd
  generalize (p : Rat) / q = x at *
  generalize (N : Rat) / D = y at *
  generalize n * d * 2 ^ (2 * s) = v at *
  have hxM : 0 < x * (d * 2 ^ s) := by positivity
  rcases hval with ⟨rfl, hyr⟩ | ⟨hlo, hhi, hyr⟩
  · rw [Nat.cast_mul, ← hyr] at hle hge
    refine ⟨fun h => f.roundOrd_mono m neg hx ?_, fun h => f.roundOrd_mono m neg hy ?_⟩
    · exact le_of_mul_le_mul_right ((mul_self_le_mul_self_iff (by positivity) (by positivity)).mpr (hle h)) hM
    · exact le_of_mul_le_mul_right ((mul_self_le_mul_self_iff (by positivity) (by positivity)).mpr (hge h)) hM
  · have cell (hlt : (r : Rat) < x * (d * 2 ^ s)) (hlt' : x * (d * 2 ^ s) < r + 1) : f.roundOrd m neg x = f.roundOrd m neg y := by
      have hxl := le_log_add hs hr hx hlt
      have hyl := le_log_add hs hr hy (by linarith)
      exact (SameCell.of_bounds hd hlt hlt' (by linarith) (by linarith)).roundOrd_eq f hm neg (by omega) (by omega)
    refine ⟨fun h => ?_, fun h => ?_⟩
    · have hlt : x * (d * 2 ^ s) < r + 1 :=
        lt_of_mul_self_lt_mul_self₀ (by positivity) ((hle h).trans_lt (by exact_mod_cast hhi))
      rcases le_or_gt x y with hxy | hxy
      · exact f.roundOrd_mono m neg hx hxy
      · have := mul_lt_mul_of_pos_right hxy hM
        exact (cell (by linarith) hlt).le
    · have hlt : r < x * (d * 2 ^ s) :=
        lt_of_mul_self_lt_mul_self₀ hxM.le (lt_of_lt_of_le (by exact_mod_cast hlo) (hge h))
      rcases le_or_gt y x with hxy | hxy
      · exact f.roundOrd_mono m neg hy hxy
      · have := mul_lt_mul_of_pos_right hxy hM
        exact (cell hlt (by linarith)).ge

end Sys2Proof.Machine
end

section
/-! SUPPORT. The magnitudes of the two neighbours, and each mode's choice between them by these (R101, R106). -/

namespace Sys2Proof.Machine

section
variable (f : FloatFmt) {x : Rat} (hx : 0 < x)
include hx

theorem FloatFmt.magnitude_floorOrd_le : f.magnitude (f.floorOrd x) ≤ x := by
  have h := f.sub_magnitude hx
  have : 0 ≤ Int.fract (f.steps x) * 2 ^ (f.expAt x - (f.p - 1 : Nat)) := mul_nonneg (Int.fract_nonneg _) (by positivity)
  linarith

theorem FloatFmt.lt_magnitude_floorOrd_succ : x < f.magnitude (f.floorOrd x + 1) := by
  have h := f.sub_magnitude hx
  have h1 := f.magnitude_succ_sub hx
  have : Int.fract (f.steps x) * 2 ^ (f.expAt x - (f.p - 1 : Nat)) < 1 * 2 ^ (f.expAt x - (f.p - 1 : Nat)) :=
    mul_lt_mul_of_pos_right (Int.fract_lt_one _) (by positivity)
  linarith

theorem FloatFmt.fract_steps_pos_iff : 0 < Int.fract (f.steps x) ↔ f.magnitude (f.floorOrd x) < x := by
  rw [← sub_pos (b := f.magnitude _), f.sub_magnitude hx, mul_pos_iff_of_pos_right (by positivity)]

/-- Twice x against the sum of its neighbours. -/
theorem FloatFmt.twice_sub_neighbours : 2 * x - (f.magnitude (f.floorOrd x) + f.magnitude (f.floorOrd x + 1)) =
    (2 * Int.fract (f.steps x) - 1) * 2 ^ (f.expAt x - (f.p - 1 : Nat)) := by
  have h := f.sub_magnitude hx
  have h1 := f.magnitude_succ_sub hx
  linear_combination 2 * h - h1

theorem FloatFmt.fract_lt_half_iff :
    2 * x < f.magnitude (f.floorOrd x) + f.magnitude (f.floorOrd x + 1) ↔ Int.fract (f.steps x) < 1 / 2 := by
  rw [← sub_neg, f.twice_sub_neighbours hx, ← not_le, mul_nonneg_iff_of_pos_right (by positivity), not_le,
    sub_neg, lt_div_iff₀' two_pos]

theorem FloatFmt.half_lt_fract_iff :
    f.magnitude (f.floorOrd x) + f.magnitude (f.floorOrd x + 1) < 2 * x ↔ 1 / 2 < Int.fract (f.steps x) := by
  rw [← sub_pos, f.twice_sub_neighbours hx, mul_pos_iff_of_pos_right (by positivity), sub_pos, div_lt_iff₀' two_pos]

theorem FloatFmt.roundOrd_rne (neg : Bool) : f.roundOrd .rne neg x =
    if 2 * x < f.magnitude (f.floorOrd x) + f.magnitude (f.floorOrd x + 1) then f.floorOrd x
    else if f.magnitude (f.floorOrd x) + f.magnitude (f.floorOrd x + 1) < 2 * x then f.floorOrd x + 1
    else if f.floorOrd x % 2 = 0 then f.floorOrd x else f.floorOrd x + 1 := by
  rw [if_congr (f.fract_lt_half_iff hx) rfl rfl, if_congr (f.half_lt_fract_iff hx) rfl rfl]
  have h0 : (0 : Rat) < 1 / 2 := by positivity
  unfold roundOrd goesUpAt
  generalize (1 / 2 : Rat) = half at *
  rcases lt_trichotomy (Int.fract (f.steps x)) half with h | h | h
  · simp [h, h.not_gt, h.ne]
  · by_cases he : f.floorOrd x % 2 = 0 <;> simp [h, h0, he]
  · simp [h, h.not_gt, h0.trans h]

theorem FloatFmt.roundOrd_rup (neg : Bool) : f.roundOrd .rup neg x =
    if neg = false ∧ f.magnitude (f.floorOrd x) < x then f.floorOrd x + 1 else f.floorOrd x := by
  unfold roundOrd goesUpAt
  simp [f.fract_steps_pos_iff hx, and_comm]

theorem FloatFmt.roundOrd_of_exact (m : Mode) (neg : Bool) (h : x ≤ f.magnitude (f.floorOrd x)) : f.roundOrd m neg x = f.floorOrd x := by
  unfold roundOrd goesUpAt
  rw [decide_eq_false (by rwa [f.fract_steps_pos_iff hx, not_lt]), Bool.false_and, if_neg Bool.false_ne_true]

end

theorem FloatFmt.roundOrd_rz (f : FloatFmt) (neg : Bool) (x : Rat) : f.roundOrd .rz neg x = f.floorOrd x := by
  simp [roundOrd, goesUpAt]

/-- Toward −∞ is toward +∞ under the other sign. -/
theorem FloatFmt.roundOrd_rdn (f : FloatFmt) (neg : Bool) (x : Rat) : f.roundOrd .rdn neg x = f.roundOrd .rup (!neg) x := by
  simp [roundOrd, goesUpAt]

/-- The smaller its bits, the sooner the stochastic mode takes the upper neighbour (R106). -/
theorem FloatFmt.roundOrd_rsr_anti (f : FloatFmt) (neg : Bool) (x : Rat) {u v : Nat} (h : u ≤ v) :
    f.roundOrd (.rsr v) neg x ≤ f.roundOrd (.rsr u) neg x := by
  unfold roundOrd
  split
  next hv =>
    simp only [goesUpAt, Bool.and_eq_true, decide_eq_true_eq] at hv ⊢
    rw [if_pos ⟨hv.1, h.trans_lt hv.2⟩]
  next => split <;> omega

end Sys2Proof.Machine
end

section
/-! CERTIFICATE. O16: rounding takes the right one of the two neighbours. -/

namespace Sys2Proof.Machine

/-- Settles O16: the neighbours of the rational that is rounded, and each mode by how far it lies above the lower one. -/
theorem roundingToNeighbours : Obligations.RoundingToNeighbours := by
  intro t neg n d hn hd f k x twice mid
  have hx := ratio_pos hn hd
  have hk : k = f.floorOrd ((n : Rat) / d) := by rw [← f.roundOrd_rz neg]; exact gridOrd_eq f .rz neg hn hd
  have hxr : x.IsRatio := ⟨_, _, _, hd, rfl⟩
  have htr : (twice x).IsRatio := ⟨_, _, _, hd, rfl⟩
  have hlo := ordVal_isRatio f false k
  have hhi := ordVal_isRatio f false (k + 1)
  have hmid : mid.IsRatio := XNum.add_isRatio _ hlo hhi
  have hxv : x.value = (n : Rat) / d := rfl
  have htv : (twice x).value = 2 * ((n : Rat) / d) := by simp [twice, x, value_fin_false, mul_div_assoc]
  have hmv : mid.value = f.magnitude k + f.magnitude (k + 1) := XNum.add_value _ hlo hhi
  rw [XNum.lt_eq_false_iff hxr hlo, XNum.lt_iff_value hxr hhi, if_congr (XNum.lt_iff_value htr hmid) rfl rfl,
    if_congr (XNum.lt_iff_value hmid htr) rfl rfl, if_congr (XNum.lt_iff_value hlo hxr) rfl rfl, htv, hmv, hxv]
  simp only [gridOrd_eq f _ _ hn hd, XNum.lt_eq_false_iff hlo hxr]
  change f.magnitude k ≤ _ ∧ _ < f.magnitude (k + 1) ∧ _ ∧ _ = (if f.magnitude k < _ then _ else _) ∧ _
  rw [hk, f.roundOrd_rdn, f.roundOrd_rdn]
  refine ⟨f.magnitude_floorOrd_le hx, f.lt_magnitude_floorOrd_succ hx, f.roundOrd_rne hx neg, ?_, ?_, ?_, rfl, fun u =>
    ⟨f.roundOrd_eq_or _ neg _, f.roundOrd_of_exact hx _ neg, fun v h => f.roundOrd_rsr_anti neg _ h⟩⟩
  · simp [f.roundOrd_rup hx]
  · simp [f.roundOrd_rup hx]
  · simp [f.roundOrd_rup hx]

end Sys2Proof.Machine
end

section
/-! SUPPORT. What `roundTo` and `decode` answer (R92–R103). -/

namespace Sys2Proof.Machine

/-- `roundTo` answers the NaN of the format or the code of a sign and a magnitude up to the greatest one or infinity. -/
theorem roundTo_cases (f : FloatFmt) (m : Mode) (sat : Bool) (x : XNum) : roundTo f m sat x = f.nan.getD 0 ∨
    ∃ g o, (o ≤ f.maxOrd ∨ f.inf = some o) ∧ roundTo f m sat x = f.enc g o := by
  have zero : ∃ g o, (o ≤ f.maxOrd ∨ f.inf = some o) ∧ 0 = f.enc g o := ⟨false, 0, .inl (Nat.zero_le _), by simp [FloatFmt.enc]⟩
  have greatest (g : Bool) : ∃ g' o, (o ≤ f.maxOrd ∨ f.inf = some o) ∧ f.enc g f.maxOrd = f.enc g' o := ⟨g, _, .inl le_rfl, rfl⟩
  have infinite (g : Bool) {i : Nat} (hi : f.inf = some i) : ∃ g' o, (o ≤ f.maxOrd ∨ f.inf = some o) ∧ f.enc g i = f.enc g' o :=
    ⟨g, i, .inr hi, rfl⟩
  unfold roundTo
  split
  · exact .inl rfl
  · split
    · split
      · exact .inr zero
      · exact .inl rfl
    · split
      next hi => split <;> [exact .inr (greatest _); exact .inr (infinite _ hi)]
      · exact .inr (greatest _)
      next hn => rw [hn]; split <;> [exact .inr (greatest _); exact .inl rfl]
  next g n d =>
    split
    · exact .inr ⟨g, 0, .inl (Nat.zero_le _), rfl⟩
    extract_lets m' ord
    clear_value ord m'
    split
    · split
      · exact .inr zero
      · split
        · exact .inr zero
        · exact .inl rfl
    · split
      · split
        · exact .inr (greatest _)
        next hi =>
          split
          · exact .inr (greatest _)
          · split
            · exact .inr (greatest _)
            · split <;> [exact .inr (infinite _ hi); exact .inr (greatest _)]
            · split <;> [exact .inr (greatest _); exact .inr (infinite _ hi)]
            all_goals exact .inr (infinite _ hi)
      next hle => exact .inr ⟨g, _, .inl (not_lt.mp hle), rfl⟩

theorem enc_false (f : FloatFmt) (o : Nat) : f.enc false o = o := rfl

theorem enc_lt (f : FloatFmt) (g : Bool) {o : Nat} (h : o < 2 ^ (f.width - 1)) (hw : 0 < f.width) : f.enc g o < 2 ^ f.width := by
  have hpow : 2 ^ f.width = 2 * 2 ^ (f.width - 1) := by rw [← pow_succ', Nat.sub_add_cancel hw]
  unfold FloatFmt.enc
  split <;> omega

/-- A rounded value is a code of its type. -/
theorem roundTo_ffOf_lt (t : FTy) (m : Mode) (sat : Bool) (x : XNum) : roundTo (ffOf t) m sat x < 2 ^ (ffOf t).width := by
  rcases roundTo_cases (ffOf t) m sat x with h | ⟨g, o, ho, h⟩ <;> rw [h]
  · cases t <;> decide
  · refine enc_lt _ g ?_ (by cases t <;> decide)
    rcases ho with ho | ho
    · exact ho.trans_lt (by cases t <;> decide)
    · cases t <;> cases ho <;> decide

theorem toNat_fres (t : FTy) (rm : Rnd) (x : XNum) : (fres t rm x).toNat = roundTo (ffOf t) (rndMode rm) false x :=
  Nat.mod_eq_of_lt ((roundTo_ffOf_lt ..).trans_le (by cases t <;> decide))

theorem rndMode_ne_rsr (rm : Rnd) (u : Nat) : rndMode rm ≠ .rsr u := by cases rm <;> exact Mode.noConfusion

/-- A positive value rounds to the ordinal on the grid, or beyond the greatest finite one to what the mode gives there. -/
theorem roundTo_positive (f : FloatFmt) {i : Nat} (hi : f.inf = some i) (hmax : f.maxOrd ≤ i) (rm : Rnd) :
    ∃ top, f.maxOrd ≤ top ∧ ∀ n d : Nat, 0 < n → roundTo f (rndMode rm) false (.fin false n d) =
      if f.maxOrd < f.gridOrd (rndMode rm) false n d then top else f.gridOrd (rndMode rm) false n d := by
  refine ⟨match rm with | .rne | .rup => i | .rz | .rdn => f.maxOrd, by cases rm <;> simp [hmax], fun n d hn => ?_⟩
  cases rm
  all_goals
    simp only [roundTo, hn.ne', hi, enc_false, rndMode]
    rfl

theorem roundTo_mono (t : FTy) (rm : Rnd) {n d n' d' : Nat} (hn : 0 < n) (hn' : 0 < n')
    (h : (ffOf t).gridOrd (rndMode rm) false n d ≤ (ffOf t).gridOrd (rndMode rm) false n' d') :
    roundTo (ffOf t) (rndMode rm) false (.fin false n d) ≤ roundTo (ffOf t) (rndMode rm) false (.fin false n' d') := by
  obtain ⟨i, hi, hmax⟩ : ∃ i, (ffOf t).inf = some i ∧ (ffOf t).maxOrd ≤ i := by cases t <;> exact ⟨_, rfl, by decide⟩
  obtain ⟨top, htop, heq⟩ := roundTo_positive (ffOf t) hi hmax rm
  rw [heq n d hn, heq n' d' hn']
  split_ifs <;> omega

/-! ### Codes -/

/-- What a code of a type is: a NaN, an infinity, or a sign and an ordinal. -/
theorem decode_ffOf (t : FTy) {c : Nat} (hc : c < 2 ^ (ffOf t).width) :
    ∃ g m i, c = (ffOf t).enc g m ∧ (ffOf t).inf = some i ∧ (ffOf t).maxOrd + 1 = i ∧
      (ffOf t).decode c = if i < m then .nan else if m = i then .inf g else (ffOf t).ordVal g m := by
  obtain ⟨i, hi, hmax⟩ : ∃ i, (ffOf t).inf = some i ∧ (ffOf t).maxOrd + 1 = i := by cases t <;> exact ⟨_, rfl, rfl⟩
  have hs : (ffOf t).signed = true := by cases t <;> rfl
  have hz : (ffOf t).negZero = true := by cases t <;> rfl
  refine ⟨decide (2 ^ ((ffOf t).width - 1) ≤ c), if 2 ^ ((ffOf t).width - 1) ≤ c then c - 2 ^ ((ffOf t).width - 1) else c, i, ?_, hi, hmax, ?_⟩
  · by_cases h : 2 ^ ((ffOf t).width - 1) ≤ c <;> simp [FloatFmt.enc, hs, hz, h]
  · simp [FloatFmt.decode, Nat.mod_eq_of_lt hc, hs, hz, hi]

/-- A finite value of a code is that of an ordinal. -/
theorem decode_fin {f : FloatFmt} {c : Nat} {g : Bool} {n d : Nat} (h : f.decode c = .fin g n d) : ∃ g' m, f.ordVal g' m = .fin g n d := by
  unfold FloatFmt.decode at h
  dsimp only at h
  generalize (f.signed && decide (2 ^ (f.width - 1) ≤ c % 2 ^ f.width)) = b at h
  generalize (if b = true then c % 2 ^ f.width - 2 ^ (f.width - 1) else c % 2 ^ f.width) = k at h
  split at h
  · split at h
    · split at h
      · cases h
      · split at h
        · cases h
        · exact ⟨_, _, h⟩
    · exact ⟨_, _, h⟩
  · split at h
    · cases h
    · split at h
      · cases h
      · exact ⟨_, _, h⟩

theorem decode_fin_den_pos {f : FloatFmt} {c : Nat} {g : Bool} {n d : Nat} (h : f.decode c = .fin g n d) : 0 < d := by
  obtain ⟨g', m, hm⟩ := decode_fin h
  obtain ⟨_, d', hd, hfin, -⟩ := ordVal_eq_fin f m
  rw [hfin] at hm
  cases hm
  exact hd

/-- A finite value of a type comes back as its own code under every mode (R101). -/
theorem roundTo_ordVal (f : FloatFmt) (hs : f.signed = true) (m : Mode) (sat : Bool) (g : Bool) {k : Nat} (hk : k ≤ f.maxOrd) :
    roundTo f m sat (f.ordVal g k) = f.enc g k := by
  obtain ⟨n, d, hd, hfin, hval⟩ := ordVal_eq_fin f k
  have hd' : (d : Rat) ≠ 0 := by exact_mod_cast hd.ne'
  rw [hfin]
  unfold roundTo
  dsimp only
  rcases k.eq_zero_or_pos with rfl | hk0
  · rw [f.magnitude_zero, div_eq_zero_iff, or_iff_left hd', Nat.cast_eq_zero] at hval
    rw [if_pos hval]
  · have hn : 0 < n := by
      have := f.magnitude_pos hk0
      rw [← hval] at this
      exact Nat.pos_of_ne_zero fun h => by simp [h] at this
    rw [gridOrd_eq f _ _ hn hd, hval, f.roundOrd_magnitude _ _ hk0, if_neg hn.ne', if_neg (by simp [hs]), if_neg (by omega)]

end Sys2Proof.Machine
end

section
/-! SUPPORT. The scalar forms on operands of each kind (R109–R112), as what is rounded. -/

namespace Sys2Proof.Machine

@[simp] theorem XNum.nan_add (r : Bool) (x : XNum) : XNum.nan.add r x = .nan := rfl
@[simp] theorem XNum.add_nan (r : Bool) (x : XNum) : x.add r .nan = .nan := by cases x <;> rfl
@[simp] theorem XNum.nan_mul (x : XNum) : XNum.nan.mul x = .nan := rfl
@[simp] theorem XNum.mul_nan (x : XNum) : x.mul .nan = .nan := by cases x <;> rfl
@[simp] theorem XNum.nan_div (x : XNum) : XNum.nan.div x = .nan := rfl
@[simp] theorem XNum.div_nan (x : XNum) : x.div .nan = .nan := by cases x <;> rfl
@[simp] theorem XNum.negate_nan : XNum.nan.negate = .nan := rfl

section
variable (r g h : Bool) (n d m e : Nat)

@[simp] theorem XNum.inf_add_inf : (XNum.inf g).add r (.inf h) = if g = h then .inf g else .nan := rfl
@[simp] theorem XNum.inf_add_fin : (XNum.inf g).add r (.fin h m e) = .inf g := rfl
@[simp] theorem XNum.fin_add_inf : (XNum.fin g n d).add r (.inf h) = .inf h := rfl
theorem XNum.fin_add_fin : (XNum.fin g n d).add r (.fin h m e) = if sgn g n * e + sgn h m * d = 0 then .fin (if g = h then g else r) 0 1
    else .fin (sgn g n * e + sgn h m * d < 0) (sgn g n * e + sgn h m * d).natAbs (d * e) := rfl
@[simp] theorem XNum.inf_mul_inf : (XNum.inf g).mul (.inf h) = .inf (g != h) := rfl
@[simp] theorem XNum.inf_mul_fin : (XNum.inf g).mul (.fin h m e) = if m = 0 then .nan else .inf (g != h) := rfl
@[simp] theorem XNum.fin_mul_inf : (XNum.fin g n d).mul (.inf h) = if n = 0 then .nan else .inf (g != h) := rfl
@[simp] theorem XNum.fin_mul_fin : (XNum.fin g n d).mul (.fin h m e) = .fin (g != h) (n * m) (d * e) := rfl
@[simp] theorem XNum.inf_div_inf : (XNum.inf g).div (.inf h) = .nan := rfl
@[simp] theorem XNum.inf_div_fin : (XNum.inf g).div (.fin h m e) = .inf (g != h) := rfl
@[simp] theorem XNum.fin_div_inf : (XNum.fin g n d).div (.inf h) = .fin (g != h) 0 1 := rfl
@[simp] theorem XNum.fin_div_fin : (XNum.fin g n d).div (.fin h m e) =
    if m = 0 then (if n = 0 then .nan else .inf (g != h)) else .fin (g != h) (n * e) (d * m) := rfl
@[simp] theorem XNum.negate_inf : (XNum.inf g).negate = .inf (!g) := rfl
@[simp] theorem XNum.negate_fin : (XNum.fin g n d).negate = .fin (!g) n d := rfl

theorem XNum.inf_mul_nonzero {y : XNum} (hy : y = .inf h ∨ ∃ m e, m ≠ 0 ∧ y = .fin h m e) :
    (XNum.inf g).mul y = .inf (g != h) ∧ y.mul (.inf g) = .inf (g != h) := by
  rcases hy with rfl | ⟨m, e, hm, rfl⟩
  · exact ⟨rfl, congrArg _ bne_comm⟩
  · rw [inf_mul_fin, fin_mul_inf, if_neg hm, if_neg hm]
    exact ⟨rfl, congrArg _ bne_comm⟩

theorem sgn_not : sgn (!g) n = -sgn g n := by cases g <;> simp [sgn]

end

theorem isRdn_eq (rm : Rnd) : isRdn rm = decide (rm = .rdn) := by cases rm <;> rfl

theorem fres_zero (t : FTy) (rm : Rnd) (g : Bool) (d : Nat) : fres t rm (.fin g 0 d) = BitVec.ofNat 64 ((ffOf t).enc g 0) := rfl

/-- A positive root rounds on the side of it that a ratio lies on. -/
theorem fsqrt_bounds (t : FTy) (rm : Rnd) {a : Word} {m e p q : Nat} (ha : fdec t a = .fin false m e) (hm : 0 < m) (hp : 0 < p) (hq : 0 < q) :
    (p * p * e ≤ m * (q * q) → (fres t rm (.fin false p q)).toNat ≤ (fsqrt t rm a).toNat) ∧
    (m * (q * q) ≤ p * p * e → (fsqrt t rm a).toNat ≤ (fres t rm (.fin false p q)).toNat) := by
  have hp79 : (ffOf t).p < 79 := by cases t <;> decide
  obtain ⟨N, D, hroot, hN, -, hside⟩ := gridOrd_rootOf (ffOf t) hp79 (rndMode_ne_rsr rm) false hm (decode_fin_den_pos ha)
  have hsqrt : fsqrt t rm a = fres t rm (.fin false N D) := by
    rw [fsqrt, ha]
    simp [hm.ne', hroot]
  obtain ⟨hlo, hhi⟩ := hside p q hp hq
  rw [hsqrt, toNat_fres, toNat_fres]
  exact ⟨fun h => roundTo_mono t rm hp hN (hlo h), fun h => roundTo_mono t rm hN hp (hhi h)⟩

end Sys2Proof.Machine
end

section
/-! CERTIFICATE. O17: the six arithmetic forms. -/

namespace Sys2Proof.Machine

/-- Settles O17: an operand of each kind decides which exact number is rounded; a root by the ratios on either side of it. -/
theorem floatArithmetic : Obligations.FloatArithmetic := by
  intro s fl j pm rm ty t0 t1 h
  refine ⟨fadd ty rm, fsub ty rm, fmul ty rm, fdiv ty rm, ffma ty rm, fsqrt ty rm, valueOp_issued h .., valueOp_issued h ..,
    valueOp_issued h .., valueOp_issued h .., valueOp_issued h .., valueOp_issued h .., ?_⟩
  intro f dec round nan inf zero
  have hnan : nan = fres ty rm .nan := by cases ty <;> rfl
  have hinf (g : Bool) : inf g = fres ty rm (.inf g) := by cases ty <;> cases g <;> rfl
  have hzero (g : Bool) (d : Nat) : zero g = fres ty rm (.fin g 0 d) := by cases ty <;> cases g <;> rfl
  have hround (g : Bool) (m e : Nat) : round g m e = fres ty rm (.fin g m e) := rfl
  have hdec (w : Word) : dec w = fdec ty w := rfl
  clear_value nan inf zero round dec
  simp only [hdec, hnan, hinf, hround, hzero _ 1]
  refine ⟨fun a b c ha => ?_, fun a b g h ha hb => ?_, fun a b g h m e ha hb => ?_, fun a b g h m e m' e' ha hb => ?_,
    fun a b c g h l m e m' e' m'' e'' ha hb hc => ?_, fun a b c g h e ha hb => ?_, fun a b c g h ha hb => ?_,
    fun a b c g h l m e m' e' ha hb hc => ?_, fun a m e p q ha hm hp hq => fsqrt_bounds ty rm ha hm hp hq⟩
  · simp [fadd, fsub, fmul, fdiv, ffma, fsqrt, ha]
  · refine ⟨?_, ?_, ?_, ?_, ?_⟩
    · rw [fadd, ha, hb, XNum.inf_add_inf, apply_ite (fres ty rm)]
    · rw [fsub, ha, hb, XNum.negate_inf, XNum.inf_add_inf, apply_ite (fres ty rm)]
      simp only [Bool.eq_not, ne_eq, ite_not]
    · rw [fmul, ha, hb, XNum.inf_mul_inf]
    · rw [fdiv, ha, hb, XNum.inf_div_inf]
    · rw [fsqrt, ha]
      exact apply_ite ..
  · simp [fadd, fsub, fmul, fdiv, ha, hb, apply_ite (fres ty rm), bne_comm (a := h)]
  · refine ⟨?_, ?_, ?_, ?_, ?_, ?_⟩
    · rw [fadd, ha, hb, XNum.fin_add_fin, apply_ite (fres ty rm), isRdn_eq]
      rfl
    · rw [fsub, ha, hb, XNum.negate_fin, XNum.fin_add_fin, apply_ite (fres ty rm), isRdn_eq, sgn_not, neg_mul, ← sub_eq_add_neg]
      simp only [Bool.eq_not]
      rfl
    · rw [fmul, ha, hb, XNum.fin_mul_fin]
      split
      next h0 => rw [h0, fres_zero, fres_zero]
      next => rfl
    · rw [fdiv, ha, hb, XNum.fin_div_fin, apply_ite (fres ty rm), apply_ite (fres ty rm)]
      congr 1
      split
      next h0 => rw [h0, zero_mul, fres_zero, fres_zero]
      next => rfl
    · rintro rfl
      simp [fsqrt, ha]
    · rintro h0 rfl
      simp [fsqrt, ha, h0.ne']
  · have hsign : (if (g != h) = l then (g != h) else decide (rm = .rdn)) = if (g != h) = l then l else decide (rm = .rdn) :=
      ite_congr rfl id fun _ => rfl
    rw [ffma, ha, hb, hc, XNum.fin_mul_fin, XNum.fin_add_fin, apply_ite (fres ty rm), isRdn_eq, hsign]
    rfl
  · simp [ffma, ha, hb]
  · rw [ffma, ffma, ha, (XNum.inf_mul_nonzero g h hb).1, (XNum.inf_mul_nonzero g h hb).2]
    refine ⟨fun l hc => ?_, fun l m e hc => ?_⟩
    · rw [hc, XNum.inf_add_inf, apply_ite (fres ty rm), and_self]
      exact ite_congr rfl (fun hl => by rw [hl]) fun _ => rfl
    · rw [hc, XNum.inf_add_fin, and_self]
  · simp [ffma, ha, hb, hc]

end Sys2Proof.Machine
end

section
/-! SUPPORT. The packed pairs half by half (R122), and `dot4` as an exact sum (R123). -/

namespace Sys2Proof.Machine

theorem and_mask_eq_extract (w : Word) : w &&& 0xFFFF = (w.extractLsb' 0 16).setWidth 64 := by
  rw [setWidth_extract]
  refine eq_ofNat_of_toNat ?_
  rw [BitVec.toNat_and, bits, pow_zero, Nat.div_one]
  exact Nat.and_two_pow_sub_one_eq_mod _ 16

theorem shift_and_mask_eq_extract (w : Word) : (w >>> 16) &&& 0xFFFF = (w.extractLsb' 16 16).setWidth 64 := by
  rw [setWidth_extract]
  refine eq_ofNat_of_toNat ?_
  rw [BitVec.toNat_and, BitVec.toNat_ushiftRight, Nat.shiftRight_eq_div_pow, bits]
  exact Nat.and_two_pow_sub_one_eq_mod _ 16

theorem getLsbD_eq_false_of_lt {x : Word} {n i : Nat} (h : x.toNat < 2 ^ n) (hi : n ≤ i) : x.getLsbD i = false :=
  Nat.testBit_lt_two_pow (h.trans_le (Nat.pow_le_pow_right two_pos hi))

theorem halves_eq (f : Word → Word → Word → Word) (a b c : Word) : halves f a b c =
    f ((a.extractLsb' 16 16).setWidth 64) ((b.extractLsb' 16 16).setWidth 64) ((c.extractLsb' 16 16).setWidth 64) <<< 16 |||
      f ((a.extractLsb' 0 16).setWidth 64) ((b.extractLsb' 0 16).setWidth 64) ((c.extractLsb' 0 16).setWidth 64) := by
  simp only [← shift_and_mask_eq_extract, ← and_mask_eq_extract]
  rfl

theorem extract_shl_or_low (x y : Word) : (x <<< 16 ||| y).extractLsb' 0 16 = y.setWidth 16 := by
  refine BitVec.eq_of_getLsbD_eq fun i hi => ?_
  simp [hi]

theorem extract_shl_or_high (x : Word) {y : Word} (hy : y.toNat < 2 ^ 16) : (x <<< 16 ||| y).extractLsb' 16 16 = x.setWidth 16 := by
  refine BitVec.eq_of_getLsbD_eq fun i hi => ?_
  have hlt : 16 + i < 64 := by omega
  rw [BitVec.getLsbD_extractLsb', BitVec.getLsbD_or, BitVec.getLsbD_shiftLeft, getLsbD_eq_false_of_lt hy (Nat.le_add_right 16 i),
    BitVec.getLsbD_setWidth]
  simp [hi, hlt]

/-- An operation whose results are 16 bits wide acts on each half by itself. -/
theorem halves_extract {f : Word → Word → Word → Word} (hf : ∀ x y z, (f x y z).toNat < 2 ^ 16) (a b c : Word) {h : Nat} (hh : h < 2) :
    (halves f a b c).extractLsb' (16 * h) 16 = (f ((a.extractLsb' (16 * h) 16).setWidth 64) ((b.extractLsb' (16 * h) 16).setWidth 64)
      ((c.extractLsb' (16 * h) 16).setWidth 64)).setWidth 16 := by
  rw [halves_eq]
  obtain rfl | rfl : h = 0 ∨ h = 1 := by omega
  · exact extract_shl_or_low _ _
  · exact extract_shl_or_high _ (hf _ _ _)

theorem halves_lt {f : Word → Word → Word → Word} (hf : ∀ x y z, (f x y z).toNat < 2 ^ 16) (a b c : Word) :
    (halves f a b c).toNat < 2 ^ 32 := by
  rw [halves_eq, BitVec.toNat_or, BitVec.toNat_shiftLeft, Nat.shiftLeft_eq]
  refine Nat.or_lt_two_pow ((Nat.mod_le _ _).trans_lt ?_) ((hf _ _ _).trans (by decide))
  exact (Nat.mul_lt_mul_of_pos_right (hf _ _ _) (by decide)).trans_eq (by decide)

theorem width_of_ne_f32 {t : FTy} (ht : t ≠ .f32) : (ffOf t).width = 16 := by
  cases t
  · exact absurd rfl ht
  all_goals rfl

theorem fres_lt {t : FTy} (ht : t ≠ .f32) (rm : Rnd) (x : XNum) : (fres t rm x).toNat < 2 ^ 16 := by
  rw [toNat_fres, ← width_of_ne_f32 ht]
  exact roundTo_ffOf_lt ..

theorem fminmax_lt {t : FTy} (ht : t ≠ .f32) (mx : Bool) (a b : Word) : (fminmax mx t a b).toNat < 2 ^ 16 := by
  have code (w : Word) : (BitVec.ofNat 64 (fbitsOf t w)).toNat < 2 ^ 16 := by
    rw [BitVec.toNat_ofNat, fbitsOf, width_of_ne_f32 ht]
    omega
  unfold fminmax
  dsimp only
  split
  · split
    · exact fres_lt ht .rne .nan
    · exact code b
  · split
    · exact code a
    · split
      · exact code a
      · exact code b

/-- Each half of a packed pair is the scalar form on those halves (R122). -/
theorem packedPairs_extract {ty : FTy} (hty : ty ≠ .f32) (rm : Rnd) (a b c : Word) {h : Nat} (hh : h < 2) :
    let p := fun w : Word => (w.extractLsb' (16 * h) 16).setWidth 64
    (halves (fun x y _ => fadd ty rm x y) a b 0).extractLsb' (16 * h) 16 = (fadd ty rm (p a) (p b)).setWidth 16 ∧
    (halves (fun x y _ => fmul ty rm x y) a b 0).extractLsb' (16 * h) 16 = (fmul ty rm (p a) (p b)).setWidth 16 ∧
    (halves (fun x y _ => fminmax true ty x y) a b 0).extractLsb' (16 * h) 16 = (fminmax true ty (p a) (p b)).setWidth 16 ∧
    (halves (fun x y z => ffma ty rm x y z) a b c).extractLsb' (16 * h) 16 = (ffma ty rm (p a) (p b) (p c)).setWidth 16 :=
  ⟨halves_extract (fun _ _ _ => fres_lt hty ..) a b 0 hh, halves_extract (fun _ _ _ => fres_lt hty ..) a b 0 hh,
    halves_extract (fun _ _ _ => fminmax_lt hty ..) a b 0 hh, halves_extract (fun _ _ _ => fres_lt hty ..) a b c hh⟩

/-! ### Sums of products -/

section
variable (x : Nat → XNum)

/-- A sum of exact numbers to which a NaN is added. -/
theorem foldl_add_nan (l : List Nat) (acc : XNum) (h : acc = .nan ∨ ∃ k ∈ l, x k = .nan) :
    l.foldl (fun s k => XNum.add false s (x k)) acc = .nan := by
  induction l generalizing acc with
  | nil => exact h.resolve_right (by simp)
  | cons k r ih =>
    refine ih _ ?_
    rcases h with rfl | ⟨k', hk', hx⟩
    · exact .inl (XNum.nan_add ..)
    · rcases List.mem_cons.mp hk' with rfl | hr
      · exact .inl ((congrArg _ hx).trans (XNum.add_nan ..))
      · exact .inr ⟨k', hr, hx⟩

theorem foldl_add_inf (g : Bool) (l : List Nat) (h : ∀ k ∈ l, (x k).IsRatio) :
    l.foldl (fun s k => XNum.add false s (x k)) (.inf g) = .inf g := by
  induction l with
  | nil => rfl
  | cons k r ih =>
    obtain ⟨g', n, d, -, hk⟩ := h k List.mem_cons_self
    rw [List.foldl_cons, hk, XNum.inf_add_fin, ih fun k' hk' => h k' (List.mem_cons_of_mem _ hk')]

theorem foldl_add_value (l : List Nat) (h : ∀ k ∈ l, (x k).IsRatio) (acc : XNum) (hacc : acc.IsRatio) :
    (l.foldl (fun s k => XNum.add false s (x k)) acc).IsRatio ∧
      (l.foldl (fun s k => XNum.add false s (x k)) acc).value = acc.value + (l.map fun k => (x k).value).sum := by
  induction l generalizing acc with
  | nil => exact ⟨hacc, by simp⟩
  | cons k r ih =>
    have hk := h k List.mem_cons_self
    obtain ⟨h1, h2⟩ := ih (fun k' hk' => h k' (List.mem_cons_of_mem _ hk')) _ (XNum.add_isRatio false hacc hk)
    refine ⟨h1, h2.trans ?_⟩
    rw [XNum.add_value false hacc hk, List.map_cons, List.sum_cons, add_assoc]

end

theorem value_eq_zero_iff {x : XNum} (hx : x.IsRatio) : x.value = 0 ↔ x.isZero = true := by
  obtain ⟨g, n, d, hd, rfl⟩ := hx
  have hd' : (d : Rat) ≠ 0 := by exact_mod_cast hd.ne'
  cases g <;> simp [XNum.value, XNum.isZero, hd']

/-- A finite exact number that is not 0 is the sign and the magnitude of its value. -/
theorem eq_fin_of_value_ne_zero {x : XNum} (hx : x.IsRatio) (h : x.value ≠ 0) : ∃ n d : Nat, 0 < d ∧
    (n : Rat) = (if x.value < 0 then -x.value else x.value) * d ∧ x = .fin (x.value < 0) n d := by
  obtain ⟨g, n, d, hd, rfl⟩ := hx
  have hd' : (0 : Rat) < d := by exact_mod_cast hd
  have hn : (0 : Rat) < n := by
    refine lt_of_le_of_ne n.cast_nonneg fun h0 => h ?_
    cases g <;> simp [XNum.value, ← h0]
  have hpos : (0 : Rat) < n / d := div_pos hn hd'
  refine ⟨n, d, hd, ?_⟩
  cases g
  · rw [value_fin_false, if_neg hpos.not_gt, decide_eq_false hpos.not_gt]
    exact ⟨(div_mul_cancel₀ _ hd'.ne').symm, rfl⟩
  · have hneg : (XNum.fin true n d).value < 0 := by simpa [XNum.value, neg_div] using hpos
    rw [if_pos hneg, decide_eq_true hneg]
    exact ⟨by simp [XNum.value, neg_div, hd'.ne'], rfl⟩

theorem decode_b8_nan (p : B8P) : (ffB8 false false p).decode 0x80 = .nan := rfl

/-- Every other code of a signed finite binary8 format is a finite value (R93). -/
theorem decode_b8_isRatio (p : B8P) {c : Nat} (hc : c < 256) (hn : c ≠ 0x80) : ((ffB8 false false p).decode c).IsRatio := by
  have hmod : c % 2 ^ 8 = c := Nat.mod_eq_of_lt hc
  have hnan : (some 0x80 = some c) = False := eq_false fun h => hn (Option.some.inj h).symm
  unfold FloatFmt.decode ffB8
  simp only [hmod, hnan, Bool.false_eq_true, if_false, reduceCtorEq]
  exact ordVal_isRatio ..

end Sys2Proof.Machine
end

section
/-! SUPPORT. `dot4` in each type (R123). -/

namespace Sys2Proof.Machine

theorem ofNat_bits_eq_extract (w : Word) (k : Nat) : (BitVec.ofNat 64 (bits w.toNat (8 * k) 8)).setWidth 8 = w.extractLsb' (8 * k) 8 := by
  rw [← setWidth_extract, BitVec.setWidth_setWidth_of_le _ (by decide), BitVec.setWidth_eq]

theorem dot4_i8 (a b c : Word) :
    let e := fun (w : Word) (k : Nat) => (w.extractLsb' (8 * k) 8).toInt
    dot4 .i8 a b c = ext .i32 ((c.setWidth 32).toInt + e a 0 * e b 0 + e a 1 * e b 1 + e a 2 * e b 2 + e a 3 * e b 3) := by
  intro e
  have he (w : Word) (k : Nat) : intVal .i8 (BitVec.ofNat 64 (bits w.toNat (8 * k) 8)) = e w k := by
    rw [intVal_eq]
    exact congrArg BitVec.toInt (ofNat_bits_eq_extract w k)
  have hc : intVal .i32 c = (c.setWidth 32).toInt := intVal_eq ..
  simp only [dot4, he, hc, extWrap_eq, List.range_succ, List.range_zero, List.nil_append, List.cons_append, List.foldl_cons, List.foldl_nil]
  congr 1
  ring

theorem dot4_n8 (a b c : Word) :
    let u := fun (w : Word) (k : Nat) => (w.extractLsb' (8 * k) 8).toNat
    dot4 .n8 a b c = ext .n32 (((c.setWidth 32).toNat + u a 0 * u b 0 + u a 1 * u b 1 + u a 2 * u b 2 + u a 3 * u b 3 : Nat) : Int) := by
  intro u
  have hu (w : Word) (k : Nat) : intVal .n8 (BitVec.ofNat 64 (bits w.toNat (8 * k) 8)) = u w k := by
    rw [intVal_eq]
    exact congrArg (fun b : BitVec 8 => (b.toNat : Int)) (ofNat_bits_eq_extract w k)
  have hc : intVal .n32 c = (c.setWidth 32).toNat := intVal_eq ..
  simp only [dot4, hu, hc, extWrap_eq, List.range_succ, List.range_zero, List.nil_append, List.cons_append, List.foldl_cons, List.foldl_nil]
  congr 1
  push_cast
  ring

/-- The product of the binary8 elements at byte k. -/
def b8Product (p : B8P) (a b : Word) (k : Nat) : XNum :=
  ((ffB8 false false p).decode (a.extractLsb' (8 * k) 8).toNat).mul ((ffB8 false false p).decode (b.extractLsb' (8 * k) 8).toNat)

/-- The exact sum that `dot4` rounds in a binary8 type. -/
def b8Sum (p : B8P) (a b c : Word) : XNum := (List.range 4).foldl (fun s k => XNum.add false s (b8Product p a b k)) (fdec .f32 c)

/-- The result of `dot4` in a binary8 type. -/
def b8Dot (p : B8P) (a b c : Word) : Word := if (b8Sum p a b c).isZero then 0 else fres .f32 .rne (b8Sum p a b c)

/-- The three binary8 precisions that `dot4` has (R123). -/
theorem dot4_b8 (a b c : Word) : dot4 .b8p3 a b c = b8Dot .p3 a b c ∧ dot4 .b8p4 a b c = b8Dot .p4 a b c ∧ dot4 .b8p5 a b c = b8Dot .p5 a b c := by
  simp only [b8Dot, b8Sum, b8Product, toNat_extract]
  exact ⟨rfl, rfl, rfl⟩

theorem b8Dot_nan {p : B8P} {a b c : Word} (h : b8Sum p a b c = .nan) : b8Dot p a b c = 0x7FC00000 := by
  rw [b8Dot, h]
  rfl

theorem b8Dot_of_nan_element (p : B8P) {a b : Word} (c : Word) {k : Nat} (hk : k < 4)
    (h : (a.extractLsb' (8 * k) 8).toNat = 0x80 ∨ (b.extractLsb' (8 * k) 8).toNat = 0x80) : b8Dot p a b c = 0x7FC00000 := by
  refine b8Dot_nan (foldl_add_nan _ _ _ (.inr ⟨k, List.mem_range.mpr hk, ?_⟩))
  unfold b8Product
  rcases h with h | h
  · rw [h, decode_b8_nan, XNum.nan_mul]
  · rw [h, decode_b8_nan, XNum.mul_nan]

section
variable {p : B8P} {a b c : Word} (hel : ∀ k < 4, (a.extractLsb' (8 * k) 8).toNat ≠ 0x80 ∧ (b.extractLsb' (8 * k) 8).toNat ≠ 0x80)
include hel

theorem b8_elements_isRatio {k : Nat} (hk : k < 4) : ((ffB8 false false p).decode (a.extractLsb' (8 * k) 8).toNat).IsRatio ∧
    ((ffB8 false false p).decode (b.extractLsb' (8 * k) 8).toNat).IsRatio :=
  ⟨decode_b8_isRatio p (BitVec.isLt _) (hel k hk).1, decode_b8_isRatio p (BitVec.isLt _) (hel k hk).2⟩

theorem b8Product_isRatio : ∀ k ∈ List.range 4, (b8Product p a b k).IsRatio := fun _ hk =>
  let h := b8_elements_isRatio hel (List.mem_range.mp hk)
  XNum.mul_isRatio h.1 h.2

theorem b8Dot_of_inf {g : Bool} (hc : fdec .f32 c = .inf g) : b8Dot p a b c = if g then 0xFF800000 else 0x7F800000 := by
  have hsum : b8Sum p a b c = .inf g := by rw [b8Sum, hc, foldl_add_inf _ g _ (b8Product_isRatio hel)]
  rw [b8Dot, hsum]
  cases g <;> rfl

theorem b8Sum_value (hc : (fdec .f32 c).IsRatio) : (b8Sum p a b c).IsRatio ∧
    let v := fun n : Nat => ((ffB8 false false p).decode n).value
    let u := fun (w : Word) (k : Nat) => (w.extractLsb' (8 * k) 8).toNat
    (b8Sum p a b c).value = (fdec .f32 c).value + v (u a 0) * v (u b 0) + v (u a 1) * v (u b 1) + v (u a 2) * v (u b 2) + v (u a 3) * v (u b 3) := by
  obtain ⟨hr, hv⟩ := foldl_add_value _ _ (b8Product_isRatio (p := p) hel) _ hc
  refine ⟨hr, hv.trans ?_⟩
  have hmul (k : Nat) (hk : k < 4) := XNum.mul_value (b8_elements_isRatio (p := p) hel hk).1 (b8_elements_isRatio (p := p) hel hk).2
  simp only [List.range_succ, List.range_zero, List.nil_append, List.cons_append, List.map_cons, List.map_nil, List.sum_cons, List.sum_nil, b8Product]
  rw [hmul 0 (by decide), hmul 1 (by decide), hmul 2 (by decide), hmul 3 (by decide)]
  ring

/-- A finite sum is +0 or rounds once. -/
theorem b8Dot_of_ratio (hc : (fdec .f32 c).IsRatio) : ((b8Sum p a b c).value = 0 → b8Dot p a b c = 0) ∧
    ((b8Sum p a b c).value ≠ 0 → ∃ n q : Nat, 0 < q ∧
      (n : Rat) = (if (b8Sum p a b c).value < 0 then -(b8Sum p a b c).value else (b8Sum p a b c).value) * (q : Rat) ∧
      b8Dot p a b c = BitVec.ofNat 64 (roundTo ffF32 .rne false (.fin ((b8Sum p a b c).value < 0) n q))) := by
  have hr := (b8Sum_value (p := p) hel hc).1
  refine ⟨fun h0 => if_pos ((value_eq_zero_iff hr).mp h0), fun h0 => ?_⟩
  obtain ⟨n, q, hq, hn, heq⟩ := eq_fin_of_value_ne_zero hr h0
  refine ⟨n, q, hq, hn, ?_⟩
  rw [b8Dot, if_neg fun hz => h0 ((value_eq_zero_iff hr).mpr hz), ← heq]
  rfl

end

end Sys2Proof.Machine
end

section
/-! SUPPORT. `cvt` and `cvtsr` (R104, R105, R124–R127): the integers that a value rounds to, what a conversion delivers, and a value of a type
that is converted to that type. -/

namespace Sys2Proof.Machine

/-! ### Into an integer format -/

theorem roundInt_rz (g : Bool) (n d : Nat) : roundInt .rz g n d = if g then -((n / d : Nat) : Int) else (n / d : Nat) := by
  simp [roundInt, goesUp, sgn]

theorem roundInt_rdn (g : Bool) (n : Nat) {d : Nat} (hd : 0 < d) : roundInt .rdn g n d = (if g then -(n : Int) else n) / d := by
  cases g
  · simp [roundInt, goesUp, sgn]
  · rw [if_pos rfl, Int.neg_ediv, Int.sign_natCast_of_ne_zero hd.ne', roundInt]
    by_cases h : n % d = 0
    · simp [goesUp, h, sgn, Int.natCast_dvd_natCast, Nat.dvd_of_mod_eq_zero h]
    · have hndvd : ¬d ∣ n := fun hdvd => h (Nat.mod_eq_zero_of_dvd hdvd)
      simp [goesUp, h, sgn, Int.natCast_dvd_natCast, hndvd]
      ring

/-- Toward +∞ is toward −∞ of the opposite. -/
theorem roundInt_rup (g : Bool) (n : Nat) {d : Nat} (hd : 0 < d) : roundInt .rup g n d = -((if g then (n : Int) else -(n : Int)) / d) := by
  have hneg : roundInt .rup g n d = -roundInt .rdn (!g) n d := by
    cases g <;> simp [roundInt, goesUp, sgn]
  rw [hneg, roundInt_rdn _ n hd]
  cases g <;> rfl

theorem setWidth_ofNat_mod {b : Nat} (hb : b ≤ 64) (w : Word) : (BitVec.ofNat 64 (w.toNat % 2 ^ b)).setWidth b = w.setWidth b := by
  refine BitVec.eq_of_toNat_eq ?_
  rw [BitVec.toNat_setWidth, BitVec.toNat_setWidth, BitVec.toNat_ofNat, Nat.mod_mod_of_dvd _ (Nat.pow_dvd_pow 2 hb), Nat.mod_mod]

theorem ity_bits_le (t : Ity) : t.bits ≤ 64 := by
  obtain ⟨k, hk, hlt⟩ := bits_pos t
  omega

/-- A value is read of the low bits of a word alone. -/
theorem val_ofNat_mod (t : Ity) (w : Word) : val t (BitVec.ofNat 64 (w.toNat % 2 ^ t.bits)) = val t w := by
  rw [val, val, setWidth_ofNat_mod (ity_bits_le t)]

theorem setWidth_signExtend {b : Nat} (hb : b ≤ 64) (y : BitVec b) : (y.signExtend 64).setWidth b = y := by
  refine BitVec.eq_of_getLsbD_eq fun i hi => ?_
  have hlt : i < 64 := by omega
  rw [BitVec.getLsbD_setWidth, BitVec.getLsbD_signExtend]
  simp [hi, hlt]

/-- A value of a type, extended again, is the word that holds it. -/
theorem ofInt_val_ext (t : Ity) (x : Int) : BitVec.ofInt 64 (val t (ext t x)) = ext t x := by
  have hb := ity_bits_le t
  unfold val ext
  cases t.signed
  · simp only [Bool.false_eq_true, if_false]
    rw [BitVec.setWidth_setWidth_of_le _ hb, BitVec.setWidth_eq, BitVec.ofInt_natCast, BitVec.ofNat_toNat]
  · simp only [if_true]
    rw [setWidth_signExtend hb]
    rfl

theorem deliverFmt_int (t : Ity) (x : Int) : deliverFmt (.int t) ((extWrap t x).toNat % 2 ^ t.bits) = ext t x := by
  rw [deliverFmt, intVal_eq, val_ofNat_mod, extWrap_eq, ofInt_val_ext]

theorem cvtVal_int_int (t q : Ity) (m : Mode) (sat : Bool) (a : Word) :
    cvtVal (.int t) (.int q) m sat a = ext t (if sat then max (least t) (min (greatest t) (val q a)) else val q a) := by
  have hv : intVal q (BitVec.ofNat 64 (srcBits (.int q) a)) = val q a := by rw [intVal_eq]; exact val_ofNat_mod q a
  rw [cvtVal, convert]
  simp only [hv, clampTo_eq]
  exact deliverFmt_int t _

theorem cvtVal_int {t : Ity} {src : Fmt} (hsrc : ∀ q, src ≠ .int q) (m : Mode) (sat : Bool) (a : Word) :
    cvtVal (.int t) src m sat a = ext t (toIntClamped t m (decodeFmt src (srcBits src a))) := by
  rw [← deliverFmt_int]
  cases src
  case int q => exact absurd rfl (hsrc q)
  all_goals rfl

theorem toIntClamped_fin (t : Ity) (m : Mode) (g : Bool) (n d : Nat) :
    toIntClamped t m (.fin g n d) = max (least t) (min (greatest t) (roundInt m g n d)) := clampTo_eq ..

theorem ext_zero (t : Ity) : ext t 0 = 0 := by cases t <;> rfl

theorem decodeFmt_den_pos {f : Fmt} {code : Nat} {g : Bool} {n d : Nat} (h : decodeFmt f code = .fin g n d) : 0 < d := by
  cases f
  case int t => cases h; exact one_pos
  case e8m0 =>
    rw [decodeFmt] at h
    split at h
    · cases h
    · obtain ⟨_, _, hd, hfin, -⟩ := dyadic_eq_fin 1 ((code % 256 : Nat) - 127 : Int)
      rw [hfin] at h
      cases h
      exact hd
  all_goals
    rw [decodeFmt] at h
    exact decode_fin_den_pos h

/-! ### A value of a type into the same type -/

/-- The format code of a floating-point type (R87). -/
def fmtOf : FTy → Fmt
  | .f32 => .f32
  | .f16 => .f16
  | .bf16 => .bf16

theorem cvtVal_fmtOf (t : FTy) (m : Mode) (sat : Bool) (a : Word) :
    cvtVal (fmtOf t) (fmtOf t) m sat a = BitVec.ofNat 64 (roundTo (ffOf t) m sat ((ffOf t).decode (a.toNat % 2 ^ (ffOf t).width))) := by
  cases t <;> rfl

/-- Every code but a NaN's rounds to itself, an infinity where it does not saturate. -/
theorem roundTo_decode (t : FTy) (m : Mode) {sat : Bool} {c : Nat} (hc : c < 2 ^ (ffOf t).width) (hnan : (ffOf t).decode c ≠ .nan)
    (hinf : ∀ g, (ffOf t).decode c = .inf g → sat = false) : roundTo (ffOf t) m sat ((ffOf t).decode c) = c := by
  obtain ⟨g, k, i, hcode, hi, hmax, hdec⟩ := decode_ffOf t hc
  have hs : (ffOf t).signed = true := by cases t <;> rfl
  rcases lt_trichotomy k i with hk | rfl | hk
  · rw [hdec, if_neg (by omega), if_neg (by omega), roundTo_ordVal _ hs m sat g (by omega), ← hcode]
  · rw [if_neg (lt_irrefl _), if_pos rfl] at hdec
    rw [hdec, hinf g hdec, roundTo, hi]
    simp [hs, hcode]
  · exact absurd (hdec.trans (if_pos hk)) hnan

/-! ### The stochastic mode -/

@[simp] theorem readsA_void (k : Cell) : readsA.void k = k.a.void := by simp [Reads.void, readsA]

theorem exec_cvtsr {s : State} {fl : Flock} {j : Nat} {c : Ctx} (h : Issued s fl j) (hc : s.ctx? fl.ctx = some c) (pm : Pm) (sat : Bool)
    (dst src : Fmt) (t0 : Target) : exec (.cvtsr pm sat dst src t0) s = .next (s.executed fl j pm t0 .none fun ln k =>
      let v : Val := { bits := cvtVal dst src (srMode c.seed c.det fl.ctx (literOf ln.tag ln.epoch) (BitVec.ofNat 64 (2 ^ 63 + 64 * fl.block + j)))
                         sat k.a.bits, void := k.a.void }
      (v, v)) := by
  change execCvtsr pm sat dst src t0 s = _
  rw [execCvtsr, laneOp_issued h]
  simp only [hc, Option.map_some, Option.getD_some, readsA_void]

end Sys2Proof.Machine
end

section
/-! CERTIFICATE. O19: the packed pairs, `dot4` and the conversions. -/

namespace Sys2Proof.Machine

/-- Settles O19: each packed pair half by half, `dot4` by the exact sum it rounds, a conversion by its destination. -/
theorem packedPairsAndConversions : Obligations.PackedPairsAndConversions := by
  refine ⟨fun s fl j pm rm ty t0 t1 h hty => ?_, fun s fl j pm rm sat t0 dst src h => ?_, fun s fl j pm rm sat t0 ty h => ?_⟩
  · refine ⟨fun a b => halves (fun x y _ => fadd ty rm x y) a b 0, fun a b => halves (fun x y _ => fmul ty rm x y) a b 0,
      fun a b => halves (fun x y _ => fminmax true ty x y) a b 0, halves fun x y z => ffma ty rm x y z, dot4, valueOp_issued h ..,
      valueOp_issued h .., valueOp_issued h .., valueOp_issued h .., fun _ => valueOp_issued h .., fun a b c => ⟨fun i hi =>
        packedPairs_extract hty rm a b c hi, halves_lt (fun _ _ _ => fres_lt hty ..) a b 0, halves_lt (fun _ _ _ => fres_lt hty ..) a b 0,
        halves_lt (fun _ _ _ => fminmax_lt hty ..) a b 0, halves_lt (fun _ _ _ => fres_lt hty ..) a b c, dot4_i8 a b c, dot4_n8 a b c, ?_, ?_⟩⟩
    · obtain ⟨h3, h4, h5⟩ := dot4_b8 a b c
      intro k hk hn
      rw [h3, h4, h5]
      exact ⟨b8Dot_of_nan_element _ c hk hn, b8Dot_of_nan_element _ c hk hn, b8Dot_of_nan_element _ c hk hn⟩
    · intro t ht r cv hel
      have hr : r = b8Dot t a b c := by
        obtain ⟨h3, h4, h5⟩ := dot4_b8 a b c
        rcases ht with rfl | rfl | rfl <;> assumption
      have hcv : fdec .f32 c = cv := rfl
      rw [hr, ← hcv]
      refine ⟨fun hc => b8Dot_nan (foldl_add_nan _ _ _ (.inl hc)), fun hc => b8Dot_of_inf hel hc, fun hc => b8Dot_of_inf hel hc,
        fun g m d hc => ?_⟩
      have hratio : (fdec .f32 c).IsRatio := ⟨g, m, d, decode_fin_den_pos hc, hc⟩
      intro v z
      have hz : (b8Sum t a b c).value = z := (b8Sum_value hel hratio).2
      rw [← hz]
      exact b8Dot_of_ratio hel hratio
  · refine ⟨fun m a => cvtVal dst src m sat a, valueOp_issued h .., fun c hc => ?_, fun m a => ?_⟩
    · exact exec_cvtsr h hc pm sat dst src t0
    · intro size
      have hsize : fmtBits src = size := by cases src <;> rfl
      intro x
      have hx : decodeFmt src (srcBits src a) = x := by rw [srcBits, hsize]
      cases dst
      case int t =>
        refine ⟨fun q hq => ?_, fun hsrc => ?_⟩
        · subst hq
          exact cvtVal_int_int t q m sat a
        · dsimp only
          rw [cvtVal_int hsrc, hx]
          refine ⟨fun hn => ?_, fun g hg => ?_, fun g n d hf => ?_⟩
          · rw [hn, toIntClamped, ext_zero]
          · rw [hg, toIntClamped, minOf_eq, maxOf_eq]
          · have hd := decodeFmt_den_pos (hx.trans hf)
            rw [hf, toIntClamped_fin]
            cases m
            case rz => rw [roundInt_rz]
            case rdn => rw [roundInt_rdn g n hd]
            case rup => rw [roundInt_rup g n hd]
            all_goals rfl
      all_goals
        rw [← hx]
        rfl
  · refine ⟨fun a => cvtVal (fmtOf ty) (fmtOf ty) (rndMode rm) sat a, ?_, fun a => ?_⟩
    · cases ty <;> exact valueOp_issued h ..
    · have hc := Nat.mod_lt a.toNat (show 0 < 2 ^ (ffOf ty).width by positivity)
      dsimp only
      rw [cvtVal_fmtOf]
      split
      next hn => rw [hn]; cases ty <;> rfl
      next hf => rw [roundTo_decode ty _ hc (by simp [hf]) (by simp [hf])]
      next hi => exact fun hsat => by rw [roundTo_decode ty _ hc (by simp [hi]) fun _ _ => hsat]

end Sys2Proof.Machine
end

section
/-! SUPPORT. The fields of a word's code in a floating-point type (R92): its sign bit, and its exponent field and fraction read as one
ordinal. -/

namespace Sys2Proof.Machine

/-- The sign bit of a word's code in a type. -/
def codeSign (t : FTy) (a : Word) : Bool := a.getLsbD ((ffOf t).width - 1)

/-- The ordinal of the magnitude of a word's code in a type. -/
def codeOrd (t : FTy) (a : Word) : Nat := a.toNat % 2 ^ ((ffOf t).width - 1)

/-- The ordinal of infinity in a type: every bit of the exponent field set, no other. -/
def infOrd (t : FTy) : Nat := (ffOf t).inf.getD 0

theorem getLsbD_eq_decide (a : Word) (i : Nat) : a.getLsbD i = decide (a.toNat / 2 ^ i % 2 = 1) := Nat.testBit_eq_decide_div_mod_eq

theorem codeOrd_lt (t : FTy) (a : Word) : codeOrd t a < 2 ^ ((ffOf t).width - 1) := Nat.mod_lt _ (by positivity)

theorem fbitsOf_lt (t : FTy) (a : Word) : fbitsOf t a < 2 ^ (ffOf t).width := Nat.mod_lt _ (by positivity)

/-- The bits of a code are its sign and its ordinal. -/
theorem fbitsOf_eq (t : FTy) (a : Word) : fbitsOf t a = (if codeSign t a then 2 ^ ((ffOf t).width - 1) else 0) + codeOrd t a := by
  rw [fbitsOf, codeSign, codeOrd, getLsbD_eq_decide]
  have hw : (ffOf t).width = (ffOf t).width - 1 + 1 := by cases t <;> rfl
  conv_lhs => rw [hw, pow_succ, Nat.mod_mul]
  rcases Nat.mod_two_eq_zero_or_one (a.toNat / 2 ^ ((ffOf t).width - 1)) with h | h <;> simp [h, add_comm]

theorem fbitsOf_mod (t : FTy) (a : Word) : fbitsOf t a % 2 ^ ((ffOf t).width - 1) = codeOrd t a :=
  Nat.mod_mod_of_dvd _ (Nat.pow_dvd_pow 2 (Nat.sub_le ..))

theorem le_fbitsOf_iff (t : FTy) (a : Word) : 2 ^ ((ffOf t).width - 1) ≤ fbitsOf t a ↔ codeSign t a = true := by
  have := codeOrd_lt t a
  rw [fbitsOf_eq]
  cases codeSign t a <;> simp [this]

/-- What a word holds in a type: by its sign and its ordinal. -/
theorem fdec_eq (t : FTy) (a : Word) : fdec t a =
    if infOrd t < codeOrd t a then .nan else if codeOrd t a = infOrd t then .inf (codeSign t a)
    else (ffOf t).ordVal (codeSign t a) (codeOrd t a) := by
  have hi : (ffOf t).inf = some (infOrd t) := by cases t <;> rfl
  have hs : (ffOf t).signed = true := by cases t <;> rfl
  have hz : (ffOf t).negZero = true := by cases t <;> rfl
  have hsign : decide (2 ^ ((ffOf t).width - 1) ≤ fbitsOf t a) = codeSign t a := by
    simp [le_fbitsOf_iff]
  have hord : (if codeSign t a then fbitsOf t a - 2 ^ ((ffOf t).width - 1) else fbitsOf t a) = codeOrd t a := by
    rw [fbitsOf_eq]
    cases codeSign t a <;> simp
  rw [fdec, FloatFmt.decode, Nat.mod_eq_of_lt (fbitsOf_lt t a)]
  simp only [hs, hz, hi, Bool.true_and, if_true, hsign, hord]

theorem fdec_eq_nan_iff (t : FTy) (a : Word) : fdec t a = .nan ↔ infOrd t < codeOrd t a := by
  obtain ⟨n, d, -, hfin, -⟩ := ordVal_eq_fin (ffOf t) (codeOrd t a)
  rw [fdec_eq, hfin]
  split_ifs <;> simp [*]

/-- The sign of a value that is not a NaN is the sign bit. -/
theorem neg_fdec {t : FTy} {a : Word} (h : fdec t a ≠ .nan) : (fdec t a).neg = codeSign t a := by
  obtain ⟨n, d, -, hfin, -⟩ := ordVal_eq_fin (ffOf t) (codeOrd t a)
  rw [ne_eq, fdec_eq_nan_iff] at h
  rw [fdec_eq, if_neg h, hfin]
  split <;> rfl

theorem isNaN_iff {x : XNum} : x.isNaN = true ↔ x = .nan := by cases x <;> simp [XNum.isNaN]

theorem isNaN_eq_false {x : XNum} (h : x ≠ .nan) : x.isNaN = false := by rwa [Bool.eq_false_iff, ne_eq, isNaN_iff]

/-- A code that is not a NaN is rounded to itself (R101). -/
theorem fres_fdec {t : FTy} {a : Word} (rm : Rnd) (h : fdec t a ≠ .nan) : fres t rm (fdec t a) = BitVec.ofNat 64 (fbitsOf t a) :=
  congrArg _ (roundTo_decode t _ (fbitsOf_lt t a) h fun _ _ => rfl)

/-- The exponent field of a word's code in a type. -/
def expField (t : FTy) (a : Word) : Nat := a.toNat % 2 ^ ((ffOf t).width - 1) / 2 ^ ((ffOf t).p - 1)

/-- The fraction of a word's code in a type. -/
def fracField (t : FTy) (a : Word) : Nat := a.toNat % 2 ^ ((ffOf t).p - 1)

/-- The exponent field of infinity and of the NaNs. -/
def expOnes (t : FTy) : Nat := 2 ^ ((ffOf t).width - 1 - ((ffOf t).p - 1)) - 1

theorem expOnes_ne_zero (t : FTy) : expOnes t ≠ 0 := by cases t <;> decide

/-- The kinds of ordinals by their two fields (R92). -/
theorem codeOrd_fields (t : FTy) (a : Word) :
    (infOrd t < codeOrd t a ↔ expField t a = expOnes t ∧ fracField t a ≠ 0) ∧
    (codeOrd t a = infOrd t ↔ expField t a = expOnes t ∧ fracField t a = 0) ∧
    (codeOrd t a = 0 ↔ expField t a = 0 ∧ fracField t a = 0) ∧
    (codeOrd t a < 2 ^ ((ffOf t).p - 1) ↔ expField t a = 0) := by
  unfold codeOrd infOrd expField fracField expOnes
  cases t <;> norm_num [ffOf, ffF32, ffF16, ffBf16] <;> omega

end Sys2Proof.Machine
end

section
/-! SUPPORT. The lesser and the greater of two values, signs and classes of codes (R113, R114, R116). -/

namespace Sys2Proof.Machine

/-- The order of R113, in which −0 is less than +0. -/
def XNum.before (x y : XNum) : Bool := x.lt y || (x.eqv y && x.neg && !y.neg)

theorem XNum.lt_asymm {x y : XNum} (h : x.lt y = true) : y.lt x = false := by
  cases x <;> cases y
  case fin.fin =>
    simp only [XNum.lt, decide_eq_true_eq, decide_eq_false_iff_not, not_lt] at h ⊢
    exact h.le
  all_goals simp_all [XNum.lt]

theorem XNum.lt_of_before {x y : XNum} (h : x.before y = true) : y.lt x = false := by
  rw [before, Bool.or_eq_true] at h
  rcases h with h | h
  · exact lt_asymm h
  · simp_all [eqv]

theorem XNum.lt_of_not_before {x y : XNum} (h : x.before y = false) : x.lt y = false := by
  rw [before, Bool.or_eq_false_iff] at h
  exact h.1

/-- No value without a sign is less than one with it. -/
theorem XNum.lt_of_signs {x y : XNum} (hx : x.neg = true) (hy : y.neg = false) : y.lt x = false := by
  cases x <;> cases y
  case fin.fin g n d h m e =>
    obtain rfl : g = true := hx
    obtain rfl : h = false := hy
    have hle : sgn true n * e ≤ sgn false m * d := by
      rw [sgn, if_pos rfl, neg_mul]
      exact (neg_nonpos.mpr (by positivity)).trans (mul_nonneg m.cast_nonneg d.cast_nonneg)
    simpa [XNum.lt] using hle
  all_goals simp_all [XNum.lt, XNum.neg]

theorem XNum.before_of_signs {x y : XNum} (hxn : x ≠ .nan) (hyn : y ≠ .nan) (hx : x.neg = true) (hy : y.neg = false) :
    x.before y = true := by
  simp [before, eqv, isNaN_eq_false, hxn, hyn, hx, hy, lt_of_signs hx hy]

section
variable {t : FTy} {a b : Word} (mx : Bool)

theorem fminmax_nans (ha : fdec t a = .nan) (hb : fdec t b = .nan) : fminmax mx t a b = BitVec.ofNat 64 ((ffOf t).nan.getD 0) := by
  simp [fminmax, ha, hb, XNum.isNaN]

/-- One NaN is skipped (R113). -/
theorem fminmax_nan (ha : fdec t a = .nan) (hb : fdec t b ≠ .nan) :
    fminmax mx t a b = BitVec.ofNat 64 (fbitsOf t b) ∧ fminmax mx t b a = BitVec.ofNat 64 (fbitsOf t b) := by
  simp [fminmax, ha, isNaN_eq_false hb, show XNum.nan.isNaN = true from rfl]

/-- The one that is before the other is the lesser, and the other the greater (R113). -/
theorem fminmax_eq (ha : fdec t a ≠ .nan) (hb : fdec t b ≠ .nan) :
    fminmax mx t a b = BitVec.ofNat 64 (if (fdec t a).before (fdec t b) != mx then fbitsOf t a else fbitsOf t b) := by
  rw [apply_ite (BitVec.ofNat 64), fminmax, isNaN_eq_false ha, isNaN_eq_false hb]
  rfl

/-- Of two values the lesser is not greater, and the greater not less. -/
theorem fminmax_ordered (ha : fdec t a ≠ .nan) (hb : fdec t b ≠ .nan) :
    fminmax false t a b = BitVec.ofNat 64 (fbitsOf t a) ∧ fminmax true t a b = BitVec.ofNat 64 (fbitsOf t b) ∧
        (fdec t b).lt (fdec t a) = false ∨
      fminmax false t a b = BitVec.ofNat 64 (fbitsOf t b) ∧ fminmax true t a b = BitVec.ofNat 64 (fbitsOf t a) ∧
        (fdec t a).lt (fdec t b) = false := by
  rw [fminmax_eq false ha hb, fminmax_eq true ha hb]
  cases hbef : (fdec t a).before (fdec t b)
  · exact .inr ⟨rfl, rfl, XNum.lt_of_not_before hbef⟩
  · exact .inl ⟨rfl, rfl, XNum.lt_of_before hbef⟩

/-- A value with a sign is the lesser of it and one without, −0 against +0 too (R113). -/
theorem fminmax_of_signs (ha : fdec t a ≠ .nan) (hb : fdec t b ≠ .nan) (hsa : codeSign t a = true) (hsb : codeSign t b = false) :
    fminmax false t a b = BitVec.ofNat 64 (fbitsOf t a) ∧ fminmax true t a b = BitVec.ofNat 64 (fbitsOf t b) := by
  rw [fminmax_eq false ha hb, fminmax_eq true ha hb, XNum.before_of_signs ha hb ((neg_fdec ha).trans hsa) ((neg_fdec hb).trans hsb)]
  exact ⟨rfl, rfl⟩

end

theorem fsign_nan (flip : Bool) {t : FTy} {a : Word} (h : fdec t a = .nan) : fsign flip t a = BitVec.ofNat 64 ((ffOf t).nan.getD 0) := by
  simp [fsign, h, XNum.isNaN]

theorem fabs_eq {t : FTy} {a : Word} (h : fdec t a ≠ .nan) : fsign false t a = BitVec.ofNat 64 (codeOrd t a) := by
  simp [fsign, isNaN_eq_false h, fbitsOf_mod]

theorem fneg_eq {t : FTy} {a : Word} (h : fdec t a ≠ .nan) :
    fsign true t a = BitVec.ofNat 64 (codeOrd t a + if codeSign t a then 0 else 2 ^ ((ffOf t).width - 1)) := by
  have hlt := codeOrd_lt t a
  have hw : 2 ^ (ffOf t).width = 2 * 2 ^ ((ffOf t).width - 1) := by cases t <;> rfl
  have hmod : (fbitsOf t a + 2 ^ ((ffOf t).width - 1)) % 2 ^ (ffOf t).width =
      codeOrd t a + if codeSign t a then 0 else 2 ^ ((ffOf t).width - 1) := by
    rw [fbitsOf_eq]
    cases codeSign t a
    · simp only [Bool.false_eq_true, if_false]
      rw [zero_add]
      exact Nat.mod_eq_of_lt (by omega)
    · simp only [if_true]
      rw [add_right_comm, ← two_mul, ← hw, Nat.add_mod_left, add_zero]
      exact Nat.mod_eq_of_lt (by omega)
  simp [fsign, isNaN_eq_false h, hmod]

theorem fcmp_un (t : FTy) (a b : Word) : fcmp .un t a b = decide (fdec t a = .nan ∨ fdec t b = .nan) := by
  rw [fcmp, Bool.eq_iff_iff, Bool.or_eq_true, isNaN_iff, isNaN_iff, decide_eq_true_iff]

theorem fclass_ord (t : FTy) (a : Word) : fclass t a = BitVec.ofNat 64 (2 ^ (
    if infOrd t < codeOrd t a then (if bits (codeOrd t a) ((ffOf t).p - 2) 1 = 1 then 9 else 8)
    else if codeOrd t a = infOrd t then (if codeSign t a then 0 else 7)
    else if codeOrd t a = 0 then (if codeSign t a then 3 else 4)
    else if codeOrd t a < 2 ^ ((ffOf t).p - 1) then (if codeSign t a then 2 else 5)
    else (if codeSign t a then 1 else 6))) := by
  simp only [fclass, fbitsOf_mod, le_fbitsOf_iff]
  rfl

/-- The top bit of the fraction, which tells a quiet NaN from a signalling one. -/
theorem quiet_iff (t : FTy) (a : Word) : bits (codeOrd t a) ((ffOf t).p - 2) 1 = 1 ↔ a.getLsbD ((ffOf t).p - 2) = true := by
  rw [getLsbD_eq_decide, decide_eq_true_iff, bits, codeOrd]
  cases t <;> norm_num [ffOf, ffF32, ffF16, ffBf16] <;> omega

/-- The class by the exponent field and the fraction (R116). -/
theorem fclass_eq (t : FTy) (a : Word) : fclass t a = BitVec.ofNat 64 (2 ^ (
    if expField t a = expOnes t then
      if fracField t a = 0 then (if codeSign t a then 0 else 7) else if a.getLsbD ((ffOf t).p - 2) then 9 else 8
    else if expField t a = 0 then
      if fracField t a = 0 then (if codeSign t a then 3 else 4) else if codeSign t a then 2 else 5
    else if codeSign t a then 1 else 6)) := by
  obtain ⟨hnan, hinf, hzero, hsub⟩ := codeOrd_fields t a
  have hones := expOnes_ne_zero t
  rw [fclass_ord]
  simp only [hnan, hinf, hzero, hsub, quiet_iff]
  congr 2
  by_cases h1 : expField t a = expOnes t
  · by_cases h2 : fracField t a = 0 <;> simp [h1, h2]
  · by_cases h0 : expField t a = 0
    · simp [h0, hones.symm]
    · simp [h1, h0]

end Sys2Proof.Machine
end

section
/-! SUPPORT. Rounding to an integral value (R117), and the exact results of the estimates in bits (R118, R119). -/

namespace Sys2Proof.Machine

/-! ### Integral values -/

/-- The quotient and the remainder of the opposite of a number that the divisor does not divide. -/
theorem neg_ediv_emod {n d : Nat} (hd : 0 < d) (h : n % d ≠ 0) :
    -(n : Int) / d = -((n / d : Nat) : Int) - 1 ∧ -(n : Int) % d = d - (n % d : Nat) := by
  have hlt := Nat.mod_lt n hd
  have hn : (d : Int) * (n / d : Nat) + (n % d : Nat) = n := by exact_mod_cast Nat.div_add_mod n d
  refine (Int.ediv_emod_unique (by exact_mod_cast hd)).mpr ⟨?_, by omega, by omega⟩
  rw [← hn]
  ring

theorem goesUp_rne {r : Nat} (hr : r ≠ 0) (g : Bool) (k d : Nat) :
    goesUp .rne g (k % 2 = 0) r d = true ↔ d < 2 * r ∨ 2 * r = d ∧ k % 2 ≠ 0 := by
  simp [goesUp, hr]

/-- To nearest, ties to even, of the floor and the remainder of a signed quotient. -/
theorem roundInt_rne (g : Bool) (n : Nat) {d : Nat} (hd : 0 < d) :
    let z : Int := if g then -(n : Int) else n
    roundInt .rne g n d = if 2 * (z % d) < d then z / d else if d < 2 * (z % d) then z / d + 1
      else if z / d % 2 = 0 then z / d else z / d + 1 := by
  intro z
  by_cases h0 : n % d = 0
  · have hdvd : (d : Int) ∣ z := by
      have : (d : Int) ∣ n := by exact_mod_cast Nat.dvd_of_mod_eq_zero h0
      cases g <;> simpa [z] using this
    rw [Int.emod_eq_zero_of_dvd hdvd, if_pos (by omega), roundInt, goesUp, if_pos h0]
    cases g <;> simp [z, sgn, Int.neg_ediv_of_dvd, Int.natCast_dvd_natCast, Nat.dvd_of_mod_eq_zero h0]
  · have hlt := Nat.mod_lt n hd
    cases g
    · have hz : z / d = (n / d : Nat) ∧ z % d = (n % d : Nat) := ⟨(Int.natCast_ediv n d).symm, (Int.natCast_emod n d).symm⟩
      rw [hz.1, hz.2]
      simp only [roundInt, goesUp_rne h0, sgn, Bool.false_eq_true, if_false]
      split_ifs <;> omega
    · have hz : z / d = -((n / d : Nat) : Int) - 1 ∧ z % d = d - (n % d : Nat) := neg_ediv_emod hd h0
      rw [hz.1, hz.2]
      simp only [roundInt, goesUp_rne h0, sgn, if_true]
      split_ifs <;> omega

theorem roundInt_tdiv (g : Bool) (n d : Nat) : roundInt .rz g n d = Int.tdiv (if g then -(n : Int) else n) d := by
  rw [roundInt_rz]
  cases g
  · rfl
  · rw [if_pos rfl, if_pos rfl, Int.neg_tdiv]
    rfl

theorem roundInt_ceil (g : Bool) (n : Nat) {d : Nat} (hd : 0 < d) :
    roundInt .rup g n d = -(-(if g then -(n : Int) else n) / d) := by
  rw [roundInt_rup g n hd, apply_ite Neg.neg, neg_neg]

theorem roundInt_zero (m : Mode) (g : Bool) (d : Nat) : roundInt m g 0 d = 0 := by simp [roundInt, goesUp, sgn]

theorem fround_fin {t : FTy} {a : Word} {g : Bool} {n d : Nat} (rm : Rnd) (h : fdec t a = .fin g n d) :
    fround t rm a = fres t .rne (.fin g (roundInt (rndMode rm) g n d).natAbs 1) := by rw [fround, h]

/-- A zero, and an infinity, are delivered as they are (R117). -/
theorem fround_same {t : FTy} {a : Word} (rm : Rnd) (h : (∃ g, fdec t a = .inf g) ∨ ∃ g d, fdec t a = .fin g 0 d) :
    fround t rm a = BitVec.ofNat 64 (fbitsOf t a) := by
  rcases h with ⟨g, h⟩ | ⟨g, d, h⟩
  · rw [← fres_fdec .rne (by simp [h]), fround, h]
  · rw [← fres_fdec .rne (by simp [h]), fround_fin rm h, roundInt_zero, h]
    rfl

/-! ### Normal values of `.f32` -/

/-- A value that an ordinal has is rounded to that ordinal's code. -/
theorem fres_of_magnitude {t : FTy} (rm : Rnd) (g : Bool) {n d k : Nat} (hd : 0 < d) (hk : 0 < k) (hmax : k ≤ (ffOf t).maxOrd)
    (hv : (n : Rat) / d = (ffOf t).magnitude k) : fres t rm (.fin g n d) = BitVec.ofNat 64 ((ffOf t).enc g k) := by
  have hs : (ffOf t).signed = true := by cases t <;> rfl
  have hn : 0 < n := by
    have := (ffOf t).magnitude_pos hk
    rw [← hv] at this
    exact Nat.pos_of_ne_zero fun h => by simp [h] at this
  unfold fres roundTo
  dsimp only
  rw [gridOrd_eq _ _ _ hn hd, hv, FloatFmt.roundOrd_magnitude _ _ _ hk, if_neg hn.ne', if_neg (by simp [hs]), if_neg (by omega)]

/-- The magnitude of a normal code by its fields (R92). -/
theorem magnitude_f32 {e f : Nat} (he : 1 ≤ e) (hf : f < 2 ^ 23) :
    (ffOf .f32).magnitude (e * 2 ^ 23 + f) = (2 ^ 23 + f : Nat) * 2 ^ ((e : Int) - 150) := by
  obtain ⟨i, rfl⟩ := Nat.exists_eq_add_of_le' he
  have h := magnitude_steps (ffOf .f32) (i := i) (c := 2 ^ 23 + f) (by change _ ≤ 2 * 2 ^ 23; omega) (.inr (Nat.le_add_right (2 ^ 23) f))
  have hexp : (ffOf .f32).emin + i - ((ffOf .f32).p - 1 : Nat) = ((i + 1 : Nat) : Int) - 150 := by
    change (-126 : Int) + i - (23 : Nat) = _
    omega
  rw [← hexp, ← h, show (ffOf .f32).p - 1 = 23 from rfl, show (i + 1) * 2 ^ 23 + f = i * 2 ^ 23 + (2 ^ 23 + f) by omega]

/-- A word in `.f32` whose exponent field is neither 0 nor all ones holds a normal value. -/
theorem fdec_f32_normal {a : Word} (h1 : 1 ≤ a.toNat / 2 ^ 23 % 256) (h2 : a.toNat / 2 ^ 23 % 256 ≤ 254) :
    ∃ n d : Nat, 0 < n ∧ 0 < d ∧ fdec .f32 a = .fin (a.getLsbD 31) n d ∧
      (n : Rat) / d = (2 ^ 23 + a.toNat % 2 ^ 23 : Nat) * 2 ^ (((a.toNat / 2 ^ 23 % 256 : Nat) : Int) - 150) := by
  have hord : codeOrd .f32 a = a.toNat / 2 ^ 23 % 256 * 2 ^ 23 + a.toNat % 2 ^ 23 := by
    change a.toNat % 2 ^ 31 = _
    omega
  have hinf : infOrd .f32 = 255 * 2 ^ 23 := rfl
  obtain ⟨n, d, hd, hfin, hv⟩ := ordVal_eq_fin (ffOf .f32) (codeOrd .f32 a)
  rw [hord, magnitude_f32 h1 (Nat.mod_lt _ (by decide))] at hv
  refine ⟨n, d, Nat.pos_of_ne_zero fun h0 => ?_, hd, ?_, hv⟩
  · rw [h0, Nat.cast_zero, zero_div] at hv
    exact absurd hv.symm (by positivity)
  · rw [fdec_eq, if_neg (by omega), if_neg (by omega), hfin]
    rfl

/-- A dyadic number that is a normal value of `.f32` is delivered in bits by its fields. -/
theorem fres_dyadic_f32 (g : Bool) {m e f : Nat} {z : Int} (h1 : 1 ≤ e) (h2 : e ≤ 254) (hf : f < 2 ^ 23)
    (hv : (m : Rat) * 2 ^ z = (2 ^ 23 + f : Nat) * 2 ^ ((e : Int) - 150)) :
    fres .f32 .rne (XNum.dyadic g m z) = BitVec.ofNat 64 ((if g then 2 ^ 31 else 0) + e * 2 ^ 23 + f) := by
  obtain ⟨n, d, hd, hfin, hnd⟩ := dyadic_eq_fin m z
  have hmax : (ffOf .f32).maxOrd = 254 * 2 ^ 23 + (2 ^ 23 - 1) := rfl
  rw [hfin, fres_of_magnitude (k := e * 2 ^ 23 + f) .rne g hd (by omega) (by omega) (by rw [hnd, hv, magnitude_f32 h1 hf])]
  cases g
  · rw [enc_false]
    simp
  · rw [add_assoc]
    rfl

/-- (256 + t) × 2^(e − 135) has the exponent field e and the fraction t × 2^15. -/
theorem fres_estimate (g : Bool) {t e : Nat} {z : Int} (ht : t < 256) (h1 : 1 ≤ e) (h2 : e ≤ 254) (hz : z = e - 135) :
    fres .f32 .rne (XNum.dyadic g (256 + t) z) = BitVec.ofNat 64 ((if g then 2 ^ 31 else 0) + e * 2 ^ 23 + t * 2 ^ 15) := by
  refine fres_dyadic_f32 g h1 h2 (by omega) ?_
  rw [show z = (e - 150 : Int) + (15 : Nat) by omega, zpow_add₀ two_ne_zero, zpow_natCast]
  push_cast
  ring

/-! ### The leading bits of a value -/

section
variable {n d f : Nat} {i j : Nat} {z : Int}

theorem log_of_leading (k : Nat) (hf : f < 2 ^ k) : Int.log 2 ((2 ^ k + f : Nat) * 2 ^ z : Rat) = k + z := by
  refine log_eq_of_bounds (by positivity) ?_ ?_
  · rw [zpow_add₀ two_ne_zero, zpow_natCast]
    gcongr
    exact_mod_cast Nat.le_add_right (2 ^ k) f
  · rw [add_right_comm, zpow_add₀ two_ne_zero, zpow_add_one₀ two_ne_zero, zpow_natCast]
    gcongr
    exact_mod_cast (show 2 ^ k + f < 2 ^ k * 2 by omega)

/-- A ratio scaled by a power of two, as `fracTop` scales it. -/
theorem scaled_ratio (n d : Nat) (e : Int) :
    ((if 0 ≤ e then n else n * 2 ^ (-e).toNat : Nat) : Rat) / (if 0 ≤ e then d * 2 ^ e.toNat else d : Nat) = n / d / 2 ^ e := by
  split
  next he =>
    conv_rhs => rw [← Int.toNat_of_nonneg he, zpow_natCast]
    push_cast
    exact (div_div ..).symm
  next he =>
    conv_rhs => rw [← neg_neg e, ← Int.toNat_of_nonneg (show 0 ≤ -e by omega), zpow_neg, zpow_natCast]
    push_cast
    rw [div_inv_eq_mul, div_mul_eq_mul_div]

/-- The bits of the fraction are those below the leading one. -/
theorem fracTop_eq (hn : 0 < n) (hd : 0 < d) (hf : f < 2 ^ (i + j)) (hv : (n : Rat) / d = (2 ^ (i + j) + f : Nat) * 2 ^ z) :
    fracTop n d j = f / 2 ^ i := by
  have hlog : floorLog2 n d = (i + j : Nat) + z := by rw [floorLog2_eq hn hd, hv, log_of_leading _ hf]
  have hfrac (N D : Nat) (h : (N : Rat) / D = n / d / 2 ^ floorLog2 n d) : N * 2 ^ j / D = 2 ^ j + f / 2 ^ i := by
    have hq : ((N * 2 ^ j : Nat) : Rat) / D = (2 ^ (i + j) + f : Nat) / (2 ^ i : Nat) := by
      generalize 2 ^ (i + j) + f = c at hv ⊢
      push_cast
      rw [mul_div_right_comm, h, hv, hlog, zpow_add₀ two_ne_zero, zpow_natCast, pow_add]
      field_simp
    rw [← Nat.floor_div_eq_div (K := Rat), hq, Nat.floor_div_eq_div, pow_add, add_comm, Nat.add_mul_div_left _ _ (by positivity), add_comm]
  have hlt : f / 2 ^ i < 2 ^ j := Nat.div_lt_of_lt_mul (by rwa [← pow_add])
  unfold fracTop
  dsimp only
  rw [hfrac _ _ (scaled_ratio n d _), Nat.add_mod_left, Nat.mod_eq_of_lt hlt]

end

/-! ### The two estimates -/

theorem getD_lt {l : List Nat} {b : Nat} (hb : 0 < b) (h : ∀ x ∈ l, x < b) (i : Nat) : l[i]?.getD 0 < b := by
  cases hi : l[i]?
  · exact hb
  · exact h _ (List.mem_of_getElem? hi)

theorem trcp_lt (i : Nat) : trcp[i]?.getD 0 < 256 := getD_lt (by decide) (by decide) i

theorem trsq_lt (i : Nat) : trsq[i]?.getD 0 < 256 := getD_lt (by decide) (by decide) i

section
variable {a : Word}

/-- The reciprocal estimate of a normal operand whose estimate is normal (R118). -/
theorem frcpe_normal (h1 : 1 ≤ a.toNat / 2 ^ 23 % 256) (h2 : a.toNat / 2 ^ 23 % 256 ≤ 252) :
    frcpe a = BitVec.ofNat 64 ((if a.getLsbD 31 then 2 ^ 31 else 0) + (253 - a.toNat / 2 ^ 23 % 256) * 2 ^ 23 +
      (trcp[a.toNat % 2 ^ 23 / 2 ^ 18]?.getD 0) * 2 ^ 15) := by
  obtain ⟨n, d, hn, hd, hfin, hv⟩ := fdec_f32_normal h1 (by omega)
  have hf := Nat.mod_lt a.toNat (show 0 < 2 ^ 23 by decide)
  have hlog : floorLog2 n d = (23 : Nat) + (((a.toNat / 2 ^ 23 % 256 : Nat) : Int) - 150) := by
    rw [floorLog2_eq hn hd, hv, log_of_leading _ hf]
  have htop : fracTop n d 5 = a.toNat % 2 ^ 23 / 2 ^ 18 := fracTop_eq (i := 18) hn hd hf hv
  rw [frcpe, hfin]
  dsimp only
  rw [if_neg hn.ne', htop]
  exact fres_estimate _ (trcp_lt _) (by omega) (by omega) (by omega)

/-- The reciprocal square-root estimate of a positive normal operand (R119). -/
theorem frsqe_normal (h1 : 1 ≤ a.toNat / 2 ^ 23 % 256) (h2 : a.toNat / 2 ^ 23 % 256 ≤ 254) (hs : a.getLsbD 31 = false) :
    let q := (a.toNat / 2 ^ 23 % 256 + 1) % 2
    frsqe a = BitVec.ofNat 64 ((379 + q - a.toNat / 2 ^ 23 % 256) / 2 * 2 ^ 23 +
      (trsq[16 * q + a.toNat % 2 ^ 23 / 2 ^ 19]?.getD 0) * 2 ^ 15) := by
  intro q
  obtain ⟨n, d, hn, hd, hfin, hv⟩ := fdec_f32_normal h1 h2
  have hf := Nat.mod_lt a.toNat (show 0 < 2 ^ 23 by decide)
  have hlog : floorLog2 n d = (23 : Nat) + (((a.toNat / 2 ^ 23 % 256 : Nat) : Int) - 150) := by
    rw [floorLog2_eq hn hd, hv, log_of_leading _ hf]
  have htop : fracTop n d 4 = a.toNat % 2 ^ 23 / 2 ^ 19 := fracTop_eq (i := 19) hn hd hf hv
  have hq : (floorLog2 n d % 2).toNat = q := by omega
  rw [frsqe, hfin, hs]
  dsimp only
  rw [if_neg hn.ne', if_neg Bool.false_ne_true, hq, htop, fres_estimate (e := (379 + q - a.toNat / 2 ^ 23 % 256) / 2) false (trsq_lt _)]
  · simp
  all_goals omega

end

end Sys2Proof.Machine
end

section
/-! SUPPORT. The estimates and the transcendental forms on operands of each kind (R118–R121). -/

namespace Sys2Proof.Machine

theorem fres_f32_inf (g : Bool) : fres .f32 .rne (.inf g) = if g then 0xFF800000 else 0x7F800000 := by cases g <;> rfl

theorem fres_f32_zero (g : Bool) (d : Nat) : fres .f32 .rne (.fin g 0 d) = if g then 0x80000000 else 0 := by cases g <;> rfl

theorem fres_f32_nan : fres .f32 .rne .nan = 0x7FC00000 := rfl

section
variable {a b : Word}

/-- Each form depends on the operand's low 32 bits alone (R109, R121). -/
theorem unaryForms_congr (h : a.toNat % 2 ^ 32 = b.toNat % 2 ^ 32) : frcpe a = frcpe b ∧ frsqe a = frsqe b ∧ fexp2 a = fexp2 b ∧
    flog2 a = flog2 b ∧ fsin a = fsin b ∧ fcos a = fcos b ∧ ftanh a = ftanh b := by
  have hbits : fbitsOf .f32 a = fbitsOf .f32 b := h
  have hdec : fdec .f32 a = fdec .f32 b := congrArg (ffOf .f32).decode hbits
  have h32 : f32Bits a = f32Bits b := BitVec.eq_of_toNat_eq (by simpa only [f32Bits, BitVec.toNat_ofNat] using h)
  refine ⟨?_, ?_, ?_, ?_, ?_, ?_, ?_⟩
  · rw [frcpe, frcpe, hdec]
  · rw [frsqe, frsqe, hdec]
  · rw [fexp2, fexp2, hdec, h32]
  · rw [flog2, flog2, hdec, h32]
  · rw [fsin, fsin, hdec, h32, hbits]
  · rw [fcos, fcos, hdec, h32]
  · rw [ftanh, ftanh, hdec, h32, hbits]

theorem unaryForms_nan (h : fdec .f32 a = .nan) : frcpe a = 0x7FC00000 ∧ frsqe a = 0x7FC00000 ∧ fexp2 a = 0x7FC00000 ∧
    flog2 a = 0x7FC00000 ∧ fsin a = 0x7FC00000 ∧ fcos a = 0x7FC00000 ∧ ftanh a = 0x7FC00000 := by
  simp [frcpe, frsqe, fexp2, flog2, fsin, fcos, ftanh, h, fres_f32_nan]

theorem unaryForms_inf {g : Bool} (h : fdec .f32 a = .inf g) : frcpe a = (if g then 0x80000000 else 0) ∧
    frsqe a = (if g then 0x7FC00000 else 0) ∧ fexp2 a = (if g then 0 else 0x7F800000) ∧
    flog2 a = (if g then 0x7FC00000 else 0x7F800000) ∧ fsin a = 0x7FC00000 ∧ fcos a = 0x7FC00000 ∧
    ftanh a = (if g then 0xBF800000 else 0x3F800000) := by
  simp [frcpe, frsqe, fexp2, flog2, fsin, fcos, ftanh, h, fres_f32_nan, fres_f32_inf, fres_f32_zero]

section
variable {g : Bool} {n d k : Nat} (h : fdec .f32 a = .fin g n d)
include h

/-- Arguments smaller than 2^−12 are their own sine and hyperbolic tangent (R120). -/
theorem small_same (hs : n * 4096 < d) : fsin a = BitVec.ofNat 64 (fbitsOf .f32 a) ∧ ftanh a = BitVec.ofNat 64 (fbitsOf .f32 a) := by
  simp [fsin, ftanh, h, hs]

theorem ftanh_large (hl : 19 * d ≤ 2 * n) : ftanh a = if g then 0xBF800000 else 0x3F800000 := by
  have hd := decode_fin_den_pos h
  have hs : ¬n * 4096 < d := by omega
  simp [ftanh, h, hs, hl]

theorem negative_root_log (hn : 0 < n) (hg : g = true) : frsqe a = 0x7FC00000 ∧ flog2 a = 0x7FC00000 := by
  simp [frsqe, flog2, h, hn.ne', hg, fres_f32_nan]

theorem fexp2_overflow (hg : g = false) (hl : 128 * d ≤ n) : fexp2 a = 0x7F800000 := by
  simp [fexp2, h, hg, hl, fres_f32_inf]

theorem fexp2_underflow (hg : g = true) (hl : 150 * d ≤ n) : fexp2 a = 0 := by
  simp [fexp2, h, hg, hl]

/-- An integral argument k of either sign, within the range of the normal powers of two, gives 2^k (R120). -/
theorem fexp2_integral (hk : n = k * d) {e : Nat} (he : (e : Int) = sgn g k + 127) (h1 : 1 ≤ e) (h2 : e ≤ 254) :
    fexp2 a = BitVec.ofNat 64 (e * 2 ^ 23) := by
  have hd := decode_fin_den_pos h
  have hlt : k < 128 := by
    unfold sgn at he
    split at he <;> omega
  have hover : ¬128 * d ≤ n := by rw [hk, not_le]; gcongr
  have hunder : ¬150 * d ≤ n := by omega
  have hint : integral g n d = some (sgn g k) := by simp [integral, hk, hd]
  have hres : fexp2 a = fres .f32 .rne (XNum.dyadic false 1 (sgn g k)) := by simp [fexp2, h, hover, hunder, hint]
  have hval : ((1 : Nat) : Rat) * 2 ^ sgn g k = (2 ^ 23 + 0 : Nat) * 2 ^ ((e : Int) - 150) := by
    rw [show sgn g k = ((23 : Nat) : Int) + (e - 150) by omega, zpow_add₀ two_ne_zero, zpow_natCast]
    push_cast
    ring
  rw [hres, fres_dyadic_f32 false h1 h2 (by decide) hval]
  simp

/-- The logarithm of a power of two is its exponent (R120). -/
theorem flog2_power {z : Int} (hg : g = false) (hn : 0 < n) (hz : powerOfTwo n d = some z) :
    flog2 a = fres .f32 .rne (.ofRat z 1) := by
  simp [flog2, h, hg, hn.ne', hz]

/-- A zero of either sign (R118–R120). -/
theorem unaryForms_zero (hn : n = 0) : frcpe a = (if g then 0xFF800000 else 0x7F800000) ∧
    frsqe a = (if g then 0xFF800000 else 0x7F800000) ∧ fexp2 a = 0x3F800000 ∧ flog2 a = 0xFF800000 ∧
    fsin a = BitVec.ofNat 64 (fbitsOf .f32 a) ∧ fcos a = 0x3F800000 ∧ ftanh a = BitVec.ofNat 64 (fbitsOf .f32 a) := by
  have hd := decode_fin_den_pos h
  obtain ⟨hsin, htanh⟩ := small_same h (by omega)
  have hexp := fexp2_integral h (k := 0) (by omega) (e := 127) (by cases g <;> rfl) (by decide) (by decide)
  refine ⟨?_, ?_, hexp, ?_, hsin, ?_, htanh⟩
  · simp [frcpe, h, hn, fres_f32_inf]
  · simp [frsqe, h, hn, fres_f32_inf]
  · simp [flog2, h, hn, fres_f32_inf]
  · simp [fcos, h, hn]

end

theorem ofRat_natCast (k : Nat) : XNum.ofRat k 1 = .fin false k 1 := by simp [XNum.ofRat]

theorem ofRat_neg_natCast {k : Nat} (hk : 0 < k) : XNum.ofRat (-(k : Int)) 1 = .fin true k 1 := by simp [XNum.ofRat, hk]

theorem powerOfTwo_of_mul {n d k : Nat} (hd : 0 < d) (h : n = 2 ^ k * d) : powerOfTwo n d = some (k : Int) := by
  have hd' : (d : Rat) ≠ 0 := by exact_mod_cast hd.ne'
  have hlog : floorLog2 n d = k := by
    rw [floorLog2_eq (by rw [h]; positivity) hd, h, Nat.cast_mul, mul_div_cancel_right₀ _ hd', Nat.cast_pow, ← zpow_natCast]
    exact Int.log_zpow one_lt_two _
  simp [powerOfTwo, hlog, ← h.trans (mul_comm ..)]

theorem powerOfTwo_of_div {n d k : Nat} (hd : 0 < d) (hk : 0 < k) (h : n * 2 ^ k = d) : powerOfTwo n d = some (-(k : Int)) := by
  have hn : 0 < n := Nat.pos_of_ne_zero fun h0 => by rw [h0, zero_mul] at h; omega
  have hn' : (n : Rat) ≠ 0 := by exact_mod_cast hn.ne'
  have hlog : floorLog2 n d = -(k : Int) := by
    rw [floorLog2_eq hn hd, ← h, Nat.cast_mul, div_mul_cancel_left₀ hn', Nat.cast_pow, ← zpow_natCast, ← zpow_neg]
    exact Int.log_zpow one_lt_two _
  simp [powerOfTwo, hlog, h, hk.ne']

end

end Sys2Proof.Machine
end

section
/-! CERTIFICATE. O18: minimum, sign, comparison, class, integral rounding, estimates and transcendental forms. -/

namespace Sys2Proof.Machine

/-- Settles O18: the fields of a code for the forms that act on bits, the order of the exact values for the lesser, the greater and the
comparisons, and the kind of operand for the others, whose exact results are rounded from the value they have. -/
theorem floatComparisonAndEstimates : Obligations.FloatComparisonAndEstimates := by
  refine ⟨fun s fl j pm ty c t0 t1 h => ⟨fminmax false ty, fminmax true ty, fsign false ty, fsign true ty, fclass ty, fcmp c ty,
      valueOp_issued h .., valueOp_issued h .., valueOp_issued h .., valueOp_issued h .., valueOp_pair h fun a b _ _ => ?_,
      valueOp_issued h .., ?_⟩,
    fun s fl j pm rm t0 t1 h => ⟨fun ty => ⟨fround ty rm, valueOp_issued h .., ?_⟩, frcpe, frsqe, fexp2, flog2, fsin, fcos, ftanh,
      valueOp_issued h .., valueOp_issued h .., valueOp_issued h .., valueOp_issued h .., valueOp_issued h .., valueOp_issued h ..,
      valueOp_issued h .., ?_⟩⟩
  · cases fcmp c ty a b <;> rfl
  · intro w frac lowW dec nan sign fld tail ones a b
    have hw : w = (ffOf ty).width := by cases ty <;> rfl
    have hquiet : frac - 1 = (ffOf ty).p - 2 := by cases ty <;> rfl
    have hnan : nan = BitVec.ofNat 64 ((ffOf ty).nan.getD 0) := by cases ty <;> rfl
    have hlow (x : Word) : lowW x = BitVec.ofNat 64 (fbitsOf ty x) := by cases ty <;> rfl
    have hdec (x : Word) : dec x = fdec ty x := by cases ty <;> rfl
    have hsign (x : Word) : sign x = codeSign ty x := by cases ty <;> rfl
    have hfld (x : Word) : fld x = expField ty x := by cases ty <;> rfl
    have htail (x : Word) : tail x = fracField ty x := by cases ty <;> rfl
    have hones : ones = expOnes ty := by cases ty <;> rfl
    clear_value ones fld tail sign dec nan lowW frac w
    simp only [hdec, hnan, hlow, hsign, hfld, htail, hones, hquiet, hw]
    refine ⟨?_, fun ha hb => ?_, fun ha hb => ?_, fun ha hb => ⟨fminmax_ordered ha hb, fminmax_of_signs ha hb⟩,
      fun ha => ⟨fsign_nan false ha, fsign_nan true ha⟩, fun ha => ⟨fabs_eq ha, fneg_eq ha⟩, ?_, fclass_eq ty a⟩
    · exact (fdec_eq_nan_iff ty a).trans (codeOrd_fields ty a).1
    · exact ⟨fminmax_nans false ha hb, fminmax_nans true ha hb⟩
    · obtain ⟨h1, h2⟩ := fminmax_nan false ha hb
      obtain ⟨h3, h4⟩ := fminmax_nan true ha hb
      exact ⟨h1, h2, h3, h4⟩
    · cases c
      case un => exact fcmp_un ty a b
      all_goals rfl
  · intro w dec same a
    have hsame : same a = BitVec.ofNat 64 (fbitsOf ty a) := by cases ty <;> rfl
    have hdec : dec a = fdec ty a := by cases ty <;> rfl
    clear_value same dec w
    rw [hdec, hsame]
    refine ⟨fun ha => ?_, fun g ha => fround_same rm (.inl ⟨g, ha⟩), fun g m d ha => ⟨?_, fun _ hd => ?_⟩⟩
    · rw [fround, ha]
      cases ty <;> rfl
    · rintro rfl
      exact fround_same rm (.inr ⟨g, d, ha⟩)
    · rw [fround_fin rm ha]
      refine congrArg (fun i : Int => fres ty .rne (.fin g i.natAbs 1)) ?_
      cases rm
      case rne => exact roundInt_rne g m hd
      case rz => exact roundInt_tdiv g m d
      case rdn => exact roundInt_rdn g m hd
      case rup => exact roundInt_ceil g m hd
  · intro nan expo tail dec low32 recip root a b
    refine ⟨unaryForms_congr, unaryForms_nan, frcpe_normal, frsqe_normal, fun g => unaryForms_inf, fun g m d ha => ?_⟩
    have hd := decode_fin_den_pos ha
    refine ⟨unaryForms_zero ha, negative_root_log ha, fexp2_overflow ha, fexp2_underflow ha, small_same ha, ftanh_large ha,
      fun k hg hk hle => ?_, fun k hg hk hle => ?_, fun k hg hk => ?_, fun k hg hk0 hk => ?_⟩
    · exact fexp2_integral ha hk (by simp [hg, sgn]) (by omega) (by omega)
    · exact fexp2_integral ha hk (by simp [hg, sgn]; omega) (by omega) (by omega)
    · have hm : 0 < m := by rw [hk]; positivity
      rw [flog2_power ha hg hm (powerOfTwo_of_mul hd hk), ofRat_natCast]
      rfl
    · have hm : 0 < m := Nat.pos_of_ne_zero fun h0 => by rw [h0, zero_mul] at hk; omega
      rw [flog2_power ha hg hm (powerOfTwo_of_div hd hk0 hk), ofRat_neg_natCast hk0]
      rfl

end Sys2Proof.Machine
end

section
/-! SUPPORT. A word's own access: it stands last among the accesses, under a number that no other bears (R33). -/

namespace Sys2Proof.Machine

theorem replaceFirst_append_last {α : Type} {p : α → Bool} {f : α → α} {l : List α} {a : α} (hl : ∀ x ∈ l, p x = false)
    (ha : p a = true) : replaceFirst p f (l ++ [a]) = l ++ [f a] := by
  induction l with
  | nil => simp [replaceFirst, ha]
  | cons x r ih =>
    rw [List.cons_append, replaceFirst, hl x List.mem_cons_self, ih fun y hy => hl y (List.mem_cons_of_mem _ hy)]
    rfl

section
variable {t : State} {l : List Access} {a : Access} (ht : t.accesses = l ++ [a]) (hnew : ∀ o ∈ l, o.id ≠ a.id)
include ht hnew

theorem State.accesses_updAccess_last (f : Access → Access) : (t.updAccess a.id f).accesses = l ++ [f a] := by
  unfold State.updAccess
  rw [ht]
  exact replaceFirst_append_last (fun o ho => beq_false_of_ne (hnew o ho)) (beq_self_eq_true _)

theorem State.accesses_dropAccess_last : (t.dropAccess a.id).accesses = l := by
  unfold State.dropAccess
  rw [ht, List.filter_append, List.filter_eq_self.mpr fun o ho => decide_eq_true (hnew o ho)]
  simp

end

/-- An issued word's access bears a new number. -/
theorem ne_newAccess_id {s : State} (h : ∀ o ∈ s.accesses, o.id ≤ s.reqSeq) {i : Instr} {sp : Space} {ph : AccPhase} {fl : Flock} {j : Nat}
    {ln : Lane} {k : Cell} : ∀ o ∈ s.accesses, o.id ≠ (s.newAccess i sp ph fl j ln k).2.id := fun o ho he =>
  Nat.not_succ_le_self _ (he ▸ h o ho)

/-- The lane of an issued word is marked so (R26). -/
theorem State.lane?_newAccess {s : State} {ln : Lane} (hl : s.lane? ln.fid = some ln) (i : Instr) (sp : Space) (ph : AccPhase) (fl : Flock)
    (j : Nat) (k : Cell) : (s.newAccess i sp ph fl j ln k).1.lane? ln.fid = some (ln.issue j) :=
  (State.lane?_updLane_same (f := Lane.issue j) fun _ => rfl).trans (congrArg (Option.map (Lane.issue j)) hl)

end Sys2Proof.Machine
end

section
/-! SUPPORT. An access to a region of the issuing core (R271, R272). -/

namespace Sys2Proof.Machine

theorem regionOp_oneLane {s : State} {fl : Flock} {j : Nat} {ln : Lane} {k : Cell} {pm : Pm} (h : OneLane s fl j ln k pm) (i : Instr)
    (accum : Bool) (n : Nat) (early : Cell → Option Val) :
    regionOp i pm accum n early s = .next (match early k with
      | some v => s.gives ln j i v
      | none =>
        let (base, size) := s.regionOf fl.ctx fl.core accum
        if size < k.a.bits.toNat + n then s.faultLane ln.fid j 0x0B [k.a.bits, w64 n, w64 size]
        else
          let (s, a) := s.newAccess i (if accum then .accum else .scratch) .ready fl j ln k
          s.updAccess a.id fun a => { a with bytes := (List.range n).map fun b => base + k.a.bits.toNat + b }) := by
  rw [regionOp, effectOp_oneLane h]
  rfl

/-- What the issue of a word leaves that accesses bytes of a region: its access, which is ready. -/
def ReachesRegion (s : State) (j : Nat) (ln : Lane) (k : Cell) (i : Instr) (sp : Space) (bytes : List Nat) : Prop :=
  ∃ (t : State) (a : Access), exec i s = .next t ∧ t.accesses = s.accesses ++ [a] ∧ a.instr = i ∧ a.fid = ln.fid ∧ a.idx = j ∧
    a.phase = .ready ∧ a.space = sp ∧ a.b = k.b ∧ a.bytes = bytes ∧ t.mem = s.mem ∧ t.lane? ln.fid = some (ln.issue j)

section
variable {s : State} {fl : Flock} {j : Nat} {ln : Lane} {k : Cell} {pm : Pm} (h : OneLane s fl j ln k pm) {i : Instr} {accum : Bool} {n : Nat}
  {early : Cell → Option Val} (hi : exec i s = regionOp i pm accum n early s) (he : early k = none) {base size : Nat}
  (hr : s.regionOf fl.ctx fl.core accum = (base, size))
include h hi he hr

theorem regionOp_inside (hnum : ∀ a ∈ s.accesses, a.id ≤ s.reqSeq) (hin : k.a.bits.toNat + n ≤ size) :
    ReachesRegion s j ln k i (if accum then .accum else .scratch) ((List.range n).map (base + k.a.bits.toNat + ·)) := by
  have ⟨_, _, hl, _⟩ := h
  refine ⟨_, _, ?_, State.accesses_updAccess_last (t := (s.newAccess i (if accum then .accum else .scratch) .ready fl j ln k).1) rfl
    (ne_newAccess_id hnum) fun a => { a with bytes := (List.range n).map (base + k.a.bits.toNat + ·) },
    rfl, rfl, rfl, rfl, rfl, rfl, rfl, rfl, State.lane?_newAccess hl ..⟩
  rw [hi, regionOp_oneLane h, he, hr]
  exact congrArg _ (if_neg (Nat.not_lt.mpr hin))

theorem regionOp_outside (hout : size < k.a.bits.toNat + n) :
    exec i s = .next (s.faultLane ln.fid j 0x0B [k.a.bits, BitVec.ofNat 64 n, BitVec.ofNat 64 size]) := by
  rw [hi, regionOp_oneLane h, he, hr]
  exact congrArg _ (if_pos hout)

end

/-- The first byte and the size of the regions that a context has on a core (R250, R251). -/
theorem State.regionOf_eq {s : State} {x core : Nat} {c : Ctx} {g : Region} (hc : s.ctx? x = some c)
    (hg : c.regions.find? (·.core = core) = some g) (accum : Bool) :
    s.regionOf x core accum = if accum then (0x0F0000000000 + 0x400000 * core + 0x200000 + 32768 * g.accSeg, 32768 * g.accum)
      else (0x0F0000000000 + 0x400000 * core + 65536 * g.scrSeg, 65536 * g.scratch) := by
  rw [State.regionOf, hc, Option.bind_some, hg]
  simp only [accumAddr, shedAddr, Config.winLow, Config.winStride, Config.accumOffset, Nat.mul_comm core]

end Sys2Proof.Machine
end

section
/-! SUPPORT. A memory word whose record is cached (R240): its access meets the record at its issue. -/

namespace Sys2Proof.Machine

theorem curOffset_eq_extract (w : Word) : curOffset w = (w.extractLsb' 0 44).toNat := by
  rw [BitVec.extractLsb'_toNat, Nat.shiftRight_zero, curOffset, bits, pow_zero, Nat.div_one]

/-- The state in which the access of a memory word meets its cached record, which is the most recent from then on. -/
def State.meeting (s : State) (i : Instr) (fl : Flock) (j : Nat) (ln : Lane) (k : Cell) : State :=
  (s.newAccess i .hbm .walking fl j ln k).1.orcUse fl.core fl.ctx (curHandle k.a.bits)

/-- Its access. -/
def State.issuedAccess (s : State) (i : Instr) (fl : Flock) (j : Nat) (ln : Lane) (k : Cell) : Access :=
  (s.newAccess i .hbm .walking fl j ln k).2

theorem cursorOp_cached {s : State} {fl : Flock} {j : Nat} {ln : Lane} {k : Cell} {pm : Pm} (h : OneLane s fl j ln k pm) {r : ObjRec}
    (hr : Cached s fl k.a.bits r) {early : Cell → Option Val} (he : early k = none) (i : Instr) :
    cursorOp i pm early s = .next ((s.meeting i fl j ln k).proceed (s.issuedAccess i fl j ln k) r) := by
  rw [cursorOp_oneLane h, he]
  dsimp only
  unfold State.seek
  rw [show (s.newAccess i .hbm .walking fl j ln k).1.orcHit (s.newAccess i .hbm .walking fl j ln k).2.core
    (s.newAccess i .hbm .walking fl j ln k).2.ctx (s.newAccess i .hbm .walking fl j ln k).2.handle = some r from
    (congrArg (s.orcHit fl.core fl.ctx) (curHandle_eq_extract _)).trans hr]
  rfl

theorem State.accesses_deliverAccess (t : State) (a : Access) (v : Val) : (t.deliverAccess a v).accesses = (t.dropAccess a.id).accesses := by
  unfold State.deliverAccess
  split <;> rfl

theorem State.mem_deliverAccess (t : State) (a : Access) (v : Val) : (t.deliverAccess a v).mem = t.mem := by
  unfold State.deliverAccess
  split <;> rfl

/-- An access of a firing that has not ended delivers to its lane. -/
theorem State.lane?_deliverAccess {t : State} {a : Access} (ho : a.orphan = false) {ln : Lane} (hl : t.lane? a.fid = some ln) (v : Val) :
    (t.deliverAccess a v).lane? a.fid = some (ln.complete a.idx true (t0Of a.instr) (t1Of a.instr) v v) := by
  unfold State.deliverAccess
  rw [ho]
  exact State.lane?_completeLane (s := (t.dropAccess a.id).moved a.ctx) hl ..

/-- A word of one lane has delivered a value when it executed; no access of it is left and no memory has changed. -/
def GivesWord (s : State) (j : Nat) (ln : Lane) (i : Instr) (v : Val) : Prop :=
  ∃ t, exec i s = .next t ∧ t.accesses = s.accesses ∧ t.mem = s.mem ∧
    t.lane? ln.fid = some ((ln.issue j).complete j true (t0Of i) (t1Of i) v v)

section
variable {s : State} {fl : Flock} {j : Nat} {ln : Lane} {k : Cell} {pm : Pm} (h : OneLane s fl j ln k pm)
  (hnum : ∀ a ∈ s.accesses, a.id ≤ s.reqSeq)

include h in
theorem State.lane?_meeting (i : Instr) : (s.meeting i fl j ln k).lane? ln.fid = some (ln.issue j) := by
  have ⟨_, _, hl, _⟩ := h
  exact State.lane?_newAccess hl ..

include hnum in
theorem State.accesses_meeting_drop (i : Instr) :
    ((s.meeting i fl j ln k).dropAccess (s.issuedAccess i fl j ln k).id).accesses = s.accesses :=
  State.accesses_dropAccess_last (t := s.meeting i fl j ln k) rfl (ne_newAccess_id hnum)

include h hnum in
/-- A word that ends at its record delivers there and then. -/
theorem givesWord_of_deliver {i : Instr} {v : Val}
    (hi : exec i s = .next ((s.meeting i fl j ln k).deliverAccess (s.issuedAccess i fl j ln k) v)) : GivesWord s j ln i v :=
  ⟨_, hi, (State.accesses_deliverAccess ..).trans (State.accesses_meeting_drop hnum i), State.mem_deliverAccess ..,
    State.lane?_deliverAccess (a := s.issuedAccess i fl j ln k) rfl (State.lane?_meeting h i) v⟩

end

end Sys2Proof.Machine
end

section
/-! SUPPORT. Flat objects without swizzle (R230): an element is the byte at its offset. -/

namespace Sys2Proof.Machine

namespace ObjRec

theorem flatForm_iff {r : ObjRec} : r.flatForm = true ↔
    r.rank = 1 ∧ r.format = 4 ∧ r.strOf 0 = 1 ∧ r.scale = 0 ∧ r.tmode = 0 ∧ r.smode = 0 := by
  simp [flatForm, and_assoc]

variable {r : ObjRec} (h : r.flatForm = true)
include h

theorem ebits_of_flat : r.ebits = 8 := by
  obtain ⟨-, hf, -⟩ := flatForm_iff.mp h
  simp only [ebits, fmt, hf]
  rfl

theorem coords_of_flat (o : Nat) : r.coords o = if r.extOf 0 ≤ o then none else some [o] := by
  obtain ⟨hrank, -, hstr, -, htm, -⟩ := flatForm_iff.mp h
  have hdims : r.sorted.reverse = [(1, r.extOf 0, 0)] := by simp [sorted, dims, hrank, hstr, htm, sortBy, insertBy]
  simp [coords, hdims, decompose, hrank, htm]

theorem addrOf_of_flat (hswz : r.swz = 0) (o : Nat) : r.addrOf o = r.base + o := by
  obtain ⟨-, -, -, -, -, hsm⟩ := flatForm_iff.mp h
  have hb : bits o 5 3 = o / 32 % 8 := rfl
  simp [addrOf, hsm, hswz, swizzle, byteOf, ebits_of_flat h, hb]
  omega

theorem elemsFor_of_flat (n : Nat) : r.elemsFor n = max 1 n := by
  rw [elemsFor, ebits_of_flat h, ceilDiv]
  congr 1
  omega

theorem coverFor_of_flat {n : Nat} (hn : 0 < n) (o : Nat) : r.coverFor n o = (List.range n).map (o + ·) := by
  simp [coverFor, ebits_of_flat h, elemsFor_of_flat h, Nat.max_eq_right hn]

theorem bytesFor_of_flat (hswz : r.swz = 0) {n : Nat} (hn : 0 < n) (o : Nat) :
    r.bytesFor n o = (List.range n).map (r.base + o + ·) := by
  have helem (e : Nat) : r.elemAddrs e = [r.base + e] := by
    simp [elemAddrs, elemBytes, ebits_of_flat h, addrOf_of_flat h hswz]
  rw [bytesFor, ebits_of_flat h, if_neg (by decide), elemsFor_of_flat h, Nat.max_eq_right hn]
  simp only [helem, ← List.map_eq_flatMap, ← Nat.add_assoc]
  exact List.take_of_length_le (by simp)

/-- The first of some elements that is out of shape. -/
theorem find?_outside_of_flat {n : Nat} (hn : 0 < n) (o : Nat) :
    ((List.range n).map (o + ·)).find? (fun e => (r.coords e).isNone) = if o + n ≤ r.extOf 0 then none else some (max o (r.extOf 0)) := by
  have hout (e : Nat) : (r.coords e).isNone = decide (r.extOf 0 ≤ e) := by
    rw [coords_of_flat h]
    split <;> simp [*]
  simp only [hout]
  induction n generalizing o with
  | zero => omega
  | succ n ih =>
    rw [map_add_range_succ, List.find?_cons]
    by_cases ho : r.extOf 0 ≤ o
    · rw [decide_eq_true ho, if_neg (by omega), Nat.max_eq_left ho]
    · rw [decide_eq_false ho]
      dsimp only
      cases n with
      | zero => rw [if_pos (by omega)]; rfl
      | succ n =>
        rw [ih (Nat.succ_pos n) (o + 1), Nat.max_eq_right (by omega : o + 1 ≤ r.extOf 0), Nat.max_eq_right (by omega : o ≤ r.extOf 0),
          Nat.add_right_comm, Nat.add_assoc]

end ObjRec

/-- A flat object by its KIND, without swizzle and without a residency map (R230). -/
structure ObjRec.PlainFlat (r : ObjRec) : Prop where
  form : r.flatForm = true
  kind : r.kind = 1
  swz : r.swz = 0
  rmap : r.rmap = 0

end Sys2Proof.Machine
end

section
/-! SUPPORT. Loads and stores of flat objects with a cached record (R239, R142, R243). -/

namespace Sys2Proof.Machine

/-- An issue that marks a lane changes no block. -/
theorem State.block?_updLane (s : State) (fid : Nat) (f : Lane → Lane) (x b : Nat) : (s.updLane fid f).block? x b = s.block? x b := by
  unfold State.block?
  cases hc : s.ctx? x with
  | some c => rw [State.ctx?_updLane hc]; rfl
  | none =>
    rw [show (s.updLane fid f).ctx? x = none by simp_all [State.ctx?, List.find?_eq_none, Ctx.updLane]]

theorem State.flock?_updLane (s : State) (fid : Nat) (f : Lane → Lane) (x : Nat) :
    (s.updLane fid f).flock? x = (s.flock? x).map fun fl => fl.updLane fid f := by
  simp only [State.flock?, State.updLane_flocks, List.find?_map]
  rfl

/-- The block of an access's firing is none under IDEM. -/
def Access.NotIdem (s : State) (a : Access) : Prop :=
  ((s.flock? a.flock).bind fun fl => s.block? a.ctx fl.block).map (·.idem) = some false

theorem Issued.notIdem {s : State} {fl : Flock} {j : Nat} (h : Issued s fl j) {b : LBlock} (hb : s.block? fl.ctx fl.block = some b)
    (hi : b.idem = false) (i : Instr) (ln : Lane) (k : Cell) : (s.issuedAccess i fl j ln k).NotIdem (s.meeting i fl j ln k) := by
  obtain ⟨-, hfl⟩ := h
  have hf : (s.meeting i fl j ln k).flock? fl.id = some (fl.updLane ln.fid (Lane.issue j)) :=
    (State.flock?_updLane s ln.fid (Lane.issue j) fl.id).trans (by rw [hfl]; rfl)
  have hblock : (s.meeting i fl j ln k).block? fl.ctx fl.block = some b := (State.block?_updLane s ln.fid (Lane.issue j) _ _).trans hb
  exact (congrArg (fun x => (x.bind fun fl' => (s.meeting i fl j ln k).block? fl.ctx fl'.block).map (·.idem)) hf).trans
    ((congrArg (Option.map (·.idem)) hblock).trans (congrArg some hi))

/-- A translation that only the shape can stop: the record permits the use, all is resident and nothing is lost (R239). -/
theorem State.translate_resident {s : State} {r : ObjRec} (hkind : r.kind ≠ 3) (hrmap : r.rmap = 0) (hd : ∀ d ∈ s.dies, d.lasting = [])
    {u : Use} (hper : r.permits u = true) (core x : Nat) (cur : Word) (need : List Nat) (cov : Nat → List Nat)
    {extra : Nat → Option (Nat × List Word)} (hextra : ∀ y, extra y = none) :
    s.translate core x cur r u need cov none extra = (s, if curOos cur then .outOfShape (curOffset cur)
      else match need.find? fun e => (r.coords e).isNone with
        | some e => .outOfShape e
        | none => .bytes (cov (curOffset cur))) := by
  have hlasting (l : List Nat) : l.find? s.lastingAt = none :=
    List.find?_eq_none.mpr fun x _ => by rw [State.lastingAt_of_none hd]; exact Bool.false_ne_true
  unfold State.translate
  simp only [hper, Bool.not_true, Bool.false_eq_true, if_false]
  split
  · rfl
  · cases need.find? fun e => (r.coords e).isNone with
    | some e => rfl
    | none => simp only [hextra, hkind, decide_false, Bool.false_and, Bool.false_eq_true, if_false, State.firstAbsent, hlasting]

/-- The translation of a word that accesses `n` bytes of a flat object (R239): the bytes from the base and offset on, or the first
element out of shape. -/
theorem State.translateFor_flat {s : State} {a : Access} {r : ObjRec} (hflat : r.PlainFlat) (hd : ∀ d ∈ s.dies, d.lasting = [])
    (hper : r.permits (useOf a.instr) = true) (hidem : a.NotIdem s)
    (hal : aligns a.instr = false) {n : Nat} (hw : widthOf a.instr = some n) (hn : 0 < n) :
    s.translateFor a r = (s, if curOos a.a.bits then .outOfShape (curOffset a.a.bits)
      else if curOffset a.a.bits + n ≤ r.extOf 0 then .bytes ((List.range n).map (r.base + curOffset a.a.bits + ·))
      else .outOfShape (max (curOffset a.a.bits) (r.extOf 0))) := by
  have hpre : (match a.instr with
      | .ld _ _ _ _ => if some false = some true && r.coh ≠ 0 then some (0x18, [w64 a.handle, w64 r.gen, w64 r.coh]) else none
      | _ => none : Option (Nat × List Word)) = none := by split <;> rfl
  obtain ⟨hform, hkind, hswz, hrmap⟩ := hflat
  unfold State.translateFor
  dsimp only
  rw [hidem, hw, hal]
  refine (congrArg (s.translate _ _ _ _ _ _ _ · _) hpre).trans ?_
  refine (State.translate_resident (by omega) hrmap hd hper _ _ _ _ _ fun _ => rfl).trans ?_
  dsimp only
  rw [ObjRec.coverFor_of_flat hform hn, ObjRec.find?_outside_of_flat hform hn, ObjRec.bytesFor_of_flat hform hswz hn]
  split
  · rfl
  · by_cases hin : curOffset a.a.bits + n ≤ r.extOf 0
    · rw [if_pos hin, if_pos hin]
    · rw [if_neg hin, if_neg hin]

/-- A load or a store of a cursor's object meets its record: the checks of the translation, then its bytes are known (R239). -/
theorem State.proceed_of_plain {s : State} {a : Access} {r : ObjRec} (hfar : r.kind ≠ 3) {pm : Pm} {ty : MemTy} {t0 t1 : Target}
    (hi : a.instr = .ld pm ty t0 t1 ∨ a.instr = .st pm ty t0 t1) :
    s.proceed a r = s.checked a r fun s l => s.setReady a r l := by
  have hplain : (fun (s : State) l => if s.farRec r && !s.pathTo r.pkg then (s.countRoute r.pkg).faultAccess a 0x30 [w64 a.handle, w64 r.pkg]
      else s.setReady a r l) = fun s l => s.setReady a r l := by
    simp [State.farRec, hfar]
  rw [← hplain]
  unfold State.proceed State.checked
  rcases hi with hi | hi <;> rw [hi]

/-- A fault of an access of a firing that has not ended is its lane's. -/
theorem State.faultAccess_of_resident {s : State} {a : Access} (ho : a.orphan = false) (code : Nat) (d : List Word) :
    s.faultAccess a code d = (s.dropAccess a.id).faultLane a.fid a.idx code d := by
  rw [State.faultAccess, ho]
  rfl

theorem State.checked_of_bytes {s : State} {a : Access} {r : ObjRec} {l : List Nat} (hv : a.a.void = false)
    (ht : s.translateFor a r = (s, .bytes l)) (f : State → List Nat → State) : s.checked a r f = f s l := by
  rw [State.checked, hv, ht]
  rfl

/-- Out of shape the policy of the object answers, or the lane faults (R142). -/
theorem State.checked_of_outOfShape {s : State} {a : Access} {r : ObjRec} {e : Nat} (hv : a.a.void = false)
    (ht : s.translateFor a r = (s, .outOfShape e)) (f : State → List Nat → State) :
    s.checked a r f = (outOfShapeVal a.instr r (s.isDet a.ctx)).elim (s.faultAccess a 0x01 (oosDetail a e)) (s.deliverAccess a) := by
  rw [State.checked, hv, ht]
  dsimp only
  cases outOfShapeVal a.instr r (s.isDet a.ctx) <;> rfl

/-- A load or a store whose latches bear no mark meets its cached record. -/
theorem exec_objWord_cached {s : State} {fl : Flock} {j : Nat} {ln : Lane} {k : Cell} {pm : Pm} (h : OneLane s fl j ln k pm) {r : ObjRec}
    (hr : Cached s fl k.a.bits r) (hfar : r.kind ≠ 3) (ha : k.a.void = false) (hb : k.b.void = false) {i : Instr} {ty : MemTy}
    {t0 t1 : Target} (hi : i = .ld pm ty t0 t1 ∨ i = .st pm ty t0 t1) :
    exec i s = .next ((s.meeting i fl j ln k).checked (s.issuedAccess i fl j ln k) r fun t l =>
      t.setReady (s.issuedAccess i fl j ln k) r l) := by
  have hword : exec i s = .next ((s.meeting i fl j ln k).proceed (s.issuedAccess i fl j ln k) r) := by
    rcases hi with rfl | rfl
    · exact cursorOp_cached h hr (early := voidZero) (by simp [voidZero, ha]) _
    · exact cursorOp_cached h hr (early := voidStore) (by simp [voidStore, ha, hb]) _
  exact hword.trans (congrArg _ (State.proceed_of_plain hfar (pm := pm) (ty := ty) (t0 := t0) (t1 := t1) hi))

end Sys2Proof.Machine
end

section
/-! CERTIFICATE. O26: accesses to regions and to flat objects. -/

namespace Sys2Proof.Machine

theorem oosDetail_issuedAccess (s : State) (i : Instr) (fl : Flock) (j : Nat) (ln : Lane) (k : Cell) (e : Nat) :
    oosDetail (s.issuedAccess i fl j ln k) e = [BitVec.ofNat 64 (k.a.bits.extractLsb' 44 19).toNat,
      BitVec.ofNat 64 (k.a.bits.extractLsb' 0 44).toNat, BitVec.ofNat 64 e] := by
  rw [← curHandle_eq_extract, ← curOffset_eq_extract]
  rfl

section
variable {s : State} {fl : Flock} {j : Nat} {ln : Lane} {k : Cell} {pm : Pm} (h : OneLane s fl j ln k pm) (ha : k.a.void = false)
  (hb : k.b.void = false) {b : LBlock} (hblk : s.block? fl.ctx fl.block = some b) (hidem : b.idem = false)
  (hd : ∀ d ∈ s.dies, d.lasting = [])
include h ha hb hblk hidem hd

/-- The ends of a load or store of a flat object whose record is cached and permits it: its bytes are known, or the policy of the object
answers. -/
theorem exec_flatWord {r : ObjRec} (hr : Cached s fl k.a.bits r) (hflat : r.PlainFlat) {i : Instr} {ty : MemTy} {t0 t1 : Target}
    (hi : i = .ld pm ty t0 t1 ∨ i = .st pm ty t0 t1) (hper : r.permits (useOf i) = true) {n : Nat} (hn : 0 < n) (hw : memBytes ty = some n) :
    let a := s.issuedAccess i fl j ln k
    let o := curOffset k.a.bits
    exec i s = .next (if curOos k.a.bits = false ∧ o + n ≤ r.extOf 0 then
        (s.meeting i fl j ln k).setReady a r ((List.range n).map (r.base + o + ·))
      else (outOfShapeVal i r ((s.meeting i fl j ln k).isDet fl.ctx)).elim ((s.meeting i fl j ln k).faultAccess a 0x01
        (oosDetail a (if curOos k.a.bits then o else max o (r.extOf 0)))) ((s.meeting i fl j ln k).deliverAccess a)) := by
  intro a o
  have ⟨hissued, _⟩ := h
  have hwidth : widthOf i = some n := by rcases hi with rfl | rfl <;> exact hw
  have hal : aligns i = false := by rcases hi with rfl | rfl <;> rfl
  have ht := State.translateFor_flat (s := s.meeting i fl j ln k) (a := a) hflat hd hper
    (hissued.notIdem hblk hidem i ln k) hal hwidth hn
  rw [exec_objWord_cached h hr (by rw [hflat.kind]; decide) ha hb hi]
  refine congrArg _ ?_
  replace ht : (s.meeting i fl j ln k).translateFor a r = (s.meeting i fl j ln k, if curOos k.a.bits then .outOfShape o
    else if o + n ≤ r.extOf 0 then .bytes ((List.range n).map (r.base + o + ·)) else .outOfShape (max o (r.extOf 0))) := ht
  cases hoos : curOos k.a.bits with
  | true =>
    rw [hoos, if_pos rfl] at ht
    rw [State.checked_of_outOfShape ha ht, if_neg (by simp), if_pos rfl]
    rfl
  | false =>
    rw [hoos, if_neg Bool.false_ne_true] at ht
    rw [if_neg Bool.false_ne_true]
    by_cases hin : o + n ≤ r.extOf 0
    · rw [if_pos hin] at ht
      rw [State.checked_of_bytes ha ht, if_pos ⟨rfl, hin⟩]
    · rw [if_neg hin] at ht
      rw [State.checked_of_outOfShape ha ht, if_neg fun h => hin h.2]
      rfl

end

/-- Settles O26: a word that reaches a region by the region's first byte and size, one of a flat object by the ends of its translation. -/
theorem regionAndFlatAccesses : Obligations.RegionAndFlatAccesses := by
  refine ⟨?_, ?_⟩
  · intro s fl j ln k pm w t0 t1 c g h hc hg hv hnum n o window inside outside
    have hload : voidZero k = none := by simp [voidZero, hv]
    have hstore (hb : k.b.void = false) : voidStore k = none := by simp [voidStore, hv, hb]
    have hscr := State.regionOf_eq hc hg false
    have hacc := State.regionOf_eq hc hg true
    refine ⟨fun hin => ⟨?_, fun hb => ?_⟩, fun hout => ⟨?_, fun hb => ?_⟩, fun hin => ⟨?_, fun hb => ?_⟩, fun hout => ⟨?_, fun hb => ?_⟩⟩
    · exact regionOp_inside h rfl hload hscr hnum hin
    · exact regionOp_inside h rfl (hstore hb) hscr hnum hin
    · exact regionOp_outside h rfl hload hscr hout
    · exact regionOp_outside h rfl (hstore hb) hscr hout
    · exact regionOp_inside h rfl hload hacc hnum hin
    · exact regionOp_inside h rfl (hstore hb) hacc hnum hin
    · exact regionOp_outside h rfl hload hacc hout
    · exact regionOp_outside h rfl (hstore hb) hacc hout
  · intro s fl j ln k pm w ty t0 t1 r b h hr ha hb hblk hidem hnum hwty hkind hrank hfmt hstr hscale htm hsm hswz hrmap hd n o hh len
      inShape first i hi
    have hstr0 : r.strOf 0 = 1 := by simp [ObjRec.strOf, ← List.head?_eq_getElem?, hstr]
    have hflat : r.PlainFlat := ⟨ObjRec.flatForm_iff.mpr ⟨hrank, hfmt, hstr0, hscale, htm, hsm⟩, hkind, hswz, hrmap⟩
    have hw : memBytes ty = some n := by rcases hwty with ⟨rfl, rfl⟩ | ⟨rfl, rfl⟩ | ⟨rfl, rfl⟩ | ⟨rfl, rfl⟩ <;> rfl
    have hn : 0 < n := by rcases hwty with ⟨rfl, rfl⟩ | ⟨rfl, rfl⟩ | ⟨rfl, rfl⟩ | ⟨rfl, rfl⟩ <;> decide
    have hbits : 8 * n = w.bits := by rcases hwty with ⟨rfl, rfl⟩ | ⟨rfl, rfl⟩ | ⟨rfl, rfl⟩ | ⟨rfl, rfl⟩ <;> rfl
    have hword : i = .ld pm ty t0 t1 ∨ i = .st pm ty t0 t1 := hi.imp And.left And.left
    have hper : r.permits (useOf i) = true := by rcases hi with ⟨rfl, hp⟩ | ⟨rfl, hp⟩ <;> simp [useOf, ObjRec.permits, hp, hkind]
    have hend := exec_flatWord h ha hb hblk hidem hd hr hflat hword hper hn hw
    rw [curOffset_eq_extract] at hend
    have hout (hno : ¬inShape) : exec i s = .next ((outOfShapeVal i r ((s.meeting i fl j ln k).isDet fl.ctx)).elim
        ((s.meeting i fl j ln k).faultAccess (s.issuedAccess i fl j ln k) 0x01 (oosDetail (s.issuedAccess i fl j ln k) first))
        ((s.meeting i fl j ln k).deliverAccess (s.issuedAccess i fl j ln k))) := hend.trans (congrArg _ (if_neg hno))
    have delivered (hno : ¬inShape) {v : Val} (hval : outOfShapeVal i r ((s.meeting i fl j ln k).isDet fl.ctx) = some v) :
        ∃ t, exec i s = .next t ∧ t.accesses = s.accesses ∧ t.lane? ln.fid = some ((ln.issue j).complete j true t0 t1 v v) := by
      obtain ⟨t, ht, hacc, -, hlane⟩ := givesWord_of_deliver h hnum (i := i) (v := v) (by rw [hout hno, hval]; rfl)
      exact ⟨t, ht, hacc, by rcases hword with rfl | rfl <;> exact hlane⟩
    refine ⟨fun hin => ?_, fun hno hpol => ?_, fun hno hpol => ?_, fun hno hpol => ?_⟩
    · exact ⟨_, _, hend.trans (congrArg _ (if_pos hin)), State.accesses_updAccess_last (t := s.meeting i fl j ln k) rfl (ne_newAccess_id hnum) _,
        rfl, rfl, rfl, rfl, rfl⟩
    · refine ⟨(s.meeting i fl j ln k).dropAccess (s.issuedAccess i fl j ln k).id, ?_, rfl, State.accesses_meeting_drop hnum i,
        State.lane?_meeting h i⟩
      have hnone : outOfShapeVal i r ((s.meeting i fl j ln k).isDet fl.ctx) = none := by
        rcases hword with rfl | rfl <;> simp [outOfShapeVal, hpol]
      rw [hout hno, hnone]
      refine congrArg _ ((State.faultAccess_of_resident (a := s.issuedAccess i fl j ln k) rfl ..).trans ?_)
      rw [oosDetail_issuedAccess]
      rfl
    · rcases hword with rfl | rfl
      · exact delivered hno (by simp [outOfShapeVal, hpol, hw, fillBits, hbits])
      · exact delivered hno (by simp [outOfShapeVal, hpol])
    · rcases hword with rfl | rfl
      · exact delivered hno (by simp [outOfShapeVal, hpol, zeroVoid])
      · exact delivered hno (by simp [outOfShapeVal, hpol])

end Sys2Proof.Machine
end

section
/-! SUPPORT. The step of a cursor (R140, R268–R270): its record's coordinates, stepped and turned back into an offset. -/

namespace Sys2Proof.Machine

/-- A cursor in shape of the same handle, at an offset. -/
def cursorAt (c : Word) (o : Nat) : Word := c.extractLsb' 44 20 ++ BitVec.ofNat 44 o

theorem ofNat_handle_add {c : Word} (h63 : c.getLsbD 63 = false) {o : Nat} (ho : o < 2 ^ 44) :
    BitVec.ofNat 64 (at_ (curHandle c) 44 + o) = cursorAt c o := by
  have hc := c.isLt
  have hbit : c.toNat / 2 ^ 63 % 2 = 0 := by
    rw [BitVec.getLsbD, Nat.testBit_eq_decide_div_mod_eq] at h63
    simpa using h63
  have hhandle : curHandle c = c.toNat / 2 ^ 44 % 2 ^ 20 := by
    unfold curHandle bits
    omega
  apply BitVec.eq_of_toNat_eq
  rw [cursorAt, BitVec.toNat_append, BitVec.extractLsb'_toNat, BitVec.toNat_ofNat, BitVec.toNat_ofNat, Nat.shiftRight_eq_div_pow,
    Nat.mod_eq_of_lt ho, ← Nat.shiftLeft_add_eq_or_of_lt ho, Nat.shiftLeft_eq, hhandle, at_, Nat.mul_comm]
  exact Nat.mod_eq_of_lt (by omega)

theorem setOos_eq_or (c : Word) : setOos c = c ||| 0x8000000000000000 := rfl

/-! ### Records of rank 1 -/

/-- Over a record of rank 1 the stepped coordinate alone is compared (R140). -/
theorem stepCursor_rankOne {r : ObjRec} (hrank : r.rank = 1) {c : Word} (h63 : c.getLsbD 63 = false)
    (hlen : r.extOf 0 * r.strOf 0 ≤ 2 ^ 44) (b : Int) :
    stepCursor r c [(0, b)] =
      let p : Int := ((curOffset c / r.strOf 0 : Nat) : Int) + b
      if 0 ≤ p ∧ p < (r.extOf 0 : Int) then cursorAt c (p.toNat * r.strOf 0) else setOos c := by
  rw [stepCursor, if_pos hrank]
  dsimp only
  rw [stepFlat]
  simp only [Bool.and_eq_true, decide_eq_true_eq]
  split
  next hp =>
    refine ofNat_handle_add h63 ?_
    obtain hs | hs := Nat.eq_zero_or_pos (r.strOf 0)
    · rw [hs, Nat.mul_zero]
      decide
    · exact (Nat.mul_lt_mul_of_pos_right (by omega) hs).trans_le hlen
  next => rfl

/-- Another dimension and the pair form leave an object of rank 1 (R140). -/
theorem stepCursor_rankOne_other {r : ObjRec} (hrank : r.rank = 1) (c : Word) {steps : List (Nat × Int)} (h : ∀ b, steps ≠ [(0, b)]) :
    stepCursor r c steps = setOos c := by
  unfold stepCursor
  rw [if_pos hrank]
  split
  next b => exact absurd rfl (h b)
  next => rfl

/-! ### Records of other ranks -/

/-- Each coordinate of a list lies in its extent. -/
def ObjRec.InShape (r : ObjRec) (l : List Nat) : Prop := ∀ n < r.rank, l[n]?.getD 0 < r.extOf n

/-- The coordinate of a dimension stays in its extent when a step is added to it. -/
def ObjRec.StaysIn (r : ObjRec) (l : List Nat) (n : Nat) (b : Int) : Prop :=
  n < r.rank ∧ 0 ≤ ((l[n]?.getD 0 : Nat) : Int) + b ∧ ((l[n]?.getD 0 : Nat) : Int) + b < (r.extOf n : Int)

/-- Coordinates with one of them stepped. -/
def stepped (l : List Nat) (n : Nat) (b : Int) : List Nat := l.set n (((l[n]?.getD 0 : Nat) : Int) + b).toNat

theorem ObjRec.inShape_of_coords {r : ObjRec} {o : Nat} {l : List Nat} (h : r.coords o = some l) : r.InShape l := by
  unfold ObjRec.coords at h
  simp only [Option.ite_none_left_eq_some] at h
  obtain ⟨-, -, hin, hl⟩ := h
  cases hl
  intro n hn
  by_contra hle
  exact hin (List.any_eq_true.mpr ⟨n, List.mem_range.mpr hn, decide_eq_true (Nat.not_lt.mp hle)⟩)

theorem getD_stepped_other (l : List Nat) {n m : Nat} (h : n ≠ m) (b : Int) : (stepped l n b)[m]?.getD 0 = l[m]?.getD 0 := by
  rw [stepped, List.getElem?_set_ne h]

theorem ObjRec.InShape.stepped {r : ObjRec} {l : List Nat} (h : r.InShape l) {n : Nat} {b : Int} (hs : r.StaysIn l n b) :
    r.InShape (stepped l n b) := by
  intro m hm
  obtain ⟨-, hlo, hhi⟩ := hs
  by_cases hmn : n = m
  · subst hmn
    rw [Machine.stepped, List.getElem?_set]
    have := h n hm
    split
    · split
      · rw [Option.getD_some]; omega
      · rw [Option.getD_none]; omega
    · contradiction
  · rw [getD_stepped_other l hmn]
    exact h m hm

theorem ObjRec.StaysIn.stepped_other {r : ObjRec} {l : List Nat} {n m : Nat} (hne : n ≠ m) {b c : Int} (h : r.StaysIn l m c) :
    r.StaysIn (stepped l n b) m c := by
  unfold ObjRec.StaysIn
  rw [getD_stepped_other l hne]
  exact h

section
variable {r : ObjRec} (hrank : r.rank ≠ 1) {c : Word}
include hrank

/-- A cursor that is out of shape steps to one with OOS set (R270). -/
theorem stepCursor_outside (hout : r.coords (curOffset c) = none) (steps : List (Nat × Int)) : stepCursor r c steps = setOos c := by
  unfold stepCursor
  rw [if_neg hrank, hout]

variable {l : List Nat} (hin : r.coords (curOffset c) = some l) {steps : List (Nat × Int)}
include hin

theorem stepCursor_leaves (h : ∃ x ∈ steps, ¬r.StaysIn l x.1 x.2) : stepCursor r c steps = setOos c := by
  obtain ⟨x, hx, hno⟩ := h
  unfold stepCursor
  rw [if_neg hrank, hin]
  dsimp only
  rw [if_neg]
  intro hall
  have := List.all_eq_true.mp hall x hx
  exact hno (by simpa [ObjRec.StaysIn, and_assoc] using this)

theorem stepCursor_one_leaves {n : Nat} {b : Int} (h : ¬r.StaysIn l n b) : stepCursor r c [(n, b)] = setOos c :=
  stepCursor_leaves hrank hin ⟨_, List.mem_singleton_self _, h⟩

theorem stepCursor_two_leaves {n m : Nat} {b d : Int} (h : ¬(r.StaysIn l n b ∧ r.StaysIn l m d)) :
    stepCursor r c [(n, b), (m, d)] = setOos c := by
  refine stepCursor_leaves hrank hin ?_
  by_cases hok : r.StaysIn l n b
  · exact ⟨(m, d), by simp, fun hok' => h ⟨hok, hok'⟩⟩
  · exact ⟨(n, b), by simp, hok⟩

variable (h63 : c.getLsbD 63 = false)
include h63

theorem stepCursor_moves (h : ∀ x ∈ steps, r.StaysIn l x.1 x.2)
    (hlt : r.offset (steps.foldl (fun l x => stepped l x.1 x.2) l) < 2 ^ 44) :
    stepCursor r c steps = cursorAt c (r.offset (steps.foldl (fun l x => stepped l x.1 x.2) l)) := by
  unfold stepCursor
  rw [← ofNat_handle_add h63 hlt, if_neg hrank, hin]
  dsimp only
  rw [if_pos]
  · rfl
  · refine List.all_eq_true.mpr fun x hx => ?_
    simpa [ObjRec.StaysIn, and_assoc] using h x hx

variable (hbound : ∀ l, r.InShape l → r.offset l < 2 ^ 44)
include hbound

/-- A step that stays in shape gives the cursor of the stepped coordinates (R270). -/
theorem stepCursor_one {n : Nat} {b : Int} (h : r.StaysIn l n b) :
    stepCursor r c [(n, b)] = cursorAt c (r.offset (stepped l n b)) :=
  stepCursor_moves hrank hin h63 (by simpa using h) (hbound _ ((ObjRec.inShape_of_coords hin).stepped h))

theorem stepCursor_two {n m : Nat} (hne : n ≠ m) {b d : Int} (h : r.StaysIn l n b) (h' : r.StaysIn l m d) :
    stepCursor r c [(n, b), (m, d)] = cursorAt c (r.offset (stepped (stepped l n b) m d)) :=
  stepCursor_moves hrank hin h63 (by simpa using ⟨h, h'⟩)
    (hbound _ (((ObjRec.inShape_of_coords hin).stepped h).stepped (h'.stepped_other hne)))

end

end Sys2Proof.Machine
end

section
/-! SUPPORT. Cursor steps and queries of one lane (R268–R271, R283), and words that need no record. -/

namespace Sys2Proof.Machine

/-- The latches that `curs` reads: C in the pair form alone. -/
theorem cursReads_void (x : CursDim) (k : Cell) :
    (if (cursDim x).2 then readsABC else readsAB).void k = (k.a.void || k.b.void || ((cursDim x).2 && k.c.void)) := by
  cases (cursDim x).2 <;> simp [Reads.void, readsABC, readsAB]

section
variable {s : State} {fl : Flock} {j : Nat} {ln : Lane} {k : Cell} {pm : Pm} (h : OneLane s fl j ln k pm)
include h

theorem cursorOp_early {early : Cell → Option Val} {v : Val} (he : early k = some v) (i : Instr) :
    cursorOp i pm early s = .next (s.gives ln j i v) := by
  rw [cursorOp_oneLane h, he]
  rfl

theorem regionOp_early {early : Cell → Option Val} {v : Val} (he : early k = some v) (i : Instr) (accum : Bool) (n : Nat) :
    regionOp i pm accum n early s = .next (s.gives ln j i v) := by
  rw [regionOp_oneLane h, he]

variable {r : ObjRec} (hr : Cached s fl k.a.bits r) (hnum : ∀ a ∈ s.accesses, a.id ≤ s.reqSeq)
include hr hnum

theorem cursi_gives (hv : k.a.void = false) (hoos : k.a.bits.getLsbD 63 = false) (t0 : Target) (d : Dim) (imm : BitVec 10) :
    GivesWord s j ln (.cursi pm t0 d imm) { bits := stepCursor r k.a.bits [(dimNum d, (imm.signExtend 64 : Word).toInt)] } :=
  givesWord_of_deliver h hnum (cursorOp_cached h hr (early := cursEarly readsA)
    (cursEarly_of_clear (by simp [Reads.void, readsA, hv]) hoos) _)

theorem curs_gives (hva : k.a.void = false) (hvb : k.b.void = false) (x : CursDim) (hvc : (cursDim x).2 = true → k.c.void = false)
    (hoos : k.a.bits.getLsbD 63 = false) (t0 t1 : Target) :
    GivesWord s j ln (.curs pm x t0 t1) { bits := stepCursor r k.a.bits (cursSteps x k.b.bits k.c.bits) } := by
  have hclear : (if (cursDim x).2 then readsABC else readsAB).void k = false := by
    rw [cursReads_void, hva, hvb]
    simpa using hvc
  exact givesWord_of_deliver h hnum (cursorOp_cached h hr (early := cursEarly (if (cursDim x).2 then readsABC else readsAB))
    (cursEarly_of_clear hclear hoos) _)

/-- What a query of a field of the record delivers; the residency is no field of it. -/
def ObjRec.field (r : ObjRec) : HqryItem → Nat
  | .ext d => r.extOf (dimNum d)
  | .rank => r.rank
  | .fmt => r.format
  | .gen => r.gen
  | .res => 0

theorem hqry_gives (hv : k.a.void = false) {q : HqryItem} (hq : q ≠ .res) (t0 t1 : Target) :
    GivesWord s j ln (.hqry pm q t0 t1) { bits := BitVec.ofNat 64 (r.field q) } := by
  refine givesWord_of_deliver h hnum ((cursorOp_cached h hr (early := voidZero) (by simp [voidZero, hv]) _).trans ?_)
  cases q with
  | res => exact absurd rfl hq
  | _ => rfl

end

end Sys2Proof.Machine
end

section
/-! SUPPORT. Fills of an L1 with place for the line, no write being queued (R255, R256). -/

namespace Sys2Proof.Machine

/-- An L1 holds a line or has place for one more. -/
def State.PlaceFor (s : State) (core a : Nat) : Prop :=
  (a / 64, none) ∈ s.linesOf core ∨ (s.linesOf core).length < Config.l1Lines

theorem State.l1Room_of_place {s : State} {core a : Nat} (h : s.PlaceFor core a) : s.l1Room core a none = s := by
  unfold State.l1Room
  exact if_pos (by simpa [State.PlaceFor] using h)

/-- A sector of a core gives its line. -/
theorem State.placeFor_of_sector {s : State} {x : Sector} (hx : x ∈ s.l1) (hp : x.pkg = none) {a : Nat} (ha : a / 64 = x.addr / 64) :
    s.PlaceFor x.core a := by
  refine .inl ?_
  rw [State.linesOf, List.mem_eraseDups, List.mem_map]
  exact ⟨x, by simp [hx], by rw [ha, hp]⟩

/-- The sector that a fill brings in new. -/
def State.broughtIn (s : State) (core ctx coh a : Nat) : Sector :=
  { core := core, ctx := ctx, addr := a / 32 * 32, coh := coh, agen := (s.core core).agen, bytes := s.rdN (a / 32 * 32) 32,
    valid := BitVec.allOnes 32, dirty := 0, shared := coh = 2 }

/-- Whether a sector serves an access as it stands. -/
def State.serves (s : State) (core coh : Nat) (x : Sector) : Bool :=
  x.valid = BitVec.allOnes 32 && (coh ≠ 2 || (x.shared && x.agen = (s.core core).agen))

/-- What a fill makes of the sectors of its place, `x` the one that is looked at. -/
def State.refilled (s : State) (core coh a : Nat) (x y : Sector) : Sector :=
  if sectorIs core (a / 32 * 32) none y then
    if s.serves core coh x then { y with coh := coh }
    else { y with
      agen := (s.core core).agen, coh := coh, shared := y.shared || coh = 2, valid := BitVec.allOnes 32
      bytes := (List.range 32).map fun i => if y.dirty.getLsbD i then y.byte i else (s.rdN (a / 32 * 32) 32)[i]?.getD 0 }
  else y

section
variable {s : State} (hb : s.bridge = []) {core a : Nat}
include hb

theorem State.fill_of_absent (hf : s.l1.find? (sectorIs core (a / 32 * 32) none) = none) (hroom : s.PlaceFor core a) (ctx coh : Nat) :
    s.fill core ctx coh a = { s with l1 := s.l1 ++ [s.broughtIn core ctx coh a] } := by
  have hroom' : s.PlaceFor core (a / 32 * 32) := by
    have hline : a / 32 * 32 / 64 = a / 64 := by omega
    rwa [State.PlaceFor, hline]
  unfold State.fill
  rw [State.homeView, State.drainBridge_of_empty hb]
  dsimp only
  rw [hf]
  dsimp only
  rw [State.l1Room_of_place hroom']
  rfl

theorem State.fill_of_held {x : Sector} (hf : s.l1.find? (sectorIs core (a / 32 * 32) none) = some x) (ctx coh : Nat) :
    s.fill core ctx coh a = { s with l1 := s.l1.map (s.refilled core coh a x) } := by
  unfold State.fill
  rw [State.homeView, State.drainBridge_of_empty hb]
  dsimp only
  rw [hf]
  rfl

end

theorem State.refilled_key (s : State) (core coh a : Nat) (x y : Sector) :
    (s.refilled core coh a x y).core = y.core ∧ (s.refilled core coh a x y).addr = y.addr ∧ (s.refilled core coh a x y).pkg = y.pkg := by
  unfold State.refilled
  split
  · split <;> exact ⟨rfl, rfl, rfl⟩
  · exact ⟨rfl, rfl, rfl⟩

theorem State.refilled_other (s : State) (core coh a : Nat) (x : Sector) {y : Sector} (h : sectorIs core (a / 32 * 32) none y = false) :
    s.refilled core coh a x y = y := by
  rw [State.refilled, h]
  rfl

theorem State.valid_refilled_self (s : State) (core coh a : Nat) {x : Sector} (h : sectorIs core (a / 32 * 32) none x = true) :
    (s.refilled core coh a x x).valid = BitVec.allOnes 32 := by
  rw [State.refilled, if_pos h]
  split
  next hs =>
    simp only [State.serves, Bool.and_eq_true, decide_eq_true_eq] at hs
    exact hs.1
  next => rfl

/-- A core holds a whole sector of this package's memory. -/
def HoldsWhole (l : List Sector) (core addr : Nat) : Prop :=
  ∃ x ∈ l, x.core = core ∧ x.pkg = none ∧ x.valid = BitVec.allOnes 32 ∧ x.addr = addr

/-- A fill leaves its sector whole, and other whole ones so. -/
theorem State.fill_holdsWhole {s : State} (hb : s.bridge = []) {core a : Nat} (hroom : s.PlaceFor core a) (ctx coh : Nat) :
    ∃ m, s.fill core ctx coh a = { s with l1 := m } ∧ HoldsWhole m core (a / 32 * 32) ∧
      ∀ addr, addr ≠ a / 32 * 32 → HoldsWhole s.l1 core addr → HoldsWhole m core addr := by
  cases hf : s.l1.find? (sectorIs core (a / 32 * 32) none) with
  | none =>
    refine ⟨_, State.fill_of_absent hb hf hroom ctx coh, ⟨_, List.mem_append_right _ (List.mem_singleton_self _), rfl, rfl, rfl, rfl⟩, ?_⟩
    rintro addr - ⟨x, hx, hwhole⟩
    exact ⟨x, List.mem_append_left _ hx, hwhole⟩
  | some x =>
    have hx := List.find?_some hf
    obtain ⟨hcore, haddr, hpkg⟩ := sectorIs_iff.mp hx
    obtain ⟨hc, ha, hp⟩ := s.refilled_key core coh a x x
    refine ⟨_, State.fill_of_held hb hf ctx coh, ⟨_, List.mem_map_of_mem (List.mem_of_find?_eq_some hf), hc.trans hcore, hp.trans hpkg,
      s.valid_refilled_self core coh a hx, ha.trans haddr⟩, ?_⟩
    rintro addr hne ⟨y, hy, hyc, hyp, hyv, rfl⟩
    have hother : s.refilled core coh a x y = y :=
      s.refilled_other core coh a x (Bool.eq_false_iff.mpr fun his => hne (sectorIs_iff.mp his).2.1)
    exact ⟨y, List.mem_map.mpr ⟨y, hy, hother⟩, hyc, hyp, hyv, rfl⟩

/-- The two fills of a line. -/
theorem State.fillLine_holdsWhole {s : State} (hb : s.bridge = []) {core : Nat} (hroom : (s.linesOf core).length < Config.l1Lines)
    (ctx coh a : Nat) :
    ∃ m, (s.fill core ctx coh (a / 64 * 64)).fill core ctx coh (a / 64 * 64 + 32) = { s with l1 := m } ∧
      ∀ b ∈ [0, 32], HoldsWhole m core (a / 64 * 64 + b) := by
  obtain ⟨m, hm, hfirst, -⟩ := State.fill_holdsWhole hb (.inr hroom : s.PlaceFor core (a / 64 * 64)) ctx coh
  rw [show a / 64 * 64 / 32 * 32 = a / 64 * 64 by omega] at hfirst
  have hroom2 : ({ s with l1 := m } : State).PlaceFor core (a / 64 * 64 + 32) := by
    obtain ⟨x, hx, rfl, hxp, -, hxa⟩ := hfirst
    exact State.placeFor_of_sector (s := { s with l1 := m }) hx hxp (by omega)
  obtain ⟨m2, hm2, hsecond, hkeep⟩ := State.fill_holdsWhole (s := { s with l1 := m }) hb hroom2 ctx coh
  rw [show (a / 64 * 64 + 32) / 32 * 32 = a / 64 * 64 + 32 by omega] at hsecond hkeep
  refine ⟨m2, by rw [hm, hm2], fun b hmem => ?_⟩
  simp only [List.mem_cons, List.not_mem_nil, or_false] at hmem
  rcases hmem with rfl | rfl
  · exact hkeep _ (by omega) hfirst
  · exact hsecond

end Sys2Proof.Machine
end

section
/-! SUPPORT. A prefetch in one lane (R282). -/

namespace Sys2Proof.Machine

/-- What a prefetch does to the L1 with the record it finds. -/
def State.prefetched (s : State) (lv : PrefLevel) (fl : Flock) (a : Val) (r : ObjRec) : State :=
  if a.void || lv = .l2 || r.coh = 3 || curOos a.bits || (r.coords (curOffset a.bits)).isNone || !r.permits { read := true } then s
  else if r.rmap ≠ 0 && s.granuleState r.rmap ((r.addrOf (curOffset a.bits) - r.base) / 2 ^ (12 + r.gran)) ≠ 1 then s
  else (s.fill fl.core fl.ctx r.coh (r.addrOf (curOffset a.bits) / 64 * 64)).fill fl.core fl.ctx r.coh
    (r.addrOf (curOffset a.bits) / 64 * 64 + 32)

theorem exec_pref_oneLane {s : State} {fl : Flock} {j : Nat} {ln : Lane} {k : Cell} {pm : Pm} (h : OneLane s fl j ln k pm) (lv : PrefLevel)
    (t0 t1 : Target) {u : State} {o : Option ObjRec}
    (hu : (s.gives ln j (.pref pm lv t0 t1) { bits := 0 }).prefRecord fl.core fl.ctx (curHandle k.a.bits) = (u, o)) :
    exec (.pref pm lv t0 t1) s = .next (o.elim u (u.prefetched lv fl k.a)) := by
  change execPref pm lv t0 t1 s = _
  rw [execPref, effectOp_oneLane h]
  refine congrArg _ ?_
  dsimp only
  rw [show (s.deliverNow ln j (.pref pm lv t0 t1) { bits := 0 }).prefRecord fl.core fl.ctx (curHandle k.a.bits) = (u, o) from hu]
  cases o <;> rfl

/-- A prefetch's walk and its use of a record change the record cache alone. -/
theorem State.exists_prefRecord (s : State) (core x h : Nat) :
    ∃ (e : List OrcEntry) (n : Nat) (o : Option ObjRec), s.prefRecord core x h = ({ s with orc := e, orcClock := n }, o) := by
  unfold State.prefRecord
  split
  · exact ⟨_, _, _, rfl⟩
  · split
    · exact ⟨_, _, _, rfl⟩
    · exact ⟨_, _, _, rfl⟩

theorem State.prefRecord_of_hit {s : State} {core x h : Nat} {r : ObjRec} (hr : s.orcHit core x h = some r) :
    s.prefRecord core x h = (s.orcUse core x h, some r) := by
  rw [State.prefRecord, hr]

/-- With place for a line a prefetch changes at most the L1, and brings the whole line where nothing forbids it. -/
theorem State.prefetched_eq {s : State} (hb : s.bridge = []) {fl : Flock} (hroom : (s.linesOf fl.core).length < Config.l1Lines)
    (lv : PrefLevel) (a : Val) (r : ObjRec) :
    ∃ m, s.prefetched lv fl a r = { s with l1 := m } ∧
      (lv = .l1 → a.void = false → curOos a.bits = false → r.permits { read := true } = true → r.coh ≠ 3 → r.rmap = 0 →
        r.coords (curOffset a.bits) ≠ none → ∀ b ∈ [0, 32], HoldsWhole m fl.core (r.addrOf (curOffset a.bits) / 64 * 64 + b)) := by
  obtain ⟨m, hm, hline⟩ := State.fillLine_holdsWhole hb hroom fl.ctx r.coh (r.addrOf (curOffset a.bits))
  unfold State.prefetched
  split
  next hno =>
    refine ⟨s.l1, rfl, fun hlv hv hoos hper hcoh _ hin => ?_⟩
    have hsome := Option.isNone_eq_false_iff.mpr (Option.ne_none_iff_isSome.mp hin)
    simp [hlv, hv, hoos, hper, hcoh, hsome] at hno
  next =>
    split
    next hno =>
      refine ⟨s.l1, rfl, fun _ _ _ _ _ hrmap _ => ?_⟩
      simp [hrmap] at hno
    next => exact ⟨m, hm, fun _ _ _ _ _ _ _ => hline⟩

/-- A prefetch delivers 0 when it executes; with a cached record it brings the line of an element that it may read (R282). -/
theorem pref_oneLane {s : State} {fl : Flock} {j : Nat} {ln : Lane} {k : Cell} {pm : Pm} (h : OneLane s fl j ln k pm) (lv : PrefLevel)
    (t0 t1 : Target) (hb : s.bridge = []) (hroom : (s.linesOf fl.core).length < Config.l1Lines) :
    ∃ t, exec (.pref pm lv t0 t1) s = .next t ∧ t.mem = s.mem ∧ t.accesses = s.accesses ∧
      t.lane? ln.fid = some (ln.complete j true t0 t1 { bits := 0 } { bits := 0 }) ∧
      ∀ r : ObjRec, lv = .l1 → Cached s fl k.a.bits r → k.a.void = false → k.a.bits.getLsbD 63 = false →
        r.permits { read := true } = true → r.coh ≠ 3 → r.rmap = 0 → r.coords (k.a.bits.extractLsb' 0 44).toNat ≠ none →
        ∀ b ∈ [0, 32], HoldsWhole t.l1 fl.core (r.addrOf (k.a.bits.extractLsb' 0 44).toNat / 64 * 64 + b) := by
  have ⟨_, _, hl, _⟩ := h
  have hlane := State.lane?_completeLane hl j t0 t1 { bits := 0 } { bits := 0 }
  obtain ⟨e, n, o, hu⟩ := (s.gives ln j (.pref pm lv t0 t1) { bits := 0 }).exists_prefRecord fl.core fl.ctx (curHandle k.a.bits)
  have hexec := exec_pref_oneLane h lv t0 t1 hu
  have hcached {r : ObjRec} (hr : Cached s fl k.a.bits r) : o = some r := by
    rw [Cached, ← curHandle_eq_extract] at hr
    have hhit := State.prefRecord_of_hit (s := s.gives ln j (.pref pm lv t0 t1) { bits := 0 }) hr
    exact congrArg Prod.snd (hu.symm.trans hhit)
  cases o with
  | none => exact ⟨_, hexec, rfl, rfl, hlane, fun r _ hr => absurd (hcached hr) (by simp)⟩
  | some r =>
    obtain ⟨m, hm, hwhole⟩ := State.prefetched_eq
      (s := { s.gives ln j (.pref pm lv t0 t1) { bits := 0 } with orc := e, orcClock := n }) hb hroom lv k.a r
    refine ⟨_, hexec.trans (congrArg _ hm), rfl, rfl, hlane, fun r' hlv hr hv h63 hper hcoh hrmap hin => ?_⟩
    cases hcached hr
    rw [← curOffset_eq_extract] at hin ⊢
    exact hwhole hlv hv h63 hper hcoh hrmap hin

end Sys2Proof.Machine
end

section
/-! CERTIFICATE. O25: void-marked operands, cursor steps, queries and prefetches. -/

namespace Sys2Proof.Machine

theorem cursSteps_single {x : CursDim} (h : (cursDim x).2 = false) (b c : Word) : cursSteps x b c = [((cursDim x).1, b.toInt)] := by
  simp [cursSteps, h]

theorem cursSteps_pair {x : CursDim} (h : (cursDim x).2 = true) (b c : Word) :
    cursSteps x b c = [((cursDim x).1, b.toInt), ((cursDim x).1 + 1, c.toInt)] := by
  simp [cursSteps, h]

/-- A `curs` whose form is not the single step of dimension 0 has other steps. -/
theorem cursSteps_ne_first {x : CursDim} (h : cursDim x ≠ (0, false)) (b c : Word) (v : Int) : cursSteps x b c ≠ [(0, v)] := by
  rcases hx : cursDim x with ⟨n, pair⟩
  cases pair with
  | true => simp [cursSteps, hx]
  | false =>
    have hn : n ≠ 0 := fun h0 => h (by rw [hx, h0])
    simp [cursSteps, hx, hn]

/-- No context of that number is under DET. -/
theorem State.isDet_of_none {s : State} {x : Nat} (h : ∀ c, s.ctx? x = some c → c.det = false) : s.isDet x = false := by
  rw [State.isDet]
  cases hc : s.ctx? x with
  | none => rfl
  | some c => exact h c hc

/-- Settles O25: early values for marks and for cursors out of shape, the stepped coordinates for the others, fills for the prefetch. -/
theorem markedOperandsAndCursors : Obligations.MarkedOperandsAndCursors := by
  refine ⟨?_, ?_, ?_⟩
  · intro s fl j ln k pm w wd d x imm op fop w64 ord sc q t0 t1 h
    have early {f : Cell → Option Val} {v : Val} (he : f k = some v) (i : Instr) := cursorOp_early h he i
    have region {f : Cell → Option Val} {v : Val} (he : f k = some v) (i : Instr) := regionOp_early h he i
    refine ⟨fun hv i hi => ?_, fun hv hdet => ?_, fun hv i hi => ?_, fun hv hoos => ⟨?_, fun hvb hvc => ?_⟩, fun hv => ?_, fun hv => ?_⟩
    · have hz : voidZero k = some zeroVoid := by simp [voidZero, hv]
      simp only [List.mem_cons, List.not_mem_nil, or_false] at hi
      rcases hi with rfl | rfl | rfl | rfl | rfl | rfl
      · exact early hz _
      · exact region hz _ _ _
      · exact region hz _ _ _
      · exact early hz _
      · exact early hz _
      · exact early hz _
    · change execFatom pm fop t0 ord sc s = _
      rw [execFatom, effectOp_oneLane h]
      dsimp only
      rw [hv, State.isDet_of_none hdet]
      rfl
    · have hst : voidStore k = some { bits := 1 } := by simp [voidStore, hv]
      simp only [List.mem_cons, List.not_mem_nil, or_false] at hi
      rcases hi with rfl | rfl | rfl
      · exact early hst _
      · exact region hst _ _ _
      · exact region hst _ _ _
    · refine early (f := cursEarly readsA) ?_ _
      simp [cursEarly, Reads.void, readsA, hv, curOos, hoos]
    · refine early (f := cursEarly (if (cursDim x).2 then readsABC else readsAB)) ?_ _
      rw [cursEarly, cursReads_void, hv, hvb, curOos, hoos, if_neg (by simpa using hvc), if_pos rfl]
    · refine ⟨{ k.a with void := true }, rfl, early (f := cursEarly readsA) ?_ _⟩
      simp [cursEarly, Reads.void, readsA, hv]
    · refine ⟨{ k.a with void := true }, rfl, early (f := cursEarly (if (cursDim x).2 then readsABC else readsAB)) ?_ _⟩
      rw [cursEarly, cursReads_void, if_pos (by simpa [or_assoc] using hv)]
  · intro s fl j ln k pm r d x imm q t0 t1 h hr hv hnum gives off out cursor ok moved
    have hcursi (h63 : k.a.bits.getLsbD 63 = false) := cursi_gives h hr hnum hv h63 t0 d imm
    have hcurs (h63 : k.a.bits.getLsbD 63 = false) (hvb : k.b.void = false) (hvc : (cursDim x).2 = true → k.c.void = false) :=
      curs_gives h hr hnum hv hvb x hvc h63 t0 t1
    refine ⟨fun hq => ?_, fun h63 hrank hlen => ?_, fun h63 hrank => ⟨fun hout => ⟨?_, fun hvb hvc => ?_⟩, fun l hin hbound => ?_⟩⟩
    · have hquery := hqry_gives h hr hnum hv hq t0 t1
      cases q <;> exact hquery
    · intro step
      have hstep (b : Word) : stepCursor r k.a.bits [(0, b.toInt)] = step b := by
        rw [stepCursor_rankOne hrank h63 hlen, curOffset_eq_extract]
        rfl
      refine ⟨?_, fun hvb hx => ?_, fun hvb hvc hx => ?_⟩
      · have hgives := hcursi h63
        split
        next hd => rwa [hd, hstep] at hgives
        next hd => rwa [stepCursor_rankOne_other hrank _ (by simp [hd])] at hgives
      · have hgives := hcurs h63 hvb (by simp [hx])
        rwa [cursSteps_single (by rw [hx]), hx, hstep] at hgives
      · have hgives := hcurs h63 hvb fun _ => hvc
        rwa [stepCursor_rankOne_other hrank _ (cursSteps_ne_first hx _ _)] at hgives
    · have hgives := hcursi h63
      rwa [stepCursor_outside hrank (curOffset_eq_extract _ ▸ hout)] at hgives
    · have hgives := hcurs h63 hvb fun _ => hvc
      rwa [stepCursor_outside hrank (curOffset_eq_extract _ ▸ hout)] at hgives
    · intro n m pair
      replace hin : r.coords (curOffset k.a.bits) = some l := (curOffset_eq_extract k.a.bits).symm ▸ hin
      replace hbound : ∀ l, r.InShape l → r.offset l < 2 ^ 44 := hbound
      refine ⟨fun hok => ?_, fun hno => ?_, fun hvb hp hok => ?_, fun hvb hp hno => ?_, fun hvb hvc hp hok hok' => ?_, fun hvb hvc hp hno => ?_⟩
      · have hgives := hcursi h63
        rwa [stepCursor_one hrank hin h63 hbound hok] at hgives
      · have hgives := hcursi h63
        rwa [stepCursor_one_leaves hrank hin hno] at hgives
      · have hgives := hcurs h63 hvb fun hpair => absurd (hp.symm.trans hpair) (by decide)
        rwa [cursSteps_single hp, stepCursor_one hrank hin h63 hbound hok] at hgives
      · have hgives := hcurs h63 hvb fun hpair => absurd (hp.symm.trans hpair) (by decide)
        rwa [cursSteps_single hp, stepCursor_one_leaves hrank hin hno] at hgives
      · have hgives := hcurs h63 hvb fun _ => hvc
        rwa [cursSteps_pair hp, stepCursor_two hrank hin h63 hbound (Nat.ne_of_lt m.lt_succ_self) hok hok'] at hgives
      · have hgives := hcurs h63 hvb fun _ => hvc
        rwa [cursSteps_pair hp, stepCursor_two_leaves hrank hin hno] at hgives
  · intro s fl j ln k pm lv t0 t1 h hb hroom
    exact pref_oneLane h lv t0 t1 hb hroom

end Sys2Proof.Machine
end

section
/-! SUPPORT. The new value of an atomic (R275–R278): what the model computes is what the operation leaves. -/

namespace Sys2Proof.Machine

theorem natLE_lt (l : List Byte) : natLE l < 256 ^ l.length := by
  induction l with
  | nil => simp [natLE]
  | cons b r ih =>
    have hb := b.isLt
    rw [natLE, List.length_cons, pow_succ]
    omega

theorem natLE_bytesLE {n v : Nat} (h : v < 256 ^ n) : natLE (bytesLE n v) = v := by
  induction n generalizing v with
  | zero => simp [bytesLE, natLE]; omega
  | succ n ih =>
    rw [bytesLE, natLE, ih (by rw [pow_succ] at h; omega), BitVec.toNat_ofNat]
    omega

/-- The bits of an atomic's word. -/
def atomBits (w64 : Bool) : Nat := if w64 then 64 else 32

/-- The signed reading of a word (R65). -/
theorem signed_eq_toInt {w : Nat} (hw : 0 < w) (x : BitVec w) :
    (if x.toNat < 2 ^ w / 2 then (x.toNat : Int) else (x.toNat : Int) - (2 ^ w : Nat)) = x.toInt := by
  obtain ⟨n, rfl⟩ := Nat.exists_eq_add_one.mpr hw
  rw [BitVec.toInt_eq_toNat_cond]
  have : 2 ^ (n + 1) = 2 * 2 ^ n := by ring
  split <;> split <;> omega

theorem AtomTo.word {i : Instr} {pm : Pm} {t0 : Target} {w64 : Bool} {ord : Order} {sc : Scope} {old x : Nat} {b c : Word}
    (h : AtomTo i pm t0 w64 ord sc old b c x) :
    (∃ op, atomicOf i = some (op, w64, ord, sc)) ∧ t0Of i = t0 ∧ t1Of i = .none := by
  rcases h with ⟨op, rfl, -⟩ | ⟨rfl, -⟩ | ⟨rfl, op, rfl, -⟩
  · exact ⟨⟨_, rfl⟩, rfl, rfl⟩
  · exact ⟨⟨_, rfl⟩, rfl, rfl⟩
  · exact ⟨⟨_, rfl⟩, rfl, rfl⟩

/-- A rounded or chosen `.f32` value has 32 bits. -/
theorem fminmax_f32_lt (mx : Bool) (a b : Word) : (fminmax mx .f32 a b).toNat < 2 ^ 32 := by
  have code (w : Word) : (BitVec.ofNat 64 (fbitsOf .f32 w)).toNat < 2 ^ 32 :=
    (Nat.mod_le _ _).trans_lt (Nat.mod_lt _ (by decide))
  unfold fminmax
  dsimp only
  split
  · split
    · decide
    · exact code b
  · split
    · exact code a
    · split
      · exact code a
      · exact code b

theorem fadd_f32_lt (a b : Word) : (fadd .f32 .rne a b).toNat < 2 ^ 32 := by
  rw [fadd, toNat_fres]
  exact roundTo_ffOf_lt .f32 _ _ _

/-- The pair form adds each half by itself. -/
theorem toNat_halves_fadd {x y : Nat} (hx : x < 2 ^ 32) (hy : y < 2 ^ 32) :
    (halves (fun x y _ => fadd .bf16 .rne x y) (BitVec.ofNat 64 x) (BitVec.ofNat 64 y) 0).toNat =
      (fadd .bf16 .rne (BitVec.ofNat 64 (x % 65536)) (BitVec.ofNat 64 (y % 65536))).toNat +
        65536 * (fadd .bf16 .rne (BitVec.ofNat 64 (x / 65536)) (BitVec.ofNat 64 (y / 65536))).toNat := by
  have half (z : Nat) : (((BitVec.ofNat 64 z).extractLsb' 0 16).setWidth 64) = BitVec.ofNat 64 (z % 65536) := by
    apply BitVec.eq_of_toNat_eq
    simp
  have high {z : Nat} (hz : z < 2 ^ 32) : (((BitVec.ofNat 64 z).extractLsb' 16 16).setWidth 64) = BitVec.ofNat 64 (z / 65536) := by
    apply BitVec.eq_of_toNat_eq
    simp [Nat.shiftRight_eq_div_pow]
    omega
  have small (u v : Word) : (fadd .bf16 .rne u v).toNat < 2 ^ 16 := fres_lt (by decide) ..
  rw [halves_eq, half, half, high hx, high hy, BitVec.toNat_or, BitVec.toNat_shiftLeft, Nat.mod_eq_of_lt, ← Nat.shiftLeft_add_eq_or_of_lt (small _ _),
    Nat.shiftLeft_eq]
  · omega
  · rw [Nat.shiftLeft_eq]
    have := small (BitVec.ofNat 64 (x / 65536)) (BitVec.ofNat 64 (y / 65536))
    omega

/-- An integer atomic as an operation on words (R275, R276). -/
def atomApply {w : Nat} (op : AtomOp) (o v : BitVec w) : BitVec w :=
  match op with
  | .add => o + v
  | .min => if v.toInt < o.toInt then v else o
  | .max => if o.toInt < v.toInt then v else o
  | .minu => if o.toNat ≤ v.toNat then o else v
  | .maxu => if o.toNat ≤ v.toNat then v else o
  | .and => o &&& v
  | .or => o ||| v
  | .xor => o ^^^ v
  | .exch => v

theorem atomBits_pos (w64 : Bool) : 0 < atomBits w64 := by cases w64 <;> decide

theorem atomNew_atom (op : AtomOp) (w64 : Bool) (o v : BitVec (atomBits w64)) {b : Nat} (hv : b % 2 ^ atomBits w64 = v.toNat) (c : Nat) :
    atomNew (atomCode op) w64 o.toNat b c = some (atomApply op o v).toNat := by
  have hsigned := signed_eq_toInt (atomBits_pos w64)
  change b % 2 ^ (if w64 then 64 else 32) = v.toNat at hv
  unfold atomNew
  dsimp only
  rw [hv]
  change ∀ x : BitVec (atomBits w64), (if x.toNat < 2 ^ (if w64 then 64 else 32) / 2 then (x.toNat : Int)
    else (x.toNat : Int) - (2 ^ (if w64 then 64 else 32) : Nat)) = x.toInt at hsigned
  cases op <;> simp only [atomCode, atomApply]
  case add => exact congrArg some (BitVec.toNat_add o v).symm
  case min => simp only [hsigned, apply_ite BitVec.toNat]
  case max => simp only [hsigned, apply_ite BitVec.toNat]
  case minu => rw [apply_ite BitVec.toNat]; rfl
  case maxu => rw [apply_ite BitVec.toNat]; rfl
  case and => exact congrArg some (BitVec.toNat_and o v).symm
  case or => exact congrArg some (BitVec.toNat_or o v).symm
  case xor => exact congrArg some (BitVec.toNat_xor o v).symm

/-- The word that stands after an atomic, whether it writes or not. -/
theorem AtomTo.value {i : Instr} {pm : Pm} {t0 : Target} {w64 : Bool} {ord : Order} {sc : Scope} {old x : Nat} {b c : Word}
    (h : AtomTo i pm t0 w64 ord sc old b c x) (hold : old < 2 ^ atomBits w64) {op : Nat} (hop : atomicOf i = some (op, w64, ord, sc)) :
    (atomNew op w64 old b.toNat c.toNat).getD old = x ∧ x < 2 ^ atomBits w64 := by
  have ho : (BitVec.ofNat (atomBits w64) old).toNat = old := by rw [BitVec.toNat_ofNat, Nat.mod_eq_of_lt hold]
  rcases h with ⟨op, rfl, hx⟩ | ⟨rfl, hx⟩ | ⟨rfl, op, rfl, hx⟩
  · cases hop
    have hnew := atomNew_atom op w64 (BitVec.ofNat _ old) (BitVec.ofNat _ b.toNat) (BitVec.toNat_ofNat ..).symm c.toNat
    have hval : x = (atomApply op (BitVec.ofNat (atomBits w64) old) (BitVec.ofNat (atomBits w64) b.toNat)).toNat := by
      rw [hx]
      cases op <;> simp only [atomApply, apply_ite BitVec.toNat, ho] <;> rfl
    rw [ho] at hnew
    rw [hnew, hval]
    exact ⟨rfl, BitVec.isLt _⟩
  · cases hop
    have hnew : atomNew 9 w64 old b.toNat c.toNat = if old = b.toNat % 2 ^ atomBits w64 then some (c.toNat % 2 ^ atomBits w64) else none := rfl
    replace hx : x = if old = (BitVec.ofNat (atomBits w64) b.toNat).toNat then c.toNat % 2 ^ atomBits w64 else old := hx
    rw [BitVec.toNat_ofNat] at hx
    rw [hnew, hx]
    split
    · exact ⟨rfl, Nat.mod_lt _ (Nat.two_pow_pos _)⟩
    · exact ⟨rfl, hold⟩
  · cases hop
    have hv : (BitVec.ofNat (if false = true then 64 else 32) b.toNat).toNat = b.toNat % 2 ^ 32 := BitVec.toNat_ofNat ..
    rw [hv] at hx
    have hold32 : old < 2 ^ 32 := hold
    have hb : b.toNat % 2 ^ 32 < 2 ^ 32 := Nat.mod_lt _ (by decide)
    cases op with
    | addF32 => exact ⟨(Nat.mod_eq_of_lt (fadd_f32_lt ..)).trans hx.symm, hx ▸ fadd_f32_lt ..⟩
    | minF32 => exact ⟨(Nat.mod_eq_of_lt (fminmax_f32_lt ..)).trans hx.symm, hx ▸ fminmax_f32_lt ..⟩
    | maxF32 => exact ⟨(Nat.mod_eq_of_lt (fminmax_f32_lt ..)).trans hx.symm, hx ▸ fminmax_f32_lt ..⟩
    | addBf16x2 =>
      have hpair := toNat_halves_fadd hold32 hb
      have hlt := halves_lt (f := fun x y _ => fadd .bf16 .rne x y) (fun _ _ _ => fres_lt (by decide) ..) (BitVec.ofNat 64 old)
        (BitVec.ofNat 64 (b.toNat % 2 ^ 32)) 0
      exact ⟨(Nat.mod_eq_of_lt hlt).trans (hpair.trans hx.symm), hx ▸ hpair ▸ hlt⟩

end Sys2Proof.Machine
end

section
/-! SUPPORT. An atomic that is due is performed (R275): what it waits for, and what its delivery leaves. -/

namespace Sys2Proof.Machine

/-- `u` differs from `s` in memory, in caches, in the cores' registers and in the stacks' windows alone. -/
def State.StoresOnly (s u : State) : Prop := u = { s with mem := u.mem, l1 := u.l1, cores := u.cores, memStacks := u.memStacks }

theorem State.StoresOnly.conclude {s u : State} (h : s.StoresOnly u) {a : Access} (ho : a.orphan = false) (v : Val) :
    OnlyMemory s (u.conclude a v) a := by
  rw [h]
  unfold State.conclude State.deliverAccess
  rw [State.chargeUnits_eq, ho]
  exact ⟨rfl, rfl, rfl, rfl, rfl, rfl, rfl, rfl, rfl⟩

theorem State.StoresOnly.accesses {s u : State} (h : s.StoresOnly u) : u.accesses = s.accesses := by rw [h]

theorem State.StoresOnly.bridge {s u : State} (h : s.StoresOnly u) : u.bridge = s.bridge := by rw [h]

theorem State.StoresOnly.lane? {s u : State} (h : s.StoresOnly u) (fid : Nat) : u.lane? fid = s.lane? fid := by rw [h]; rfl

/-- Delivery and charge leave memory, caches and registers. -/
theorem State.stored_conclude (u : State) {a : Access} (ho : a.orphan = false) (v : Val) :
    (u.conclude a v).mem = u.mem ∧ (u.conclude a v).l1 = u.l1 ∧ (u.conclude a v).cores = u.cores ∧ (u.conclude a v).bridge = u.bridge := by
  unfold State.conclude State.deliverAccess
  rw [State.chargeUnits_eq, ho]
  exact ⟨rfl, rfl, rfl, rfl⟩

theorem State.lane?_conclude {u : State} {a : Access} (ho : a.orphan = false) {ln : Lane} (hl : u.lane? a.fid = some ln) (v : Val) :
    (u.conclude a v).lane? a.fid = some (ln.complete a.idx true (t0Of a.instr) (t1Of a.instr) v v) := by
  unfold State.conclude
  rw [State.chargeUnits_eq]
  exact State.lane?_deliverAccess ho hl v

/-- An access that has delivered is over: it is charged and no other is performed with it. -/
theorem State.performIf_of_delivered {s u : State} {a : Access} (hmay : s.mayPerform a = true) (hpkg : a.pkg = none)
    (hacc : u.accesses = s.accesses) {v : Val} (hp : s.perform a = u.deliverAccess a v) : s.performIf a = u.conclude a v := by
  have hgone : (u.deliverAccess a v).accesses = s.accesses.filter (·.id ≠ a.id) := by
    rw [State.accesses_deliverAccess, State.dropAccess, hacc]
  have hcharged : s.performCharged a = u.conclude a v := by
    rw [State.performCharged, hp, if_neg, State.charge, hpkg]
    · rfl
    · rw [hgone]
      simp +contextual
  have hfind : (u.conclude a v).accesses.find? (·.id == a.id) = none := by
    rw [State.conclude, State.chargeUnits_eq]
    simp [hgone, List.find?_eq_none]
  rw [State.performIf, if_pos hmay, hcharged]
  dsimp only
  rw [hfind]

/-- An access that waits stays as it is. -/
theorem State.performIf_of_waits {s : State} {a : Access} (hmay : s.mayPerform a = true) (hph : a.phase = .ready)
    (hfind : s.accesses.find? (·.id == a.id) = some a) (hp : s.perform a = s) : s.performIf a = s := by
  have hcharged : s.performCharged a = s := by
    rw [State.performCharged, hp]
    refine if_pos (List.any_eq_true.mpr ⟨a, List.mem_of_find?_eq_some hfind, by simp [hph]⟩)
  rw [State.performIf, if_pos hmay, hcharged]
  dsimp only
  rw [hfind]
  simp

theorem atomicOf_cases {i : Instr} {op : Nat} {w64 : Bool} {ord : Order} {sc : Scope} (h : atomicOf i = some (op, w64, ord, sc)) :
    (∃ pm o t0, i = .atom pm o t0 w64 ord sc ∧ op = atomCode o) ∨ (∃ pm t0, i = .cas pm t0 w64 ord sc ∧ op = 9) ∨
      ∃ pm o t0, i = .fatom pm o t0 ord sc ∧ op = fatomCode o ∧ w64 = false := by
  unfold atomicOf at h
  split at h
  · cases h
    exact .inl ⟨_, _, _, rfl, rfl⟩
  · cases h
    exact .inr (.inl ⟨_, _, rfl, rfl⟩)
  · cases h
    exact .inr (.inr ⟨_, _, _, rfl, rfl, rfl⟩)
  · cases h

section
variable {s : State} {n : Nat} {a : Access} {ln : Lane} (h : Due s n a ln) {op : Nat} {w64 : Bool} {ord : Order} {sc : Scope}
  (hop : atomicOf a.instr = some (op, w64, ord, sc))
include h hop

theorem Due.mayPerform_atomic : s.mayPerform a = true := by
  obtain ⟨-, -, hph, -, -, -, -, herr, -, -, hord, hbud, -⟩ := h
  unfold State.mayPerform
  rw [hph, herr, hord, hbud]
  rcases atomicOf_cases hop with ⟨pm, o, t0, hi, -⟩ | ⟨pm, t0, hi, -⟩ | ⟨pm, o, t0, hi, -⟩ <;> rw [hi] <;> rfl

theorem Due.exec_atomic : exec (.memAccessPerformed n) s = .next (s.performIf a) := by
  obtain ⟨hat, -⟩ := h
  change execMemAccessPerformed n s = _
  unfold execMemAccessPerformed
  rw [hat]
  dsimp only
  rcases atomicOf_cases hop with ⟨pm, o, t0, hi, -⟩ | ⟨pm, t0, hi, -⟩ | ⟨pm, o, t0, hi, -⟩ <;> rw [hi] <;> rfl

theorem Due.perform_atomic (hdet : s.isDet a.ctx = false) : s.perform a = s.performAtomic a op w64 ord sc := by
  obtain ⟨-, -, -, -, -, -, -, -, -, -, -, -, he, hd, -⟩ := h
  have hm : State.meetErrors s.errors.length s a = (s, none) := by rw [he]; rfl
  unfold State.perform
  dsimp only
  rw [State.lastingFault_of_none hd, hm, ite_self]
  rcases atomicOf_cases hop with ⟨pm, o, t0, hi, rfl⟩ | ⟨pm, t0, hi, rfl⟩ | ⟨pm, o, t0, hi, rfl, rfl⟩ <;> rw [hi]
  · cases o <;> rfl
  · rfl
  · cases o with
    | addF32 =>
      dsimp only
      exact if_neg (by rw [hdet]; exact Bool.false_ne_true)
    | minF32 | maxF32 | addBf16x2 => rfl

end

/-! ### Its release -/

/-- With nothing issued before it still under way a release writes through and is done, at gang scope once all is acknowledged. -/
theorem State.releaseFor_of_clear {s : State} {a : Access} (h : ∀ i ∈ a.before, ∀ o ∈ s.accesses, o.id ≠ i) (sc : Scope) :
    s.releaseFor a sc = (s.release a.core sc, (s.release a.core sc).releaseDone sc a.ctx) := by
  unfold State.releaseFor
  dsimp only
  rw [if_pos]
  unfold State.beforeDone
  refine List.all_eq_true.mpr fun i hi => List.all_eq_true.mpr fun o ho => decide_eq_true ?_
  exact h i (List.mem_filter.mp hi).1 o ho

/-- An access of another firing that was issued before is waited for. -/
theorem State.releaseFor_of_waits {s : State} {a o : Access} (hids : (s.accesses.map (·.id)).Nodup) (ho : o ∈ s.accesses)
    (hb : o.id ∈ a.before)
    (hne : o.fid ≠ a.fid) (sc : Scope) : s.releaseFor a sc = (s, false) := by
  have hlater : (s.accesses.any fun p => p.id = o.id && p.fid = a.fid && a.idx < p.idx && p.known && p.overlaps a) = false := by
    refine List.any_eq_false.mpr fun p hp hall => hne ?_
    simp only [Bool.and_eq_true, decide_eq_true_eq] at hall
    obtain ⟨⟨⟨⟨hid, hfid⟩, -⟩, -⟩, -⟩ := hall
    rw [← List.inj_on_of_nodup_map hids hp ho hid]
    exact hfid
  unfold State.releaseFor
  dsimp only
  rw [if_neg]
  intro hdone
  have hmem : o.id ∈ a.before.filter fun i => !s.accesses.any fun p => p.id = i && p.fid = a.fid && a.idx < p.idx && p.known && p.overlaps a :=
    List.mem_filter.mpr ⟨hb, by rw [hlater]; rfl⟩
  have := List.all_eq_true.mp (List.all_eq_true.mp hdone _ hmem) o ho
  simp at this

/-- An atomic at home or in the L1 (R264, R275), `s1` being what its release leaves. -/
theorem State.performAtomic_eq {s s1 : State} {a : Access} (hpkg : a.pkg = none) {op : Nat} {w64 : Bool} {ord : Order} {sc : Scope}
    (hrel : (if ord = .rel || ord = .ar then s.releaseFor a sc else (s, true)) = (s1, true)) :
    s.performAtomic a op w64 ord sc =
      let r := if sc = .core && (a.coh = 1 || a.coh = 2) then s1.atomicL1 a op w64
        else (s1.flushLines a.core none a.bytes).atomicHome (dieOf a.core) a.bytes op w64 a.b.bits.toNat a.c.bits.toNat
      (if ord = .acq || ord = .ar then r.1.acquire a.core (some sc) else r.1).deliverAccess a { bits := BitVec.ofNat 64 r.2 } := by
  unfold State.performAtomic
  have hscope : a.scopeOf sc = sc := by rw [Access.scopeOf, hpkg]; rfl
  rw [hscope]
  dsimp only
  rw [hrel, hpkg]

end Sys2Proof.Machine
end

section
/-! SUPPORT. An atomic at home, the L1s being empty (R256, R275): its word, and what its release and its acquire leave. -/

namespace Sys2Proof.Machine

/-! ### Empty L1s -/

section
variable {s : State} (hl1 : s.l1 = [])
include hl1

theorem State.writeBackOf_of_empty (sc : Scope) (m : Sector → BitVec 32) : s.writeBackOf sc m = s := by
  simp only [State.writeBackOf, hl1, List.foldl_nil, List.map_nil]
  rw [← hl1]

theorem State.flushLines_of_empty (core : Nat) (pkg : Option Nat) (l : List Nat) : s.flushLines core pkg l = s := by
  simp only [State.flushLines, State.writeBack, State.writeBackOf_of_empty hl1, hl1, List.filter_nil]
  rw [← hl1]

theorem State.release_eq_self (hb : s.bridge = []) (core : Nat) (sc : Scope) : s.release core sc = s := by
  cases sc with
  | core => rfl
  | die => exact State.writeBackOf_of_empty hl1 _ _
  | pkg | gang => rw [State.release, State.writeBackOf_of_empty hl1, State.drainBridge_of_empty hb]

theorem State.acquire_of_empty (core : Nat) {sc : Scope} (hsc : sc ≠ .core) :
    s.acquire core (some sc) = s.updCore core fun c => { c with agen := (s.core core).agen + 1 } := by
  unfold State.acquire
  split
  next h => cases h
  next h => exact absurd (Option.some.inj h) hsc
  next =>
    dsimp only
    split
    next =>
      have hempty : (s.updCore core fun c => { c with agen := (s.core core).agen + 1 }).l1 = [] := hl1
      simp only [State.writeBack, State.writeBackOf_of_empty hempty, hempty, List.filter_nil]
      rw [← hl1]
      rfl
    next => rfl

end

/-! ### The word at home -/

/-- What an atomic leaves of its word's bytes: the new value, if it writes one. -/
def State.withAtom (s : State) (l : List Nat) (new : Option Nat) : State :=
  new.elim s fun v => s.wrAll (l.zip (bytesLE l.length v))

theorem State.foldl_homeWrite (die : Nat) (l : List (Nat × Byte)) {s : State} (hb : s.bridge = []) :
    l.foldl (fun s x => s.homeWrite die x.1 x.2) s = s.wrAll l := by
  induction l generalizing s with
  | nil => rfl
  | cons x r ih =>
    rw [List.foldl_cons, State.homeWrite, State.drainBridge_of_empty hb, ih (by rw [State.wr_bridge]; exact hb)]
    rfl

theorem State.atomicHome_eq {s : State} (hb : s.bridge = []) (die : Nat) (l : List Nat) (op : Nat) (w64 : Bool) (b c : Nat) :
    s.atomicHome die l op w64 b c = (s.withAtom l (atomNew op w64 (natLE (l.map s.rd)) b c), natLE (l.map s.rd)) := by
  unfold State.atomicHome
  rw [State.homeView, State.drainBridge_of_empty hb]
  dsimp only
  cases hnew : atomNew op w64 (natLE (l.map s.rd)) b c with
  | none => rfl
  | some v => exact congrArg (·, _) (State.foldl_homeWrite die _ hb)

theorem State.withAtom_eq (s : State) (l : List Nat) (new : Option Nat) : s.withAtom l new = { s with mem := (s.withAtom l new).mem } := by
  cases new with
  | none => rfl
  | some v => exact s.wrAll_eq _

theorem State.memOk_withAtom {s : State} (h : s.memOk) (l : List Nat) (new : Option Nat) : (s.withAtom l new).memOk := by
  cases new with
  | none => exact h
  | some v => exact State.memOk_wrAll h _

theorem State.rd_withAtom_outside {s : State} (h : s.memOk) {l : List Nat} {y : Nat} (hy : y ∉ l) (new : Option Nat) :
    (s.withAtom l new).rd y = s.rd y := by
  cases new with
  | none => rfl
  | some v =>
    refine State.rd_wrAll_outside h ?_
    rwa [List.map_fst_zip (by rw [length_bytesLE])]

/-- Read again, the word has the new value. -/
theorem State.natLE_withAtom {s : State} (h : s.memOk) {l : List Nat} (hnd : l.Nodup) (hm : ∀ y ∈ l, isMemory y = true) {new : Option Nat}
    (hlt : ∀ v, new = some v → v < 256 ^ l.length) : natLE (l.map (s.withAtom l new).rd) = new.getD (natLE (l.map s.rd)) := by
  cases new with
  | none => rfl
  | some v =>
    have hfst : (l.zip (bytesLE l.length v)).map Prod.fst = l := List.map_fst_zip (by rw [length_bytesLE])
    have hread : l.map (s.withAtom l (some v)).rd = bytesLE l.length v := by
      calc l.map (s.withAtom l (some v)).rd
          = (l.zip (bytesLE l.length v)).map fun z => (s.withAtom l (some v)).rd z.1 := by
            rw [← Function.comp_def, ← List.map_map, hfst]
        _ = (l.zip (bytesLE l.length v)).map Prod.snd := List.map_congr_left fun z hz =>
            State.rd_wrAll_of_mem h (hfst.symm ▸ hnd) hz (hm _ (List.of_mem_zip hz).1)
        _ = bytesLE l.length v := List.map_snd_zip (by rw [length_bytesLE])
    rw [hread, natLE_bytesLE (hlt v rfl)]
    rfl

end Sys2Proof.Machine
end

section
/-! SUPPORT. An L1 that shows memory as one core reads it, clean or stored to: loads and stores of bytes in it (R255, R264). -/

namespace Sys2Proof.Machine

/-- A core reads memory as `f`: no write is queued, each sector in an L1 is its own, whole, serves its loads and holds the bytes of `f`, and
memory holds them elsewhere. -/
structure State.Shows (s : State) (core coh : Nat) (f : Nat → Byte) : Prop where
  bridge : s.bridge = []
  own : ∀ x ∈ s.l1, x.core = core ∧ x.pkg = none ∧ x.addr % 32 = 0 ∧ x.bytes.length = 32
  serves : ∀ x ∈ s.l1, s.serves core coh x = true
  held : ∀ x ∈ s.l1, ∀ i < 32, x.byte i = f (x.addr + i)
  home : ∀ y, (∀ x ∈ s.l1, x.addr ≠ y / 32 * 32) → s.rd y = f y

/-- The L1 holds the sector of a byte. -/
def State.Holds (s : State) (y : Nat) : Prop := ∃ x ∈ s.l1, x.addr = y / 32 * 32

theorem State.shows_of_empty {s : State} (hl1 : s.l1 = []) (hb : s.bridge = []) (core coh : Nat) : s.Shows core coh s.rd :=
  ⟨hb, by simp [hl1], by simp [hl1], by simp [hl1], fun _ _ => rfl⟩

/-- What is shown depends on memory, the L1s, the bridges and the core's registers alone. -/
theorem State.Shows.of_eq {s t : State} {core coh : Nat} {f : Nat → Byte} (h : s.Shows core coh f) (hm : t.mem = s.mem) (hl : t.l1 = s.l1)
    (hb : t.bridge = s.bridge) (hc : t.cores = s.cores) : t.Shows core coh f where
  bridge := hb.trans h.bridge
  own := hl ▸ h.own
  serves := by
    have hs : t.serves core coh = s.serves core coh := by
      funext x
      rw [State.serves, State.serves, State.core, State.core, hc]
    rw [hl, hs]
    exact h.serves
  held := hl ▸ h.held
  home := by rw [hl, State.rd_of_mem hm]; exact h.home

theorem length_eraseDups_le {α : Type} [BEq α] [LawfulBEq α] (l : List α) : l.eraseDups.length ≤ l.length := by
  induction hn : l.length using Nat.strong_induction_on generalizing l with
  | _ n ih =>
    cases l with
    | nil => simp
    | cons a r =>
      rw [List.eraseDups_cons, List.length_cons]
      have hf : (r.filter fun b => !b == a).length ≤ r.length := List.length_filter_le ..
      rw [List.length_cons] at hn
      have := ih _ (by omega) (r.filter fun b => !b == a) rfl
      omega

theorem State.placeFor_of_length {s : State} (hlen : s.l1.length < Config.l1Lines) (core y : Nat) : s.PlaceFor core y := by
  refine .inr (lt_of_le_of_lt ?_ hlen)
  unfold State.linesOf
  exact (length_eraseDups_le _).trans ((List.length_map _).le.trans (List.length_filter_le ..))

section
variable {s : State} {core coh : Nat} {f : Nat → Byte} (h : s.Shows core coh f)
include h

theorem State.Shows.find? {y : Nat} (hy : s.Holds y) :
    ∃ x ∈ s.l1, x.addr = y / 32 * 32 ∧ s.l1.find? (sectorIs core (y / 32 * 32) none) = some x := by
  obtain ⟨z, hz, hza⟩ := hy
  obtain ⟨hzc, hzp, -⟩ := h.own z hz
  cases hf : s.l1.find? (sectorIs core (y / 32 * 32) none) with
  | none => exact absurd (sectorIs_iff.mpr ⟨hzc, hza, hzp⟩) (List.find?_eq_none.mp hf z hz)
  | some x =>
    obtain ⟨-, hxa, -⟩ := sectorIs_iff.mp (List.find?_some hf)
    exact ⟨x, List.mem_of_find?_eq_some hf, hxa, rfl⟩

theorem State.Shows.fill_absent {y : Nat} (hf : s.l1.find? (sectorIs core (y / 32 * 32) none) = none) (ctx : Nat) :
    ({ s with l1 := s.l1 ++ [s.broughtIn core ctx coh y] } : State).Shows core coh f where
  bridge := h.bridge
  own x hx := by
    rcases List.mem_append.mp hx with hx | hx
    · exact h.own x hx
    · rw [List.mem_singleton.mp hx]
      exact ⟨rfl, rfl, Nat.mul_mod_left .., State.rdN_length ..⟩
  serves x hx := by
    rcases List.mem_append.mp hx with hx | hx
    · exact h.serves x hx
    · rw [List.mem_singleton.mp hx]
      change s.serves core coh (s.broughtIn core ctx coh y) = true
      by_cases hcoh : coh = 2 <;> simp [State.serves, State.broughtIn, hcoh]
  held x hx i hi := by
    rcases List.mem_append.mp hx with hx | hx
    · exact h.held x hx i hi
    · rw [List.mem_singleton.mp hx]
      have hbyte : (s.broughtIn core ctx coh y).byte i = s.rd (y / 32 * 32 + i) := by
        simp [Sector.byte, State.broughtIn, State.rdN_eq_map, hi]
      refine hbyte.trans (h.home _ fun z hz hza => ?_)
      obtain ⟨hzc, hzp, -⟩ := h.own z hz
      exact List.find?_eq_none.mp hf z hz (sectorIs_iff.mpr ⟨hzc, by omega, hzp⟩)
  home z hz := h.home z fun x hx => hz x (List.mem_append_left _ hx)

theorem State.Shows.refilled {x : Sector} (hx : x ∈ s.l1) (y : Nat) (z : Sector) :
    s.refilled core coh y x z = if sectorIs core (y / 32 * 32) none z then { z with coh := coh } else z := by
  rw [State.refilled, h.serves x hx]
  rfl

/-- A change of the COH that a sector was last reached by. -/
theorem State.Shows.fill_held {x : Sector} (hx : x ∈ s.l1) (y : Nat) :
    ({ s with l1 := s.l1.map (s.refilled core coh y x) } : State).Shows core coh f := by
  have hsame (z : Sector) : ∃ c, s.refilled core coh y x z = { z with coh := c } := by
    rw [h.refilled hx]
    split
    · exact ⟨_, rfl⟩
    · exact ⟨z.coh, rfl⟩
  refine ⟨h.bridge, fun w hw => ?_, fun w hw => ?_, fun w hw => ?_, fun w hw => h.home w fun z hz => ?_⟩
  · obtain ⟨z, hz, rfl⟩ := List.mem_map.mp hw
    obtain ⟨c, hc⟩ := hsame z
    rw [hc]
    exact h.own z hz
  · obtain ⟨z, hz, rfl⟩ := List.mem_map.mp hw
    obtain ⟨c, hc⟩ := hsame z
    rw [hc]
    exact h.serves z hz
  · obtain ⟨z, hz, rfl⟩ := List.mem_map.mp hw
    obtain ⟨c, hc⟩ := hsame z
    rw [hc]
    exact h.held z hz
  · obtain ⟨c, hc⟩ := hsame z
    have := hw _ (List.mem_map_of_mem hz)
    rwa [hc] at this

/-- A fill leaves what is shown, and holds its byte. -/
theorem State.Shows.fill (ctx y : Nat) (hroom : s.l1.length < Config.l1Lines) :
    ∃ m, s.fill core ctx coh y = { s with l1 := m } ∧ ({ s with l1 := m } : State).Shows core coh f ∧ m.length ≤ s.l1.length + 1 ∧
      ({ s with l1 := m } : State).Holds y ∧ ∀ z, s.Holds z → ({ s with l1 := m } : State).Holds z := by
  cases hf : s.l1.find? (sectorIs core (y / 32 * 32) none) with
  | none =>
    refine ⟨_, State.fill_of_absent h.bridge hf (State.placeFor_of_length hroom core y) ctx coh, h.fill_absent hf ctx, by simp,
      ⟨_, List.mem_append_right _ (List.mem_singleton_self _), rfl⟩, ?_⟩
    rintro z ⟨x, hx, hxa⟩
    exact ⟨x, List.mem_append_left _ hx, hxa⟩
  | some x =>
    have hx := List.mem_of_find?_eq_some hf
    obtain ⟨-, hxa, -⟩ := sectorIs_iff.mp (List.find?_some hf)
    have keeps (z : Nat) (hz : s.Holds z) : ({ s with l1 := s.l1.map (s.refilled core coh y x) } : State).Holds z := by
      obtain ⟨w, hw, hwa⟩ := hz
      obtain ⟨-, ha, -⟩ := s.refilled_key core coh y x w
      exact ⟨_, List.mem_map_of_mem hw, ha.trans hwa⟩
    exact ⟨_, State.fill_of_held h.bridge hf ctx coh, h.fill_held hx y, by simp, keeps y ⟨x, hx, hxa⟩, keeps⟩

/-- A load of a byte reads what is shown. -/
theorem State.Shows.loadByte (hcoh : coh = 1 ∨ coh = 2) (ctx y : Nat) (hroom : s.l1.length < Config.l1Lines) :
    ∃ m, s.loadByte core ctx coh y = ({ s with l1 := m }, f y) ∧ ({ s with l1 := m } : State).Shows core coh f ∧
      m.length ≤ s.l1.length + 1 ∧ ({ s with l1 := m } : State).Holds y ∧ ∀ z, s.Holds z → ({ s with l1 := m } : State).Holds z := by
  obtain ⟨m, hm, hshows, hlen, hy, hkeep⟩ := h.fill ctx y hroom
  obtain ⟨x, hx, hxa, hfind⟩ := hshows.find? hy
  refine ⟨m, ?_, hshows, hlen, hy, hkeep⟩
  rw [State.loadByte, if_neg (by omega), hm]
  dsimp only
  rw [show m.find? (sectorIs core (y / 32 * 32) none) = some x from hfind]
  dsimp only
  rw [hshows.held x hx _ (Nat.mod_lt _ (by decide)), hxa, Nat.div_add_mod']

/-- A load of bytes reads what is shown, and leaves them in the L1. -/
theorem State.Shows.loadBytes (hcoh : coh = 1 ∨ coh = 2) (ctx : Nat) (l : List Nat) (hroom : s.l1.length + l.length ≤ Config.l1Lines) :
    ∃ m, s.loadBytes core ctx coh l = ({ s with l1 := m }, l.map f) ∧ ({ s with l1 := m } : State).Shows core coh f ∧
      m.length ≤ s.l1.length + l.length ∧ (∀ z ∈ l, ({ s with l1 := m } : State).Holds z) ∧
      ∀ z, s.Holds z → ({ s with l1 := m } : State).Holds z := by
  induction l generalizing s with
  | nil => exact ⟨s.l1, rfl, h, le_rfl, by simp, fun _ hz => hz⟩
  | cons y r ih =>
    rw [List.length_cons] at hroom
    obtain ⟨m, hm, hshows, hlen, hy, hkeep⟩ := h.loadByte hcoh ctx y (by unfold Config.l1Lines at *; omega)
    obtain ⟨m2, hm2, hshows2, hlen2, hr, hkeep2⟩ := ih hshows (by dsimp only; omega)
    refine ⟨m2, ?_, hshows2, by rw [List.length_cons]; dsimp only at hlen2; omega, ?_, fun z hz => hkeep2 z (hkeep z hz)⟩
    · rw [State.loadBytes, hm]
      dsimp only
      rw [hm2]
      rfl
    · exact List.forall_mem_cons.mpr ⟨hkeep2 y hy, hr⟩

end

end Sys2Proof.Machine
end

section
/-! SUPPORT. Stores over what an L1 shows, and an atomic performed in it (R255, R264, R275). -/

namespace Sys2Proof.Machine

/-- A whole sector that serves an access serves it after a store under the same COH. -/
theorem State.serves_store {s : State} {core coh : Nat} {x : Sector} (h : s.serves core coh x = true) (ctx : Nat) (shrd : Bool) (i : Nat)
    (b : Byte) : s.serves core coh (x.store ctx shrd i b) = true := by
  simp only [State.serves, Bool.and_eq_true, decide_eq_true_eq, Bool.or_eq_true] at h ⊢
  obtain ⟨hvalid, hshared⟩ := h
  exact ⟨by rw [Sector.store, hvalid, BitVec.allOnes_or],
    hshared.imp_right fun ⟨hs, hg⟩ => ⟨by rw [Sector.store, hs, Bool.true_or], hg⟩⟩

section
variable {s : State} {core coh : Nat} {f : Nat → Byte} (h : s.Shows core coh f)
include h

/-- A store of a byte that the L1 holds changes that byte alone. -/
theorem State.Shows.storeByte (hcoh : coh = 1 ∨ coh = 2) (ctx : Nat) {y : Nat} (hy : s.Holds y) (b : Byte) :
    ∃ m, s.storeByte core ctx coh y b = { s with l1 := m } ∧ ({ s with l1 := m } : State).Shows core coh (Function.update f y b) ∧
      m.length = s.l1.length ∧ ∀ z, s.Holds z → ({ s with l1 := m } : State).Holds z := by
  obtain ⟨x, hx, hxa, hfind⟩ := h.find? hy
  have hmine (z : Sector) (hz : z ∈ s.l1) : sectorIs core (y / 32 * 32) none z = decide (z.addr = y / 32 * 32) := by
    obtain ⟨hc, hp, -⟩ := h.own z hz
    simp [sectorIs, hc, hp]
  have haddr (z : Sector) :
      (if sectorIs core (y / 32 * 32) none z then z.store ctx (coh = 2) (y % 32) b else z).addr = z.addr := by
    split <;> rfl
  refine ⟨s.l1.map fun z => if sectorIs core (y / 32 * 32) none z then z.store ctx (coh = 2) (y % 32) b else z, ?_,
    ⟨h.bridge, fun w hw => ?_, fun w hw => ?_, fun w hw i hi => ?_, fun w hw => ?_⟩, List.length_map _, ?_⟩
  · rw [State.storeByte, if_neg (by omega), State.storeL1]
    dsimp only
    rw [hfind]
  · obtain ⟨z, hz, rfl⟩ := List.mem_map.mp hw
    have := h.own z hz
    split
    · rwa [Sector.length_bytes_store]
    · exact this
  · obtain ⟨z, hz, rfl⟩ := List.mem_map.mp hw
    split
    · exact State.serves_store (h.serves z hz) ..
    · exact h.serves z hz
  · obtain ⟨z, hz, rfl⟩ := List.mem_map.mp hw
    obtain ⟨-, -, halign, hlen⟩ := h.own z hz
    rw [haddr, hmine z hz]
    by_cases hza : z.addr = y / 32 * 32
    · rw [if_pos (decide_eq_true hza)]
      by_cases hiy : i = y % 32
      · rw [hiy, Sector.byte_store_same (by omega), show z.addr + y % 32 = y by omega, Function.update_self]
      · rw [Sector.byte_store_other (Ne.symm hiy), h.held z hz i hi, Function.update_of_ne (by omega)]
    · rw [if_neg (by simpa using hza), h.held z hz i hi, Function.update_of_ne (by omega)]
  · have hx' := hw _ (List.mem_map_of_mem hx)
    rw [haddr, hxa] at hx'
    rw [Function.update_of_ne (fun heq => hx' (by rw [heq]))]
    refine h.home w fun z hz => ?_
    have := hw _ (List.mem_map_of_mem hz)
    rwa [haddr] at this
  · rintro z ⟨w, hw, hwa⟩
    exact ⟨_, List.mem_map_of_mem hw, (haddr w).trans hwa⟩

/-- Stores of bytes that the L1 holds: they are shown, and no other byte changes. -/
theorem State.Shows.storeBytes (hcoh : coh = 1 ∨ coh = 2) (ctx : Nat) {l : List Nat} {bs : List Byte} (hnd : l.Nodup)
    (hlen : bs.length = l.length) (hheld : ∀ z ∈ l, s.Holds z) :
    ∃ m g, s.storeBytes core ctx coh l bs = { s with l1 := m } ∧ ({ s with l1 := m } : State).Shows core coh g ∧
      m.length = s.l1.length ∧ l.map g = bs ∧ ∀ z, z ∉ l → g z = f z := by
  induction l generalizing s f bs with
  | nil => exact ⟨s.l1, f, rfl, h, rfl, (List.length_eq_zero_iff.mp hlen).symm, fun _ _ => rfl⟩
  | cons y r ih =>
    cases bs with
    | nil => cases hlen
    | cons b bs =>
      obtain ⟨hyr, hr⟩ := List.nodup_cons.mp hnd
      obtain ⟨hy, hrheld⟩ := List.forall_mem_cons.mp hheld
      obtain ⟨m, hm, hshows, hmlen, hkeep⟩ := h.storeByte hcoh ctx hy b
      obtain ⟨m2, g, hm2, hshows2, hmlen2, hmap, hother⟩ :=
        ih hshows hr (Nat.succ.inj hlen) fun z hz => hkeep z (hrheld z hz)
      refine ⟨m2, g, ?_, hshows2, hmlen2.trans hmlen, ?_, fun z hz => ?_⟩
      · rw [State.storeBytes, hm, hm2]
      · rw [List.map_cons, hmap, hother y hyr, Function.update_self]
      · obtain ⟨hzy, hzr⟩ := not_or.mp (mt List.mem_cons.mpr hz)
        rw [hother z hzr, Function.update_of_ne hzy]

end

/-- An atomic in an L1 delivers what was shown and shows the new value; memory stays. -/
theorem State.Shows.atomicL1 {s : State} {a : Access} {f : Nat → Byte} (h : s.Shows a.core a.coh f) (hcoh : a.coh = 1 ∨ a.coh = 2)
    (hnd : a.bytes.Nodup) (hroom : s.l1.length + a.bytes.length ≤ Config.l1Lines) {op : Nat} {w64 : Bool}
    (hlt : ∀ v, atomNew op w64 (natLE (a.bytes.map f)) a.b.bits.toNat a.c.bits.toNat = some v → v < 256 ^ a.bytes.length) :
    ∃ m g, s.atomicL1 a op w64 = ({ s with l1 := m }, natLE (a.bytes.map f)) ∧ ({ s with l1 := m } : State).Shows a.core a.coh g ∧
      m.length ≤ s.l1.length + a.bytes.length ∧
      natLE (a.bytes.map g) =
        (atomNew op w64 (natLE (a.bytes.map f)) a.b.bits.toNat a.c.bits.toNat).getD (natLE (a.bytes.map f)) := by
  obtain ⟨m, hm, hshows, hmlen, hheld, -⟩ := h.loadBytes hcoh a.ctx a.bytes hroom
  unfold State.atomicL1
  rw [hm]
  dsimp only
  cases hnew : atomNew op w64 (natLE (a.bytes.map f)) a.b.bits.toNat a.c.bits.toNat with
  | none => exact ⟨m, f, rfl, hshows, hmlen, rfl⟩
  | some v =>
    obtain ⟨m2, g, hm2, hshows2, hmlen2, hmap, -⟩ := hshows.storeBytes hcoh a.ctx hnd (length_bytesLE ..) hheld
    refine ⟨m2, g, ?_, hshows2, hmlen2.trans_le hmlen, ?_⟩
    · dsimp only
      rw [hm2]
    · rw [hmap, natLE_bytesLE (hlt v hnew)]
      rfl

end Sys2Proof.Machine
end

section
/-! SUPPORT. An atomic performed from empty L1s, at home or in the L1, and one whose release waits (R132, R256, R264, R275). -/

namespace Sys2Proof.Machine

/-- A clear release from an empty L1 writes nothing. -/
theorem State.releaseIf_of_empty {s : State} {a : Access} {ord : Order} {sc : Scope} (hl1 : s.l1 = []) (hb : s.bridge = [])
    (hclear : ord = .rel ∨ ord = .ar → (∀ i ∈ a.before, ∀ o ∈ s.accesses, o.id ≠ i) ∧ (sc = .gang → s.remoteOut = [])) :
    (if ord = .rel || ord = .ar then s.releaseFor a sc else (s, true)) = (s, true) := by
  split
  next hrel =>
    obtain ⟨hbefore, hout⟩ := hclear (by simpa using hrel)
    have hdone : s.releaseDone sc a.ctx = true := by
      unfold State.releaseDone
      by_cases hsc : sc = .gang
      · simp [hout hsc]
      · simp [hsc]
    rw [State.releaseFor_of_clear hbefore, State.release_eq_self hl1 hb, hdone]
  next => rfl

/-- An acquire from an empty L1 advances AGEN at die scope or wider, and nothing else. -/
theorem State.acquireIf_of_empty {s : State} {core : Nat} (hl1 : s.l1 = []) (hlt : core < s.cores.length) (ord : Order) (sc : Scope) :
    ∃ l, (if ord = .acq || ord = .ar then s.acquire core (some sc) else s) = { s with cores := l } ∧
      (({ s with cores := l } : State).core core).agen =
        if (ord = .acq ∨ ord = .ar) ∧ sc ≠ .core then (s.core core).agen + 1 else (s.core core).agen := by
  by_cases hadv : (ord = .acq ∨ ord = .ar) ∧ sc ≠ .core
  · obtain ⟨hacq, hsc⟩ := hadv
    refine ⟨_, by rw [if_pos (by simpa using hacq), State.acquire_of_empty hl1 core hsc]; rfl, ?_⟩
    rw [if_pos ⟨hacq, hsc⟩]
    exact congrArg Core.agen (State.core_updCore_same hlt)
  · refine ⟨s.cores, ?_, (if_neg hadv).symm⟩
    split
    next hacq =>
      rw [not_and_or, not_not] at hadv
      rw [hadv.resolve_left (not_not_intro (by simpa using hacq))]
      rfl
    next => rfl

section
variable {s : State} {n : Nat} {a : Access} {ln : Lane} (h : Due s n a ln) {op : Nat} {w64 : Bool} {ord : Order} {sc : Scope}
  (hop : atomicOf a.instr = some (op, w64, ord, sc)) (hdet : s.isDet a.ctx = false)
include h hop hdet

/-- An atomic that has delivered is concluded. -/
theorem Due.exec_atomic_of_delivered {u : State} (hacc : u.accesses = s.accesses) {v : Val}
    (hp : s.performAtomic a op w64 ord sc = u.deliverAccess a v) : exec (.memAccessPerformed n) s = .next (u.conclude a v) := by
  have hmay := h.mayPerform_atomic hop
  obtain ⟨-, -, -, hpkg, -⟩ := id h
  rw [h.exec_atomic hop, State.performIf_of_delivered hmay hpkg hacc ((h.perform_atomic hop hdet).trans hp)]

/-- An atomic waits while what its release waits for is under way. -/
theorem Due.exec_atomic_of_waits (hrel : ord = .rel ∨ ord = .ar) {o : Access} (ho : o ∈ s.accesses) (hb : o.id ∈ a.before)
    (hne : o.fid ≠ a.fid) : exec (.memAccessPerformed n) s = .next s := by
  have hmay := h.mayPerform_atomic hop
  obtain ⟨hat, hids, hph, hpkg, -⟩ := id h
  have hfind : s.accesses.find? (·.id == a.id) = some a := by
    have hmem := List.mem_of_getElem? hat
    cases hf : s.accesses.find? (·.id == a.id) with
    | none => exact absurd (List.find?_eq_none.mp hf a hmem) (by simp)
    | some b =>
      have hid : b.id = a.id := by simpa using List.find?_some hf
      rw [List.inj_on_of_nodup_map hids (List.mem_of_find?_eq_some hf) hmem hid]
  have hwaits : s.performAtomic a op w64 ord sc = s := by
    unfold State.performAtomic
    have hscope : a.scopeOf sc = sc := by rw [Access.scopeOf, hpkg]; rfl
    rw [hscope]
    dsimp only
    rw [if_pos (by simpa using hrel), State.releaseFor_of_waits hids ho hb hne]
  rw [h.exec_atomic hop, State.performIf_of_waits hmay hph hfind ((h.perform_atomic hop hdet).trans hwaits)]

variable (hl1 : s.l1 = []) (hb : s.bridge = [])
  (hclear : ord = .rel ∨ ord = .ar → (∀ i ∈ a.before, ∀ o ∈ s.accesses, o.id ≠ i) ∧ (sc = .gang → s.remoteOut = []))
include hl1 hb hclear

/-- An atomic at home: its word is replaced, and AGEN advances with acquire. -/
theorem Due.exec_atomic_home (hhome : a.coh = 3 ∨ sc ≠ .core) (hlt : a.core < s.cores.length) :
    ∃ u, exec (.memAccessPerformed n) s = .next (u.conclude a { bits := BitVec.ofNat 64 (natLE (a.bytes.map s.rd)) }) ∧ s.StoresOnly u ∧
      u.mem = (s.withAtom a.bytes (atomNew op w64 (natLE (a.bytes.map s.rd)) a.b.bits.toNat a.c.bits.toNat)).mem ∧
      (u.core a.core).agen =
        if (ord = .acq ∨ ord = .ar) ∧ sc ≠ .core then (s.core a.core).agen + 1 else (s.core a.core).agen := by
  obtain ⟨-, -, -, hpkg, -⟩ := id h
  have hnotL1 : ¬(decide (sc = .core) && (decide (a.coh = 1) || decide (a.coh = 2))) = true := by
    simp only [Bool.and_eq_true, Bool.or_eq_true, decide_eq_true_eq]
    rintro ⟨hsc, hcoh⟩
    have := hhome.resolve_right (not_not_intro hsc)
    omega
  have hp := State.performAtomic_eq hpkg (op := op) (w64 := w64) (State.releaseIf_of_empty hl1 hb hclear)
  rw [if_neg hnotL1, State.flushLines_of_empty hl1, State.atomicHome_eq hb] at hp
  generalize atomNew op w64 (natLE (a.bytes.map s.rd)) a.b.bits.toNat a.c.bits.toNat = new at hp ⊢
  have hw := State.withAtom_eq s a.bytes new
  have hwl1 : (s.withAtom a.bytes new).l1 = [] := by rw [hw]; exact hl1
  have hwcores : (s.withAtom a.bytes new).cores = s.cores := by rw [hw]
  obtain ⟨l, hl, hagen⟩ := State.acquireIf_of_empty hwl1 (hwcores ▸ hlt) ord sc
  have hcore : (s.withAtom a.bytes new).core a.core = s.core a.core := by rw [State.core, State.core, hwcores]
  rw [hcore] at hagen
  have hu : s.StoresOnly { s.withAtom a.bytes new with cores := l } := by rw [hw]; rfl
  refine ⟨{ s.withAtom a.bytes new with cores := l }, h.exec_atomic_of_delivered hop hdet hu.accesses (hp.trans ?_), hu, rfl, hagen⟩
  dsimp only
  rw [hl]

/-- An atomic of core scope in the L1: what the L1 shows after it. -/
theorem Due.exec_atomic_l1 (hcoh : a.coh = 1 ∨ a.coh = 2) (hsc : sc = .core) (hnd : a.bytes.Nodup) (hlen : a.bytes.length ≤ 8)
    (hlt : ∀ v, atomNew op w64 (natLE (a.bytes.map s.rd)) a.b.bits.toNat a.c.bits.toNat = some v → v < 256 ^ a.bytes.length) :
    ∃ m g, exec (.memAccessPerformed n) s =
        .next (({ s with l1 := m } : State).conclude a { bits := BitVec.ofNat 64 (natLE (a.bytes.map s.rd)) }) ∧
      ({ s with l1 := m } : State).Shows a.core a.coh g ∧ m.length ≤ 8 ∧
      natLE (a.bytes.map g) =
        (atomNew op w64 (natLE (a.bytes.map s.rd)) a.b.bits.toNat a.c.bits.toNat).getD (natLE (a.bytes.map s.rd)) := by
  obtain ⟨-, -, -, hpkg, -⟩ := id h
  have hroom : s.l1.length + a.bytes.length ≤ Config.l1Lines := by
    rw [hl1, List.length_nil, Nat.zero_add]
    exact hlen.trans (by decide)
  obtain ⟨m, g, hm, hshows, hmlen, hg⟩ := (State.shows_of_empty hl1 hb a.core a.coh).atomicL1 hcoh hnd hroom hlt
  rw [hl1, List.length_nil] at hmlen
  refine ⟨m, g, h.exec_atomic_of_delivered (u := { s with l1 := m }) hop hdet rfl ?_, hshows, by omega, hg⟩
  have hp := State.performAtomic_eq hpkg (op := op) (w64 := w64) (State.releaseIf_of_empty hl1 hb hclear)
  subst hsc
  rw [if_pos (by simpa using hcoh), hm] at hp
  refine hp.trans ?_
  dsimp only
  split <;> rfl

end

end Sys2Proof.Machine
end

section
/-! SUPPORT. Dirty bytes written through (R255, R262): what a write-back sends, and a byte that, written through, stays so. -/

namespace Sys2Proof.Machine

/-! ### A write-back toward the homes -/

/-- The bytes of a sector that a write-back of those that `m` names sends. -/
def Sector.sent (x : Sector) (m : BitVec 32) : List (Nat × Byte) :=
  ((List.range 32).filter fun i => x.dirty.getLsbD i && m.getLsbD i).map fun i => (x.addr + i, x.byte i)

theorem Sector.mem_sent {x : Sector} {m : BitVec 32} {z : Nat × Byte} :
    z ∈ x.sent m ↔ ∃ i < 32, x.dirty.getLsbD i = true ∧ m.getLsbD i = true ∧ z = (x.addr + i, x.byte i) := by
  simp only [Sector.sent, List.mem_map, List.mem_filter, List.mem_range, Bool.and_eq_true, and_assoc]
  exact exists_congr fun i => by rw [eq_comm (a := z)]

theorem Sector.dirty_clean (x : Sector) (m : BitVec 32) {i : Nat} (h : i < 32) :
    (x.clean m).dirty.getLsbD i = (x.dirty.getLsbD i && !m.getLsbD i) := by
  simp [Sector.clean, h]

theorem State.wrAll_append (s : State) (l r : List (Nat × Byte)) : s.wrAll (l ++ r) = (s.wrAll l).wrAll r := List.foldl_append

/-- What is written depends on memory alone. -/
theorem State.mem_wrAll_congr {s t : State} (h : s.mem = t.mem) (l : List (Nat × Byte)) : (s.wrAll l).mem = (t.wrAll l).mem := by
  induction l generalizing s t with
  | nil => exact h
  | cons x r ih =>
    refine ih ?_
    change (s.wr x.1 x.2).mem = (t.wr x.1 x.2).mem
    unfold State.wr
    split
    · exact congrArg (Memory.write · x.1 x.2) h
    · exact h

/-- A byte that every write to it leaves with one value has it, once written or when it had it before. -/
theorem State.rd_wrAll_agree {l : List (Nat × Byte)} {s : State} (h : s.memOk) {y : Nat} {b : Byte} (hm : isMemory y = true)
    (hl : ∀ z ∈ l, z.1 = y → z.2 = b) (hold : (∃ z ∈ l, z.1 = y) ∨ s.rd y = b) : (s.wrAll l).rd y = b := by
  induction l generalizing s with
  | nil => exact hold.resolve_left (by simp)
  | cons z r ih =>
    obtain ⟨hz, hr⟩ := List.forall_mem_cons.mp hl
    rw [State.wrAll_cons]
    refine ih (State.memOk_wr h _ _) hr ?_
    by_cases hzy : z.1 = y
    · right
      rw [← hz hzy, ← hzy]
      exact State.rd_wr_same h _ (hzy ▸ hm)
    · rw [State.rd_wr_other h _ (Ne.symm hzy)]
      refine hold.imp_left fun ⟨w, hw, hwy⟩ => ⟨w, (List.mem_cons.mp hw).resolve_left fun heq => hzy (heq ▸ hwy), hwy⟩

theorem State.pushBytes_pkg {s : State} (hb : s.bridge = []) (core ctx : Nat) (l : List (Nat × Byte)) :
    ∃ k, s.pushBytes .pkg core ctx none l = { s with mem := (s.wrAll l).mem, memStacks := k } := by
  unfold State.pushBytes
  split
  next => exact ⟨s.memStacks, rfl⟩
  next a b r =>
    dsimp only
    rw [if_neg (by simp), State.homeView, State.drainBridge_of_empty hb, State.chargeUnits_eq, State.wrAll_eq]
    exact ⟨_, rfl⟩

theorem State.foldl_pushBytes_pkg (m : Sector → BitVec 32) {l : List Sector} {s : State} (hb : s.bridge = []) (hl : ∀ x ∈ l, x.pkg = none) :
    ∃ k, l.foldl (fun s x => s.pushBytes .pkg x.core x.ctx x.pkg (x.sent (m x))) s =
      { s with mem := (s.wrAll (l.flatMap fun x => x.sent (m x))).mem, memStacks := k } := by
  induction l generalizing s with
  | nil => exact ⟨s.memStacks, rfl⟩
  | cons x r ih =>
    obtain ⟨hx, hr⟩ := List.forall_mem_cons.mp hl
    obtain ⟨k, hk⟩ := State.pushBytes_pkg hb x.core x.ctx (x.sent (m x))
    obtain ⟨k2, hk2⟩ := ih (s := { s with mem := (s.wrAll (x.sent (m x))).mem, memStacks := k }) hb hr
    refine ⟨k2, ?_⟩
    rw [List.foldl_cons, hx, hk, hk2, List.flatMap_cons, State.wrAll_append]
    exact congrArg (fun w => ({ s with mem := w, memStacks := k2 } : State))
      (State.mem_wrAll_congr (s := { s with mem := (s.wrAll (x.sent (m x))).mem, memStacks := k }) (t := s.wrAll (x.sent (m x))) rfl _)

/-- A write-back at package scope writes the bytes it sends, and leaves their sectors clean. -/
theorem State.writeBackOf_pkg {s : State} (hb : s.bridge = []) (hl : ∀ x ∈ s.l1, x.pkg = none) (m : Sector → BitVec 32) :
    ∃ k, s.writeBackOf .pkg m =
      { s with
        mem := (s.wrAll (s.l1.flatMap fun x => x.sent (m x))).mem, memStacks := k, l1 := s.l1.map fun x => x.clean (m x) } := by
  obtain ⟨k, hk⟩ := State.foldl_pushBytes_pkg m hb hl
  refine ⟨k, ?_⟩
  unfold State.writeBackOf
  change (let s1 := s.l1.foldl (fun s x => s.pushBytes .pkg x.core x.ctx x.pkg (x.sent (m x))) s
    ({ s1 with l1 := s1.l1.map fun x => x.clean (m x) } : State)) = _
  rw [hk]

/-! ### A byte written through -/

theorem State.StoresOnly.trans {s t u : State} (h : s.StoresOnly t) (h' : t.StoresOnly u) : s.StoresOnly u := by
  unfold State.StoresOnly at *
  rw [h', h]

/-- No sector of a core holds the byte dirty. -/
def CleanAt (l : List Sector) (core y : Nat) : Prop :=
  ∀ x ∈ l, x.core = core → ∀ i < 32, x.addr + i = y → x.dirty.getLsbD i = false

/-- Since `s` memory came to hold a byte that the core no longer holds dirty, and nothing but stores has happened. -/
structure State.WroteThrough (s u : State) (core y : Nat) (b : Byte) : Prop where
  stores : s.StoresOnly u
  memOk : u.memOk
  bridge : u.bridge = []
  home : ∀ x ∈ u.l1, x.pkg = none
  clean : CleanAt u.l1 core y
  shown : u.rd y = b

/-- A write-back of a core's bytes, each of which agrees with `b` where it is the byte's own. -/
theorem State.writeBackOf_wroteThrough {s u : State} {core y : Nat} {b : Byte} (hs : s.StoresOnly u) (hok : u.memOk) (hb : u.bridge = [])
    (hhome : ∀ x ∈ u.l1, x.pkg = none) {m : Sector → BitVec 32} (hagree : ∀ z ∈ u.l1.flatMap fun x => x.sent (m x), z.1 = y → z.2 = b)
    (hnew : (isMemory y = true ∧ ∃ z ∈ u.l1.flatMap fun x => x.sent (m x), z.1 = y) ∨
      (∀ z ∈ u.l1.flatMap fun x => x.sent (m x), z.1 ≠ y) ∧ u.rd y = b)
    (hclean : CleanAt (u.l1.map fun x => x.clean (m x)) core y) : s.WroteThrough (u.writeBackOf .pkg m) core y b := by
  obtain ⟨k, hk⟩ := State.writeBackOf_pkg hb hhome m
  rw [hk]
  refine ⟨hs.trans rfl, State.memOk_of_mem (State.memOk_wrAll hok _) rfl, hb, fun x hx => ?_, hclean, ?_⟩
  · obtain ⟨z, hz, rfl⟩ := List.mem_map.mp hx
    exact hhome z hz
  · change (u.wrAll (u.l1.flatMap fun x => x.sent (m x))).rd y = b
    rcases hnew with ⟨hm, hin⟩ | ⟨hout, hold⟩
    · exact State.rd_wrAll_agree hok hm hagree (.inl hin)
    · rw [State.rd_wrAll_outside hok, hold]
      exact fun hy => let ⟨z, hz, hzy⟩ := List.mem_map.mp hy; hout z hz hzy

/-- Nothing dirty is dirtied by a write-back. -/
theorem CleanAt.map_clean {l : List Sector} {core y : Nat} (h : CleanAt l core y) (m : Sector → BitVec 32) :
    CleanAt (l.map fun x => x.clean (m x)) core y := by
  intro x hx hcore i hi hy
  obtain ⟨z, hz, rfl⟩ := List.mem_map.mp hx
  rw [Sector.dirty_clean _ _ hi, h z hz hcore i hi hy]
  rfl

section
variable {s u : State} {core y : Nat} {b : Byte} (h : s.WroteThrough u core y b)
include h

/-- A later write-back of the core's bytes leaves the byte. -/
theorem State.WroteThrough.writeBackOf {m : Sector → BitVec 32} (hm : ∀ x, x.core ≠ core → m x = 0) :
    s.WroteThrough (u.writeBackOf .pkg m) core y b := by
  have hout : ∀ z ∈ u.l1.flatMap fun x => x.sent (m x), z.1 ≠ y := by
    intro z hz hzy
    obtain ⟨x, hx, hzx⟩ := List.mem_flatMap.mp hz
    obtain ⟨i, hi, hd, hmi, rfl⟩ := Sector.mem_sent.mp hzx
    have hcore : x.core = core := by
      by_contra hne
      rw [hm x hne] at hmi
      simp at hmi
    rw [h.clean x hx hcore i hi hzy] at hd
    cases hd
  exact State.writeBackOf_wroteThrough h.stores h.memOk h.bridge h.home (fun z hz hzy => absurd hzy (hout z hz)) (.inr ⟨hout, h.shown⟩)
    (h.clean.map_clean m)

theorem State.WroteThrough.filter (p : Sector → Bool) : s.WroteThrough { u with l1 := u.l1.filter p } core y b :=
  ⟨h.stores.trans rfl, h.memOk, h.bridge, fun x hx => h.home x (List.mem_of_mem_filter hx),
    fun x hx => h.clean x (List.mem_of_mem_filter hx), h.shown⟩

theorem State.WroteThrough.writeBack_filter {p : Sector → Bool} (hp : ∀ x, p x = true → x.core = core) :
    s.WroteThrough { u.writeBack .pkg p with l1 := (u.writeBack .pkg p).l1.filter fun x => !p x } core y b :=
  (h.writeBackOf fun x hx => if_neg fun hpx => hx (hp x hpx)).filter _

theorem State.WroteThrough.flushLines (l : List Nat) : s.WroteThrough (u.flushLines core none l) core y b :=
  h.writeBack_filter fun x hx => by
    simp only [Bool.and_eq_true, decide_eq_true_eq] at hx
    exact hx.1.1

theorem State.WroteThrough.updCore (c : Nat) (f : Core → Core) : s.WroteThrough (u.updCore c f) core y b :=
  ⟨h.stores.trans rfl, h.memOk, h.bridge, h.home, h.clean, h.shown⟩

theorem State.WroteThrough.acquire (sc : Scope) : s.WroteThrough (u.acquire core (some sc)) core y b := by
  have hadv := h.updCore core fun c => { c with agen := (u.core core).agen + 1 }
  unfold State.acquire
  split
  next => exact h
  next => exact h
  next =>
    dsimp only
    split
    next =>
      refine hadv.writeBack_filter fun x hx => ?_
      simp only [Bool.and_eq_true, decide_eq_true_eq] at hx
      exact hx.1
    next => exact hadv

theorem State.WroteThrough.withAtom {l : List Nat} (hy : y ∉ l) (new : Option Nat) : s.WroteThrough (u.withAtom l new) core y b := by
  have hw := u.withAtom_eq l new
  have hl1 : (u.withAtom l new).l1 = u.l1 := by rw [hw]
  exact ⟨h.stores.trans (by rw [hw]; rfl), State.memOk_withAtom h.memOk l new, by rw [hw]; exact h.bridge, hl1 ▸ h.home, hl1 ▸ h.clean,
    (State.rd_withAtom_outside h.memOk hy new).trans h.shown⟩

end

/-- A release writes through what the core has stored under SHRD (R262). -/
theorem State.release_wroteThrough {s : State} (hok : s.memOk) (hb : s.bridge = [])
    (hone : ∀ k l, k ∈ s.l1 → l ∈ s.l1 → k.core = l.core → k.addr = l.addr → k.pkg = l.pkg → k = l)
    (hown : ∀ k ∈ s.l1, k.pkg = none ∧ k.addr % 32 = 0 ∧ k.bytes.length = 32) {k : Sector} (hk : k ∈ s.l1) {i : Nat} (hi : i < 32)
    (hthrough : k.through.getLsbD i = true) (hdirty : k.dirty.getLsbD i = true) (hmem : isMemory (k.addr + i) = true) :
    s.WroteThrough (s.release k.core .pkg) k.core (k.addr + i) (k.byte i) := by
  have hsame {x : Sector} (hx : x ∈ s.l1) (hcore : x.core = k.core) {j : Nat} (hj : j < 32) (hy : x.addr + j = k.addr + i) :
      x = k ∧ j = i := by
    obtain ⟨hxp, hxa, -⟩ := hown x hx
    obtain ⟨hkp, hka, -⟩ := hown k hk
    exact ⟨hone x k hx hk hcore (by omega) (hxp.trans hkp.symm), by omega⟩
  have hmask : ∀ z ∈ s.l1.flatMap fun x => x.sent (if x.core = k.core then x.through else 0), z.1 = k.addr + i → z.2 = k.byte i := by
    intro z hz hzy
    obtain ⟨x, hx, hzx⟩ := List.mem_flatMap.mp hz
    obtain ⟨j, hj, -, hmj, rfl⟩ := Sector.mem_sent.mp hzx
    have hcore : x.core = k.core := by
      by_contra hne
      simp [hne] at hmj
    obtain ⟨rfl, rfl⟩ := hsame hx hcore hj hzy
    rfl
  have hsent : (k.addr + i, k.byte i) ∈ s.l1.flatMap fun x => x.sent (if x.core = k.core then x.through else 0) :=
    List.mem_flatMap.mpr ⟨k, hk, Sector.mem_sent.mpr ⟨i, hi, hdirty, by rw [if_pos rfl, hthrough], rfl⟩⟩
  have hclean : CleanAt (s.l1.map fun x => x.clean (if x.core = k.core then x.through else 0)) k.core (k.addr + i) := by
    intro x hx hcore j hj hy
    obtain ⟨z, hz, rfl⟩ := List.mem_map.mp hx
    obtain ⟨rfl, rfl⟩ := hsame hz hcore hj hy
    rw [Sector.dirty_clean _ _ hj, if_pos rfl, hthrough, Bool.not_true, Bool.and_false]
  have hwrote := State.writeBackOf_wroteThrough (rfl : s.StoresOnly s) hok hb
    (fun x hx => (hown x hx).1) hmask (.inl ⟨hmem, _, hsent, rfl⟩) hclean
  rw [State.release, State.drainBridge_of_empty hwrote.bridge]
  exact hwrote

end Sys2Proof.Machine
end

section
/-! CERTIFICATE. Atomics performed (R275–R278): at home, in the L1, behind a release, and past a release's writes. -/

namespace Sys2Proof.Machine

section
variable {s : State} {n : Nat} {a : Access} {ln : Lane} (h : Due s n a ln) {op : Nat} {w64 : Bool} {ord : Order} {sc : Scope}
  (hop : atomicOf a.instr = some (op, w64, ord, sc)) (hdet : s.isDet a.ctx = false) (hb : s.bridge = [])
include h hop hdet

/-- Past its release, a byte that the release wrote through stays as it was written. -/
theorem Due.atomic_wroteThrough (hrel : ord = .rel ∨ ord = .ar)
    (hbefore : ∀ i ∈ a.before, ∀ o ∈ s.accesses, o.id ≠ i) (hsc : sc = .pkg) :
    ∃ t, exec (.memAccessPerformed n) s = .next t ∧
      ∀ y b, s.WroteThrough (s.release a.core .pkg) a.core y b → y ∉ a.bytes → t.rd y = b := by
  refine ⟨_, h.exec_atomic hop, fun y b hw hy => ?_⟩
  have hmay := h.mayPerform_atomic hop
  have hperform := h.perform_atomic hop hdet
  obtain ⟨-, -, -, hpkg, horphan, -⟩ := h
  subst hsc
  have hflushed := hw.flushLines a.bytes
  have hp := State.performAtomic_eq hpkg (op := op) (w64 := w64) (s1 := s.release a.core .pkg)
    (by rw [if_pos (by simpa using hrel), State.releaseFor_of_clear hbefore]; rfl)
  rw [if_neg (by simp), State.atomicHome_eq hflushed.bridge] at hp
  have hdone (new : Option Nat) : s.WroteThrough
      (if ord = .acq || ord = .ar then (((s.release a.core .pkg).flushLines a.core none a.bytes).withAtom a.bytes new).acquire a.core (some .pkg)
        else ((s.release a.core .pkg).flushLines a.core none a.bytes).withAtom a.bytes new) a.core y b := by
    split
    · exact (hflushed.withAtom hy new).acquire .pkg
    · exact hflushed.withAtom hy new
  rw [State.performIf_of_delivered hmay hpkg (hdone _).stores.accesses (hperform.trans hp),
    State.rd_of_mem (State.stored_conclude _ horphan _).1]
  exact (hdone _).shown

variable (hl1 : s.l1 = [])
  (hclear : ord = .rel ∨ ord = .ar → (∀ i ∈ a.before, ∀ o ∈ s.accesses, o.id ≠ i) ∧ (sc = .gang → s.remoteOut = []))
  (hnd : a.bytes.Nodup)
  (hfits : ∀ v, atomNew op w64 (natLE (a.bytes.map s.rd)) a.b.bits.toNat a.c.bits.toNat = some v → v < 256 ^ a.bytes.length)
include hb hl1 hclear hnd hfits

/-- An atomic at home replaces its word alone and delivers the old one. -/
theorem Due.atomic_home (hm : ∀ y ∈ a.bytes, isMemory y = true) (hhome : a.coh = 3 ∨ sc ≠ .core) (hlt : a.core < s.cores.length) :
    ∃ t, exec (.memAccessPerformed n) s = .next t ∧ OnlyMemory s t a ∧
      natLE (a.bytes.map t.rd) =
        (atomNew op w64 (natLE (a.bytes.map s.rd)) a.b.bits.toNat a.c.bits.toNat).getD (natLE (a.bytes.map s.rd)) ∧
      (∀ y, y ∉ a.bytes → t.rd y = s.rd y) ∧
      t.lane? a.fid = some (ln.complete a.idx true (t0Of a.instr) (t1Of a.instr) { bits := BitVec.ofNat 64 (natLE (a.bytes.map s.rd)) }
        { bits := BitVec.ofNat 64 (natLE (a.bytes.map s.rd)) }) ∧
      (t.core a.core).agen =
        if (ord = .acq ∨ ord = .ar) ∧ sc ≠ .core then (s.core a.core).agen + 1 else (s.core a.core).agen := by
  obtain ⟨u, hexec, hu, hmem, hagen⟩ := h.exec_atomic_home hop hdet hl1 hb hclear hhome hlt
  obtain ⟨-, -, -, -, horphan, -, -, -, -, hlane, -, -, -, -, hok⟩ := h
  obtain ⟨hcm, -, hcores, -⟩ := u.stored_conclude horphan { bits := BitVec.ofNat 64 (natLE (a.bytes.map s.rd)) }
  have hrd := State.rd_of_mem (hcm.trans hmem)
  refine ⟨_, hexec, hu.conclude horphan _, ?_, fun y hy => ?_, State.lane?_conclude horphan ((hu.lane? a.fid).trans hlane) _, ?_⟩
  · rw [hrd, State.natLE_withAtom hok hnd hm hfits]
  · rw [hrd, State.rd_withAtom_outside hok hy]
  · rw [State.core, hcores]
    exact hagen

/-- An atomic of core scope in the L1 leaves memory, delivers the old word, and the core reads the new one. -/
theorem Due.atomic_l1 (hcoh : a.coh = 1 ∨ a.coh = 2) (hsc : sc = .core) (hlen : a.bytes.length ≤ 8) :
    ∃ t, exec (.memAccessPerformed n) s = .next t ∧ OnlyMemory s t a ∧ t.mem = s.mem ∧
      natLE (t.loadBytes a.core a.ctx a.coh a.bytes).2 =
        (atomNew op w64 (natLE (a.bytes.map s.rd)) a.b.bits.toNat a.c.bits.toNat).getD (natLE (a.bytes.map s.rd)) ∧
      t.lane? a.fid = some (ln.complete a.idx true (t0Of a.instr) (t1Of a.instr) { bits := BitVec.ofNat 64 (natLE (a.bytes.map s.rd)) }
        { bits := BitVec.ofNat 64 (natLE (a.bytes.map s.rd)) }) := by
  obtain ⟨m, g, hexec, hshows, hmlen, hg⟩ := h.exec_atomic_l1 hop hdet hl1 hb hclear hcoh hsc hnd hlen hfits
  obtain ⟨-, -, -, -, horphan, -, -, -, -, hlane, -⟩ := h
  obtain ⟨hm, hml1, hcores, hbridge⟩ :=
    State.stored_conclude { s with l1 := m } horphan { bits := BitVec.ofNat 64 (natLE (a.bytes.map s.rd)) }
  have hroom : m.length + a.bytes.length ≤ Config.l1Lines := (Nat.add_le_add hmlen hlen).trans (by decide)
  obtain ⟨m2, hload, -⟩ := (hshows.of_eq hm hml1 hbridge hcores).loadBytes hcoh a.ctx a.bytes (by rw [hml1]; exact hroom)
  refine ⟨_, hexec, State.StoresOnly.conclude (u := { s with l1 := m }) rfl horphan _, hm, ?_,
    State.lane?_conclude (u := { s with l1 := m }) horphan hlane _⟩
  rw [hload]
  exact hg

end

/-- Settles O29: the word's new value at home and in the L1, the wait of a release, and the bytes it writes through. -/
theorem atomicsPerformed : Obligations.AtomicsPerformed := by
  intro s n a ln pm t0 w64 ord sc addr x c h _ hb hctxs hcore hbytes hmem old rel clear gave
  have hdet : s.isDet a.ctx = false := State.isDet_of_none fun d hd => hctxs d (List.mem_of_find?_eq_some hd)
  obtain ⟨hlt, -⟩ := List.getElem?_eq_some_iff.mp hcore
  have hcore : s.core a.core = c := by rw [State.core, hcore]; rfl
  refine ⟨fun hl1 hto hclear => ?_, fun y hto hrel => ?_, fun y hto hrel hclear hsc hone hown => ?_⟩
  · obtain ⟨⟨op, hop⟩, ht0, ht1⟩ := hto.word
    have hlen : a.bytes.length = if w64 then 8 else 4 := by rw [hbytes, List.length_map, List.length_range]
    have hsize : 256 ^ a.bytes.length = 2 ^ atomBits w64 := by
      rw [hlen]
      cases w64 <;> rfl
    have hnd : a.bytes.Nodup := by
      rw [hbytes]
      exact List.nodup_range.map fun i j hij => Nat.add_left_cancel hij
    have hold : old < 2 ^ atomBits w64 := by
      have := natLE_lt (a.bytes.map s.rd)
      rwa [List.length_map, hsize] at this
    obtain ⟨hnew, hx⟩ := hto.value hold hop
    have hfits : ∀ v, atomNew op w64 old a.b.bits.toNat a.c.bits.toNat = some v → v < 256 ^ a.bytes.length := by
      intro v hv
      rw [hv, Option.getD_some] at hnew
      rwa [hsize, hnew]
    refine ⟨fun hhome => ?_, fun hcoh hsc => ?_⟩
    · have hdone := h.atomic_home hop hdet hb hl1 hclear hnd hfits hmem hhome hlt
      rwa [hnew, ht0, ht1, hcore] at hdone
    · have hdone := h.atomic_l1 hop hdet hb hl1 hclear hnd hfits hcoh hsc (by rw [hlen]; split <;> omega)
      rwa [hnew, ht0, ht1] at hdone
  · rintro ⟨i, hi, o, ho, rfl, hne⟩
    obtain ⟨⟨op, hop⟩, -⟩ := hto.word
    exact h.exec_atomic_of_waits hop hdet hrel ho hi hne
  · obtain ⟨⟨op, hop⟩, -⟩ := hto.word
    obtain ⟨t, hexec, ht⟩ := h.atomic_wroteThrough hop hdet hrel (hclear hrel).1 hsc
    obtain ⟨-, -, -, -, -, -, -, -, -, -, -, -, -, -, hok⟩ := h
    refine ⟨t, hexec, fun k hk i hi hkcore hthrough hdirty hkm hout => ht _ _ ?_ hout⟩
    rw [← hkcore]
    exact State.release_wroteThrough hok hb hone hown hk hi hthrough hdirty hkm

end Sys2Proof.Machine
end

section
/-! SUPPORT. The domain units: activations and their iterations, what a unit forwards, and how a grant request is served
(R148–R158, R205). -/

namespace Sys2Proof.Machine

/-! ### What stands after an update -/

theorem State.ctx?_id {s : State} {x : Nat} {c : Ctx} (h : s.ctx? x = some c) : c.id = x :=
  eq_of_beq (List.find?_some (p := fun c : Ctx => c.id == x) h)

theorem State.ctx?_updCtx_of_some {s : State} {x : Nat} {c : Ctx} (h : s.ctx? x = some c) {f : Ctx → Ctx} (hf : ∀ c, (f c).id = c.id) :
    (s.updCtx x f).ctx? x = some (f c) := by
  rw [State.ctx?_updCtx_same hf, h, Option.map_some]

theorem State.ctx?_moved {s : State} {x : Nat} {c : Ctx} (h : s.ctx? x = some c) : (s.moved x).ctx? x = some { c with lastMove := s.cycle } :=
  State.ctx?_updCtx_of_some h (f := fun c => { c with lastMove := s.cycle }) fun _ => rfl

theorem State.ctx?_countStray {s : State} {x : Nat} {c : Ctx} (h : s.ctx? x = some c) :
    (s.countStray x).ctx? x = some { c with stray := satInc c.stray } :=
  State.ctx?_updCtx_of_some h (f := fun c => { c with stray := satInc c.stray }) fun _ => rfl

theorem State.ctx?_countKilled {s : State} {x : Nat} {c : Ctx} (h : s.ctx? x = some c) (n : Nat) :
    (s.countKilled x n).ctx? x = some { c with killed := satInc c.killed n } :=
  State.ctx?_updCtx_of_some h (f := fun c => { c with killed := satInc c.killed n }) fun _ => rfl

/-! ### Activations -/

/-- The test by which an activation is found (R151). -/
def Activation.isOf (core x dom act : Nat) (a : Activation) : Bool := a.core = core && a.ctx = x && a.dom = dom && a.act = act

theorem State.act?_eq_find? (s : State) (core x dom act : Nat) : s.act? core x dom act = s.acts.find? (Activation.isOf core x dom act) := rfl

theorem Activation.isOf_iff {core x dom act : Nat} {a : Activation} :
    a.isOf core x dom act = true ↔ a.core = core ∧ a.ctx = x ∧ a.dom = dom ∧ a.act = act := by
  simp [Activation.isOf, and_assoc]

theorem State.act?_isOf {s : State} {core x dom act : Nat} {a : Activation} (h : s.act? core x dom act = some a) :
    a.core = core ∧ a.ctx = x ∧ a.dom = dom ∧ a.act = act :=
  Activation.isOf_iff.mp (List.find?_some (p := Activation.isOf core x dom act) h)

/-- Activations of the name of `a` are those that the test for its name finds. -/
theorem Activation.same_eq_isOf (a b : Activation) : a.same b = b.isOf a.core a.ctx a.dom a.act := by
  rw [Bool.eq_iff_iff, Activation.isOf_iff]
  simp only [Activation.same, Bool.and_eq_true, decide_eq_true_eq, and_assoc]
  constructor <;> exact fun ⟨hc, hx, hd, ha⟩ => ⟨hc.symm, hx.symm, hd.symm, ha.symm⟩

/-- An activation that is set under its own name is found there. -/
theorem State.act?_setAct {s : State} {core x dom act : Nat} {a b : Activation} (h : s.act? core x dom act = some a)
    (hb : b.core = core ∧ b.ctx = x ∧ b.dom = dom ∧ b.act = act) : (s.setAct b).act? core x dom act = some b := by
  have hisOf : b.isOf core x dom act = true := Activation.isOf_iff.mpr hb
  have hsame (c : Activation) : b.same c = c.isOf core x dom act := by
    obtain ⟨rfl, rfl, rfl, rfl⟩ := hb
    exact Activation.same_eq_isOf b c
  rw [State.act?_eq_find?] at h ⊢
  change (s.acts.map fun c => if b.same c then b else c).find? (Activation.isOf core x dom act) = _
  generalize s.acts = l at h
  induction l with
  | nil => cases h
  | cons c r ih =>
    rw [List.map_cons, hsame]
    by_cases hc : c.isOf core x dom act = true
    · rw [if_pos hc, List.find?_cons_of_pos hisOf]
    · rw [if_neg hc, List.find?_cons_of_neg hc]
      exact ih (by rwa [List.find?_cons_of_neg hc] at h)

/-- R158: within 512 of BASE an IDX names its iteration. -/
theorem Activation.recover_eq {a : Activation} {l idx : Nat} (hlo : a.base ≤ l + 512) (hhi : l < a.base + 512) (hidx : l % 1024 = idx) :
    a.recover idx = some l := by
  unfold Activation.recover
  dsimp only
  split
  · exact congrArg some (by omega)
  · rw [if_pos (by omega)]
    exact congrArg some (by omega)

/-! ### What a unit forwards -/

theorem State.placeFrom_pkg (s : State) {c : Ctx} (hg : c.gang = none) (t : Token) (k : Nat) :
    (s.placeFrom c t (s.pkgid, k)).1 = s.pkgid := by
  unfold State.placeFrom
  dsimp only
  split
  · rfl
  · split
    · rfl
    · next n _ =>
      rw [State.logical, hg]
      dsimp only
      rw [List.getElem?_map]
      cases c.pasture[n]? <;> rfl

/-- More tokens are on their way. -/
def State.sending (s : State) (l : List Transit) : State := { s with transit := s.transit ++ l }

/-- A request whose token goes on at once: to a core of this package, and with no release of its own. -/
def State.Plain (s : State) (r : UnitReq) (tk : Token) (c : Ctx) : Prop :=
  s.ctx? r.ctx = some c ∧ c.draining = none ∧ c.gang = none ∧ r.tok = some tk ∧ tk.rel = none ∧ r.opkg = s.pkgid

section
variable {s : State} {core : Nat} {r : UnitReq} {tk : Token} {c : Ctx} (h : s.Plain r tk c)
include h

/-- R152: the token goes on to its core under the tag that the unit has formed. -/
theorem State.Plain.forward (tag : Tag) (e : BitVec 22) (p : Nat) :
    s.forward core r tag e p = s.sending [s.onward c core r tk tag e p] := by
  obtain ⟨hc, -, hg, htok, hrel, ho⟩ := h
  have hpkg := s.placeFrom_pkg hg { tk with tag := tag, epoch := e, hpkg := p } r.origin
  rw [← ho] at hpkg
  unfold State.forward
  rw [htok, hc]
  dsimp only
  rw [if_neg (by simp [hrel]), State.inject, if_pos (hpkg.trans ho)]
  rfl

/-- Several of its tokens go on in their order. -/
theorem State.Plain.foldl_forward (tag : Nat → Tag) (e : Nat → BitVec 22) (ks : List Nat) :
    ks.foldl (fun s k => s.forward core r (tag k) (e k) s.pkgid) s =
      s.sending (ks.map fun k => s.onward c core r tk (tag k) (e k) s.pkgid) := by
  induction ks generalizing s with
  | nil => exact (congrArg (fun l => ({ s with transit := l } : State)) (List.append_nil _).symm).trans rfl
  | cons k ks ih =>
    rw [List.foldl_cons, h.forward, ih (by exact h)]
    exact congrArg (fun l => ({ s with transit := l } : State)) (List.append_cons ..).symm

end

end Sys2Proof.Machine
end

section
/-! SUPPORT. How a grant request at the head of its unit's queue is served: granted, discarded with a count, or moved to the wait
list (R152, R154, R158, R205). -/

namespace Sys2Proof.Machine

/-! ### The grants of an activation -/

/-- NEXT of iteration `l` (R154): opened, beyond H discarded, above the window not granted. -/
def State.nextGrant (s : State) (core : Nat) (r : UnitReq) (c : Ctx) (a : Activation) (l : Nat) : Option State :=
  if a.h < l + 1 || l = 2 ^ 32 - 1 then some (s.countKilled r.ctx 1)
  else if l + 1 ≤ a.top || l + 1 < a.base + c.windowOf r.tag.dom.toNat then
    some ((s.setAct { a with top := max a.top (l + 1) }).forward core r (a.tagOf (l + 1)) (epochOf (l + 1)) s.pkgid)
  else none

/-- EXPLICIT, and a continuation's SAME (R154, R158): to an opened iteration. -/
def State.sameGrant (s : State) (core : Nat) (r : UnitReq) (a : Activation) : Option State :=
  (a.recover r.tag.idx.toNat).elim (some (s.countStray r.ctx)) fun l =>
    if a.top < l then some (s.countStray r.ctx)
    else if a.h < l then some (s.countKilled r.ctx 1)
    else some (s.forward core r (a.tagOf l) (epochOf l) s.pkgid)

/-- A grant of a mode that names an activation. -/
def State.grantAt (s : State) (core : Nat) (r : UnitReq) (c : Ctx) (a : Activation) : GrantMode → Option State
  | .next => s.nextGrant core r c a (literOf r.tag r.epoch)
  | .cont 1 => (a.recover r.tag.idx.toNat).elim (some (s.countStray r.ctx)) (s.nextGrant core r c a)
  | .cont 4 => some (s.forward core r a.parent a.pepoch a.phpkg)
  | .cont _ => s.sameGrant core r a
  | .explicit => s.sameGrant core r a
  | _ => some s

/-- The modes that name an activation (R154): all but ENTER and ENTERM. -/
def namesActivation : GrantMode → Bool
  | .enter _ | .enterm _ _ => false
  | _ => true

section
variable {s : State} {core : Nat} {r : UnitReq} {tk : Token} {c : Ctx} {a : Activation} (h : s.Plain r tk c)
include h

/-- The service of a request that names an activation. -/
theorem State.Plain.tryGrant_named {g : GrantMode} (hm : r.mode = .inl g) (hg : namesActivation g = true) :
    s.tryGrant core r = (s.act? core r.ctx r.tag.dom.toNat r.tag.act.toNat).elim (some (s.countStray r.ctx)) fun a => s.grantAt core r c a g := by
  obtain ⟨hc, hd, -⟩ := h
  unfold State.tryGrant
  rw [hc]
  dsimp only
  rw [if_neg (by simp [hd]), hm]
  cases g with
  | next => cases s.act? core r.ctx r.tag.dom.toNat r.tag.act.toNat <;> rfl
  | enter t => cases hg
  | enterm t m => cases hg
  | explicit =>
    cases s.act? core r.ctx r.tag.dom.toNat r.tag.act.toNat with
    | none => rfl
    | some a => simp only [Option.elim, State.grantAt, State.sameGrant]; cases a.recover r.tag.idx.toNat <;> rfl
  | cont m =>
    cases s.act? core r.ctx r.tag.dom.toNat r.tag.act.toNat with
    | none => rfl
    | some a =>
      match m with
      | 4 => rfl
      | 1 => dsimp only [Option.elim, State.grantAt]; cases a.recover r.tag.idx.toNat <;> rfl
      | 0 | 2 | 3 | n + 5 => dsimp only [Option.elim, State.grantAt, State.sameGrant]; cases a.recover r.tag.idx.toNat <;> rfl

/-- The service of an ENTER (R154). -/
theorem State.Plain.tryGrant_enter {dom : Nat} (hm : r.mode = .inl (.enter dom)) : s.tryGrant core r = s.enterAct core r dom 0 0 0 [0] := by
  obtain ⟨hc, hd, -⟩ := h
  unfold State.tryGrant
  rw [hc]
  dsimp only
  rw [if_neg (by simp [hd]), hm]

/-- A NEXT that opens its iteration (R154): TOP rises to it. -/
theorem State.Plain.nextGrant_opens {l : Nat} (hh : l + 1 ≤ a.h) (hl : l + 1 < 2 ^ 32)
    (hroom : l + 1 ≤ a.top ∨ l + 1 < a.base + c.windowOf r.tag.dom.toNat) :
    s.nextGrant core r c a l = some ((s.setAct { a with top := max a.top (l + 1) }).sending
      [s.onward c core r tk (iterTag a.ctx a.dom a.core a.act (l + 1)) (BitVec.ofNat 22 ((l + 1) / 1024)) s.pkgid]) := by
  have hp : (s.setAct { a with top := max a.top (l + 1) }).Plain r tk c := h
  rw [State.nextGrant, if_neg (by simp; omega), if_pos (by simpa using hroom), hp.forward]
  rfl

/-- EXPLICIT and SAME reach an opened iteration (R154). -/
theorem State.Plain.sameGrant_opened {l : Nat} (hrec : a.recover r.tag.idx.toNat = some l) (htop : l ≤ a.top) (hh : l ≤ a.h) :
    s.sameGrant core r a =
      some (s.sending [s.onward c core r tk (iterTag a.ctx a.dom a.core a.act l) (BitVec.ofNat 22 (l / 1024)) s.pkgid]) := by
  rw [State.sameGrant, hrec, Option.elim_some, if_neg (by omega), if_neg (by omega), h.forward]
  rfl

end

section
variable {s : State} {core : Nat} {r : UnitReq} {c : Ctx} {a : Activation} {l : Nat}

theorem State.nextGrant_killed (hh : a.h < l + 1) : s.nextGrant core r c a l = some (s.countKilled r.ctx 1) :=
  if_pos (by simp [hh])

theorem State.nextGrant_waits (hh : l + 1 ≤ a.h) (hl : l + 1 < 2 ^ 32) (htop : a.top < l + 1) (hw : a.base + c.windowOf r.tag.dom.toNat ≤ l + 1) :
    s.nextGrant core r c a l = none := by
  rw [State.nextGrant, if_neg (by simp; omega), if_neg (by simp; omega)]

variable (hrec : a.recover r.tag.idx.toNat = some l)
include hrec

theorem State.sameGrant_stray (htop : a.top < l) : s.sameGrant core r a = some (s.countStray r.ctx) := by
  rw [State.sameGrant, hrec, Option.elim_some, if_pos htop]

theorem State.sameGrant_killed (htop : l ≤ a.top) (hh : a.h < l) : s.sameGrant core r a = some (s.countKilled r.ctx 1) := by
  rw [State.sameGrant, hrec, Option.elim_some, if_neg (by omega), if_pos hh]

end

/-! ### The head of a grant queue -/

/-- The head of a unit's grant queue has been taken. -/
def State.popGrant (s : State) (core : Nat) (rest : List UnitReq) : State := s.updCore core fun k => { k with grantq := rest }

/-- What becomes of the head: granted, moved to the wait list, or put back (R152). -/
def State.serveHead (s : State) (core : Nat) (r : UnitReq) : State :=
  match s.tryGrant core r with
  | some t => t.moved r.ctx
  | none =>
    if (s.core core).waitq.length < 256 then s.updCore core fun k => { k with waitq := k.waitq ++ [s.asWaiting core r] }
    else s.updCore core fun k => { k with grantq := r :: k.grantq }

/-- The step that serves a request of a mode. -/
def grantStep (core : Nat) : GrantMode → Instr
  | .next => .nextGrant core
  | .enter _ => .enterGrant core
  | .enterm _ _ => .entermGrant core
  | .explicit => .explicitGrant core
  | .cont _ => .contTokenGrant core

/-- A head that is discarded with a count of its context. -/
def State.Discards (s t : State) (core : Nat) (r : UnitReq) (rest : List UnitReq) (c : Ctx) (f : Ctx → BitVec 32) : Prop :=
  (t.core core).grantq = rest ∧ t.transit = s.transit ∧ t.acts = s.acts ∧
    ∃ d, t.ctx? r.ctx = some d ∧ f d = BitVec.ofNat 32 (min ((f c).toNat + 1) 0xFFFFFFFF)

section
variable {s : State} {core : Nat} {r : UnitReq} {rest : List UnitReq} {tk : Token} {c : Ctx} (h : GrantHead s core r rest tk c)
include h

theorem GrantHead.plain : (s.popGrant core rest).Plain r tk c := by
  obtain ⟨-, -, -, hc, hd, hg, htok, hrel, -, ho⟩ := h
  exact ⟨hc, hd, hg, htok, hrel, ho⟩

theorem GrantHead.core_popGrant : (s.popGrant core rest).core core = { s.core core with grantq := rest } := by
  obtain ⟨-, -, hlt, -⟩ := h
  exact State.core_updCore_same hlt

variable {g : GrantMode} (hm : r.mode = .inl g)
include hm

/-- The step serves the head with the queue behind it. -/
theorem GrantHead.exec_eq : exec (grantStep core g) s = .next ((s.popGrant core rest).serveHead core r) := by
  obtain ⟨hq, hrel, -, -, -, -, -, -, hcloses, -⟩ := h
  have hturn : s.grantTurn core = true := by rw [State.grantTurn, hrel]; rfl
  have hsame : { r with closes := false } = r := hcloses ▸ rfl
  have hfirst : (s.popGrant core rest).closeFirst core r = s.popGrant core rest := by rw [State.closeFirst, hcloses]
  have hserve : ∀ p : GrantMode → Bool, p g = true → s.serveGrant core p = (s.popGrant core rest).serveHead core r := by
    intro p hp
    unfold State.serveGrant
    rw [hq]
    dsimp only
    rw [hm] at hsame ⊢
    dsimp only
    rw [if_neg (by simp [hp, hturn])]
    exact congrArg₂ (fun s r => State.serveHead s core r) hfirst hsame
  cases g <;> exact congrArg _ (hserve _ rfl)

/-- Granted or discarded: the request is gone from the queue. -/
theorem GrantHead.exec_of_some {t : State} (ht : (s.popGrant core rest).tryGrant core r = some t) :
    exec (grantStep core g) s = .next (t.moved r.ctx) := by
  rw [h.exec_eq hm, State.serveHead, ht]

/-- Not granted: the request joins the wait list. -/
theorem GrantHead.waits (ht : (s.popGrant core rest).tryGrant core r = none) (hroom : (s.core core).waitq.length < 256)
    (hcont : ∀ n, g ≠ .cont n) :
    ∃ t, exec (grantStep core g) s = .next t ∧ (t.core core).grantq = rest ∧ t.acts = s.acts ∧ t.transit = s.transit ∧
      (t.core core).waitq = (s.core core).waitq ++ [{ r with waited := true }] := by
  have hcore := h.core_popGrant
  have hlt : core < (s.popGrant core rest).cores.length := by
    obtain ⟨-, -, hlt, -⟩ := h
    simpa [State.popGrant] using hlt
  have hwaiting : (s.popGrant core rest).asWaiting core r = { r with waited := true } := by
    rw [State.asWaiting, hm]
    cases g with
    | cont n => exact absurd rfl (hcont n)
    | _ => rfl
  refine ⟨_, h.exec_eq hm, ?_⟩
  rw [State.serveHead, ht]
  dsimp only
  rw [if_pos (by rwa [hcore]), State.core_updCore_same hlt, hcore, hwaiting]
  exact ⟨rfl, rfl, rfl, rfl⟩

/-- Discarded and counted STRAY. -/
theorem GrantHead.stray (ht : (s.popGrant core rest).tryGrant core r = some ((s.popGrant core rest).countStray r.ctx)) :
    ∃ t, exec (grantStep core g) s = .next t ∧ s.Discards t core r rest c Ctx.stray := by
  obtain ⟨hc, -⟩ := h.plain
  exact ⟨_, h.exec_of_some hm ht, congrArg Core.grantq h.core_popGrant, rfl, rfl, _, State.ctx?_moved (State.ctx?_countStray hc), rfl⟩

/-- Discarded and counted KILLED. -/
theorem GrantHead.killed (ht : (s.popGrant core rest).tryGrant core r = some ((s.popGrant core rest).countKilled r.ctx 1)) :
    ∃ t, exec (grantStep core g) s = .next t ∧ s.Discards t core r rest c Ctx.killed := by
  obtain ⟨hc, -⟩ := h.plain
  exact ⟨_, h.exec_of_some hm ht, congrArg Core.grantq h.core_popGrant, rfl, rfl, _, State.ctx?_moved (State.ctx?_countKilled hc 1), rfl⟩

end

end Sys2Proof.Machine
end

section
/-! SUPPORT. ENTER and ENTERM: the first free slot of a unit, and the iterations that a mask opens (R151, R154, R205). -/

namespace Sys2Proof.Machine

/-- The first free ACT slot of a context and domain at a unit (R151). -/
def State.FirstFree (s : State) (core x dom k : Nat) : Prop :=
  k < 64 ∧ s.act? core x dom k = none ∧ ∀ j, j < k → s.act? core x dom j ≠ none

theorem State.freeActs_head? {s : State} {core x dom k : Nat} (hk : k < 64) (hfree : s.act? core x dom k = none) :
    ∃ j, s.FirstFree core x dom j ∧ (s.freeActs core x dom).head? = some j := by
  rw [State.freeActs, List.head?_filter]
  cases hj : (List.range 64).find? fun k => (s.act? core x dom k).isNone with
  | none => exact absurd (List.find?_eq_none.mp hj k (List.mem_range.mpr hk)) (by simp [hfree])
  | some j =>
    obtain ⟨hnone, hmem, hbelow⟩ := List.find?_range_eq_some.mp hj
    exact ⟨j, ⟨List.mem_range.mp hmem, Option.isNone_iff_eq_none.mp hnone, fun i hi => Option.isSome_iff_ne_none.mp (by simpa using hbelow i hi)⟩, rfl⟩

theorem State.freeActs_eq_nil {s : State} {core x dom : Nat} (h : ∀ k, k < 64 → s.act? core x dom k ≠ none) : s.freeActs core x dom = [] :=
  List.filter_eq_nil_iff.mpr fun k hk => by simpa using h k (List.mem_range.mp hk)

/-- The activation that ENTER and ENTERM open (R151, R154, R205). -/
def openedFor (r : UnitReq) (core dom act base top : Nat) (closed : BitVec 512) : Activation :=
  { core := core, ctx := r.ctx, dom := dom, act := act, parent := r.tag, pepoch := r.epoch, phpkg := r.hpkg, base := base, top := top,
    closed := closed, h := 2 ^ 32 - 1, left := false, pending := 0 }

/-- One more activation stands at a unit. -/
def State.opening (s : State) (a : Activation) : State := { s with acts := s.acts ++ [a] }

theorem epochOf_of_lt {l : Nat} (h : l < 1024) : epochOf l = 0 := by
  rw [epochOf, Nat.div_eq_of_lt h]
  rfl

/-- With a slot free, an activation opens under the first and its tokens go on in order. -/
theorem State.Plain.enterAct_opens {s : State} {core : Nat} {r : UnitReq} {tk : Token} {c : Ctx} (h : s.Plain r tk c) {dom k : Nat}
    (hk : k < 64) (hfree : s.act? core r.ctx dom k = none) (hroom : (s.acts.filter (·.core = core)).length < 1024) (base top : Nat)
    (closed : BitVec 512) {ks : List Nat} (hks : ∀ k ∈ ks, k < 64) :
    ∃ j, s.FirstFree core r.ctx dom j ∧ s.enterAct core r dom base top closed ks =
      some ((s.opening (openedFor r core dom j base top closed)).sending
        (ks.map fun k => s.onward c core r tk (iterTag r.ctx dom core j k) 0 s.pkgid)) := by
  obtain ⟨j, hfirst, hhead⟩ := State.freeActs_head? hk hfree
  have hp : (s.opening (openedFor r core dom j base top closed)).Plain r tk c := h
  have hheadD : (s.freeActs core r.ctx dom).headD 0 = j := by rw [List.headD_eq_head?_getD, hhead, Option.getD_some]
  have hne : (s.freeActs core r.ctx dom).isEmpty = false := by
    cases hl : s.freeActs core r.ctx dom with
    | nil => rw [hl] at hhead; cases hhead
    | cons => rfl
  refine ⟨j, hfirst, ?_⟩
  unfold State.enterAct
  dsimp only
  rw [if_neg (by simp [hne, hroom]), hheadD]
  refine congrArg some ((hp.foldl_forward _ epochOf ks).trans ?_)
  refine congrArg (State.sending _) (List.map_congr_left fun k hk => ?_)
  rw [epochOf_of_lt ((hks k hk).trans (by decide))]
  rfl

/-- With no slot free, ENTER and ENTERM are not granted. -/
theorem State.enterAct_of_full {s : State} {core : Nat} {r : UnitReq} {dom : Nat} (h : ∀ k, k < 64 → s.act? core r.ctx dom k ≠ none) (base top : Nat)
    (closed : BitVec 512) (ks : List Nat) : s.enterAct core r dom base top closed ks = none := by
  rw [State.enterAct, State.freeActs_eq_nil h]
  rfl

/-! ### Masks -/

theorem mem_maskBits {m : Word} {k : Nat} : k ∈ maskBits m ↔ m.getLsbD k = true := by
  rw [maskBits, List.mem_filter, List.mem_range]
  exact and_iff_right_of_imp BitVec.lt_of_getLsbD

/-- The closed bits of ENTERM: of the iterations from `lo` to `hi`, the clear bits of the mask. -/
def closedOf (m : Word) (lo hi : Nat) : BitVec 512 := BitVec.ofNat 512 ((2 ^ 64 - 1 - m.toNat) / 2 ^ lo % 2 ^ (hi - lo + 1))

theorem getLsbD_closedOf {m : Word} {lo hi l : Nat} (hhi : hi < 64) (hlo : lo ≤ l) (hl : l ≤ hi) :
    (closedOf m lo hi).getLsbD (l - lo) = !m.getLsbD l := by
  rw [closedOf, BitVec.getLsbD_ofNat, Nat.testBit_mod_two_pow, Nat.testBit_div_two_pow, Nat.sub_add_cancel hlo,
    show 2 ^ 64 - 1 - m.toNat = 2 ^ 64 - (m.toNat + 1) by omega, Nat.testBit_two_pow_sub_succ m.isLt, BitVec.testBit_toNat]
  simp only [show l - lo < 512 by omega, show l - lo < hi - lo + 1 by omega, show l < 64 by omega, decide_true, Bool.true_and]

/-- The set bits of a mask, from the lowest to the highest. -/
theorem maskBits_bounds {m : Word} {lo hi : Nat} (hlo : m.getLsbD lo = true) (hhi : m.getLsbD hi = true)
    (hb : ∀ k, m.getLsbD k = true → lo ≤ k ∧ k ≤ hi) : (∃ ks, maskBits m = lo :: ks) ∧ (maskBits m).foldl max 0 = hi := by
  constructor
  · have hfind : (maskBits m).head? = some lo := by
      rw [maskBits, List.head?_filter, List.find?_range_eq_some]
      refine ⟨hlo, List.mem_range.mpr (BitVec.lt_of_getLsbD hlo), fun j hj => ?_⟩
      rw [Bool.not_eq_true', ← Bool.not_eq_true]
      exact fun hset => absurd (hb j hset).1 (by omega)
    exact List.head?_eq_some_iff.mp hfind
  · have hmax : (maskBits m).max? = some hi :=
      List.max?_eq_some_iff.mpr ⟨mem_maskBits.mpr hhi, fun k hk => (hb k (mem_maskBits.mp hk)).2⟩
    rw [List.foldl_max, hmax, Option.getD_some, Nat.zero_max]

/-- ENTERM opens the iterations of its mask's bits (R205). -/
theorem State.Plain.tryGrant_enterm {s : State} {core : Nat} {r : UnitReq} {tk : Token} {c : Ctx} (h : s.Plain r tk c) {dom : Nat} {m : Word}
    (hm : r.mode = .inl (.enterm dom m)) :
    (m = 0 → s.tryGrant core r = some s) ∧
    ∀ lo hi, m.getLsbD lo = true → m.getLsbD hi = true → (∀ k, m.getLsbD k = true → lo ≤ k ∧ k ≤ hi) →
      s.tryGrant core r = s.enterAct core r dom lo hi (closedOf m lo hi) (maskBits m) := by
  obtain ⟨hc, hd, -⟩ := h
  unfold State.tryGrant
  rw [hc]
  dsimp only
  rw [if_neg (by simp [hd]), hm]
  constructor
  · rintro rfl
    rfl
  · intro lo hi hlo hhi hb
    obtain ⟨⟨ks, hks⟩, htop⟩ := maskBits_bounds hlo hhi hb
    dsimp only
    rw [hks] at htop ⊢
    dsimp only
    rw [htop]
    rfl

end Sys2Proof.Machine
end

section
/-! CERTIFICATE. O48: the grants of a domain unit. -/

namespace Sys2Proof.Machine

section
variable {s : State} {core : Nat} {r : UnitReq} {rest : List UnitReq} {tk : Token} {c : Ctx} (h : GrantHead s core r rest tk c)
include h

/-- The grant that names an activation: what the activation gives where there is one. -/
theorem GrantHead.tryGrant_at {a : Activation} (ha : s.act? core r.ctx r.tag.dom.toNat r.tag.act.toNat = some a) {g : GrantMode}
    (hm : r.mode = .inl g) (hg : namesActivation g = true) :
    (s.popGrant core rest).tryGrant core r = (s.popGrant core rest).grantAt core r c a g := by
  rw [h.plain.tryGrant_named hm hg, show (s.popGrant core rest).act? core r.ctx r.tag.dom.toNat r.tag.act.toNat = some a from ha, Option.elim_some]

/-- Without the activation its token is STRAY (R154). -/
theorem GrantHead.stray_of_none (ha : s.act? core r.ctx r.tag.dom.toNat r.tag.act.toNat = none) {g : GrantMode} (hm : r.mode = .inl g)
    (hg : namesActivation g = true) : ∃ t, exec (grantStep core g) s = .next t ∧ s.Discards t core r rest c Ctx.stray := by
  refine h.stray hm ?_
  rw [h.plain.tryGrant_named hm hg, show (s.popGrant core rest).act? core r.ctx r.tag.dom.toNat r.tag.act.toNat = none from ha, Option.elim_none]

/-- The token goes on under the tag of an iteration of the activation, as EXPLICIT and SAME reach it. -/
def State.Reaches (s t : State) (core : Nat) (r : UnitReq) (rest : List UnitReq) (tk : Token) (c : Ctx) (a : Activation) (l : Nat) : Prop :=
  (t.core core).grantq = rest ∧ t.transit = s.transit ++ [s.onward c core r tk (iterTag a.ctx a.dom a.core a.act l) (BitVec.ofNat 22 (l / 1024)) s.pkgid]

/-- A mode that goes on to the iteration after `l`, which it opens. -/
theorem GrantHead.opens {a : Activation} (ha : s.act? core r.ctx r.tag.dom.toNat r.tag.act.toNat = some a) {g : GrantMode}
    (hm : r.mode = .inl g) (hg : namesActivation g = true) {l : Nat}
    (hnext : (s.popGrant core rest).grantAt core r c a g = (s.popGrant core rest).nextGrant core r c a l) (hh : l + 1 ≤ a.h) (hl : l + 1 < 2 ^ 32)
    (hroom : l + 1 ≤ a.top ∨ l + 1 < a.base + c.windowOf r.tag.dom.toNat) :
    ∃ t, exec (grantStep core g) s = .next t ∧ s.Reaches t core r rest tk c a (l + 1) ∧
      t.act? core r.ctx r.tag.dom.toNat r.tag.act.toNat = some { a with top := max a.top (l + 1) } := by
  have ht := (h.tryGrant_at ha hm hg).trans (hnext.trans (h.plain.nextGrant_opens hh hl hroom))
  have hkeys := State.act?_isOf ha
  exact ⟨_, h.exec_of_some hm ht, ⟨congrArg Core.grantq h.core_popGrant, rfl⟩, State.act?_setAct ha hkeys⟩

/-- EXPLICIT, and SAME of a continuation, of the iteration that the IDX names (R154, R158). -/
theorem GrantHead.same {a : Activation} (ha : s.act? core r.ctx r.tag.dom.toNat r.tag.act.toNat = some a) {g : GrantMode}
    (hm : r.mode = .inl g) (hg : g = .explicit ∨ g = .cont 0) {l : Nat} (hrec : a.recover r.tag.idx.toNat = some l) :
    (l ≤ a.top → l ≤ a.h → ∃ t, exec (grantStep core g) s = .next t ∧ s.Reaches t core r rest tk c a l ∧ t.acts = s.acts) ∧
    (a.top < l → ∃ t, exec (grantStep core g) s = .next t ∧ s.Discards t core r rest c Ctx.stray) ∧
    (l ≤ a.top → a.h < l → ∃ t, exec (grantStep core g) s = .next t ∧ s.Discards t core r rest c Ctx.killed) := by
  have ht : (s.popGrant core rest).tryGrant core r = (s.popGrant core rest).sameGrant core r a := by
    rcases hg with rfl | rfl <;> exact h.tryGrant_at ha hm rfl
  refine ⟨fun htop hh => ?_, fun htop => h.stray hm (ht.trans (State.sameGrant_stray hrec htop)),
    fun htop hh => h.killed hm (ht.trans (State.sameGrant_killed hrec htop hh))⟩
  exact ⟨_, h.exec_of_some hm (ht.trans (h.plain.sameGrant_opened hrec htop hh)), ⟨congrArg Core.grantq h.core_popGrant, rfl⟩, rfl⟩

end

section
variable {s : State} {core : Nat} {r : UnitReq} {rest : List UnitReq} {tk : Token} {c : Ctx} (h : GrantHead s core r rest tk c)
include h

/-- An activation has opened for a request, with a token sent to each iteration of a list. -/
def State.Entered (s t : State) (core : Nat) (r : UnitReq) (rest : List UnitReq) (tk : Token) (c : Ctx) (dom base top : Nat) (ks : List Nat) : Prop :=
  ∃ a, a ∉ s.acts ∧ t.acts = s.acts ++ [a] ∧
    a.core = core ∧ a.ctx = r.ctx ∧ a.dom = dom ∧ a.act < 64 ∧ s.act? core r.ctx dom a.act = none ∧ (∀ k, k < a.act → s.act? core r.ctx dom k ≠ none) ∧
    a.parent = r.tag ∧ a.pepoch = r.epoch ∧ a.phpkg = r.hpkg ∧
    a.base = base ∧ a.top = top ∧ a.h = 2 ^ 32 - 1 ∧ a.left = false ∧ a.pending = 0 ∧ (t.core core).grantq = rest ∧
    (∀ l, base ≤ l → l ≤ top → (a.closed.getLsbD (l - base) = true ↔ l ∉ ks)) ∧
    t.transit = s.transit ++ ks.map fun k => s.onward c core r tk (iterTag r.ctx dom core a.act k) 0 s.pkgid

/-- ENTER and ENTERM with a slot free. -/
theorem GrantHead.enters {dom base top : Nat} {closed : BitVec 512} {ks : List Nat} {g : GrantMode} (hm : r.mode = .inl g)
    (ht : (s.popGrant core rest).tryGrant core r = (s.popGrant core rest).enterAct core r dom base top closed ks)
    (hroom : (∃ k, k < 64 ∧ s.act? core r.ctx dom k = none) ∧ (s.acts.filter (·.core = core)).length < 1024) (hks : ∀ k ∈ ks, k < 64)
    (hclosed : ∀ l, base ≤ l → l ≤ top → (closed.getLsbD (l - base) = true ↔ l ∉ ks)) :
    ∃ t, exec (grantStep core g) s = .next t ∧ s.Entered t core r rest tk c dom base top ks := by
  obtain ⟨⟨k, hk, hfree⟩, hmany⟩ := hroom
  obtain ⟨j, ⟨hj, hnone, hbelow⟩, henter⟩ := h.plain.enterAct_opens hk hfree hmany base top closed hks
  have hnew : openedFor r core dom j base top closed ∉ s.acts := fun hmem =>
    absurd (Activation.isOf_iff.mpr ⟨rfl, rfl, rfl, rfl⟩)
      (List.find?_eq_none.mp ((s.act?_eq_find? core r.ctx dom j).symm.trans hnone) _ hmem)
  exact ⟨_, h.exec_of_some hm (ht.trans henter), _, hnew, rfl, rfl, rfl, rfl, hj, hnone, hbelow, rfl, rfl, rfl, rfl, rfl, rfl, rfl, rfl,
    congrArg Core.grantq h.core_popGrant, hclosed, rfl⟩

end

/-- Settles O48: each grant by its mode, through the outcomes of `State.tryGrant`. -/
theorem grants : Obligations.Grants := by
  refine ⟨fun s core r rest tk c a h => ?_, fun s core r rest tk c dom h => ?_⟩
  · intro l dom act out iter counted
    refine ⟨fun hnone => ⟨fun hm => h.stray_of_none hnone hm rfl, fun hm => h.stray_of_none hnone hm rfl,
      fun m hm => h.stray_of_none hnone hm rfl⟩, fun ha hh => ⟨fun hm => ⟨fun hkill => ?_, ?_, ?_⟩, ?_, ?_, fun hm => ?_⟩⟩
    · exact h.killed hm ((h.tryGrant_at ha hm rfl).trans (State.nextGrant_killed hkill))
    · intro hl hlt hroom
      obtain ⟨t, ht, hreach, hact⟩ := h.opens ha hm rfl rfl hl hlt hroom
      exact ⟨t, ht, hreach, hact⟩
    · intro hl hlt htop hwin hroom
      exact h.waits hm ((h.tryGrant_at ha hm rfl).trans (State.nextGrant_waits hl hlt htop hwin)) hroom (by simp)
    · rintro m n (⟨rfl, rfl⟩ | ⟨rfl, rfl⟩) hm l hlo hhi hidx
      · exact h.same ha hm (.inl rfl) (Activation.recover_eq hlo hhi hidx)
      · exact h.same ha hm (.inr rfl) (Activation.recover_eq hlo hhi hidx)
    · intro hm l hlo hhi hidx hl hlt hroom
      have hnext : (s.popGrant core rest).grantAt core r c a (.cont 1) = (s.popGrant core rest).nextGrant core r c a l := by
        rw [State.grantAt, Activation.recover_eq hlo hhi hidx, Option.elim_some]
      obtain ⟨t, ht, hreach, hact⟩ := h.opens ha hm rfl hnext hl hlt hroom
      exact ⟨t, ht, hreach, hact⟩
    · have ht : (s.popGrant core rest).tryGrant core r = some ((s.popGrant core rest).sending [s.onward c core r tk a.parent a.pepoch a.phpkg]) :=
        (h.tryGrant_at ha hm rfl).trans (congrArg some (h.plain.forward ..))
      exact ⟨_, h.exec_of_some hm ht, ⟨congrArg Core.grantq h.core_popGrant, rfl⟩, rfl⟩
  · intro entered room
    refine ⟨fun hm hroom => ?_, fun hm hfull hwait => ?_, fun m hm => ⟨fun hzero => ?_, fun lo hi hroom hlo hhi hb => ?_⟩⟩
    · exact h.enters hm (h.plain.tryGrant_enter hm) hroom (by simp) fun l _ hl => by simp [Nat.le_zero.mp hl]
    · obtain ⟨t, ht, -, hacts, -, hwaitq⟩ := h.waits hm ((h.plain.tryGrant_enter hm).trans (State.enterAct_of_full (s := s.popGrant core rest) hfull ..)) hwait (by simp)
      exact ⟨t, ht, hwaitq, hacts⟩
    · exact ⟨_, h.exec_of_some hm ((h.plain.tryGrant_enterm hm).1 hzero), congrArg Core.grantq h.core_popGrant, rfl, rfl⟩
    · refine h.enters hm ((h.plain.tryGrant_enterm hm).2 lo hi hlo hhi hb) hroom (fun k hk => BitVec.lt_of_getLsbD (mem_maskBits.mp hk)) ?_
      intro l hle hl
      change _ ↔ l ∉ maskBits m
      rw [getLsbD_closedOf (BitVec.lt_of_getLsbD hhi) hle hl, mem_maskBits]
      simp

end Sys2Proof.Machine
end

section
/-! SUPPORT. What a kill notice takes away at its core, what its acknowledgement does to the activation (R161), and what becomes ready
of what stays. -/

namespace Sys2Proof.Machine

/-! ### Entries that become ready -/

/-- The instance that an entry becomes is of its core, context and iteration. -/
def FoldEntry.Becomes (e : FoldEntry) (r : Ready) : Prop :=
  r.core = e.core ∧ r.ctx = e.ctx ∧ r.hpkg = e.hpkg ∧ r.tag = e.tag ∧ r.epoch = e.epoch

theorem State.makeReady_becomes (s : State) (e : FoldEntry) : ∃ r, (s.makeReady e).ready = s.ready ++ [r] ∧ e.Becomes r :=
  ⟨_, rfl, rfl, rfl, rfl, rfl, rfl⟩

/-- Entries made ready, one after another: the ready list grows by their instances. -/
theorem State.ready_foldl_makeReady (l : List FoldEntry) (s : State) :
    ∃ rs, (l.foldl State.makeReady s).ready = s.ready ++ rs ∧ ∀ r ∈ rs, ∃ e ∈ l, e.Becomes r := by
  induction l generalizing s with
  | nil => exact ⟨[], (List.append_nil _).symm, by simp⟩
  | cons e l ih =>
    obtain ⟨r, hr, hbecomes⟩ := s.makeReady_becomes e
    obtain ⟨rs, hrs, hof⟩ := ih (s.makeReady e)
    refine ⟨r :: rs, ?_, ?_⟩
    · rw [List.foldl_cons, hrs, hr, List.append_assoc]
      rfl
    · rintro q (_ | ⟨_, hq⟩)
      · exact ⟨e, List.mem_cons_self, hbecomes⟩
      · obtain ⟨f, hf, hfq⟩ := hof q hq
        exact ⟨f, List.mem_cons_of_mem _ hf, hfq⟩

/-- What the promotion of complete entries leaves: all but the fold, the ready list and the cores. -/
def State.besideFold (s : State) : State := { s with fold := [], ready := [], cores := [] }

theorem State.besideFold_promote (s : State) (core : Nat) : (s.promote core).besideFold = s.besideFold :=
  State.foldl_field (f := State.makeReady) State.besideFold (fun _ _ => rfl) _ s

/-- Promotion takes complete entries from the fold into the ready list, and nothing else (R188). -/
theorem State.promote_moves (s : State) (core : Nat) :
    (∀ e ∈ (s.promote core).fold, e ∈ s.fold) ∧ (∀ e ∈ s.fold, e.complete = false → e ∈ (s.promote core).fold) ∧
      ∃ rs, (s.promote core).ready = s.ready ++ rs ∧ ∀ r ∈ rs, ∃ e ∈ s.fold, e.Becomes r := by
  unfold State.promote
  dsimp only
  generalize hgo : List.take _ (sortBy _ _) = go
  have hmem : ∀ e ∈ go, e ∈ s.fold ∧ e.complete = true := by
    intro e he
    rw [← hgo] at he
    have hfilter := List.mem_filter.mp ((sortBy_perm _ _).mem_iff.mp (List.mem_of_mem_take he))
    exact ⟨hfilter.1, by simp_all⟩
  have hfold : (go.foldl State.makeReady s).fold = s.fold := State.foldl_field (f := State.makeReady) State.fold (fun _ _ => rfl) go s
  rw [hfold]
  refine ⟨fun e he => List.mem_of_mem_filter he, fun e he hcomp => List.mem_filter.mpr ⟨he, ?_⟩, ?_⟩
  · by_contra hgone
    have hin : e ∈ go := by simpa using hgone
    rw [(hmem e hin).2] at hcomp
    cases hcomp
  · obtain ⟨rs, hrs, hof⟩ := State.ready_foldl_makeReady go s
    refine ⟨rs, hrs, fun r hr => ?_⟩
    obtain ⟨e, he, hb⟩ := hof r hr
    exact ⟨e, (hmem e he).1, hb⟩

/-! ### The tokens that a notice kills -/

theorem sumBy_eq_sum {α : Type} (f : α → Nat) (l : List α) : sumBy f l = (l.map f).sum := by
  rw [sumBy, List.sum_eq_foldl, List.foldl_map]

/-- What a notice kills of the entries, ready instances and pinfold slots of its core, without a stamp to stop at. -/
theorem Notice.kills_of_none {n : Notice} (h : n.upto = none) :
    n.killsEntry = (fun e => e.core = n.core && n.kills e.ctx e.hpkg e.tag e.epoch) ∧
    n.killsReady = (fun r => r.core = n.core && n.kills r.ctx r.hpkg r.tag r.epoch) ∧
    n.killsPin = (fun p => p.core = n.core && n.kills p.entry.ctx p.entry.hpkg p.entry.tag p.entry.epoch) := by
  have hat (x hpkg : Nat) (t : Tag) (e : BitVec 22) (stamp : Nat) : n.killsAt x hpkg t e stamp = n.kills x hpkg t e := by
    rw [Notice.killsAt, h]
    exact Bool.and_true _
  refine ⟨funext fun e => ?_, funext fun r => ?_, funext fun p => ?_⟩
  · rw [Notice.killsEntry, hat]
  · rw [Notice.killsReady, hat]
  · rw [Notice.killsPin, hat]

/-- An instance that an entry becomes is killed as the entry is. -/
theorem FoldEntry.Becomes.killed {e : FoldEntry} {r : Ready} (h : e.Becomes r) {n : Notice} (hupto : n.upto = none) :
    n.killsReady r = n.killsEntry e := by
  obtain ⟨hcore, hctx, hpkg, htag, hepoch⟩ := h
  obtain ⟨hentry, hready, -⟩ := Notice.kills_of_none hupto
  rw [hentry, hready]
  dsimp only
  rw [hcore, hctx, hpkg, htag, hepoch]

/-- The count of the killed tokens. -/
theorem State.killedBy_eq {s : State} {n : Notice} {c : Ctx} (hc : s.ctx? n.ctx = some c) :
    s.killedBy n = (((s.fold ++ s.eldest.map (·.1)).filter n.killsEntry).map FoldEntry.count).sum +
      ((s.ready.filter n.killsReady).map (·.frame.length)).sum + ((c.pin.filter n.killsPin).map (·.entry.count)).sum := by
  rw [State.killedBy, hc, sumBy_eq_sum, sumBy_eq_sum, sumBy_eq_sum]
  rfl

/-- What a notice kills has gone from its core and is counted. -/
def State.purged (s : State) (n : Notice) : State :=
  (({ s with fold := s.fold.filter fun e => !n.killsEntry e, eldest := s.eldest.filter fun e => !n.killsEntry e.1,
             ready := s.ready.filter fun r => !n.killsReady r } : State).updCtx n.ctx
    fun c => { c with pin := c.pin.filter fun p => !n.killsPin p }).countKilled n.ctx (s.killedBy n)

theorem State.applyNotice_eq {n : Notice} (h : n.upto = none) (s : State) :
    s.applyNotice n = (((s.purged n).installFilter n).promote n.core).rebind n.core := by
  rw [State.applyNotice, h]
  rfl

theorem State.ctx?_purged {s : State} {n : Notice} {c : Ctx} (h : s.ctx? n.ctx = some c) :
    (s.purged n).ctx? n.ctx = some { c with pin := c.pin.filter fun p => !n.killsPin p, killed := satInc c.killed (s.killedBy n) } :=
  State.ctx?_countKilled (State.ctx?_updCtx_of_some (s := { s with fold := _, eldest := _, ready := _ }) h
    (f := fun c => { c with pin := c.pin.filter fun p => !n.killsPin p }) fun _ => rfl) _

/-! ### The filter -/

theorem foldl_min_le {α : Type} (f : α → Nat) (l : List α) (n : Nat) :
    l.foldl (fun h x => min h (f x)) n ≤ n ∧ ∀ x ∈ l, l.foldl (fun h x => min h (f x)) n ≤ f x := by
  induction l generalizing n with
  | nil => simp
  | cons a l ih =>
    obtain ⟨hle, hall⟩ := ih (min n (f a))
    rw [List.foldl_cons]
    refine ⟨hle.trans (min_le_left ..), ?_⟩
    rintro x (_ | ⟨_, hx⟩)
    · exact hle.trans (min_le_right ..)
    · exact hall x hx

/-- The filter of a notice's activation at its core: with the lowest H of those that stood there (R161). -/
theorem State.installFilter_installs (s : State) (n : Notice) :
    let one := fun f : Filter => f.core = n.core ∧ f.home = n.home ∧ f.ctx = n.ctx ∧ f.dom = n.dom ∧ f.act = n.act ∧ f.hpkg = n.hpkg
    ∃ f ∈ (s.installFilter n).filters, one f ∧ f.h ≤ n.h ∧ (∀ g ∈ s.filters, one g → f.h ≤ g.h) ∧ ((∀ g ∈ s.filters, ¬one g) → f.h = n.h) := by
  intro one
  have hold (g : Filter) : (g.core = n.core && g.of n.ctx n.home n.dom n.act n.hpkg) = true ↔ one g := by
    simp only [one, Filter.of, Bool.and_eq_true, decide_eq_true_eq]
    tauto
  refine ⟨_, List.mem_append_right _ (List.mem_singleton_self _), ⟨rfl, rfl, rfl, rfl, rfl, rfl⟩, (foldl_min_le ..).1, fun g hg hone => ?_, fun hnone => ?_⟩
  · exact (foldl_min_le Filter.h _ n.h).2 g (List.mem_filter.mpr ⟨hg, (hold g).mpr hone⟩)
  · dsimp only
    rw [List.filter_eq_nil_iff.mpr fun g hg hone => hnone g hg ((hold g).mp hone)]
    rfl

/-! ### KILL_NOTICE -/

/-- The notice is applied, acknowledged and gone. -/
theorem exec_killNotice {s : State} {i : Nat} {n : Notice} {c : Ctx} (hn : s.notices[i]? = some n) (hc : s.ctx? n.ctx = some c) (hsaved : c.saved = [])
    (hfirst : ∀ o ∈ s.notices.take i, ¬(o.core = n.core ∧ o.of n.ctx n.home n.dom n.act n.hpkg = true))
    (hroom : (s.filters.filter (·.core = n.core)).length < 256) :
    exec (.killNotice i) s = .next (((({ s with notices := s.notices.eraseIdx i } : State).applyNotice n).ackNotice n).moved n.ctx) := by
  have hnone : ((s.notices.take i).any fun o => o.core = n.core && o.of n.ctx n.home n.dom n.act n.hpkg) = false :=
    List.any_eq_false.mpr fun o ho => by simpa using hfirst o ho
  change execKillNotice i s = _
  unfold execKillNotice
  rw [hn]
  dsimp only
  rw [if_neg (by simp [hnone]), hc, Option.bind_some, Ctx.section?, hsaved, List.find?_nil]
  dsimp only
  rw [if_pos (by simp [State.filterFree, hroom]), removeAt_eq_eraseIdx]

/-! ### KILL_NOTICE_ACK -/

theorem State.regrant_of_empty {s : State} {core : Nat} (h : (s.core core).waitq = []) (n : Nat) : State.regrant core n s = s := by
  cases n with
  | zero => rfl
  | succ n => rw [State.regrant, h]; rfl

/-- The units of a package: their queues, their activations and the acknowledgements on their way. -/
def State.units (s : State) : List Core × List Activation × List Notice := (s.cores, s.acts, s.acks)

theorem State.units_tellOthers (s : State) (x : Nat) (m : GangMsg) : (s.tellOthers x m).units = s.units := by
  unfold State.tellOthers
  split
  · rfl
  · refine State.foldl_field State.units (fun s p => ?_) _ s
    split
    · rfl
    · unfold State.sendOut
      split <;> rfl

/-- An activation is set, and freed if it is over (R157, R161). -/
def State.closeAct (s : State) (a : Activation) : State :=
  if a.over then
    (({ s.setAct a with acts := (s.setAct a).acts.filter fun b => !a.same b } : State).withdraw a.ctx a.core a.dom a.act s.pkgid).tellOthers a.ctx
      (.withdraw s.pkgid a.core a.dom a.act)
  else s.setAct a

theorem State.units_closeAct (s : State) (a : Activation) :
    (s.closeAct a).units = (s.cores, if a.over then (s.setAct a).acts.filter fun b => !a.same b else (s.setAct a).acts, s.acks) := by
  unfold State.closeAct
  split
  · exact State.units_tellOthers ..
  · rfl

/-- With none waiting at its unit, an activation that is over is freed, and nothing is granted. -/
theorem State.settleAct_of_empty {s : State} {a : Activation} (h : (s.core a.core).waitq = []) : s.settleAct a = s.closeAct a := by
  have hcores : (s.closeAct a).cores = s.cores := congrArg Prod.fst (s.units_closeAct a)
  have hwaitq : ((s.closeAct a).core a.core).waitq = [] := by rwa [State.core, hcores]
  exact State.regrant_of_empty hwaitq _

/-- R161: one acknowledgement less is awaited; an activation that had left and has closed is then freed. -/
theorem exec_killNoticeAck {s : State} {i : Nat} {n : Notice} {a : Activation} (hn : s.acks[i]? = some n) (hwait : (s.core n.home).waitq = [])
    (ha : s.act? n.home n.ctx n.dom n.act = some a) :
    ∃ t, exec (.killNoticeAck i) s = .next t ∧ t.acks = s.acks.eraseIdx i ∧ t.act? n.home n.ctx n.dom n.act =
      if a.left = true ∧ min a.top a.h < a.base ∧ a.pending ≤ 1 then none else some { a with pending := a.pending - 1 } := by
  have hkeys := State.act?_isOf ha
  let b : Activation := { a with pending := a.pending - 1 }
  let u : State := { s with acks := s.acks.eraseIdx i }
  have hset : (u.setAct b).act? n.home n.ctx n.dom n.act = some b := State.act?_setAct ha hkeys
  have hsettle : u.settleAct b = u.closeAct b := State.settleAct_of_empty (by rw [show b.core = n.home from hkeys.1]; exact hwait)
  have hover : b.over = true ↔ a.left = true ∧ min a.top a.h < a.base ∧ a.pending ≤ 1 := by
    simp [b, Activation.over, and_assoc]
    omega
  have hexec : exec (.killNoticeAck i) s = .next (u.closeAct b) := by
    change execKillNoticeAck i s = _
    unfold execKillNoticeAck
    rw [hn, removeAt_eq_eraseIdx, ← hsettle]
    dsimp only
    rw [State.takeAck, show State.act? { s with acks := s.acks.eraseIdx i } n.home n.ctx n.dom n.act = some a from ha]
  obtain ⟨-, hrest⟩ := Prod.mk.inj (u.units_closeAct b)
  obtain ⟨hacts, hacks⟩ := Prod.mk.inj hrest
  refine ⟨_, hexec, hacks, ?_⟩
  rw [State.act?_eq_find?, hacts]
  by_cases hb : b.over = true
  · rw [if_pos hb, if_pos (hover.mp hb), List.find?_eq_none]
    intro d hd
    have hnot := (List.mem_filter.mp hd).2
    obtain ⟨hcore, hctx, hdom, hact⟩ := hkeys
    rw [Activation.same_eq_isOf, hcore, hctx, hdom, hact] at hnot
    simpa using hnot
  · rw [if_neg hb, if_neg fun hyp => hb (hover.mpr hyp)]
    exact hset

end Sys2Proof.Machine
end

section
/-! SUPPORT. The eldest's frame, the spill and what is presented again (R164, R167–R169, R410). -/

namespace Sys2Proof.Machine

theorem State.ctx?_foldAdd (s : State) (e : FoldEntry) (x : Nat) : (s.foldAdd e).ctx? x = s.ctx? x :=
  (congrArg (fun u : State => u.ctx? x) (State.writeFrame_eq _ _)).trans rfl

theorem State.eldest_foldAdd (s : State) (e : FoldEntry) : (s.foldAdd e).eldest = s.eldest :=
  (congrArg State.eldest (State.writeFrame_eq _ _)).trans rfl

/-- An entry that joins an empty fold. -/
theorem State.fold_foldAdd_of_empty {s : State} (h : s.fold = []) (e : FoldEntry) :
    (s.foldAdd e).fold = [{ e with state := 0, dup := none, way := 0 }] := by
  have hset (f : FoldEntry) : s.setOf f = [] := by rw [State.setOf, h]; rfl
  unfold State.foldAdd
  dsimp only
  rw [State.writeFrame_eq, hset, h]
  rfl

/-- An empty fold has room in every set. -/
theorem State.setRoom_of_empty {s : State} (h : s.fold = []) (e : FoldEntry) : s.setRoom e = some s :=
  if_pos (by simp [State.setOf, h])

/-- An entry that waits stays the only one of the fold while the core settles. -/
theorem State.settleFold_foldAdd {s : State} (h : s.fold = []) {e : FoldEntry} (hcomp : e.complete = false) (core x : Nat) :
    (s.foldAdd e).settleFold core x = ((s.foldAdd e).rebind core).moved x := by
  rw [State.settleFold, State.promote_of_waiting (State.fold_foldAdd_of_empty h e) hcomp]

/-- A slot of a context's pinfold is taken. -/
def State.pinned (s : State) (x : Nat) (p : PinSlot) : State := s.updCtx x fun c => { c with pin := c.pin ++ [p] }

theorem State.ctx?_pinned {s : State} {x : Nat} {c : Ctx} (hc : s.ctx? x = some c) (p : PinSlot) :
    (s.pinned x p).ctx? x = some { c with pin := c.pin ++ [p] } :=
  State.ctx?_updCtx_of_some hc (f := fun c => { c with pin := c.pin ++ [p] }) fun _ => rfl

/-- The slot that a spilled entry or token takes (R410). -/
def State.slotFor (s : State) (e : FoldEntry) (k : Nat) (why : PinWhy) : PinSlot :=
  { slot := k, entry := { e with state := 1, place := none }, stamp := e.arrival, core := e.core, why := why,
    seen := (s.usedFrames e.core e.ctx).length }

/-- An entry takes the lowest free slot of its context's pinfold (R410). -/
theorem State.pinAdd_of_free {s : State} {e : FoldEntry} {c : Ctx} (hc : s.ctx? e.ctx = some c) {k : Nat} (hk : c.pinFree = some k) (why : PinWhy) :
    ∃ t d, s.pinAdd e why = some t ∧ t.fold = s.fold ∧ t.eldest = s.eldest ∧ t.ctx? e.ctx = some d ∧
      d.pin = c.pin ++ [s.slotFor e k why] := by
  unfold State.pinAdd
  rw [hc]
  dsimp only
  rw [hk]
  dsimp only
  rw [State.wrN_eq]
  generalize State.mem (s.wrN _ _) = m
  have hd := State.ctx?_moved (State.ctx?_pinned (s := { s with mem := m }) hc (s.slotFor e k why))
  exact ⟨_, _, rfl, rfl, rfl, hd, rfl⟩

/-- An entry that found no frame is spilled, none of its context waiting for a slot (R412). -/
theorem State.spillEntry_of_free {s : State} {e : FoldEntry} {c : Ctx} (hheld : s.pinHeld = []) (hc : s.ctx? e.ctx = some c) {k : Nat}
    (hk : c.pinFree = some k) :
    ∃ d, (s.spillEntry e).fold = s.fold ∧ (s.spillEntry e).eldest = s.eldest ∧ (s.spillEntry e).ctx? e.ctx = some d ∧
      d.pin = c.pin ++ [s.slotFor e k .spilled] := by
  obtain ⟨t, d, ht, hfold, heldest, hd, hpin⟩ := State.pinAdd_of_free hc hk .spilled
  have hspill : s.spillEntry e = t := by
    rw [State.spillEntry, hheld, List.any_nil, if_neg Bool.false_ne_true, State.pinOrHold, ht]
  rw [hspill]
  exact ⟨d, hfold, heldest, hd, hpin⟩

/-! ### ELDEST_QUERY and ELDEST_ANSWER -/

/-- A token of this package is eldest when its iteration is BASE of an activation that stands (R168). -/
theorem State.isEldest_iff {s : State} {e : FoldEntry} (hdom : e.tag.dom ≠ 0) (hpkg : e.hpkg = s.pkgid) :
    s.isEldest e = true ↔ ∃ a ∈ s.acts, a.core = e.tag.home.toNat ∧ a.ctx = e.ctx ∧ a.dom = e.tag.dom.toNat ∧ a.act = e.tag.act.toNat ∧
      a.base = literOf e.tag e.epoch := by
  rw [State.isEldest, decide_eq_false hdom, Bool.false_or]
  simp [State.isBase, hpkg, and_assoc]

/-- The unit of a token's HOME answers its question. -/
theorem exec_eldestQuery {s : State} {i core : Nat} {e : FoldEntry} (he : s.eldest[i]? = some (e, none)) (hhome : e.tag.home.toNat = core)
    (hasked : e.asked = false) (hpkg : e.hpkg = s.pkgid) :
    exec (.eldestQuery core i) s = .next { s with eldest := s.eldest.set i (e, some (s.isEldest e)) } := by
  change execEldestQuery core i s = _
  unfold execEldestQuery
  rw [he]
  dsimp only
  rw [if_neg (by simp [hhome, hasked]), if_pos hpkg]

section
variable {s : State} {i core : Nat} {e : FoldEntry} {yes : Bool} (he : s.eldest[i]? = some (e, some yes)) (hcore : e.core = core)
include he hcore

/-- The answer yes, with a frame of the reserve free and an empty fold: the entry joins it. -/
theorem exec_eldestAnswer_joins (hyes : yes = true) (hcomp : e.complete = false) (hfold : s.fold = []) {f : FrameRef}
    (hframe : s.frame2 core e.ctx e.units = some f) :
    ∃ t, exec (.eldestAnswer core i) s = .next t ∧ t.eldest = s.eldest.eraseIdx i ∧
      t.fold = [{ e with place := some f, state := 0, dup := none, way := 0 }] := by
  let u : State := { s with eldest := s.eldest.eraseIdx i }
  refine ⟨(u.foldAdd { e with place := some f }).settleFold core e.ctx, ?_, ?_⟩
  · change execEldestAnswer core i s = _
    unfold execEldestAnswer
    rw [he]
    dsimp only
    rw [if_neg (by simpa using hcore), if_pos hyes, removeAt_eq_eraseIdx, State.setRoom_of_empty (s := u) hfold]
    dsimp only
    rw [show u.frame2 core e.ctx e.units = some f from hframe]
    rfl
  · rw [State.settleFold_foldAdd (s := u) hfold (by exact hcomp)]
    exact ⟨u.eldest_foldAdd _, State.fold_foldAdd_of_empty (s := u) hfold _⟩

/-- The answer no, or no frame of the reserve: the entry is spilled. -/
theorem exec_eldestAnswer_spills (hno : yes = false ∨ s.fold = [] ∧ s.frame2 core e.ctx e.units = none) :
    exec (.eldestAnswer core i) s = .next (({ s with eldest := s.eldest.eraseIdx i } : State).spillEntry e) := by
  change execEldestAnswer core i s = _
  unfold execEldestAnswer
  rw [he]
  dsimp only
  rw [if_neg (by simpa using hcore), removeAt_eq_eraseIdx]
  rcases hno with rfl | ⟨hfold, hframe⟩
  · rfl
  · cases yes with
    | false => rfl
    | true =>
      rw [if_pos rfl, State.setRoom_of_empty (s := { s with eldest := s.eldest.eraseIdx i }) hfold]
      dsimp only
      rw [show State.frame2 { s with eldest := s.eldest.eraseIdx i } core e.ctx e.units = none from hframe]

end

/-! ### SPILL_REPRESENT -/

/-- A slot of a context's pinfold is given up. -/
def State.unpin (s : State) (x slot : Nat) : State := s.updCtx x fun c => { c with pin := c.pin.filter (·.slot ≠ slot) }

theorem State.ctx?_unpin {s : State} {x : Nat} {c : Ctx} (hc : s.ctx? x = some c) (slot : Nat) :
    (s.unpin x slot).ctx? x = some { c with pin := c.pin.filter (·.slot ≠ slot) } :=
  State.ctx?_updCtx_of_some hc (f := fun c => { c with pin := c.pin.filter (·.slot ≠ slot) }) fun _ => rfl

/-- The frames of a context do not stand in its pinfold's slots. -/
theorem State.frame1_unpin {s : State} {x : Nat} {c : Ctx} (hc : s.ctx? x = some c) (slot core units : Nat) :
    (s.unpin x slot).frame1 core x units = s.frame1 core x units := by
  have hd := State.ctx?_unpin hc slot
  have hused : (s.unpin x slot).usedFrames core x = s.usedFrames core x := by
    unfold State.usedFrames
    rw [hc, hd]
    rfl
  unfold State.frame1
  rw [hc, hd, hused]

/-- An entry that meets an empty fold joins it in a frame outside the reserve. -/
theorem State.present_eq_foldAdd {s : State} {e : FoldEntry} {f : FrameRef} (hf : s.fold = []) (he : s.eldest = [])
    (hframe : s.frame1 e.core e.ctx e.units = some f) : s.present e = some (s.foldAdd { e with place := some f }) := by
  unfold State.present
  dsimp only
  rw [hf, he]
  simp only [List.filter_nil, List.map_nil, List.append_nil, minBy, State.setRoom_of_empty hf, State.placeEntry, hframe]

section
variable {s : State} {c : Ctx} {p : PinSlot} (hc : s.ctx? p.entry.ctx = some c) (hpin : c.pin = [p])
include hc hpin

/-- The one slot of a context's pinfold is all that is presented again (R169). -/
theorem State.representSpilled_one (hwhy : p.why = .spilled) (hdrain : c.draining = none) (hsaved : c.saved = []) :
    s.representSpilled p.core p.entry.ctx = s.represent p := by
  unfold State.representSpilled
  rw [hc]
  dsimp only
  rw [if_neg (by simp [hdrain, Ctx.section?, hsaved]), hpin, List.filter_cons_of_pos (by simp [hwhy])]
  simp only [List.filter_nil, sortBy, List.foldl_cons, List.foldl_nil, insertBy]
  cases hmay : s.mayBeEldest p.entry <;> simp [hmay]

/-- A spilled entry joins the empty fold when it finds a frame outside the reserve; its slot is given up. -/
theorem State.represent_joins (hstamp : p.stamp = p.entry.arrival) (hfold : s.fold = []) (heldest : s.eldest = []) (hfilters : s.filters = [])
    {f : FrameRef} (hframe : s.frame1 p.entry.core p.entry.ctx p.entry.units = some f) :
    s.represent p = ((s.unpin p.entry.ctx p.slot).foldAdd { p.entry with place := some f, state := 0, dup := none }).settleFold p.core p.entry.ctx := by
  have hid : c.id = p.entry.ctx := State.ctx?_id hc
  have hpresent := State.present_eq_foldAdd (s := s.unpin p.entry.ctx p.slot) (e := { p.entry with state := 0, dup := none }) hfold heldest
    ((State.frame1_unpin hc ..).trans hframe)
  have hfiltered : s.filtered p.core c.id p.entry.hpkg p.entry.tag p.entry.epoch = false := by
    rw [State.filtered, hfilters]
    exact Bool.and_false _
  have hahead : c.pinnedAhead { p.entry with state := 0, dup := none } = false := by
    simp [Ctx.pinnedAhead, hpin, hstamp]
  have hoffers : s.offers p = true := by
    simp [State.offers, hframe]
  unfold State.represent
  rw [hc]
  dsimp only
  rw [hfiltered, if_neg Bool.false_ne_true, hahead, hoffers, if_neg (by simp)]
  rw [hid]
  change (match (s.unpin p.entry.ctx p.slot).present { p.entry with state := 0, dup := none } with
    | some t => ((t.promote p.core).rebind p.core).moved p.entry.ctx
    | none => s) = _
  rw [hpresent]
  rfl

/-- SPILL_REPRESENT of the one spilled entry of a context. -/
theorem exec_spillRepresent_joins (hwhy : p.why = .spilled) (hdrain : c.draining = none) (hsaved : c.saved = [])
    (hstamp : p.stamp = p.entry.arrival) (hcomp : p.entry.complete = false) (hfold : s.fold = []) (heldest : s.eldest = []) (hfilters : s.filters = [])
    {f : FrameRef} (hframe : s.frame1 p.entry.core p.entry.ctx p.entry.units = some f) :
    ∃ t d, exec (.spillRepresent p.core p.entry.ctx) s = .next t ∧ t.fold = [{ p.entry with place := some f, state := 0, dup := none, way := 0 }] ∧
      t.ctx? p.entry.ctx = some d ∧ d.pin = [] := by
  have hexec : exec (.spillRepresent p.core p.entry.ctx) s = .next (s.represent p) :=
    congrArg _ (State.representSpilled_one hc hpin hwhy hdrain hsaved)
  rw [State.represent_joins hc hpin hstamp hfold heldest hfilters hframe,
    State.settleFold_foldAdd (s := s.unpin p.entry.ctx p.slot) hfold (by exact hcomp)] at hexec
  have htfold := State.fold_foldAdd_of_empty (s := s.unpin p.entry.ctx p.slot) hfold { p.entry with place := some f, state := 0, dup := none }
  have hd := (State.ctx?_foldAdd (s.unpin p.entry.ctx p.slot) { p.entry with place := some f, state := 0, dup := none } p.entry.ctx).trans
    (State.ctx?_unpin hc p.slot)
  generalize State.foldAdd _ _ = t at hexec htfold hd
  exact ⟨_, _, hexec, htfold, State.ctx?_moved (s := t.rebind p.core) hd, by simp [hpin]⟩

end

end Sys2Proof.Machine
end

section
/-! CERTIFICATE. O50: kill notices and their acknowledgements, eldest questions and answers, and the spilled. -/

namespace Sys2Proof.Machine

/-- What a notice has killed at its core, and only that, is gone and counted; its filter stands (R161). -/
structure State.Killed (s t : State) (n : Notice) (c : Ctx) : Prop where
  filters : t.filters = (s.installFilter n).filters
  counted : ∃ d, t.ctx? n.ctx = some d ∧ d.killed = satInc c.killed (s.killedBy n) ∧ d.pin = c.pin.filter fun p => !n.killsPin p
  live : ∀ e ∈ t.fold, e ∈ s.fold ∧ n.killsEntry e = false
  stays : ∀ e ∈ s.fold, n.killsEntry e = false → e.complete = false → e ∈ t.fold
  eldest : t.eldest = s.eldest.filter fun q => !n.killsEntry q.1
  liveReady : ∀ r ∈ t.ready, n.killsReady r = false
  staysReady : ∀ r ∈ s.ready, n.killsReady r = false → r ∈ t.ready

/-- A notice kills, and what survives of the fold may become ready. -/
theorem State.applyNotice_kills {s : State} {n : Notice} {c : Ctx} (hupto : n.upto = none) (hc : s.ctx? n.ctx = some c) :
    s.Killed (s.applyNotice n) n c := by
  have hctx := State.ctx?_purged hc
  have hfold : ((s.purged n).installFilter n).fold = s.fold.filter fun e => !n.killsEntry e := rfl
  have hready : ((s.purged n).installFilter n).ready = s.ready.filter fun r => !n.killsReady r := rfl
  have heldest : ((s.purged n).installFilter n).eldest = s.eldest.filter fun q => !n.killsEntry q.1 := rfl
  have hfilters : ((s.purged n).installFilter n).filters = (s.installFilter n).filters := rfl
  replace hctx : ((s.purged n).installFilter n).ctx? n.ctx = _ := hctx
  rw [State.applyNotice_eq hupto]
  generalize (s.purged n).installFilter n = u at *
  obtain ⟨hin, hstay, rs, hrs, hof⟩ := u.promote_moves n.core
  have hbeside := u.besideFold_promote n.core
  refine ⟨(congrArg State.filters hbeside).trans hfilters, ⟨_, (congrArg (State.ctx? · n.ctx) hbeside).trans hctx, rfl, rfl⟩, fun e he => ?_,
    fun e he hlive hcomp => ?_, (congrArg State.eldest hbeside).trans heldest, fun r hr => ?_, fun r hr hlive => ?_⟩
  · simpa [hfold] using hin e he
  · exact hstay e (by simp [hfold, he, hlive]) hcomp
  · replace hr : r ∈ u.ready ++ rs := hrs ▸ hr
    rcases List.mem_append.mp hr with hold | hnew
    · rw [hready, List.mem_filter] at hold
      simpa using hold.2
    · obtain ⟨e, he, hb⟩ := hof r hnew
      rw [hfold, List.mem_filter] at he
      rw [hb.killed hupto]
      simpa using he.2
  · exact hrs ▸ List.mem_append_left rs (by simp [hready, hr, hlive])

/-- What the units of other cores see of a notice that is applied: nothing yet. -/
theorem State.applyNotice_quiet {n : Notice} (hupto : n.upto = none) (s : State) :
    (s.applyNotice n).notices = s.notices ∧ (s.applyNotice n).acks = s.acks ∧ (s.applyNotice n).pkgid = s.pkgid := by
  have hbeside := ((s.purged n).installFilter n).besideFold_promote n.core
  rw [State.applyNotice_eq hupto]
  exact ⟨(congrArg State.notices hbeside).trans rfl, (congrArg State.acks hbeside).trans rfl, (congrArg State.pkgid hbeside).trans rfl⟩

/-- The `k`-th notice on its way has been taken. -/
def State.taking (s : State) (i : Nat) : State := { s with notices := s.notices.eraseIdx i }

/-- KILL_NOTICE takes away what it kills at its core and no more, and acknowledges. -/
theorem killNotice_kills {s : State} {i : Nat} {n : Notice} {c : Ctx} (hn : s.notices[i]? = some n) (hc : s.ctx? n.ctx = some c) (hsaved : c.saved = [])
    (hpkg : n.hpkg = s.pkgid) (hupto : n.upto = none)
    (hfirst : ∀ o ∈ s.notices.take i, ¬(o.core = n.core ∧ o.of n.ctx n.home n.dom n.act n.hpkg = true))
    (hroom : (s.filters.filter (·.core = n.core)).length < 256) :
    ∃ t, exec (.killNotice i) s = .next t ∧ t.notices = s.notices.eraseIdx i ∧ t.acks = s.acks ++ [n] ∧ s.Killed t n c := by
  have hexec : exec (.killNotice i) s = .next ((((s.taking i).applyNotice n).ackNotice n).moved n.ctx) :=
    exec_killNotice hn hc hsaved hfirst hroom
  obtain ⟨hnotices, hacks, hpkgid⟩ := (s.taking i).applyNotice_quiet hupto
  have hkills : (s.taking i).Killed ((s.taking i).applyNotice n) n c := State.applyNotice_kills hupto hc
  generalize (s.taking i).applyNotice n = v at *
  have hack : v.ackNotice n = { v with acks := v.acks ++ [n] } := if_pos (hpkg.trans hpkgid.symm)
  rw [hack] at hexec
  obtain ⟨hfilters, ⟨d, hd, hkilled, hpin⟩, hlive, hstays, heldest, hliveReady, hstaysReady⟩ := hkills
  exact ⟨_, hexec, hnotices, congrArg (· ++ [n]) hacks,
    ⟨hfilters, ⟨_, State.ctx?_moved hd, hkilled, hpin⟩, hlive, hstays, heldest, hliveReady, hstaysReady⟩⟩

/-- Settles O50, step by step. -/
theorem killsAndSpills : Obligations.KillsAndSpills := by
  refine ⟨⟨fun s i n c hn hc hsaved hpkg hupto hfirst hroom => ?_, fun s i n a hn hwait ha _ => exec_killNoticeAck hn hwait ha⟩,
    fun s i core e c hc hdrain hsaved => ⟨fun he hhome hdom hasked hpkg => ?_, fun f he hcore hcomp hfold hframe => ?_,
      fun yes he hno hcore hheld k hk => ?_, ?_⟩⟩
  · obtain ⟨t, hexec, hnotices, hacks, hfilters, ⟨d, hd, hkilled, hpin⟩, hlive, hstays, heldest, hliveReady, hstaysReady⟩ :=
      killNotice_kills hn hc hsaved hpkg hupto hfirst hroom
    obtain ⟨hkillsEntry, hkillsReady, hkillsPin⟩ := Notice.kills_of_none hupto
    rw [State.killedBy_eq hc, hkillsEntry, hkillsReady, hkillsPin] at hkilled
    rw [hkillsPin] at hpin
    rw [hkillsEntry] at hlive hstays heldest
    rw [hkillsReady] at hliveReady hstaysReady
    refine ⟨t, hexec, hnotices, hacks, ?_, ⟨d, hd, hkilled, hpin⟩, hlive, hstays, heldest, hliveReady, hstaysReady⟩
    rw [hfilters]
    exact s.installFilter_installs n
  · exact ⟨_, s.isEldest e, exec_eldestQuery he hhome hasked hpkg, rfl, by rw [State.isEldest_iff hdom hpkg, hhome]⟩
  · exact exec_eldestAnswer_joins he hcore rfl hcomp hfold hframe
  · obtain ⟨d, hfold, heldest, hd, hpin⟩ := State.spillEntry_of_free (s := { s with eldest := s.eldest.eraseIdx i }) hheld hc hk
    refine ⟨_, d, exec_eldestAnswer_spills he hcore hno, heldest, hfold, hd, ?_⟩
    subst hcore
    exact hpin
  · rintro f p hpin rfl hwhy rfl hstamp hcore hcomp hfold heldest hfilters hframe
    exact exec_spillRepresent_joins hc hpin hwhy hdrain hsaved hstamp hcomp hfold heldest hfilters (hcore ▸ hframe)

end Sys2Proof.Machine
end

section
/-! SUPPORT. The end of a context: which contexts live and what the host ports see stay as they are while caches are written back and
other contexts' requests are granted (R198, R401). -/

namespace Sys2Proof.Machine

/-- The numbers of the live contexts, and what the host ports show. -/
def State.roster (s : State) : List Nat × List HostOut × List (Nat × List LinkMsg) := (s.ctxs.map (·.id), s.hostView)

theorem State.ctx?_eq_none {s : State} {x : Nat} (h : x ∉ s.roster.1) : s.ctx? x = none :=
  List.find?_eq_none.mpr fun c hc heq => h (List.mem_map.mpr ⟨c, hc, eq_of_beq heq⟩)

/-- The live contexts, and what the host ports show. -/
def State.outer (s : State) : List Ctx × List HostOut × List (Nat × List LinkMsg) := (s.ctxs, s.hostView)

theorem State.roster_of_outer {s t : State} (h : t.outer = s.outer) : t.roster = s.roster :=
  congrArg (fun v : List Ctx × List HostOut × List (Nat × List LinkMsg) => (v.1.map (·.id), v.2)) h

/-! ### Updates and messages -/

theorem State.roster_updCtx (s : State) (x : Nat) {f : Ctx → Ctx} (hf : ∀ c, (f c).id = c.id) : (s.updCtx x f).roster = s.roster := by
  have hids (l : List Ctx) : (replaceFirst (·.id == x) f l).map (·.id) = l.map (·.id) := by
    induction l with
    | nil => rfl
    | cons c l ih =>
      rw [replaceFirst]
      split
      · rw [List.map_cons, hf, List.map_cons]
      · rw [List.map_cons, ih, List.map_cons]
  exact congrArg (Prod.mk · s.hostView) (hids s.ctxs)

theorem State.outer_sendOut (s : State) (p : Nat) (m : LinkMsg) : (s.sendOut p m).outer = s.outer := by
  unfold State.sendOut
  split <;> rfl

theorem State.roster_inject (s : State) (x src : Nat) (t : Token) (pkg core : Nat) : (s.inject x src t pkg core).roster = s.roster := by
  unfold State.inject
  split
  · rfl
  · exact (State.roster_of_outer (State.outer_sendOut ..)).trans (State.roster_updCtx _ _ fun _ => rfl)

/-! ### Grants -/

theorem State.roster_forward (s : State) (core : Nat) (r : UnitReq) (tag : Tag) (e : BitVec 22) (hpkg : Nat) :
    (s.forward core r tag e hpkg).roster = s.roster := by
  unfold State.forward
  dsimp only
  split
  · split
    · rfl
    · exact State.roster_inject ..
  · rfl

/-- What a service gives, if it gives anything, has the same roster. -/
def State.KeepsRoster (s : State) (o : Option State) : Prop := ∀ t, o = some t → t.roster = s.roster

theorem State.KeepsRoster.none (s : State) : s.KeepsRoster none := by
  intro t h
  cases h

theorem State.KeepsRoster.some {s t : State} (h : t.roster = s.roster) : s.KeepsRoster (some t) := by
  rintro _ ⟨⟩
  exact h

theorem State.KeepsRoster.ite {s : State} {p : Prop} [Decidable p] {o o' : Option State} (h : s.KeepsRoster o) (h' : s.KeepsRoster o') :
    s.KeepsRoster (if p then o else o') := by
  split
  · exact h
  · exact h'

theorem State.keepsRoster_enterAct (s : State) (core : Nat) (r : UnitReq) (dom base top : Nat) (closed : BitVec 512) (ks : List Nat) :
    s.KeepsRoster (s.enterAct core r dom base top closed ks) := by
  refine .ite (.none s) (.some ?_)
  exact (State.foldl_field State.roster (fun s k => State.roster_forward ..) ks _).trans rfl

theorem State.keepsRoster_tryGrant (s : State) (core : Nat) (r : UnitReq) : s.KeepsRoster (s.tryGrant core r) := by
  have hstray : s.KeepsRoster (Option.some (s.countStray r.ctx)) := .some (State.roster_updCtx s _ fun _ => rfl)
  have hkilled : s.KeepsRoster (Option.some (s.countKilled r.ctx 1)) := .some (State.roster_updCtx s _ fun _ => rfl)
  unfold State.tryGrant
  split
  · exact .some rfl
  · refine .ite (.some rfl) ?_
    extract_lets dom nextFrom sameAt
    have hnext (a : Activation) (l : Nat) : s.KeepsRoster (nextFrom a l) := .ite hkilled (.ite (.some (State.roster_forward ..)) (.none s))
    have hsame (a : Activation) : s.KeepsRoster (sameAt a) := by
      unfold sameAt
      split
      · exact hstray
      · exact .ite hstray (.ite hkilled (.some (State.roster_forward ..)))
    clear_value nextFrom sameAt
    split
    · exact .some rfl
    · exact State.keepsRoster_enterAct _ _ _ _ _ _ _ _
    · split
      · exact .some rfl
      · exact State.keepsRoster_enterAct _ _ _ _ _ _ _ _
    · split
      · exact hstray
      · split
        · exact hnext _ _
        · split
          · exact hstray
          · exact hnext _ _
        · exact .some (State.roster_forward ..)
        · exact hsame _
        · exact hsame _
        · exact .some rfl
        · exact .some rfl

theorem roster_firstGrant {s t : State} {core : Nat} {l : List UnitReq} (rest : List UnitReq) :
    ∀ {seen}, firstGrant s core seen rest = some (t, l) → t.roster = s.roster := by
  induction rest with
  | nil => exact nofun
  | cons r rest ih =>
    intro seen h
    rw [firstGrant] at h
    cases ht : s.tryGrant core r with
    | some u =>
      rw [ht] at h
      obtain ⟨rfl, -⟩ := Prod.mk.inj (Option.some.inj h)
      exact State.keepsRoster_tryGrant s core r u ht
    | none =>
      rw [ht] at h
      exact ih h

theorem State.roster_regrant (core n : Nat) (s : State) : (State.regrant core n s).roster = s.roster := by
  induction n generalizing s with
  | zero => rfl
  | succ n ih =>
    rw [State.regrant]
    cases h : firstGrant s core [] (s.core core).waitq with
    | none => rfl
    | some p => exact (ih _).trans (roster_firstGrant _ (t := p.1) (l := p.2) h)

/-! ### The end -/

theorem State.outer_drainBridge (s : State) (p : BridgeWrite → Bool) : (s.drainBridge p).outer = s.outer := by
  rw [State.drainBridge_eq]
  rfl

theorem State.outer_pushBytes (s : State) (sc : Scope) (core ctx : Nat) (pkg : Option Nat) (l : List (Nat × Byte)) :
    (s.pushBytes sc core ctx pkg l).outer = s.outer := by
  unfold State.pushBytes
  split
  · rfl
  · split
    · split
      · rfl
      · rw [State.chargeUnits_eq, State.wrAll_eq]
        exact State.outer_drainBridge ..
    · exact State.outer_sendOut ..

theorem State.outer_writeBackOf (s : State) (sc : Scope) (m : Sector → BitVec 32) : (s.writeBackOf sc m).outer = s.outer :=
  State.foldl_field State.outer (fun _ _ => State.outer_pushBytes ..) s.l1 s

/-- A context that ends is live no more; the host ports are as before. -/
theorem State.roster_endCtx (s : State) (c : Ctx) : (s.endCtx c).roster = ((s.ctxs.filter (·.id ≠ c.id)).map (·.id), s.hostView) := by
  have houter : ∀ l : List Region, (l.foldl (fun (s : State) r => s.repartition r.core [r])
      ((s.writeBackOf .pkg (Sector.ownedBy c.id)).drainBridge fun w => c.pasture.any fun k => dieOf k = w.src)).outer = s.outer := fun l =>
    (State.foldl_field State.outer (f := fun s r => s.repartition r.core [r]) (fun _ _ => rfl) l _).trans
      ((State.outer_drainBridge ..).trans (State.outer_writeBackOf ..))
  unfold State.endCtx
  dsimp only
  refine (State.foldl_field State.roster (fun s k => State.roster_regrant ..) _ _).trans ?_
  exact congrArg (fun v : List Ctx × List HostOut × List (Nat × List LinkMsg) => ((v.1.filter (·.id ≠ c.id)).map (·.id), v.2)) (houter c.regions)

/-- After its end no context of that number is found. -/
theorem State.ctx?_endCtx (s : State) (c : Ctx) : (s.endCtx c).ctx? c.id = none := by
  refine State.ctx?_eq_none fun hmem => ?_
  rw [State.roster_endCtx] at hmem
  obtain ⟨d, hd, hid⟩ := List.mem_map.mp hmem
  simpa [hid] using (List.mem_filter.mp hd).2

/-! ### The steps that end a context -/

theorem State.hostOut_of_hostView {s t : State} (h : t.hostView = s.hostView) : t.hostOut = s.hostOut :=
  congrArg Prod.fst h

/-- The packet to the host of a context that has ended. -/
def State.told (s : State) (x port : Nat) (cookie : BitVec 32) (c : Ctx) (type : Nat) (body : List Byte) : State :=
  (s.endCtx c).toHost port type cookie (w64 x) body

theorem State.told_tells {s : State} {x port : Nat} {c : Ctx} (hc : s.ctx? x = some c) (hport : (s.port port).state = 1) (cookie : BitVec 32)
    (type : Nat) (body : List Byte) : (s.told x port cookie c type body).ctx? x = none ∧ (s.told x port cookie c type body).hostOut =
      s.hostOut ++ [{ port := port, type := type, cookie := cookie, arg := BitVec.ofNat 64 x, body := body }] := by
  have hview : (s.endCtx c).hostView = s.hostView := by
    change (s.endCtx c).roster.2 = s.hostView
    rw [State.roster_endCtx]
  have hup : ((s.endCtx c).port port).state = 1 := (State.port_state_of_hostView hview port).trans hport
  have hgone := s.ctx?_endCtx c
  rw [State.ctx?_id hc] at hgone
  have hout : (s.endCtx c).hostOut = s.hostOut := State.hostOut_of_hostView hview
  rw [State.told]
  generalize s.endCtx c = t at hup hgone hout
  rw [State.toHost_of_up hup, ← hout]
  exact ⟨hgone, rfl⟩

section
variable {s : State} {x port : Nat} {cookie : BitVec 32} {c : Ctx} (hc : s.ctx? x = some c) (hreply : c.reply = .host port cookie)
include hc hreply

theorem exec_launchComplete (hdone : s.isComplete c = true) :
    exec (.launchComplete x) s = .next (s.told x port cookie c 0x83 (bytesLE 4 c.killed.toNat ++ bytesLE 4 c.stray.toNat)) := by
  change execLaunchComplete x s = _
  unfold execLaunchComplete
  rw [hc]
  dsimp only
  rw [if_neg (by simp [hdone]), State.tellSpawner, Ctx.replyPort, hreply]
  rfl

theorem exec_drainComplete {body : List Byte} (hdrain : c.draining = some body) (hempty : s.occupancy c = 0) :
    exec (.drainComplete x) s = .next (s.told x port cookie c 0x84 (body ++ (bytesLE 4 c.killed.toNat ++ bytesLE 4 c.stray.toNat))) := by
  change execDrainComplete x s = _
  unfold execDrainComplete
  rw [hc]
  dsimp only
  rw [hdrain]
  dsimp only
  rw [if_neg (by simp [hempty]), State.tellSpawner, Ctx.replyPort, hreply, List.append_assoc]
  rfl

end

/-- A component with no live instance hands its drover on (R196). -/
theorem exec_droverForward {s : State} {x : Nat} {c : Ctx} (hc : s.ctx? x = some c) {comp : Nat} (hcomp : c.compList.contains comp = true)
    (hholds : c.holdsDrover comp = true) (hnew : comp ∉ c.forwarded) (hdrain : c.draining = none) (hedge : ∃ e ∈ c.edges, e.1 = comp)
    (hdead : ∀ b ∈ c.blocksOf comp, s.liveBlock c b = false) :
    exec (.droverForward x comp) s = .next (s.updCtx x fun c => { c with forwarded := c.forwarded ++ [comp] }) := by
  have hcond : (c.compList.contains comp && c.holdsDrover comp && !c.forwarded.contains comp && c.draining.isNone && (c.edges.any (·.1 = comp)) &&
      (c.blocksOf comp).all fun b => !s.liveBlock c b) = true := by
    have hlive : ((c.blocksOf comp).all fun b => !s.liveBlock c b) = true := List.all_eq_true.mpr fun b hb => by rw [hdead b hb]; rfl
    have hany : (c.edges.any (·.1 = comp)) = true := List.any_eq_true.mpr (by simpa using hedge)
    have hnot : c.forwarded.contains comp = false := by simpa using hnew
    rw [hcomp, hholds, hnot, hdrain, hany, hlive]
    rfl
  change execDroverForward x comp s = _
  unfold execDroverForward
  rw [hc]
  dsimp only
  rw [if_pos hcond]

end Sys2Proof.Machine
end

section
/-! SUPPORT. Bytes read back from memory and from lists, bitmaps, and the least and the order of a list by a key. -/

namespace Sys2Proof.Machine

/-! ### Bytes -/

theorem natLE_bytesLE_mod (n v : Nat) : natLE (bytesLE n v) = v % 256 ^ n := by
  induction n generalizing v with
  | zero => simp [bytesLE, natLE, Nat.mod_one]
  | succ n ih =>
    rw [bytesLE, natLE, ih, BitVec.toNat_ofNat, Nat.pow_succ' (n := n)]
    exact Nat.mod_mul.symm

theorem bytesLE_mod (n v : Nat) : bytesLE n (v % 256 ^ n) = bytesLE n v := by
  refine List.ext_getElem? fun i => ?_
  by_cases hi : i < n
  · rw [getElem?_bytesLE hi, getElem?_bytesLE hi]
    refine congrArg some (BitVec.eq_of_toNat_eq ?_)
    rw [BitVec.toNat_ofNat, BitVec.toNat_ofNat, show n = i + ((n - i - 1) + 1) by omega, Nat.pow_add, Nat.mod_mul_right_div_self, Nat.pow_succ,
      Nat.mod_mul_left_mod]
  · rw [List.getElem?_eq_none (by rw [length_bytesLE]; omega), List.getElem?_eq_none (by rw [length_bytesLE]; omega)]

/-- Some bytes of a little-endian number are those of the number shifted (R3). -/
theorem take_drop_bytesLE {n o k : Nat} (h : o + k ≤ n) (v : Nat) : ((bytesLE n v).drop o).take k = bytesLE k (v / 256 ^ o) := by
  refine List.ext_getElem? fun i => ?_
  by_cases hi : i < k
  · rw [List.getElem?_take_of_lt hi, List.getElem?_drop, getElem?_bytesLE (by omega), getElem?_bytesLE hi, Nat.pow_add, Nat.div_div_eq_div_mul]
  · rw [List.getElem?_eq_none (by rw [List.length_take]; omega), List.getElem?_eq_none (by rw [length_bytesLE]; omega)]

/-- Part of a run of bytes. -/
theorem State.rdN_part (s : State) {a o n m : Nat} (h : o + n ≤ m) : s.rdN (a + o) n = ((s.rdN a m).drop o).take n := by
  rw [State.rdN_eq_map, State.rdN_eq_map]
  refine List.ext_getElem? fun i => ?_
  by_cases hi : i < n
  · have hoi : o + i < m := by omega
    simp [List.getElem?_take_of_lt, hi, hoi, Nat.add_assoc]
  · rw [List.getElem?_eq_none (by simpa using hi), List.getElem?_eq_none (by simp; omega)]

/-- Part of what was written to HBM. -/
theorem State.rdN_wrN_part {s t : State} (hs : s.memOk) {a : Nat} {l : List Byte} (hl : a + l.length ≤ Config.hbmTop) {o n : Nat}
    (h : o + n ≤ l.length) (ht : t.mem = (s.wrN a l).mem) : t.rdN (a + o) n = (l.drop o).take n := by
  have hmem : ∀ i, i < l.length → isMemory (a + i) = true := by
    intro i hi
    rw [isMemory, decide_eq_true (show a + i < Config.hbmTop by omega)]
    rfl
  rw [State.rdN_part _ h, State.rdN_eq_map _ l.length, State.rd_of_mem ht, ← State.rdN_eq_map, State.rdN_wrN_same l hs hmem]

/-- The parts of a list of pieces of one length. -/
theorem take_drop_flatMap {α : Type} {f : α → List Byte} {n : Nat} (hf : ∀ x, (f x).length = n) {l : List α} {i : Nat} {x : α}
    (hx : l[i]? = some x) : ((l.flatMap f).drop (n * i)).take n = f x := by
  induction l generalizing i with
  | nil => simp at hx
  | cons y l ih =>
    cases i with
    | zero =>
      obtain rfl : y = x := by simpa using hx
      rw [List.flatMap_cons, Nat.mul_zero, List.drop_zero, List.take_append_of_le_length (hf y).ge, List.take_of_length_le (hf y).le]
    | succ i =>
      rw [List.flatMap_cons, Nat.mul_succ, Nat.add_comm, ← List.drop_drop, List.drop_append_of_le_length (hf y).ge,
        List.drop_eq_nil_of_le (hf y).le, List.nil_append]
      exact ih (by simpa using hx)

theorem length_flatMap_of {α : Type} {f : α → List Byte} {n : Nat} (hf : ∀ x, (f x).length = n) (l : List α) : (l.flatMap f).length = n * l.length := by
  rw [List.length_flatMap, List.map_congr_left (fun x _ => hf x), List.map_const', List.sum_replicate, smul_eq_mul, Nat.mul_comm]

/-! ### Bitmaps -/

/-- The number whose set bits are the places of the elements of a list that satisfy a test. -/
def bitmap {α : Type} (p : α → Bool) (l : List α) : Nat := l.zipIdx.foldl (fun acc (x, k) => if p x then acc + 2 ^ k else acc) 0

theorem bitmap_concat {α : Type} (p : α → Bool) (l : List α) (x : α) :
    bitmap p (l ++ [x]) = if p x then bitmap p l + 2 ^ l.length else bitmap p l := by
  rw [bitmap, List.zipIdx_append, List.foldl_append]
  simp [bitmap]

theorem bitmap_lt {α : Type} (p : α → Bool) (l : List α) : bitmap p l < 2 ^ l.length := by
  induction l using List.reverseRecOn with
  | nil => simp [bitmap]
  | append_singleton l x ih =>
    rw [bitmap_concat, List.length_append, List.length_singleton, Nat.pow_succ]
    split <;> omega

theorem testBit_bitmap {α : Type} (p : α → Bool) (l : List α) (k : Nat) : (bitmap p l).testBit k = true ↔ ∃ x, l[k]? = some x ∧ p x = true := by
  induction l using List.reverseRecOn with
  | nil => simp [bitmap]
  | append_singleton l x ih =>
    have hlt := bitmap_lt p l
    rw [bitmap_concat]
    rcases Nat.lt_trichotomy k l.length with hk | rfl | hk
    · rw [List.getElem?_append_left hk, ← ih]
      split
      · rw [Nat.add_comm, Nat.testBit_two_pow_add_gt hk]
      · rfl
    · have hclear := Nat.testBit_lt_two_pow hlt
      split
      next hp => rw [Nat.add_comm, Nat.testBit_two_pow_add_eq, hclear]; simp [hp]
      next hp => rw [hclear]; simp [hp]
    · have hbig : 2 ^ (l.length + 1) ≤ 2 ^ k := Nat.pow_le_pow_right (by decide) hk
      rw [Nat.pow_succ] at hbig
      rw [List.getElem?_eq_none (by simp; omega), Nat.testBit_lt_two_pow (by split <;> omega)]
      simp

/-! ### The least, and the order -/

theorem minBy_eq_none {α : Type} {key : α → Nat} {l : List α} (h : minBy key l = none) : l = [] := by
  cases l with
  | nil => rfl
  | cons x l =>
    rw [minBy] at h
    split at h
    · cases h
    · split at h <;> cases h

theorem minBy_spec {α : Type} (key : α → Nat) {l : List α} {a : α} (h : minBy key l = some a) : a ∈ l ∧ ∀ b ∈ l, key a ≤ key b := by
  induction l generalizing a with
  | nil => cases h
  | cons x l ih =>
    rw [minBy] at h
    cases hm : minBy key l with
    | none =>
      rw [hm] at h
      obtain rfl := Option.some.inj h
      simp [minBy_eq_none hm]
    | some b =>
      obtain ⟨hb, hle⟩ := ih hm
      rw [hm] at h
      dsimp only at h
      split at h
      next hlt =>
        obtain rfl := Option.some.inj h
        exact ⟨List.mem_cons_of_mem _ hb, List.forall_mem_cons.mpr ⟨hlt.le, hle⟩⟩
      next hge =>
        obtain rfl := Option.some.inj h
        exact ⟨List.mem_cons_self, List.forall_mem_cons.mpr ⟨le_rfl, fun c hc => (not_lt.mp hge).trans (hle c hc)⟩⟩

theorem insertBy_sorted {α : Type} (key : α → Nat) (x : α) {l : List α} (h : l.Pairwise (key · ≤ key ·)) :
    (insertBy key x l).Pairwise (key · ≤ key ·) := by
  induction l with
  | nil => simp [insertBy]
  | cons a l ih =>
    obtain ⟨ha, hl⟩ := List.pairwise_cons.mp h
    rw [insertBy]
    split
    next hle =>
      refine List.pairwise_cons.mpr ⟨fun b hb => ?_, ih hl⟩
      rcases List.mem_cons.mp ((insertBy_perm key x l).mem_iff.mp hb) with rfl | hb
      · exact hle
      · exact ha b hb
    next hgt =>
      exact List.pairwise_cons.mpr ⟨List.forall_mem_cons.mpr ⟨(not_le.mp hgt).le, fun b hb => (not_le.mp hgt).le.trans (ha b hb)⟩, h⟩

theorem sortBy_sorted {α : Type} (key : α → Nat) (l : List α) : (sortBy key l).Pairwise (key · ≤ key ·) := by
  have hfold : ∀ (l acc : List α), acc.Pairwise (key · ≤ key ·) → (l.foldl (fun acc x => insertBy key x acc) acc).Pairwise (key · ≤ key ·) := by
    intro l
    induction l with
    | nil => exact fun _ h => h
    | cons x r ih => exact fun acc h => ih _ (insertBy_sorted key x h)
  exact hfold l [] List.Pairwise.nil

end Sys2Proof.Machine
end

section
/-! SUPPORT. The record of a context fault: its parts, read back from memory, and the waiting entries it lists (R163, R386, R387). -/

namespace Sys2Proof.Machine

/-! ### A record's parts -/

theorem take_drop_append_left {l : List Byte} {o n : Nat} (h : o + n ≤ l.length) (r : List Byte) : ((l ++ r).drop o).take n = (l.drop o).take n := by
  rw [List.drop_append_of_le_length (by omega), List.take_append_of_le_length (by rw [List.length_drop]; omega)]

theorem drop_append_right {l : List Byte} {k : Nat} (h : l.length = k) (r : List Byte) (o : Nat) : (l ++ r).drop (k + o) = r.drop o := by
  rw [← List.drop_drop, List.drop_left' h]

theorem length_detailBytes (d : List Word) : (detailBytes d).length = 64 := by
  rw [detailBytes, length_flatMap_of (fun _ => length_bytesLE ..), List.length_take, List.length_append, List.length_replicate]
  omega

theorem detailBytes_nil : detailBytes [] = List.replicate 64 0 := by decide

/-- DETAIL holds the low 64 bits of each of its words. -/
theorem detailBytes_map_w64 (l : List Nat) : detailBytes (l.map w64) = ((l ++ List.replicate 8 0).take 8).flatMap (bytesLE 8) := by
  have hword (v : Nat) : bytesLE 8 (w64 v).toNat = bytesLE 8 v := (congrArg (bytesLE 8) (BitVec.toNat_ofNat v 64)).trans (bytesLE_mod 8 v)
  have hpad : List.replicate 8 (0 : Word) = (List.replicate 8 0).map w64 := rfl
  rw [detailBytes, hpad, ← List.map_append, ← List.map_take, List.flatMap_map]
  simp only [hword]

section
variable (s : State) (c : Ctx) (f : PendingFault)

theorem State.length_ctxRecord : (s.ctxRecord c f).length = 2816 := by
  simp only [ctxRecord, reportBytes, contextBody, List.length_append, length_bytesLE, length_detailBytes, List.length_take, List.length_replicate]
  omega

theorem State.ctxRecord_header {o n : Nat} (h : o + n ≤ 64) :
    ((s.ctxRecord c f).drop o).take n = bytesLE n (s.ctxHeader c f.seq (permitOf f.code false) f.code / 256 ^ o) := by
  rw [ctxRecord, reportBytes, List.append_assoc, take_drop_append_left (by rw [length_bytesLE]; exact h), take_drop_bytesLE h]

theorem State.ctxRecord_detail : ((s.ctxRecord c f).drop 0x40).take 64 = detailBytes f.detail := by
  have hd := length_detailBytes f.detail
  rw [ctxRecord, reportBytes, List.append_assoc, List.drop_left' (length_bytesLE ..), List.take_left' hd]

variable {f} {total : Nat} {l : List Byte} (hf : f.entries = some (total, l))
include hf

theorem State.ctxRecord_body (o : Nat) : (s.ctxRecord c f).drop (0x80 + o) = (contextBody total l).drop o := by
  rw [ctxRecord, hf]
  exact drop_append_right (by rw [reportBytes, List.length_append, length_bytesLE, length_detailBytes]) ..

theorem State.ctxRecord_total : ((s.ctxRecord c f).drop 0x80).take 8 = bytesLE 8 total := by
  rw [s.ctxRecord_body c hf 0, contextBody, take_drop_append_left (by rw [length_bytesLE]; omega), take_drop_bytesLE (by omega), Nat.pow_zero,
    Nat.div_one]

theorem State.ctxRecord_entry {i : Nat} (hi : i < 160) (hl : 16 * i + 16 ≤ l.length) :
    ((s.ctxRecord c f).drop (0x100 + 16 * i)).take 16 = (l.drop (16 * i)).take 16 := by
  rw [show 0x100 + 16 * i = 0x80 + (128 + 16 * i) by omega, s.ctxRecord_body c hf, contextBody, drop_append_right (length_bytesLE ..), List.drop_take,
    List.take_take, Nat.min_eq_left (by omega), take_drop_append_left hl]

end

/-- CODE, INDEX and CLASS of a context record's header (R386). -/
theorem State.ctxHeader_fields (s : State) (c : Ctx) (seq permit : Nat) {code : Nat} (hcode : code < 256) :
    s.ctxHeader c seq permit code % 256 = code ∧ s.ctxHeader c seq permit code / 256 % 256 = 255 ∧
      s.ctxHeader c seq permit code / 256 ^ 2 % 256 / 4 % 4 = 1 := by
  unfold ctxHeader recHeader at_
  simp only [b2n]
  omega

/-! ### An entry's sixteen bytes -/

/-- A fold entry in the layout of R163, as a number. -/
def FoldEntry.number (e : FoldEntry) (dup : Option Nat) : Nat :=
  at_ e.tag.toBits.toNat 88 + at_ e.block 76 + at_ (bitmap Option.isSome e.slots) 68 +
    at_ (bitmap (fun v : Option (Word × Bool) => v.any (·.2)) e.slots) 60 + at_ e.state 58 +
    at_ (b2n ((e.place.map (·.resv)).getD false)) 57 + at_ e.units 54 + at_ ((e.place.map (·.at_)).getD 0) 38 +
    at_ (dup.getD 0) 24 + at_ (b2n dup.isSome) 23 + e.arrival % 2 ^ 23

theorem entryBytes_eq (e : FoldEntry) (dup : Option Nat) : entryBytes e dup = bytesLE 16 (e.number dup) := by
  have hvoid : (fun (acc : Nat) (q : Option (Word × Bool) × Nat) => match q.1 with | some (_, true) => acc + 2 ^ q.2 | _ => acc) =
      fun acc q => if q.1.any (·.2) then acc + 2 ^ q.2 else acc := by
    funext acc ⟨v, k⟩
    match v with
    | none => rfl
    | some (w, true) => rfl
    | some (w, false) => rfl
  rw [FoldEntry.number, bitmap, bitmap, ← hvoid]
  rfl

theorem b2n_le_one (b : Bool) : b2n b ≤ 1 := by cases b <;> decide

/-- The fields of an entry that fits its layout (R163). -/
theorem FoldEntry.number_fields {e : FoldEntry} (h : e.Fits) {dup : Option Nat} (hdup : ∀ d, dup = some d → d < 2 ^ 14) :
    e.number dup < 256 ^ 16 ∧ e.number dup / 2 ^ 88 = e.tag.toBits.toNat ∧ e.number dup / 2 ^ 76 % 2 ^ 12 = e.block ∧
      e.number dup / 2 ^ 68 % 2 ^ 8 = bitmap Option.isSome e.slots ∧
      e.number dup / 2 ^ 60 % 2 ^ 8 = bitmap (fun v : Option (Word × Bool) => v.any (·.2)) e.slots ∧ e.number dup / 2 ^ 58 % 4 = e.state ∧
      e.number dup / 2 ^ 54 % 8 = e.units ∧ e.number dup % 2 ^ 23 = e.arrival % 2 ^ 23 := by
  obtain ⟨hblock, hslots, hstate, hunits, -, hplace, -⟩ := h
  have hmap (p : Option (Word × Bool) → Bool) : bitmap p e.slots < 2 ^ 8 :=
    (bitmap_lt p e.slots).trans_le (Nat.pow_le_pow_right (by decide) hslots)
  have htag := e.tag.toBits.isLt
  have hpresent := hmap Option.isSome
  have hvoid := hmap fun v => v.any (·.2)
  have hresv := b2n_le_one ((e.place.map (·.resv)).getD false)
  have hframe : (e.place.map (·.at_)).getD 0 < 2 ^ 16 := by
    cases hp : e.place with
    | none => exact Nat.two_pow_pos 16
    | some f => exact hplace f hp
  have hnext : dup.getD 0 < 2 ^ 14 := by
    cases dup with
    | none => exact Nat.two_pow_pos 14
    | some d => exact hdup d rfl
  have hsome := b2n_le_one dup.isSome
  unfold number at_
  omega

/-- Which slots of an entry are present, and which void (R163). -/
theorem FoldEntry.number_slots {e : FoldEntry} (h : e.Fits) {dup : Option Nat} (hdup : ∀ d, dup = some d → d < 2 ^ 14) {k : Nat} (hk : k < 8) :
    ((e.number dup).testBit (68 + k) = true ↔ ∃ v, e.slots[k]? = some (some v)) ∧
      ((e.number dup).testBit (60 + k) = true ↔ ∃ v, e.slots[k]? = some (some (v, true))) := by
  obtain ⟨-, -, -, hpresent, hvoid, -⟩ := e.number_fields h hdup
  have hbit (n o : Nat) : n.testBit (o + k) = (n / 2 ^ o % 2 ^ 8).testBit k := by
    rw [Nat.testBit_mod_two_pow, decide_eq_true hk, Bool.true_and, Nat.testBit_div_two_pow, Nat.add_comm]
  rw [hbit _ 68, hbit _ 60, hpresent, hvoid, testBit_bitmap, testBit_bitmap]
  constructor
  · constructor
    · rintro ⟨x, hx, hp⟩
      obtain ⟨v, rfl⟩ := Option.isSome_iff_exists.mp hp
      exact ⟨v, hx⟩
    · exact fun ⟨v, hx⟩ => ⟨_, hx, rfl⟩
  · constructor
    · rintro ⟨x, hx, hp⟩
      obtain ⟨⟨v, _⟩, rfl, rfl⟩ := (Option.any_eq_true ..).mp hp
      exact ⟨v, hx⟩
    · exact fun ⟨v, hx⟩ => ⟨_, hx, rfl⟩

end Sys2Proof.Machine
end

section
/-! SUPPORT. A context fault is taken (R384, R387, R401): the waiting entries that its record lists, where the context stands after it, and
what the detector of R399 gives. -/

namespace Sys2Proof.Machine

/-! ### The waiting entries -/

theorem nextDup_lt {l : List FoldEntry} (h : ∀ f ∈ l, f.way < 8) {e : FoldEntry} {d : Nat} (hd : nextDup l e = some d) : d < 2 ^ 14 := by
  rw [nextDup] at hd
  obtain ⟨f, hf, rfl⟩ := Option.map_eq_some_iff.mp hd
  have hway := h f (List.mem_filter.mp (minBy_spec _ hf).1).1
  have hset : Config.foldHash f.ctx f.block f.tag.toBits % 2048 < 2048 := Nat.mod_lt _ (by decide)
  rw [FoldEntry.position]
  omega

/-- NEXTDUP of an entry as a record lists it. -/
def State.listedDup (s : State) (x : Nat) (e : FoldEntry) : Option Nat := if e.state = 1 then e.dup else nextDup (s.fold.filter (·.ctx = x)) e

/-- The waiting entries, before their order. -/
def State.waiting (s : State) (c : Ctx) : List FoldEntry :=
  s.fold.filter (·.ctx = c.id) ++ (s.eldest.map (·.1)).filter (·.ctx = c.id) ++ c.pin.map (·.entry)

theorem State.waitingEntries_perm (s : State) (c : Ctx) : (s.waitingEntries c).Perm (s.waiting c) := sortBy_perm ..

theorem State.listedDup_lt {s : State} {c : Ctx} (h : ∀ e ∈ s.waitingEntries c, e.Fits) {e : FoldEntry} (he : e ∈ s.waitingEntries c) {d : Nat}
    (hd : s.listedDup c.id e = some d) : d < 2 ^ 14 := by
  rw [State.listedDup] at hd
  split at hd
  · obtain ⟨-, -, -, -, -, -, hdup⟩ := h e he
    exact hdup d hd
  · refine nextDup_lt (fun f hf => ?_) hd
    have hmem : f ∈ s.waiting c := List.mem_append_left _ (List.mem_append_left _ hf)
    obtain ⟨-, -, -, -, hway, -⟩ := h f ((s.waitingEntries_perm c).mem_iff.mpr hmem)
    exact hway

/-! ### The fault -/

/-- A fault counts (R384). -/
def Ctx.faulted (c : Ctx) : Ctx := { c with fcount := satInc c.fcount, seq := c.seq + 1 }

/-- The bytes of the entries that a record lists. -/
def State.listed (s : State) (c : Ctx) : List Byte := ((s.waitingEntries c).take 160).flatMap fun e => entryBytes e (s.listedDup c.id e)

theorem State.listed_entry {s : State} {c : Ctx} {i : Nat} {e : FoldEntry} (he : (s.waitingEntries c)[i]? = some e) (hi : i < 160) :
    16 * i + 16 ≤ (s.listed c).length ∧ ((s.listed c).drop (16 * i)).take 16 = entryBytes e (s.listedDup c.id e) := by
  have hlen (e : FoldEntry) : (entryBytes e (s.listedDup c.id e)).length = 16 := length_bytesLE ..
  have hlt : i < (s.waitingEntries c).length := (List.getElem?_eq_some_iff.mp he).1
  constructor
  · rw [State.listed, length_flatMap_of hlen, List.length_take]
    omega
  · exact take_drop_flatMap hlen (by rw [List.getElem?_take_of_lt hi, he])

/-- The context fault that is taken. -/
def State.contextFault (s : State) (c : Ctx) (code : Nat) (detail : List Word) : PendingFault :=
  { fid := 0, idx := 255, code := code, seq := c.seq, detail := detail, entries := some ((s.waitingEntries c).length, s.listed c) }

/-- The bytes of its record. -/
def State.faultBytes (s : State) (c : Ctx) (code : Nat) (detail : List Word) : List Byte := s.ctxRecord c.faulted (s.contextFault c code detail)

/-- A context whose fault has taken record `r`. -/
def Ctx.recorded (c : Ctx) (r code : Nat) : Ctx :=
  { c.faulted with sick := c.sick.set r { status := .pending false, core := c.pasture.headD 0, block := 4095, code := code } }

/-- The state in which a context's fault has taken record `r`. -/
def State.recorded (s : State) (c : Ctx) (r code : Nat) (detail : List Word) : State :=
  ((s.updCtx c.id Ctx.faulted).wrN (c.sickBase + 4096 * r) (s.faultBytes c code detail)).updCtx c.id fun d =>
    { d with sick := d.sick.set r { status := .pending false, core := c.pasture.headD 0, block := 4095, code := code } }

section
variable {s : State} {c : Ctx} (hc : s.ctx? c.id = some c)
include hc

theorem State.ctx?_faulted : (s.updCtx c.id Ctx.faulted).ctx? c.id = some c.faulted :=
  State.ctx?_updCtx_of_some hc (f := Ctx.faulted) fun _ => rfl

theorem State.ctx?_recorded (r code : Nat) (detail : List Word) : (s.recorded c r code detail).ctx? c.id = some (c.recorded r code) := by
  have hwr : ((s.updCtx c.id Ctx.faulted).wrN (c.sickBase + 4096 * r) (s.faultBytes c code detail)).ctx? c.id = some c.faulted := by
    rw [State.wrN_eq]
    exact State.ctx?_faulted hc
  exact State.ctx?_updCtx_of_some hwr
    (f := fun d => { d with sick := d.sick.set r { status := .pending false, core := c.pasture.headD 0, block := 4095, code := code } }) fun _ => rfl

section
variable (hd : c.draining = none)
include hd

theorem State.captureContext_eq (code : Nat) (detail : List Word) (fatal : Bool) :
    s.captureContext c.id code detail fatal =
      if fatal || (handlerBlock c.handler code).isNone then (s.updCtx c.id Ctx.faulted).fatalContext c.id (s.contextFault c code detail)
      else (s.updCtx c.id Ctx.faulted).fillContextRecord c.id (s.contextFault c code detail) := by
  unfold State.captureContext
  rw [hc]
  dsimp only
  rw [if_neg (by simp [hd])]
  rfl

/-- With a handler and a record free, the fault takes the record (R387). -/
theorem State.captureContext_recorded {code r : Nat} (hh : (handlerBlock c.handler code).isNone = false) (hr : c.freeSick = some r)
    (detail : List Word) : s.captureContext c.id code detail false = s.recorded c r code detail := by
  have hfree : c.faulted.freeSick = some r := hr
  rw [State.captureContext_eq hc hd, hh, State.fillContextRecord, State.ctx?_faulted hc]
  dsimp only
  rw [hfree]
  rfl

/-- A fatal one drains the context, with the record's header and DETAIL as its report (R401). -/
theorem State.ctx?_captureContext_fatal {code : Nat} (hcode : code < 256) (detail : List Word) : ∃ report,
    (s.captureContext c.id code detail true).ctx? c.id = some (c.faulted.drained report) ∧ report.headD 0 = BitVec.ofNat 8 code := by
  refine ⟨reportBytes (s.ctxHeader c.faulted c.seq (permitOf code false) code) detail, ?_, ?_⟩
  · rw [State.captureContext_eq hc hd, Bool.true_or, if_pos rfl, State.fatalContext, State.ctx?_faulted hc]
    dsimp only
    refine State.ctx?_drain ?_ (c := c.faulted) hd _ _
    unfold State.writeFatal
    split
    · rw [State.wrN_eq]
      exact State.ctx?_faulted hc
    · exact State.ctx?_faulted hc
  · obtain ⟨hlow, -⟩ := s.ctxHeader_fields c.faulted c.seq (permitOf code false) hcode
    have hbyte : BitVec.ofNat 8 (s.ctxHeader c.faulted c.seq (permitOf code false) code) = BitVec.ofNat 8 code := by
      refine BitVec.eq_of_toNat_eq ?_
      rw [BitVec.toNat_ofNat, BitVec.toNat_ofNat, Nat.mod_eq_of_lt (a := code) hcode]
      exact hlow
    exact hbyte

end

end

/-- What is read back of a record that is taken. -/
theorem State.rdN_recorded {s : State} (hs : s.memOk) {c : Ctx} {r : Nat} (hbase : c.sickBase + 4096 * r + 4096 ≤ Config.hbmTop) (code : Nat)
    (detail : List Word) {o n : Nat} (h : o + n ≤ 2816) :
    (s.recorded c r code detail).rdN (c.sickBase + 4096 * r + o) n = ((s.faultBytes c code detail).drop o).take n := by
  have hlen : (s.faultBytes c code detail).length = 2816 := State.length_ctxRecord ..
  have hok : (s.updCtx c.id Ctx.faulted).memOk := State.memOk_of_mem hs rfl
  unfold State.recorded
  generalize s.updCtx c.id Ctx.faulted = u at hok
  generalize s.faultBytes c code detail = l at hlen
  exact State.rdN_wrN_part hok (by omega) (by omega) (State.updCtx_mem ..)

/-! ### The detector -/

theorem State.draining_of_isQuiet {s : State} {c : Ctx} (hq : s.isQuiet c = true) : c.draining = none := by
  simp only [State.isQuiet, Bool.and_eq_true, Option.isNone_iff_eq_none] at hq
  tauto

/-- The code of a quiet context (R172, R399). -/
def State.quietCode (s : State) (x : Nat) : Nat := if s.waitingReqs x = [] then 0x12 else 0x10

theorem State.quietCode_lt (s : State) (x : Nat) : s.quietCode x < 256 := by
  unfold State.quietCode
  split <;> decide

/-- The code and the DETAIL of a quiet context: those of its oldest waiting request, if there is one. -/
def State.quietFault (s : State) (x : Nat) (c : Ctx) : Nat × List Word :=
  match minBy (fun q => q.2.tick) (s.waitingReqs x) with
  | some (core, r) => (0x10, s.exhaustedDetail c core r)
  | none => (0x12, [])

theorem State.quietFault_of_none {s : State} {x : Nat} (h : s.waitingReqs x = []) (c : Ctx) : s.quietFault x c = (0x12, []) := by
  rw [State.quietFault, h]
  rfl

theorem State.quietFault_of_oldest {s : State} {x core : Nat} {r : UnitReq} (hr : (core, r) ∈ s.waitingReqs x)
    (hold : ∀ q ∈ s.waitingReqs x, q = (core, r) ∨ r.tick < q.2.tick) (c : Ctx) : s.quietFault x c = (0x10, s.exhaustedDetail c core r) := by
  unfold State.quietFault
  cases hm : minBy (fun q => q.2.tick) (s.waitingReqs x) with
  | none =>
    rw [minBy_eq_none hm] at hr
    cases hr
  | some q =>
    obtain ⟨hq, hleast⟩ := minBy_spec _ hm
    rcases hold q hq with rfl | hlt
    · rfl
    · exact absurd (hleast _ hr) (not_le.mpr hlt)

theorem State.quietFault_code (s : State) (x : Nat) (c : Ctx) : (s.quietFault x c).1 = s.quietCode x := by
  unfold State.quietFault State.quietCode
  cases hm : minBy (fun q => q.2.tick) (s.waitingReqs x) with
  | none => rw [if_pos (minBy_eq_none hm)]
  | some q => rw [if_neg (List.ne_nil_of_mem (minBy_spec _ hm).1)]

theorem exec_quiescenceDetect {s : State} {x : Nat} {c : Ctx} (hc : s.ctx? x = some c) (hq : s.isQuiet c = true) :
    exec (.quiescenceDetect x) s =
      .next ((s.moved x).captureContext x (s.quietCode x) (s.quietFault x c).2 (c.sick.any (·.status ≠ .free))) := by
  change execQuiescenceDetect x s = _
  unfold execQuiescenceDetect
  rw [hc, ← s.quietFault_code x c]
  exact congrArg Host.Outcome.next (if_neg (by simp [hq]))

end Sys2Proof.Machine
end

section
/-! CERTIFICATE. Obligation O52. -/

namespace Sys2Proof.Machine

/-- The header, DETAIL and TOTAL of the record of a context fault, as they are read back. -/
theorem State.recorded_tells {s : State} {c : Ctx} (hs : s.memOk) (hbase : c.sickBase + 4096 ≤ Config.hbmTop) {code : Nat} (hcode : code < 256)
    (detail : List Word) :
    let t := s.recorded c 0 code detail
    natLE (t.rdN (c.sickBase + 0) 1) = code ∧ natLE (t.rdN (c.sickBase + 1) 1) = 255 ∧ natLE (t.rdN (c.sickBase + 2) 1) / 4 % 4 = 1 ∧
      natLE (t.rdN (c.sickBase + 0x80) 8) = (s.waiting c).length % 2 ^ 64 ∧ t.rdN (c.sickBase + 0x40) 64 = detailBytes detail := by
  intro t
  have hread {o n : Nat} (h : o + n ≤ 2816) : t.rdN (c.sickBase + o) n = ((s.faultBytes c code detail).drop o).take n :=
    State.rdN_recorded hs (r := 0) hbase code detail h
  have hheader {o : Nat} (h : o + 1 ≤ 64) : natLE (t.rdN (c.sickBase + o) 1) =
      s.ctxHeader c.faulted c.seq (permitOf code false) code / 256 ^ o % 256 ^ 1 := by
    rw [hread (by omega), State.faultBytes, State.ctxRecord_header _ _ _ h, natLE_bytesLE_mod]
    rfl
  obtain ⟨hzero, hone, htwo⟩ := s.ctxHeader_fields c.faulted c.seq (permitOf code false) hcode
  refine ⟨?_, ?_, ?_, ?_, ?_⟩
  · rw [hheader (by decide), Nat.pow_zero, Nat.div_one]
    exact hzero
  · rw [hheader (by decide), Nat.pow_one]
    exact hone
  · rw [hheader (by decide), Nat.pow_one]
    exact htwo
  · rw [hread (by decide), State.faultBytes, State.ctxRecord_total s c.faulted (f := s.contextFault c code detail) rfl, natLE_bytesLE_mod,
      (s.waitingEntries_perm c).length_eq, show 256 ^ 8 = 2 ^ 64 from rfl]
  · rw [hread (by decide), State.faultBytes, State.ctxRecord_detail]
    rfl

/-- A listed entry of that record, as it is read back. -/
theorem State.recorded_lists {s : State} {c : Ctx} (hs : s.memOk) (hbase : c.sickBase + 4096 ≤ Config.hbmTop) (code : Nat) (detail : List Word)
    (hfit : ∀ e ∈ s.waitingEntries c, e.Fits) {i : Nat} {e : FoldEntry} (he : (s.waitingEntries c)[i]? = some e) (hi : i < 160) :
    natLE ((s.recorded c 0 code detail).rdN (c.sickBase + (0x100 + 16 * i)) 16) = e.number (s.listedDup c.id e) := by
  obtain ⟨hlen, hentry⟩ := s.listed_entry he hi
  have hmem := List.mem_of_getElem? he
  obtain ⟨hlt, -⟩ := FoldEntry.number_fields (hfit e hmem) fun d => State.listedDup_lt hfit hmem
  have hread : (s.recorded c 0 code detail).rdN (c.sickBase + (0x100 + 16 * i)) 16 = entryBytes e (s.listedDup c.id e) :=
    (State.rdN_recorded hs (r := 0) hbase code detail (by omega)).trans
      ((State.ctxRecord_entry s c.faulted (f := s.contextFault c code detail) rfl hi hlen).trans hentry)
  rw [hread, entryBytes_eq, natLE_bytesLE hlt]

/-- The DETAIL of TAG_EXHAUSTED for a NEXT request of an activation (R387). -/
theorem State.detailBytes_next {s : State} {c : Ctx} {core : Nat} {r : UnitReq} {a : Activation} (hmode : r.mode = .inl .next)
    (ha : s.act? core c.id r.tag.dom.toNat r.tag.act.toNat = some a) : detailBytes (s.exhaustedDetail c core r) =
      [r.tag.dom.toNat * 2 ^ 14 + core * 2 ^ 6 + r.tag.act.toNat, 1, literOf r.tag r.epoch + 1, a.base, a.top, c.windowOf r.tag.dom.toNat, a.h,
        0].flatMap (bytesLE 8) := by
  have hdetail : s.exhaustedDetail c core r = [at_ r.tag.dom.toNat 14 + at_ core 6 + r.tag.act.toNat, 1, literOf r.tag r.epoch + 1, a.base, a.top,
      c.windowOf r.tag.dom.toNat, a.h].map w64 := by
    simp [State.exhaustedDetail, hmode, ha]
  rw [hdetail, detailBytes_map_w64, at_, at_, Nat.mul_comm, Nat.mul_comm (2 ^ 6)]
  rfl

theorem Ctx.freeSick_zero {c : Ctx} (h : c.sick.all (·.status = .free) = true) (hne : c.sick ≠ []) : c.freeSick = some 0 := by
  unfold Ctx.freeSick
  cases hs : c.sick with
  | nil => exact absurd hs hne
  | cons k l =>
    rw [hs, List.all_cons, Bool.and_eq_true] at h
    rw [indexOf?, if_pos h.1]

/-- With the fault handler named, every code but EMULATE goes to it (R388). -/
theorem handlerBlock_isSome {hw : BitVec 32} (h : hw.getLsbD 15 = true) {code : Nat} (hcode : code ≠ 0x14) : (handlerBlock hw code).isNone = false := by
  rw [handlerBlock, if_neg (by simp [hcode]), if_pos h]
  rfl

/-- Settles O52: a context that ends leaves the roster and the host is told; the detector's record is read back part by part. -/
theorem contextsEnd : Obligations.ContextsEnd := by
  unfold Obligations.ContextsEnd
  refine ⟨fun s x port cookie c hc => ?_, fun s x c hc hq => ?_⟩
  · intro counts
    refine ⟨fun comp hcomp hholds hnew hdrain hedge hdead => ?_, fun hreply hport => ⟨fun hdone => ?_, fun body hbody hempty => ?_⟩⟩
    · exact ⟨_, _, exec_droverForward hc hcomp hholds hnew hdrain hedge hdead,
        State.ctx?_updCtx_of_some hc (f := fun c => { c with forwarded := c.forwarded ++ [comp] }) fun _ => rfl, rfl⟩
    · exact ⟨_, exec_launchComplete hc hreply hdone, State.told_tells hc hport cookie 0x83 counts⟩
    · exact ⟨_, exec_drainComplete hc hreply hbody hempty, State.told_tells hc hport cookie 0x84 (body ++ counts)⟩
  · obtain rfl := State.ctx?_id hc
    have hlive := State.draining_of_isQuiet hq
    have hmoved := State.ctx?_moved hc
    have hexec := exec_quiescenceDetect hc hq
    have hcode := s.quietCode_lt c.id
    refine ⟨fun hhandler hfree hne => ?_, fun hpending => ?_⟩
    · have hany : c.sick.any (·.status ≠ .free) = false := by
        rw [List.any_eq_not_all_not, Bool.not_eq_false']
        simpa using hfree
      have hfault : s.quietCode c.id ≠ 0x14 := by
        unfold State.quietCode
        split <;> decide
      rw [hany, State.captureContext_recorded (c := { c with lastMove := s.cycle }) hmoved hlive (handlerBlock_isSome hhandler hfault)
        (Ctx.freeSick_zero hfree hne)] at hexec
      refine ⟨_, _, { status := .pending false, core := c.pasture.headD 0, block := 4095, code := s.quietCode c.id }, hexec,
        State.ctx?_recorded (c := { c with lastMove := s.cycle }) hmoved .., hlive, List.getElem?_set_self (List.length_pos_of_ne_nil hne), rfl, rfl, rfl,
        rfl, fun hs hbase => ?_⟩
      have hok : (s.moved c.id).memOk := State.memOk_of_mem hs rfl
      obtain ⟨hcodeByte, hindex, hclass, htotal, hdetail⟩ := State.recorded_tells (c := { c with lastMove := s.cycle }) hok hbase hcode
        (s.quietFault c.id c).2
      refine ⟨hcodeByte, hindex, hclass, htotal, fun hw => hdetail.trans (by rw [State.quietFault_of_none hw, detailBytes_nil]),
        fun core r a hr hold hmode ha => hdetail.trans (by rw [State.quietFault_of_oldest hr hold, State.detailBytes_next hmode ha]),
        s.waitingEntries c, s.waitingEntries_perm c, sortBy_sorted .., fun hfit i e he hi => ?_⟩
      have hdup (d : Nat) := State.listedDup_lt hfit (List.mem_of_getElem? he) (d := d)
      have hentry := hfit e (List.mem_of_getElem? he)
      have hn := State.recorded_lists (c := { c with lastMove := s.cycle }) hok hbase (s.quietCode c.id) (s.quietFault c.id c).2 hfit he hi
      obtain ⟨-, htag, hblock, -, -, hstate, hunits, harrival⟩ := FoldEntry.number_fields hentry hdup
      intro n
      rw [show n = e.number (s.listedDup c.id e) from hn]
      exact ⟨htag, hblock, hstate, hunits, harrival, fun k hk => FoldEntry.number_slots hentry hdup hk⟩
    · have hany : c.sick.any (·.status ≠ .free) = true := List.any_eq_true.mpr (by simpa using hpending)
      obtain ⟨report, hctx, hhead⟩ := State.ctx?_captureContext_fatal (c := { c with lastMove := s.cycle }) hmoved hlive hcode
        (s.quietFault c.id c).2
      rw [hany] at hexec
      exact ⟨_, _, report, hexec, hctx, rfl, hhead⟩

end Sys2Proof.Machine
end
